-- ==== Sys2Proof/Word.lean ====
section
/-! DEFINITION. The word types of the AE40 and their plainest arithmetic. -/

namespace Sys2Proof

/-- A register of a control thread (R60). -/
abbrev Word := BitVec 64

/-- A byte of memory (R2). -/
abbrev Byte := BitVec 8

end Sys2Proof
end

