-- ==== Sys2Proof/Machine/Elem.lean ====
section
/-! DEFINITION. Element type codes (Table 2.8), bit fields, and the sign and zero extension of R50. -/

namespace Sys2Proof.Machine

/-- Bits `[lo + len - 1 : lo]` of a word (R1). -/
abbrev fld {n : Nat} (w : BitVec n) (lo len : Nat) : BitVec len := w.extractLsb' lo len

/-- Element width in bits of a type code (Table 2.8; an sd element is a 32-bit lane). -/
def elemBits (t : BitVec 4) : Nat :=
  match t.toNat with
  | 0 => 32 | 1 => 32 | 2 => 16 | 3 => 16 | 4 => 8 | 5 => 8 | 6 => 32 | 7 => 16
  | 8 => 16 | 9 => 8 | 10 => 8 | 11 => 4 | 12 => 8 | 13 => 32 | 14 => 64 | _ => 32

/-- Elements per token of a type code (Table 2.8). -/
def elemCount (t : BitVec 4) : Nat := 256 / elemBits t

/-- The integer types of Table 8.1's class I. -/
def isInt (t : BitVec 4) : Bool := t.toNat ≤ 5 || t.toNat == 14

/-- The signed integer types i8, i16, i32 and i64. -/
def isSigned (t : BitVec 4) : Bool := t.toNat == 0 || t.toNat == 2 || t.toNat == 4 || t.toNat == 14

/-- The types f32, bf16 and f16 of Table 8.1's class F. -/
def isFloat (t : BitVec 4) : Bool := t.toNat == 6 || t.toNat == 7 || t.toNat == 8

/-- The types e4m3, e5m2, e2m1 and tf8. -/
def isSmallFloat (t : BitVec 4) : Bool := 9 ≤ t.toNat && t.toNat ≤ 12

/-- The element types of an MX block (R195): i8, e4m3, e5m2, e2m1, tf8. -/
def isMx (t : BitVec 4) : Bool := t.toNat == 4 || isSmallFloat t

/-- `sext(v, n)` of R50. -/
def sext {w : Nat} (v : BitVec w) (n : Nat) : BitVec n := v.signExtend n

/-- `zext(v, n)` of R50. -/
def zext {w : Nat} (v : BitVec w) (n : Nat) : BitVec n := v.setWidth n

end Sys2Proof.Machine
end

