-- ==== Sys2Proof/Config.lean ====
section
/-! DEFINITION. What is fixed for one AE40, and the values the spec leaves open.  An opaque constant has
no body: nothing can be proved of its value, so a claim holds whatever it is. -/

namespace Sys2Proof.Config

/-- Installed GDDR 7 bytes: 32 devices of 8 GiB (Table 1.5). -/
def gddrBytes : Nat := 32 * 8 * 2 ^ 30

/-- Installed LPDDR 6 bytes: 16 packages of 64 GiB (Table 1.5). -/
def lpddrBytes : Nat := 16 * 64 * 2 ^ 30

/-- What a byte that nothing has written reads as.  DESIGN CHOICE, log 1: the spec states no contents of
device or host memory after power-on. -/
def unlistedByte : Byte := 0#8

/-- The page request group index of a Page Request: "the AE40's choice" (R347, Table 11.16). -/
opaque pageGroup : Nat → BitVec 16

/-- The 16-byte serial number and the 32-byte public-key hash IDENT returns (Table 14.3). -/
opaque identity : BitVec 384

/-- The firmware version of a slot as built (Table 14.3): first the slot, then the image's bytes hash. -/
opaque firmwareVersion : Nat → BitVec 64 → BitVec 64

/-- SM2 signature over SM3 of nonce, firmware version and capacity registers (Table 14.3, ATTEST). -/
opaque attest : BitVec 256 → BitVec 64 → List (BitVec 64) → BitVec 512

/-- Does the SM2 signature of an UPDATE image verify over its SM3 hash (Table 14.3, R404)? -/
opaque signatureOk : List (BitVec 8) → Bool

/-- A digest of an image's bytes, standing for the SM3 hash the firmware check uses (R404). -/
opaque imageDigest : List (BitVec 8) → BitVec 64

/-- Does Cobalt verify a firmware slot's digest again at module reset (R404)? -/
opaque slotVerifies : BitVec 64 → Bool

/-- A byte of a shadow after a kill: "unspecified until rewritten" (R317, R383). -/
opaque shadowByte : Nat → Nat → BitVec 8

/-- The code a virtual function is answered with: R403 says Cobalt takes commands only from the
physical function and gives no status for another function's command. -/
opaque foreignStatus : Nat → BitVec 64

/-- What a collective computes in eager mode: which participant is combined at each step is open
(R260, R311). -/
opaque eagerPick : Nat → Nat → Nat

/-- The status a Cobalt command finishes with where the spec gives its effect and no code. -/
opaque cobaltStatus : Nat → BitVec 64

/-- What LOGREAD returns for a record the error log does not hold: R403 and R405 give no answer for it. -/
opaque freeRecord : Nat → BitVec 256

/-- A 32-bit lane the spec states no value for. -/
opaque freeLane : Nat → BitVec 32

/-- Does an arbiter cycle that would admit a claim fall between its entry and the answer of RCLAIM (R124)?  First the counter. -/
opaque admitsAtOnce : Nat → Bool

/-- STRUCT of the record of an error in a token store, a node slot, a cache's tags or a buffer, which Table 14.4 gives no code. -/
opaque logStruct : Nat → BitVec 8

/-- LOC of such a record, which has no `INJADDR` form. -/
opaque logLoc : Nat → BitVec 64

/-- Does a pre-emption request end a WFE with the PC past it, as R96 says, and not leave it to run again, as R360 says? -/
opaque wfeEnds : Nat → Bool

end Sys2Proof.Config
end

