-- ==== Sys2Proof/Machine/Table.lean ====
section
/-! DEFINITION. Sparse tables: lists of (key, value), the first entry of a key counts. -/

namespace Sys2Proof.Machine

/-- A table from numbers to values; a key with no entry holds the default its reader names. -/
abbrev Tab (α : Type) := List (Nat × α)

/-- The value at key `k`, or `d`. -/
def Tab.get {α : Type} (d : α) : Tab α → Nat → α
  | [], _ => d
  | (j, v) :: r, k => if j = k then v else Tab.get d r k

/-- Write key `k`, keys rising. -/
def Tab.set {α : Type} : Tab α → Nat → α → Tab α
  | [], k, v => [(k, v)]
  | (j, w) :: r, k, v =>
    if k < j then (k, v) :: (j, w) :: r
    else if k = j then (k, v) :: r
    else (j, w) :: Tab.set r k v

/-- Remove key `k`. -/
def Tab.del {α : Type} (m : Tab α) (k : Nat) : Tab α := m.filter (fun p => p.1 != k)

/-- Is there an entry for `k`? -/
def Tab.has {α : Type} (m : Tab α) (k : Nat) : Bool := m.any (fun p => p.1 == k)

/-- Insert into a rising list of numbers, once. -/
def insertNat : List Nat → Nat → List Nat
  | [], k => [k]
  | j :: r, k => if k < j then k :: j :: r else if k = j then j :: r else j :: insertNat r k

theorem Tab.get_set {α : Type} (d : α) (m : Tab α) (k : Nat) (v : α) :
    Tab.get d (Tab.set m k v) k = v := by
  induction m with
  | nil => simp [Tab.set, Tab.get]
  | cons p r ih =>
    obtain ⟨j, w⟩ := p
    simp only [Tab.set]
    split
    · simp [Tab.get]
    · split
      · simp [Tab.get]
      · rename_i h1 h2
        simp [Tab.get, ih, Ne.symm h2]

theorem Tab.get_set_ne {α : Type} (d : α) (m : Tab α) {k j : Nat} (v : α) (h : j ≠ k) :
    Tab.get d (Tab.set m k v) j = Tab.get d m j := by
  induction m with
  | nil => simp [Tab.set, Tab.get, Ne.symm h]
  | cons p r ih =>
    obtain ⟨i, w⟩ := p
    simp only [Tab.set]
    split
    · simp [Tab.get, Ne.symm h]
    · split
      · rename_i h1 h2
        subst h2
        simp [Tab.get, Ne.symm h]
      · simp [Tab.get, ih]

end Sys2Proof.Machine
end

