-- ==== Sys2Proof/Syntax.lean ====
section
/-! DEFINITION. The instruction type of the AE40: one constructor for each row of the spec's
operation table.  Three groups: the 112 control words (Tables 2.3 to 2.7), the 100 operation words
(Table 2.9), and the 68 steps that have no word of their own (events of the hardware and of the world
outside it, and parts of a word's effect); 95_what_each_step_holds names them.  A word's arguments are
its fields as the table names them; where an event happens and what it brings stands in the state's
event record (Sys2Proof.Machine.Event), which the agenda supplies. -/

namespace Sys2Proof

/-- One constructor for each row of the operation table. -/
inductive Instr where
  /-- ADD (R69): Writes g[a] + g[b] to g[d], wrapping modulo 2^64; the all-zero word is NOP. -/
  | add (d : BitVec 5) (a : BitVec 5) (b : BitVec 5)
  /-- SUB (R69): Writes g[a] - g[b] to g[d], wrapping modulo 2^64. -/
  | sub (d : BitVec 5) (a : BitVec 5) (b : BitVec 5)
  /-- AND (R69): Writes the bitwise AND of g[a] and g[b] to g[d]. -/
  | and (d : BitVec 5) (a : BitVec 5) (b : BitVec 5)
  /-- OR (R69): Writes the bitwise OR of g[a] and g[b] to g[d]. -/
  | or (d : BitVec 5) (a : BitVec 5) (b : BitVec 5)
  /-- XOR (R69): Writes the bitwise XOR of g[a] and g[b] to g[d]. -/
  | xor (d : BitVec 5) (a : BitVec 5) (b : BitVec 5)
  /-- ANDN (R69): Writes g[a] AND NOT g[b] to g[d]. -/
  | andn (d : BitVec 5) (a : BitVec 5) (b : BitVec 5)
  /-- SHL (R69): Shifts g[a] left by g[b][5:0] into g[d]. -/
  | shl (d : BitVec 5) (a : BitVec 5) (b : BitVec 5)
  /-- SHR (R69): Shifts g[a] right logically by g[b][5:0] into g[d]. -/
  | shr (d : BitVec 5) (a : BitVec 5) (b : BitVec 5)
  /-- SHA (R69): Shifts g[a] right arithmetically by g[b][5:0] into g[d]. -/
  | sha (d : BitVec 5) (a : BitVec 5) (b : BitVec 5)
  /-- SLT (R69): Writes 1 to g[d] when g[a] is signed-less than g[b], else 0. -/
  | slt (d : BitVec 5) (a : BitVec 5) (b : BitVec 5)
  /-- SLTN (R69): Writes 1 to g[d] when g[a] is unsigned-less than g[b], else 0. -/
  | sltn (d : BitVec 5) (a : BitVec 5) (b : BitVec 5)
  /-- MIN (R69): Writes the signed minimum of g[a] and g[b] to g[d]. -/
  | min (d : BitVec 5) (a : BitVec 5) (b : BitVec 5)
  /-- MAX (R69): Writes the signed maximum of g[a] and g[b] to g[d]. -/
  | max (d : BitVec 5) (a : BitVec 5) (b : BitVec 5)
  /-- MINN (R69): Writes the unsigned minimum of g[a] and g[b] to g[d]. -/
  | minn (d : BitVec 5) (a : BitVec 5) (b : BitVec 5)
  /-- MAXN (R69): Writes the unsigned maximum of g[a] and g[b] to g[d]. -/
  | maxn (d : BitVec 5) (a : BitVec 5) (b : BitVec 5)
  /-- CLZ (R69): Writes the count of leading zero bits of g[a] to g[d]. -/
  | clz (d : BitVec 5) (a : BitVec 5)
  /-- POPC (R69): Writes the count of one bits of g[a] to g[d]. -/
  | popc (d : BitVec 5) (a : BitVec 5)
  /-- MUL (R71): Writes the low 64 bits of the product of g[a] and g[b] to g[d]. -/
  | mul (d : BitVec 5) (a : BitVec 5) (b : BitVec 5)
  /-- MULH (R71): Writes the high 64 bits of the signed product to g[d]. -/
  | mulh (d : BitVec 5) (a : BitVec 5) (b : BitVec 5)
  /-- MULHN (R71): Writes the high 64 bits of the unsigned product to g[d]. -/
  | mulhn (d : BitVec 5) (a : BitVec 5) (b : BitVec 5)
  /-- DIV (R72): Writes the signed quotient truncated toward zero, with fixed results for zero divisor and overflow. -/
  | div (d : BitVec 5) (a : BitVec 5) (b : BitVec 5)
  /-- DIVN (R72): Writes the unsigned quotient, all ones for a zero divisor. -/
  | divn (d : BitVec 5) (a : BitVec 5) (b : BitVec 5)
  /-- REM (R72): Writes the signed remainder with the dividend's sign, g[a] for a zero divisor. -/
  | rem (d : BitVec 5) (a : BitVec 5) (b : BitVec 5)
  /-- REMN (R72): Writes the unsigned remainder, g[a] for a zero divisor. -/
  | remn (d : BitVec 5) (a : BitVec 5) (b : BitVec 5)
  /-- FADD (R208): Adds two scalar floating-point operands with one rounding and sets FPCTL flags. -/
  | fadd (d : BitVec 5) (a : BitVec 5) (b : BitVec 5) (f : BitVec 3) (r : BitVec 3)
  /-- FSUB (R208): Subtracts scalar floating-point operands with one rounding. -/
  | fsub (d : BitVec 5) (a : BitVec 5) (b : BitVec 5) (f : BitVec 3) (r : BitVec 3)
  /-- FMUL (R208): Multiplies scalar floating-point operands with one rounding. -/
  | fmul (d : BitVec 5) (a : BitVec 5) (b : BitVec 5) (f : BitVec 3) (r : BitVec 3)
  /-- FFMA (R208): Computes g[d] + g[a]*g[b] with a single rounding. -/
  | ffma (d : BitVec 5) (a : BitVec 5) (b : BitVec 5) (f : BitVec 3) (r : BitVec 3)
  /-- FMIN (R209): Writes the lesser operand, canonical NaN if either is NaN, setting no flag. -/
  | fmin (d : BitVec 5) (a : BitVec 5) (b : BitVec 5) (f : BitVec 3)
  /-- FMAX (R209): Writes the greater operand, canonical NaN if either is NaN, setting no flag. -/
  | fmax (d : BitVec 5) (a : BitVec 5) (b : BitVec 5) (f : BitVec 3)
  /-- FCMPEQ (R209): Writes 1 when the operands are numerically equal, else 0. -/
  | fcmpeq (d : BitVec 5) (a : BitVec 5) (b : BitVec 5) (f : BitVec 3)
  /-- FCMPLT (R209): Writes 1 when A < B, else 0. -/
  | fcmplt (d : BitVec 5) (a : BitVec 5) (b : BitVec 5) (f : BitVec 3)
  /-- FCMPLE (R209): Writes 1 when A <= B, else 0. -/
  | fcmple (d : BitVec 5) (a : BitVec 5) (b : BitVec 5) (f : BitVec 3)
  /-- FRCP (R210): Writes the correctly rounded reciprocal of g[a]. -/
  | frcp (d : BitVec 5) (a : BitVec 5) (f : BitVec 3) (r : BitVec 3)
  /-- FRSQ (R210): Writes the correctly rounded reciprocal square root of g[a]. -/
  | frsq (d : BitVec 5) (a : BitVec 5) (f : BitVec 3) (r : BitVec 3)
  /-- FSQRT (R210): Writes the correctly rounded square root of g[a]. -/
  | fsqrt (d : BitVec 5) (a : BitVec 5) (f : BitVec 3) (r : BitVec 3)
  /-- FCVT (R211): Converts between float formats or between float and integer types as selected by b. -/
  | fcvt (d : BitVec 5) (a : BitVec 5) (t : BitVec 5) (f : BitVec 3) (r : BitVec 3)
  /-- FABS (R209): Writes g[a] with its sign cleared, canonical NaN for NaN. -/
  | fabs (d : BitVec 5) (a : BitVec 5) (f : BitVec 3)
  /-- FNEG (R209): Writes g[a] with its sign inverted, canonical NaN for NaN. -/
  | fneg (d : BitVec 5) (a : BitVec 5) (f : BitVec 3)
  /-- ADDI (R70): Adds the sign-extended immediate to g[a] into g[d]. -/
  | addi (d : BitVec 5) (a : BitVec 5) (i : BitVec 16)
  /-- ANDI (R70): ANDs g[a] with the zero-extended immediate into g[d]. -/
  | andi (d : BitVec 5) (a : BitVec 5) (i : BitVec 16)
  /-- ORI (R70): ORs g[a] with the zero-extended immediate into g[d]. -/
  | ori (d : BitVec 5) (a : BitVec 5) (i : BitVec 16)
  /-- XORI (R70): XORs g[a] with the zero-extended immediate into g[d]. -/
  | xori (d : BitVec 5) (a : BitVec 5) (i : BitVec 16)
  /-- SHLI (R70): Shifts g[a] left by imm16[5:0] into g[d]. -/
  | shli (d : BitVec 5) (a : BitVec 5) (i : BitVec 6)
  /-- SHRI (R70): Shifts g[a] right logically by imm16[5:0] into g[d]. -/
  | shri (d : BitVec 5) (a : BitVec 5) (i : BitVec 6)
  /-- SHAI (R70): Shifts g[a] right arithmetically by imm16[5:0] into g[d]. -/
  | shai (d : BitVec 5) (a : BitVec 5) (i : BitVec 6)
  /-- LDHI (R70): Writes the sign-extended immediate shifted left by 16 into g[d]. -/
  | ldhi (d : BitVec 5) (i : BitVec 16)
  /-- SLTI (R70): Writes 1 when g[a] is signed-less than the sign-extended immediate. -/
  | slti (d : BitVec 5) (a : BitVec 5) (i : BitVec 16)
  /-- BR (R73): Compares g[a] with g[b] under cond and branches by a signed word offset when it holds. -/
  | br (a : BitVec 5) (b : BitVec 5) (c : BitVec 3) (o : BitVec 13)
  /-- JMP (R74): Jumps by a signed 26-bit word offset. -/
  | jmp (o : BitVec 26)
  /-- CALL (R74): Writes PC + 4 to g1 and jumps by a signed 26-bit word offset. -/
  | call (o : BitVec 26)
  /-- JR (R75): Jumps to g[a] and writes the return address to g[d], trapping ALIGN on a misaligned target. -/
  | jr (d : BitVec 5) (a : BitVec 5)
  /-- LD (R76): Loads 1, 2, 4 or 8 bytes at g[a] + off13, extended by size, into g[d]. -/
  | ld (d : BitVec 5) (a : BitVec 5) (s : BitVec 3) (o : BitVec 13)
  /-- ST (R76): Stores the low 1, 2, 4 or 8 bytes of g[s] at g[a] + off13. -/
  | st (v : BitVec 5) (a : BitVec 5) (s : BitVec 3) (o : BitVec 13)
  /-- BIND (R289): Adds a (sync object, base, length) entry to the thread's binding table. -/
  | bind (d : BitVec 5) (a : BitVec 5) (b : BitVec 5)
  /-- UNBIND (R289): Removes a matching entry from the thread's binding table. -/
  | unbind (d : BitVec 5) (a : BitVec 5) (b : BitVec 5)
  /-- ACQX (R290): Takes a ticket on a sync object, waits for exclusive admission and invalidates bound ranges. -/
  | acqx (a : BitVec 5)
  /-- ACQS (R290): Takes a ticket on a sync object, waits for shared admission and invalidates bound ranges. -/
  | acqs (a : BitVec 5)
  /-- REL (R291): Writes back bound dirty bytes and releases or purely publishes a sync object at its home. -/
  | rel (a : BitVec 5)
  /-- FENCE (R286): Waits for earlier stores to perform at the scope and discards the core's L1 caches. -/
  | fence (s : BitVec 3)
  /-- AADD (R293): Atomically adds at the line's home and returns the old value. -/
  | aadd (d : BitVec 5) (a : BitVec 5) (b : BitVec 5) (z : BitVec 1)
  /-- AAND (R293): Atomically ANDs at the home and returns the old value. -/
  | aand (d : BitVec 5) (a : BitVec 5) (b : BitVec 5) (z : BitVec 1)
  /-- AOR (R293): Atomically ORs at the home and returns the old value. -/
  | aor (d : BitVec 5) (a : BitVec 5) (b : BitVec 5) (z : BitVec 1)
  /-- AXOR (R293): Atomically XORs at the home and returns the old value. -/
  | axor (d : BitVec 5) (a : BitVec 5) (b : BitVec 5) (z : BitVec 1)
  /-- AMIN (R293): Atomically takes the signed minimum at the home and returns the old value. -/
  | amin (d : BitVec 5) (a : BitVec 5) (b : BitVec 5) (z : BitVec 1)
  /-- AMAX (R293): Atomically takes the signed maximum at the home and returns the old value. -/
  | amax (d : BitVec 5) (a : BitVec 5) (b : BitVec 5) (z : BitVec 1)
  /-- AMINN (R293): Atomically takes the unsigned minimum at the home and returns the old value. -/
  | aminn (d : BitVec 5) (a : BitVec 5) (b : BitVec 5) (z : BitVec 1)
  /-- AMAXN (R293): Atomically takes the unsigned maximum at the home and returns the old value. -/
  | amaxn (d : BitVec 5) (a : BitVec 5) (b : BitVec 5) (z : BitVec 1)
  /-- AXCHG (R293): Atomically exchanges at the home and returns the old value. -/
  | axchg (d : BitVec 5) (a : BitVec 5) (b : BitVec 5) (z : BitVec 1)
  /-- ACAS (R293): Atomically compares with g[d] and swaps in g[b] at the home, returning the old value. -/
  | acas (d : BitVec 5) (a : BitVec 5) (b : BitVec 5) (z : BitVec 1)
  /-- RCLAIM (R124): Enters or updates a pending area claim and waits for admission unless .nowait. -/
  | rclaim (d : BitVec 5) (a : BitVec 5) (n : BitVec 1)
  /-- RLOAD (R113): Checks an image and loads it into the claimed region. -/
  | rload (d : BitVec 5) (a : BitVec 5)
  /-- RSTART (R120): Snapshots descriptors, clears flags and starts a configuration period. -/
  | rstart (d : BitVec 5) (a : BitVec 5)
  /-- RFEED (R118): Binds an ingress port to a tensor-table entry. -/
  | rfeed (d : BitVec 5) (a : BitVec 5) (b : BitVec 5)
  /-- RFEED_BRIDGE (R119): Binds an ingress port to the consuming end of a bridge. -/
  | rfeedBridge (d : BitVec 5) (a : BitVec 5) (b : BitVec 5)
  /-- RTAP (R118): Binds an egress port to a tensor-table entry. -/
  | rtap (d : BitVec 5) (a : BitVec 5) (b : BitVec 5)
  /-- RTAP_BRIDGE (R319): Binds an egress port to a bridge or to an engine command port. -/
  | rtapBridge (d : BitVec 5) (a : BitVec 5) (b : BitVec 5)
  /-- RDRAIN (R121): Starts a drain that sends DRAIN tokens after each ingress END. -/
  | rdrain (d : BitVec 5)
  /-- RWAIT (R125): Waits for the period's completion word, acquires and returns it. -/
  | rwait (d : BitVec 5)
  /-- RWAIT_DRAINED (R125): Waits for DRAINED or ENDED, acquires and returns the completion word. -/
  | rwaitDrained (d : BitVec 5)
  /-- RSWAP (R114): Loads the next image into a LOADED or DRAINED region, keeping matching port bindings. -/
  | rswap (d : BitVec 5) (a : BitVec 5)
  /-- RSWAP_TD (R122): Starts a teardown swap of a running non-Invar region before any ingress END. -/
  | rswapTd (d : BitVec 5) (a : BitVec 5)
  /-- RSTAT (R104): Returns one of the four region status words. -/
  | rstat (d : BitVec 5) (s : BitVec 6)
  /-- RFREE (R108): Cancels the claim or frees the region's pages and binding, returning to NONE. -/
  | rfree (d : BitVec 5)
  /-- RPOST (R342): Posts RESUME to a parked node so that it replays its access. -/
  | rpost (d : BitVec 5) (a : BitVec 5)
  /-- RSWEEP (R179): Starts a hang sweep and returns when its records are written. -/
  | rsweep (d : BitVec 5)
  /-- RMARK (R355): Pre-empts the region by marker passage, or evicts it, until it is SAVED. -/
  | rmark (d : BitVec 5) (a : BitVec 5)
  /-- RKILL (R385): Kills the region and ends it with status KILLED. -/
  | rkill (d : BitVec 5)
  /-- RREPLAY (R386): Reloads the current image of an ENDED region and replays its period from index 0. -/
  | rreplay (d : BitVec 5)
  /-- ENQ (R303): Walks NEXT links to the named entry and enqueues the entries on the thread's chain. -/
  | enq (d : BitVec 5) (a : BitVec 5) (b : BitVec 5)
  /-- ENQ_OPEN (R303): Opens a chain on an engine from a header, capturing space and partition. -/
  | enqOpen (d : BitVec 5) (a : BitVec 5) (b : BitVec 5)
  /-- ENQ_SHUT (R303): Closes the thread's chain on an engine. -/
  | enqShut (d : BitVec 5) (a : BitVec 5)
  /-- ENQ_RESUME (R303): Clears HALTED and restarts a halted chain's entry from its PROGRESS. -/
  | enqResume (d : BitVec 5) (a : BitVec 5) (b : BitVec 5)
  /-- CWAIT (R304): Waits until the chain's outstanding count is at most n or it halts, then acquires. -/
  | cwait (d : BitVec 5) (a : BitVec 5) (n : BitVec 6)
  /-- CSEQ (R305): Returns the engine's SEQ for the thread's chain with an acquire. -/
  | cseq (d : BitVec 5) (a : BitVec 5)
  /-- PUB (R316): Flips a buffer's visible backing atomically and kills its translations device-wide. -/
  | pub (d : BitVec 5) (a : BitVec 5)
  /-- TDSET (R126): Reads and checks a 64-byte descriptor and writes it into a tensor-table entry. -/
  | tdset (d : BitVec 5) (a : BitVec 5) (b : BitVec 5)
  /-- TDGET (R126): Writes a tensor-table entry to memory. -/
  | tdget (d : BitVec 5) (a : BitVec 5) (b : BitVec 5)
  /-- TDCLR (R126): Empties a tensor-table entry. -/
  | tdclr (d : BitVec 5) (a : BitVec 5)
  /-- SRD (R81): Reads a system register into g[d], checking its read level. -/
  | srd (d : BitVec 5) (r : BitVec 12)
  /-- SWR (R81): Writes g[a] to a system register, checking its write level. -/
  | swr (a : BitVec 5) (r : BitVec 12)
  /-- SSET (R81): Indivisibly reads a system register and sets the bits of g[a]. -/
  | sset (d : BitVec 5) (a : BitVec 5) (r : BitVec 12)
  /-- SCLR (R81): Indivisibly reads a system register and clears the bits of g[a]. -/
  | sclr (d : BitVec 5) (a : BitVec 5) (r : BitVec 12)
  /-- TRAP (R93): Raises TRAPINSN with the code, returning after the instruction. -/
  | trap (c : BitVec 5)
  /-- SYSRET (R94): Returns from a trap or trigger handler, restoring PL and IE from PPL and PIE. -/
  | sysret
  /-- HALT (R95): Stops the thread until reset or CTXLOAD. -/
  | halt
  /-- WFE (R96): Waits for a trigger count, mailbox arrival, completion store or pre-emption request, or spuriously. -/
  | wfe
  /-- TLBINVS (R352): Kills every translation of a space device-wide and waits for users of them to perform. -/
  | tlbinvs (a : BitVec 5)
  /-- TLBINVA (R352): Kills the translations of a space that hold one virtual address. -/
  | tlbinva (a : BitVec 5) (b : BitVec 5)
  /-- SPGEN (R352): Advances a space's generation, retiring its cached translations. -/
  | spgen (d : BitVec 5) (a : BitVec 5)
  /-- CTXSAVE (R366): Stops another thread, saves its thread, chain and region state to a context area and empties it. -/
  | ctxsave (d : BitVec 5) (a : BitVec 5) (b : BitVec 5)
  /-- CTXLOAD (R367): Checks a context area and loads it into a thread, reopening chains and resuming its region. -/
  | ctxload (d : BitVec 5) (a : BitVec 5) (b : BitVec 5)
  /-- IADD (R246): Element integer add, wrapping or saturating. -/
  | iadd (t : BitVec 4) (b : BitVec 2) (s : BitVec 1)
  /-- ISUB (R246): Element integer subtract, wrapping or saturating. -/
  | isub (t : BitVec 4) (b : BitVec 2) (s : BitVec 1)
  /-- IMUL (R246): Element integer multiply, wrapping or saturating. -/
  | imul (t : BitVec 4) (b : BitVec 2) (s : BitVec 1)
  /-- IMULH (R246): Element high half of the integer product. -/
  | imulh (t : BitVec 4) (b : BitVec 2)
  /-- IMAD (R246): Element integer c + a*b with slot C addend. -/
  | imad (t : BitVec 4) (b : BitVec 2) (s : BitVec 1)
  /-- IMIN (R246): Element integer minimum. -/
  | imin (t : BitVec 4) (b : BitVec 2)
  /-- IMAX (R246): Element integer maximum. -/
  | imax (t : BitVec 4) (b : BitVec 2)
  /-- IABS (R246): Element integer absolute value. -/
  | iabs (t : BitVec 4) (s : BitVec 1)
  /-- INEG (R246): Element integer negation. -/
  | ineg (t : BitVec 4) (s : BitVec 1)
  /-- IAND (R246): Element bitwise AND. -/
  | iand (t : BitVec 4) (b : BitVec 2)
  /-- IOR (R246): Element bitwise OR. -/
  | ior (t : BitVec 4) (b : BitVec 2)
  /-- IXOR (R246): Element bitwise XOR. -/
  | ixor (t : BitVec 4) (b : BitVec 2)
  /-- INOT (R246): Element bitwise complement. -/
  | inot (t : BitVec 4)
  /-- ISHL (R246): Element shift left by b mod w. -/
  | ishl (t : BitVec 4) (b : BitVec 2)
  /-- ISHR (R246): Element logical shift right. -/
  | ishr (t : BitVec 4) (b : BitVec 2)
  /-- ISHA (R246): Element arithmetic shift right. -/
  | isha (t : BitVec 4) (b : BitVec 2)
  /-- ICMPEQ (R246): Element integer equality compare writing 1 or 0. -/
  | icmpeq (t : BitVec 4) (b : BitVec 2)
  /-- ICMPNE (R246): Element integer inequality compare. -/
  | icmpne (t : BitVec 4) (b : BitVec 2)
  /-- ICMPLT (R246): Element integer less-than compare. -/
  | icmplt (t : BitVec 4) (b : BitVec 2)
  /-- ICMPLE (R246): Element integer less-or-equal compare. -/
  | icmple (t : BitVec 4) (b : BitVec 2)
  /-- SEL (R247): Selects a or b per element by the slot C condition. -/
  | sel (t : BitVec 4) (b : BitVec 2)
  /-- CLZ_NODE (R246): Element count of leading zero bits. -/
  | clzNode (t : BitVec 4)
  /-- POPC_NODE (R246): Element count of one bits. -/
  | popcNode (t : BitVec 4)
  /-- ISAT (R246): Bounds each element to an n-bit range, setting AOVF. -/
  | isat (t : BitVec 4) (n : BitVec 6)
  /-- ICLAMP (R246): Clamps each element between b and slot C bound. -/
  | iclamp (t : BitVec 4) (b : BitVec 2)
  /-- FADD_NODE (R248): Element floating add in the param mode. -/
  | faddNode (t : BitVec 4) (b : BitVec 2) (m : BitVec 2)
  /-- FSUB_NODE (R248): Element floating subtract. -/
  | fsubNode (t : BitVec 4) (b : BitVec 2) (m : BitVec 2)
  /-- FMUL_NODE (R248): Element floating multiply. -/
  | fmulNode (t : BitVec 4) (b : BitVec 2) (m : BitVec 2)
  /-- FFMA_NODE (R248): Element fused multiply-add with slot C addend. -/
  | ffmaNode (t : BitVec 4) (b : BitVec 2) (m : BitVec 2)
  /-- FMIN_NODE (R248): Element floating minimum. -/
  | fminNode (t : BitVec 4) (b : BitVec 2)
  /-- FMAX_NODE (R248): Element floating maximum. -/
  | fmaxNode (t : BitVec 4) (b : BitVec 2)
  /-- FABS_NODE (R248): Element floating absolute value. -/
  | fabsNode (t : BitVec 4)
  /-- FNEG_NODE (R248): Element floating negation. -/
  | fnegNode (t : BitVec 4)
  /-- FCMPEQ_NODE (R248): Element floating equality compare writing integer 1 or 0. -/
  | fcmpeqNode (t : BitVec 4) (b : BitVec 2)
  /-- FCMPLT_NODE (R248): Element floating less-than compare. -/
  | fcmpltNode (t : BitVec 4) (b : BitVec 2)
  /-- FCMPLE_NODE (R248): Element floating less-or-equal compare. -/
  | fcmpleNode (t : BitVec 4) (b : BitVec 2)
  /-- FRCP_NODE (R248): Element correctly rounded reciprocal. -/
  | frcpNode (t : BitVec 4) (m : BitVec 2)
  /-- FRSQ_NODE (R248): Element correctly rounded reciprocal square root. -/
  | frsqNode (t : BitVec 4) (m : BitVec 2)
  /-- FSQRT_NODE (R248): Element correctly rounded square root. -/
  | fsqrtNode (t : BitVec 4) (m : BitVec 2)
  /-- FEXP2 (R249): Element correctly rounded 2^a. -/
  | fexp2 (t : BitVec 4) (m : BitVec 2)
  /-- FLOG2 (R249): Element correctly rounded log2 a. -/
  | flog2 (t : BitVec 4) (m : BitVec 2)
  /-- CVT (R250): Converts elements between types under the part rule. -/
  | cvt (t : BitVec 4) (s : BitVec 4) (l : BitVec 1) (p : BitVec 3) (x : BitVec 1) (m : BitVec 2)
  /-- CVTSR (R251): Converts float elements with keyed stochastic rounding. -/
  | cvtsr (t : BitVec 4) (i : BitVec 6) (c : BitVec 8)
  /-- SDENC (R252): Encodes integer elements as canonical signed-digit records. -/
  | sdenc (s : BitVec 4) (l : BitVec 1) (p : BitVec 3) (w : BitVec 6)
  /-- SDDEC (R253): Decodes whole signed-digit records into integers. -/
  | sddec (t : BitVec 4) (l : BitVec 1) (p : BitVec 3) (w : BitVec 6)
  /-- QMAX (R262): Tracks a 128-element block and emits its MX scale. -/
  | qmax (t : BitVec 4) (e : BitVec 4)
  /-- QCONV (R263): Converts block elements with their scale into MX element tokens. -/
  | qconv (t : BitVec 4) (s : BitVec 4)
  /-- QDEQ (R265): Decodes MX element tokens with their scale. -/
  | qdeq (t : BitVec 4) (e : BitVec 4)
  /-- PACK (R254): Merges the valid lanes of two aligned tokens. -/
  | pack (t : BitVec 4)
  /-- UNPACK (R254): Splits a token's lanes between two outputs by a mask. -/
  | unpack (t : BitVec 4) (m : BitVec 8)
  /-- SHUF (R255): Permutes lanes by the node-constant lane map. -/
  | shuf (t : BitVec 4)
  /-- BCAST (R255): Broadcasts one element to every element. -/
  | bcast (t : BitVec 4) (e : BitVec 6)
  /-- RSUM (R256): Sums a token's elements by a fixed pairwise tree. -/
  | rsum (t : BitVec 4) (q : BitVec 1)
  /-- RMAX (R256): Takes a token's maximum by a fixed tree. -/
  | rmax (t : BitVec 4)
  /-- RMIN (R256): Takes a token's minimum by a fixed tree. -/
  | rmin (t : BitVec 4)
  /-- ACCUM (R257): Accumulates elements in dequeue order, emitting at LAST or END. -/
  | accum (t : BitVec 4) (e : BitVec 1)
  /-- WSUM (R167): Accumulates weighted sums of records, emitting at LAST or END. -/
  | wsum (t : BitVec 4) (e : BitVec 1)
  /-- WCNT (R168): Counts weighted records and compensated and uncompensated losses. -/
  | wcnt (e : BitVec 1)
  /-- XRED (R258): Combines two aligned tokens element by element. -/
  | xred (t : BitVec 4) (o : BitVec 2)
  /-- STEER (R154): Sends a record to output 0 or 1 by the slot C condition. -/
  | steer (t : BitVec 4)
  /-- MERGE (R155): Merges two inputs, controlled by slot C or by arrival. -/
  | merge (t : BitVec 4) (c : BitVec 1)
  /-- GATE (R156): Passes or discards a record by the slot C condition XOR INV. -/
  | gate (t : BitVec 4) (v : BitVec 1)
  /-- CHAIN (R158): Counter logic emitting iteration tokens on schedule, re-armed or loop-carried. -/
  | chain (a : BitVec 2) (b : BitVec 2)
  /-- REPL (R159): Emits r copies of each record. -/
  | repl (t : BitVec 4) (r : BitVec 6)
  /-- SINK (R160): Consumes tokens and reports END to the region controller. -/
  | sink (t : BitVec 4) (v : BitVec 1) (e : BitVec 4)
  /-- SOURCE (R161): Emits its operand as N tokens then END. -/
  | source (t : BitVec 4) (a : BitVec 2) (n : BitVec 8)
  /-- JOIN (R162): Aligns its inputs by index and emits A and B payloads. -/
  | join (t : BitVec 4) (u : BitVec 1)
  /-- WIN (R163): Keeps window sums and counts and emits them when a window closes. -/
  | win (t : BitVec 4)
  /-- GAPC (R164): Forwards tokens, counts losses and raises a trigger event at a threshold. -/
  | gapc (t : BitVec 4) (v : BitVec 1) (e : BitVec 4)
  /-- HASHK (R165): Replaces each lane with its keyed hash. -/
  | hashk (c : BitVec 8)
  /-- DROPM (R166): Zeroes elements by a keyed hash of their global index. -/
  | dropm (t : BitVec 4) (i : BitVec 6) (c : BitVec 8)
  /-- GLD (R276): Reads 32 bytes at a virtual address and emits them as a token. -/
  | gld (t : BitVec 4) (n : BitVec 1) (e : BitVec 1) (s : BitVec 3)
  /-- GST (R276): Writes the valid lanes of B to a virtual address. -/
  | gst (t : BitVec 4) (n : BitVec 1) (e : BitVec 1) (s : BitVec 3)
  /-- SLD (R276): Reads 32 bytes of scratchpad and emits them. -/
  | sld (t : BitVec 4) (n : BitVec 1) (e : BitVec 1) (s : BitVec 3)
  /-- SST (R276): Writes the valid lanes of B to scratchpad. -/
  | sst (t : BitVec 4) (n : BitVec 1) (e : BitVec 1) (s : BitVec 3)
  /-- WLD (R276): Reads 32 bytes of the bound weight-store window. -/
  | wld (t : BitVec 4) (n : BitVec 1) (e : BitVec 1) (s : BitVec 3)
  /-- TLD (R276): Loads a tile register from global memory. -/
  | tld (b : BitVec 2) (r : BitVec 4) (n : BitVec 1) (s : BitVec 3)
  /-- TST (R276): Stores a tile register or acc to global memory. -/
  | tst (r : BitVec 4) (n : BitVec 1) (s : BitVec 3) (k : BitVec 1) (c : BitVec 1)
  /-- DONE (R282): Aligns ORDER tokens and emits one of the smallest scope. -/
  | done (h : BitVec 1)
  /-- ECMD (R318): Emits a 64-byte engine command as two CMD tokens and ORDER on completion. -/
  | ecmd
  /-- TSHAPE (R233): Sets an empty tile register's shape and zeroes it. -/
  | tshape (r : BitVec 4)
  /-- TPREC (R220): Sets the tile's precision register. -/
  | tprec
  /-- TFILL (R234): Writes one record into a tile register per firing until full. -/
  | tfill (t : BitVec 4) (b : BitVec 2) (r : BitVec 4)
  /-- TEMIT (R235): Emits a register or acc row-major as tokens. -/
  | temit (t : BitVec 4) (r : BitVec 4) (k : BitVec 1) (c : BitVec 1)
  /-- TLDS (R237): Loads a tile register from scratchpad. -/
  | tlds (b : BitVec 2) (r : BitVec 4) (s : BitVec 3)
  /-- TSTS (R237): Stores a tile register or acc to scratchpad. -/
  | tsts (r : BitVec 4) (s : BitVec 3) (k : BitVec 1) (c : BitVec 1)
  /-- TZERO (R233): Zeroes acc with a new mode and point, or zeroes a register. -/
  | tzero (b : BitVec 2) (r : BitVec 4) (f : BitVec 1) (c : BitVec 1)
  /-- TMMA (R227): Multiplies two tile registers and accumulates into acc at fixed widths. -/
  | tmma (r : BitVec 4) (q : BitVec 4) (l : BitVec 1) (k : BitVec 1) (j : BitVec 1)
  /-- TMOV (R233): Copies or transposes one tile register into another. -/
  | tmov (r : BitVec 4) (q : BitVec 4) (x : BitVec 1) (k : BitVec 1)
  /-- TCVT (R236): Converts a register's elements into another encoding. -/
  | tcvt (r : BitVec 4) (q : BitVec 4) (k : BitVec 1) (m : BitVec 2)
  /-- TEPI (R238): Scales acc cells, optionally applies ReLU and emits them rounded. -/
  | tepi (t : BitVec 4) (k : BitVec 1) (l : BitVec 1) (m : BitVec 2)
  /-- TQUANT (R239): Quantises a register into MX blocks and emits the scales. -/
  | tquant (r : BitVec 4) (q : BitVec 4) (k : BitVec 1)
  /-- TACC (R240): Adds incoming elements into successive acc cells. -/
  | tacc (t : BitVec 4) (c : BitVec 1)
  /-- CSC (R267): Centres, scales and converts each element. -/
  | csc (t : BitVec 4) (s : BitVec 4) (l : BitVec 1) (p : BitVec 3) (m : BitVec 2)
  /-- NORM (R268): Normalises a token's elements in a fixed rounding sequence. -/
  | norm (t : BitVec 4) (m : BitVec 2)
  /-- PERM (R269): Maps each index to its keyed shuffle position. -/
  | perm
  /-- VOTE (R378): Emits the first two agreeing copies of each record and reports disagreements. -/
  | vote (t : BitVec 4)
  /-- CKSUM (R381): Forwards records and emits their checksum, or combines two checksums. -/
  | cksum (t : BitVec 4) (b : BitVec 2) (c : BitVec 1) (e : BitVec 1)
  /-- CKCHK (R382): Compares result and input checksums, emitting CTRL or raising UNCORR. -/
  | ckchk (t : BitVec 4)
  /-- CAPQ (R394): Emits the live capacity counts seen by its tile. -/
  | capq
  /-- ILLEGAL_WORD (R26): A control word with an unassigned major opcode, selector or nonzero reserved field issues and raises ILLEGAL. -/
  | illegalWord (w : BitVec 32)
  /-- SYSREG_WRITE (R80): A permitted write to a system register with no behaviour of its own changes only its RW fields. -/
  | sysregWrite
  /-- STATUS_WRITE (R64): A write to STATUS sets IE and PIE, sets PPL only within the writer's level, and never changes PL. -/
  | statusWrite
  /-- MBOXOUT_WRITE (R88): A write to MBOXOUT checks the partition and injects one flit toward MBOXDEST without waiting. -/
  | mboxoutWrite
  /-- MBOXIN_READ (R90): A read of MBOXINn removes the oldest flit, waiting while the mailbox is empty. -/
  | mboxinRead
  /-- INJCTL_WRITE (R398): A write to INJCTL arms, replaces or discards the module's single error injection. -/
  | injctlWrite
  /-- TRIGGER_DELIVERY (R101): At an instruction boundary a pending trigger entry is delivered to its handler. -/
  | triggerDelivery
  /-- THREAD_PREEMPTION (R360): A pre-emption request stops a thread at its next instruction boundary. -/
  | threadPreemption
  /-- MBOX_FLIT_ARRIVAL (R89): A flit arrives at a mailbox and is appended or discarded with LOST counted. -/
  | mboxFlitArrival
  /-- DOORBELL_FLIT (R408): A 64-bit host write to a function's doorbell FLIT sends a flit to DEST or is discarded and counted. -/
  | doorbellFlit
  /-- ARBITER_CYCLE (R108): Each arbiter cycle admits at most one eligible claim, counting bypasses or requesting compaction. -/
  | arbiterCycle
  /-- NITINOL_MOVE (R110): Nitinol pre-empts, copies and rebinds a movable region to clear room for a blocked claim. -/
  | nitinolMove
  /-- QUEUE_ARRIVAL (R143): A token arrives at a queue and is enqueued or handled by the queue's trigger and policy. -/
  | queueArrival
  /-- INGRESS_ADMIT (R170): An ingress port admits its next token when every credit point allows it, ending with END. -/
  | ingressAdmit
  /-- EGRESS_TOKEN (R118): An egress port handles an arriving token by its kind, writing, skipping or poisoning positions. -/
  | egressToken
  /-- PERIOD_COMPLETION (R120): When every sink has reported, shadows are published and the completion word is release-stored. -/
  | periodCompletion
  /-- DRAINED_EVENT (R121): The region becomes DRAINED when the quiescence tree reports it quiescent and DRAIN reached every sink. -/
  | drainedEvent
  /-- TEARDOWN_PERIOD_START (R122): A teardown swap's new period begins once the old completion is written and all slots are loaded. -/
  | teardownPeriodStart
  /-- HANG_SWEEP (R178): After 2^20 idle cycles the region controller sweeps and reports blocked nodes. -/
  | hangSweep
  /-- FAULT_RECORD_DEFERRED (R349): A waiting record of a parked node, halted chain or PRI exchange is written once the queue has room. -/
  | faultRecordDeferred
  /-- ATS_TRANSLATION_COMPLETION (R338): An ATS Translation completion lets the host-tier access proceed, parks it or sends a Page Request. -/
  | atsTranslationCompletion
  /-- PRG_RESPONSE (R338): A PRG Response from the host writes a response record or ends the thread's wait. -/
  | prgResponse
  /-- ATS_INVALIDATE_REQUEST (R339): The host's ATS Invalidate Request removes ATC entries in its range. -/
  | atsInvalidateRequest
  /-- ATS_INVALIDATE_COMPLETION (R339): The Invalidate Completion is sent once every access using the removed entries has completed. -/
  | atsInvalidateCompletion
  /-- NODE_MARK_SAVE (R356): A node whose slots all hold MARK saves its state and emits MARK on its outputs. -/
  | nodeMarkSave
  /-- MARKER_PASSAGE_COMPLETE (R356): When every node has saved, engine commands stop, the region section is written and the region is SAVED. -/
  | markerPassageComplete
  /-- MARKER_TIMEOUT (R355): Passage not complete 16,384 cycles after RMARK evicts the region. -/
  | markerTimeout
  /-- NOP (R301): A chain entry that does nothing and may close a batch. -/
  | nop
  /-- COPY (R308): A chain entry copying LEN bytes sector by sector, optionally to scratchpad or a shadow. -/
  | copy
  /-- WLOAD (R309): A chain entry loading bytes into an unbound weight-store segment. -/
  | wload
  /-- GATHER (R310): A chain entry writing rows selected by an index array. -/
  | gather
  /-- ALLRED (R311): A collective entry writing the fixed-order reduction of all participants' sources to each. -/
  | allred
  /-- REDSCAT (R311): A collective entry writing the reduced chunks that belong to this rank. -/
  | redscat
  /-- ALLGATH (R311): A collective entry concatenating every participant's source, rank 0 first. -/
  | allgath
  /-- ENGINE_SECTOR (R306): An engine transfers one 64-byte sector of an entry and advances PROGRESS. -/
  | engineSector
  /-- BATCH_COMPLETION (R302): When all entries of a batch complete, DONEPTR is written and SEQ release-stored. -/
  | batchCompletion
  /-- COMMAND_PORT_RECEIVE (R319): An engine command port receives a command from an ECMD egress and starts it. -/
  | commandPortReceive
  /-- SCRUB_ROW (R373): The scrubber reads a bank row in an idle cycle, correcting, counting or poisoning. -/
  | scrubRow
  /-- ERROR_WINDOW_BOUNDARY (R374): At each ERRWINDOW boundary every corrected-error counter returns to zero. -/
  | errorWindowBoundary
  /-- EVACUATION_ROW_COPY (R389): In each bank cycle an evacuation copies one row and flips the map after the last. -/
  | evacuationRowCopy
  /-- INVAR_RELAUNCH_RETRY (R397): A saved Invar region retries placement each time a page of its cluster is freed or moved. -/
  | invarRelaunchRetry
  /-- LINK_CRC_RETRANSMIT (R375): A flit that fails its CRC is resent and counted against its lane. -/
  | linkCrcRetransmit
  /-- REFRESH_WINDOW_START (R273): A weight-store refresh window begins every 72,000 reference cycles, holding WLD reads. -/
  | refreshWindowStart
  /-- REFRESH_WINDOW_END (R273): A refresh window ends after 1125 reference cycles and waiting WLD reads proceed. -/
  | refreshWindowEnd
  /-- THERMAL_SAMPLE (R401): Each millisecond Cobalt reads sensors and power and writes WIDTHCAP and POWERBUDGET per band. -/
  | thermalSample
  /-- THERMAL_TRIP (R402): A sensor at 115 C stops every clock and puts the module in reset after logging. -/
  | thermalTrip
  /-- RAIL_UNDERVOLTAGE (R400): A rail below its minimum holds the AE40 in module reset. -/
  | railUndervoltage
  /-- RAIL_RECOVERY (R400): After every rail has been within limits for 10 ms the module leaves reset. -/
  | railRecovery
  /-- MODULE_RESET (R406): Module reset empties threads, restores bank maps and runs Cobalt's bring-up sequence. -/
  | moduleReset
  /-- IDENT (R403): Cobalt returns the module's identity record. -/
  | ident
  /-- ATTEST (R403): Cobalt returns an SM2 signature over a nonce, firmware hash and capacity registers. -/
  | attest
  /-- LOGREAD (R405): Cobalt returns one error log record. -/
  | logread
  /-- UPDATE (R404): Cobalt writes a signed firmware image to the inactive slot. -/
  | update
  /-- START (R406): Cobalt starts thread 0 at host level with the given PC and PTBASE. -/
  | start
  /-- SETMOD (R407): Cobalt sets the module number used by ring descriptors. -/
  | setmod
  /-- RESET (R403): Cobalt performs a module reset. -/
  | reset
  /-- TMMA_COMPLETION (R226): A TMMA finishes after its cycle count, updates acc and emits its completion token. -/
  | tmmaCompletion
  /-- WFE_SPURIOUS_END (R96): The AE40 ends a WFE wait with none of its listed events and the PC advances. -/
  | wfeSpuriousEnd
  /-- L2_EVICTION (R271): An L2 slice evicts a line, merging its dirty bytes into the home and marking dirty granules. -/
  | l2Eviction
  /-- TRANSLATION_ENTRY_DROP (R325): The AE40 drops a translation-cache entry at a time of its own choosing. -/
  | translationEntryDrop
  /-- MEMORY_ACCESS_PERFORMED (R277): An access issued by a fabric memory node performs at its scope, returning load data and releasing its ORDER token. -/
  | memoryAccessPerformed
  /-- MATRIX_OP_COMPLETION (R233): A multi-cycle matrix operation other than TMMA completes, updating tags and emitting its completion token. -/
  | matrixOpCompletion
  /-- SOLWEN_LINK_FLIT (R311): A flit from a peer module arrives intact on a Solwen Link port and carries collective data to the engine. -/
  | solwenLinkFlit
  /-- PRI_CAPABILITY_ENABLE (R338): The host clears and enables a function's PRI capability again, allowing Page Requests after a Response Failure. -/
  | priCapabilityEnable
  /-- DISCARDS_WRITE (R408): A host write of any value to a doorbell's DISCARDS field sets it to zero. -/
  | discardsWrite
  /-- BAR0_ACCESS (R406): The host reads or writes the GDDR 7 tier through BAR0 of the physical function. -/
  | bar0Access
  /-- UNASSIGNED_COBALT_OPCODE (R403): A Cobalt command with an unassigned opcode is answered BADCMD and has no effect. -/
  | unassignedCobaltOpcode
  /-- COBALT_COMMAND_DONE (R403): A running Cobalt command finishes and returns its status and result, ending the BUSY period. -/
  | cobaltCommandDone
  deriving DecidableEq, Repr

end Sys2Proof
end

