-- ==== Sys2Proof/Machine/State.lean ====
section
/-! DEFINITION. The state of one AE40 module as plain data: the control threads, the clusters with their
caches and tiles, the regions, the engines' chains, the module's own registers, memory, and the agenda
that says what moves next. -/

namespace Sys2Proof.Machine

/-! ## Events and the agenda -/

/-- A unit with a bank map of its own (Table 13.5): the kind, then the cluster (for the LLC the die) and
the unit's number in it (tile, quad, page or quarter). -/
inductive BankUnit where
  | scratch (c : BitVec 5) (t : BitVec 8)
  | treg (c : BitVec 5) (t : BitVec 8)
  | quad (c : BitVec 5) (q : BitVec 6)
  | l2 (c : BitVec 5) (p : BitVec 4)
  | weight (c : BitVec 5) (q : BitVec 2)
  | llc (d : BitVec 2)
  deriving DecidableEq, Repr

/-- Where an event happens and what it brings.  Each event's meaning says which fields it reads. -/
structure Event where
  n : BitVec 9 := 0        -- a thread, or the thread that owns a region or chain
  c : BitVec 5 := 0        -- a cluster, an engine, a link
  t : BitVec 8 := 0        -- a tile of a region, 16 * y + x
  s : BitVec 3 := 0        -- a node slot or a lane
  k : Nat := 0             -- a position in one of the state's lists
  f : BitVec 6 := 0        -- a PCI Express function
  v : Word := 0            -- a value
  w : Word := 0            -- a second value
  x : BitVec 2048 := 0     -- a flit's bytes
  u : BankUnit := .llc 0   -- a banked unit
  temp : Int := 0          -- degrees Celsius
  deriving DecidableEq, Repr

/-- What moves. -/
inductive Move where
  | core (k : BitVec 7)                       -- a control core, 4 * cluster + core, issues (R66)
  | tile (n : BitVec 9) (t : BitVec 8)        -- a tile of thread n's region fires a node (R129)
  | counter (n : BitVec 9) (t : BitVec 8) (s : BitVec 3)  -- a CHAIN or SOURCE emits (R129, R158, R161)
  | event (i : Instr) (e : Event)             -- a step that has no word
  | dropL1 (k : BitVec 7) (line : Nat)        -- a core loses its copy of a data line (R285)
  | look (n : BitVec 9)                       -- a thread that waits in a word looks at it again (R65)
  | dropInst (k : BitVec 7) (line : Nat)      -- a core loses its copy of an instruction line (R68)
  | dropQuad (c : BitVec 5) (q : BitVec 6) (line : Nat)   -- a quad cache loses a line (R270)
  deriving DecidableEq, Repr

/-- One entry of the agenda: the cycles that pass first, then what moves. -/
structure Turn where
  delay : Nat := 1
  move : Move
  deriving DecidableEq, Repr

/-- A node slot: the thread that owns its region, the tile in the region (16 * y + x), the slot. -/
structure NodeRef where
  owner : BitVec 9 := 0
  tile : BitVec 8 := 0
  slot : BitVec 3 := 0
  deriving DecidableEq, Repr

/-! ## Memory and caches -/

/-- Memory as a list of (address, byte) pairs, addresses rising, no byte equal to the unlisted one. -/
abbrev Memory := List Host.Cell

/-- A cached line of 64 bytes (R17, R270): which bytes it holds, which are dirty, which of its eight
64-bit words are poisoned (R372), and the dirty bitmaps (base and granule) of the spaces whose stores it
holds, to be marked again when the bytes reach the home (R334). -/
structure Line where
  data : BitVec 512 := 0
  valid : BitVec 64 := 0
  dirty : BitVec 64 := 0
  poison : BitVec 8 := 0
  marks : List (Nat × Nat) := []
  deriving DecidableEq, Repr

/-- The kinds of access a translation is asked for (R331). -/
inductive Access where | read | write | fetch
  deriving DecidableEq, Repr

/-- Where a translation leads: a device physical address, or a host address under a PASID. -/
inductive Target where
  | device (pa : Nat)
  | host (fn : BitVec 6) (pasid : BitVec 20) (ha : Nat)
  deriving DecidableEq, Repr

/-- One translation-cache entry (R325, R331). -/
structure TlbEntry where
  space : BitVec 12
  gen : BitVec 4
  base : Nat          -- virtual base of the page
  size : Nat          -- 64 KiB, 2 MiB or 1 GiB
  target : Target     -- of the page's first byte
  user : Bool
  write : Bool
  dirtied : Bool      -- formed by a write, so D is set (R331)
  desc : Option Nat   -- the physical address of the buffer descriptor of a buffer leaf
  shadow : Bool       -- leads to the shadow backing (R315)
  deriving DecidableEq, Repr

/-- One ATC entry (R337). -/
structure AtcEntry where
  fn : BitVec 6
  pasid : BitVec 20
  page : Nat          -- first host byte
  size : Nat
  rd : Bool
  wr : Bool
  deriving DecidableEq, Repr

/-- Who waits for a host page: a thread, a thread's cache maintenance (R291), a node, an entry or a command of an
engine, a port, a thread's oldest fault record (R348), or a completion word of its region (R120). -/
inductive Waiter where
  | maint (n : BitVec 9)
  | thread (n : BitVec 9)
  | node (r : NodeRef)
  | job (n : BitVec 9) (e : BitVec 5) (a : Word)
  | command (n : BitVec 9) (t : BitVec 8) (s : BitVec 3) (i : Nat)
  | port (n : BitVec 9) (p : BitVec 14) (inward : Bool)
  | record (n : BitVec 9)
  | word (n : BitVec 9)
  | area (n : BitVec 9)
  deriving DecidableEq, Repr

/-- An access that waits for a host page: who, the virtual address it met, the host address, its kind. -/
structure HostWaiter where
  who : Waiter
  va : Word
  ha : Nat
  write : Bool
  deriving DecidableEq, Repr

/-- An ATS Translation Request (for the 64 KiB of host pages at `page`) or a Page Request in flight
(R337, R338). -/
structure HostReq where
  fn : BitVec 6
  pasid : BitVec 20
  page : Nat
  write : Bool
  waiters : List HostWaiter
  group : Nat := 0    -- what the choice of a Page Request's group index is asked with
  sent : Bool := true -- a Page Request beyond the 512 that may be outstanding is not sent yet (Table 11.8)
  deriving DecidableEq, Repr

/-- An invalidation whose Completion has not been sent (R339). -/
structure Inval where
  fn : BitVec 6
  pasid : BitVec 20
  lo : Nat
  hi : Nat
  stamp : Nat         -- the tick of its request
  deriving DecidableEq, Repr

/-- Generation and SPGEN count of a space (R325, R352). -/
structure SpaceGen where
  gen : BitVec 4 := 0
  count : Nat := 0
  deriving DecidableEq, Repr

/-! ## Banks -/

/-- An evacuation in progress (R389, R390): the logical bank, its destination, the row cursor, the bank
rows come from, and the rows (below the limit named) that earlier interrupted copies hold. -/
structure Evac where
  logical : Nat
  dest : Nat
  cursor : Nat := 0
  main : Nat
  parts : List (Nat × Nat) := []   -- (bank, limit): a row below the limit comes from the bank
  deriving DecidableEq, Repr

/-- The bank map of one unit (R387): logical to physical, the live count, error counters, the retirements
decided and not begun, the evacuation in progress, and retired banks still read. -/
structure BankSet where
  map : List Nat
  live : Nat
  errs : Tab Nat := []
  retired : List Nat := []
  waiting : List Nat := []         -- physical banks whose evacuation has not begun
  held : List Nat := []            -- physical banks kept readable until the region is saved (R388)
  evac : Option Evac := none
  deriving DecidableEq, Repr

/-- The storage of one tile that outlives a region (Table 1.2, R214, R218). -/
structure TileMem where
  scr : Memory := []               -- scratchpad, byte at 8192 * physical bank + offset
  scrPoison : List Nat := []       -- poisoned 64-bit words
  scrBanks : BankSet := { map := List.range 16, live := 16 }
  treg : Tab (BitVec 32768) := []  -- by physical bank
  tregPoison : List Nat := []      -- poisoned words, 512 * physical bank + word
  tregBanks : BankSet := { map := List.range 16, live := 16 }
  acc : BitVec 65536 := 0          -- cell k in bits [64k + 63 : 64k]
  accPoison : List Nat := []       -- poisoned cells
  deriving DecidableEq, Repr

/-- The weight-store segment of a quarter (R272). -/
structure Segment where
  bytes : Memory := []
  poison : List Nat := []
  banks : BankSet := { map := List.range 32, live := 32 }
  deriving DecidableEq, Repr

/-- One entry of a page's range scoreboard (R313). -/
structure Score where
  page : BitVec 4
  tile : BitVec 8
  lo : Nat
  hi : Nat
  owner : BitVec 9
  engine : BitVec 5
  entry : Word
  deriving DecidableEq, Repr

/-! ## Clusters -/

/-- The state of one cluster. -/
structure Cluster where
  ceil : BitVec 4 := 15            -- ARBRANK.CEIL (Table 4.3)
  bound : BitVec 8 := 8            -- BYPASSBOUND.BOUND (Table 4.4)
  cap : BitVec 11 := 0             -- WIDTHCAP.CAP (Table 4.5)
  budget : BitVec 8 := 255         -- POWERBUDGET.BUDGET (Table 4.6)
  used : BitVec 8 := 0             -- POWERBUDGET.USED
  lost4 : Nat := 0                 -- quarter cycles lost to throttling (R14, R223)
  band : BitVec 2 := 0             -- thermal band (R401)
  l2 : Tab Line := []
  l1 : Tab (Tab Line) := []        -- by core
  inst : Tab (Tab Line) := []      -- instruction caches, by core
  quad : Tab (Tab Line) := []      -- by quad, 8 * (y / 2) + x / 2
  turn : Tab Nat := []             -- by core: the context that issued last (R66)
  issued : Tab Nat := []           -- by core: one more than the clock cycle of its last issue (R66)
  tiles : Tab TileMem := []        -- by tile, 16 * y + x
  quarters : Tab Segment := []
  l2Banks : Tab BankSet := []      -- by page
  quadBanks : Tab BankSet := []
  score : List Score := []
  refNext : Nat := 0               -- the reference cycle at which a refresh window next starts or ends (R273)
  inWin : Bool := false
  deriving DecidableEq, Repr

/-! ## Tokens, queues and tiles of a region -/

/-- A token: payload and sideband (R45, Table 2.12). -/
structure Token where
  pay : BitVec 256 := 0
  side : BitVec 32 := 0
  deriving DecidableEq, Repr

/-- An entry of a queue: a data entry, or an entry of the control lane (R138), with its gap-before count,
compensated bit, sequence index and the cycle it arrived in. -/
structure Entry where
  tok : Token
  gap : Nat := 0
  comp : Bool := false
  idx : Nat := 0
  ctl : Bool := false
  arr : Nat := 0
  deriving DecidableEq, Repr

/-- A queue's pending gap (R135). -/
structure PGap where
  first : Nat
  last : Nat
  lost : Nat
  comp : Bool
  deriving DecidableEq, Repr

/-- A multi-token record that is still arriving (R147): what was decided at its FIRST token. -/
structure RecBuf where
  idx : Nat
  act : Bool                       -- the policy acts on the record
  lose : Option Bool := none       -- the record is lost, with this compensated flag
  cut : Bool := false              -- a later token found the queue full
  kept : Nat := 0                  -- tokens of the record that found room
  gap : Nat := 0                   -- its gap-before count and flag, closed at its FIRST token (R135)
  comp : Bool := false
  toks : List Token := []          -- tokens of the record so far, oldest first
  deriving DecidableEq, Repr

/-- One input queue (R37, R135, R138, R142). -/
structure Queue where
  items : List Entry := []
  pgap : Option PGap := none
  engaged : Bool := false
  buf : Option RecBuf := none
  seen : Nat := 0                  -- infinities merged into the tail record, by element: +∞ in 31..0, −∞ above (R204)
  deriving DecidableEq, Repr

/-- Where a CHAIN or SOURCE stands (R157, R158, R161). -/
structure ChainPos where
  iter : Nat := 0                  -- next iteration of the run
  run : Bool := false              -- a re-armed run is in progress
  base : Nat := 0                  -- the slot-A index of the run
  side : BitVec 32 := 0            -- sideband of the record that armed the run
  ready : Nat := 0                 -- earliest cycle of the next emission
  owed : Bool := false             -- a loop-carried iteration whose slot-B token is awaited
  ill : Nat := 0                   -- in an Electrum copy: iterations to come that are POISON (R377)
  ended : Bool := false
  stopped : Bool := false          -- MARK received (R357)
  deriving DecidableEq, Repr

/-- Shape, tag, cursor and NCUT of a tile register (R214). -/
structure TregMeta where
  shape : BitVec 32 := 0
  full : Bool := false
  cursor : Nat := 0
  ncut : Nat := 0
  deriving DecidableEq, Repr

/-- A matrix operation in progress (R225): its node, when it can complete, the registers and acc it
holds, its widths (R221), and rows done for the memory forms. -/
structure MatOp where
  slot : BitVec 3
  op : Instr
  go : Token
  idx : Nat
  due : Nat
  regs : List Nat := []
  acc : Bool := false
  wa : Nat := 0
  wb : Nat := 0
  capped : Bool := false
  rows : Nat := 0
  deriving DecidableEq, Repr

/-- A 32-byte access of a memory node in progress (R276 to R278). -/
structure MemAcc where
  slot : BitVec 3
  op : Instr
  store : Bool
  none : Bool := false             -- the firing made no access
  gapTok : Bool := false           -- the firing handled a GAP, which `out` holds
  where_ : BitVec 2 := 0           -- 0 memory, 1 scratchpad, 2 weight store
  target : Target := .device 0
  addr : Nat := 0                  -- scratchpad or weight-store byte address
  tile : Nat := 0                  -- scratchpad: tile of the region
  data : BitVec 256 := 0
  lanes : BitVec 8 := 0            -- lanes a store writes
  poison : Bool := false
  done : Bool := false
  wide : BitVec 2 := 0             -- where a load reads: 0 quad cache, 1 L2 slice, 2 home (R278)
  stamp : Nat := 0                 -- the tick it was issued in (R352)
  scope : BitVec 3 := 0
  order : Bool := false            -- an ORDER token is owed (R277)
  out : Token := {}                -- the sideband and, once performed, the payload to emit
  idx : Nat := 0
  deriving DecidableEq, Repr

/-- A parked node (R340): its slot, the address, the bytes done, and whether an eviction saved it. -/
structure Park where
  slot : BitVec 3
  addr : Word
  done : Nat := 0
  deriving DecidableEq, Repr

/-- A tile of a region. -/
structure RTile where
  queues : Tab Queue := []
  nstate : Tab (BitVec 512) := []
  sums : Tab (List Int) := []      -- by slot: a sum of WSUM or ACCUM beside its 64-bit lanes, exact (R167, R257)
  chain : Tab ChainPos := []
  win : Tab (List Nat) := []       -- three counts of WIN or VOTE, then VOTE's pending entries
  prog : Tab Nat := []             -- firings done of a multi-firing emission
  tmeta : Tab TregMeta := []
  prec : BitVec 32 := 0            -- precision word (Table 7.4)
  accFull : Bool := false
  accRec : BitVec 32 := 0          -- accumulator record (Table 7.3)
  accSeen : Nat := 0               -- infinities summed into acc, by cell: +∞ in 1023..0, −∞ above (R204)
  taccCur : Nat := 0
  mops : List MatOp := []
  accs : List MemAcc := []
  parked : List Park := []
  marked : List Nat := []          -- slots that have saved at MARK
  ended : List Nat := []           -- slots that have emitted END in this period
  drained : List Nat := []         -- slots that have forwarded DRAIN
  last : Nat := 7                  -- the slot that fired last (R129); slot 0 is scanned first before any has (DESIGN CHOICE, log 88)
  lastCycle : Option Nat := none
  illWords : List Nat := []        -- slots whose operation word or constant is poisoned (R373)
  illState : List Nat := []        -- poisoned 64-bit words of the node state, 8 * slot + word (R373)
  arrived : Tab Nat := []          -- by queue: the cycle after its last arrival (R128)
  deriving DecidableEq, Repr

/-- Where a token in flight is going. -/
inductive Dest where
  | queue (t : BitVec 8) (q : BitVec 5)
  | port (p : BitVec 14)
  deriving DecidableEq, Repr

/-- A token between its producer and a queue or a port (R128). -/
structure Flight where
  dest : Dest
  tok : Token
  idx : Nat
  due : Nat
  deriving DecidableEq, Repr

/-- What a port binding is (R364's kinds). -/
inductive PortKind where | ingress | egress | bridgeIn | bridgeOut | command
  deriving DecidableEq, Repr

/-- Do tokens enter the region by the port?  An ingress and an egress port may have the same identifier. -/
def PortKind.inward : PortKind → Bool
  | .ingress | .bridgeIn => true
  | _ => false

/-- A port binding with the port's progress in the period (R115 to R119, R170, R384). -/
structure Port where
  id : BitVec 14
  kind : PortKind
  num : Nat                        -- table index, bridge number or engine
  snap : BitVec 512 := 0           -- descriptor snapshot (R119)
  next : Nat := 0                  -- next token index read or position written
  taken : Nat := 0                 -- ingress: tokens admitted in this attempt, replayed ones among them
  endSent : Bool := false          -- ingress: END emitted; egress: END seen
  endKept : Bool := false          -- ingress from a bridge: the END admitted in the period, which its replay gives again (R384)
  drainSent : Bool := false
  markSent : Bool := false
  buf : List Token := []           -- replay buffer, first token first (R384)
  freed : Bool := false            -- the replay buffer was freed (R320)
  mid : Bool := false              -- ingress: an sd record of a bridge is part-way admitted (R147)
  half : Option (Token × Nat) := none   -- a command port: the first half of a command, with its index
  deriving DecidableEq, Repr

/-- Are two bindings of the same port? -/
def Port.same (p q : Port) : Bool := p.id == q.id && p.kind.inward == q.kind.inward

/-! ## Engines -/

/-- What is captured for a region at RSTART or a chain at ENQ.open (R326, R298). -/
structure Capt where
  space : Word := 0
  ptbase : Word := 0
  dirtybase : Word := 0
  dirtygran : Word := 0
  partition : Word := 0
  pl : BitVec 2 := 0
  deriving DecidableEq, Repr

/-- The life of an entry or command. -/
inductive JobSt where
  | queued | running | done
  | faulted (cause : BitVec 8)
  deriving DecidableEq, Repr

/-- An entry of a chain (Table 10.3) or a command of a region (R318), with its progress in sectors. -/
structure Job where
  addr : Word := 0                 -- the entry's address; for a command 0
  raw : BitVec 512
  prog : Nat := 0
  st : JobSt := .queued
  engine : BitVec 5 := 0           -- commands
  port : BitVec 14 := 0            -- commands: the command port
  tile : BitVec 8 := 0             -- commands: the ECMD node
  slot : BitVec 3 := 0
  idx : Nat := 0                   -- commands: the aligned index
  order : Bool := false            -- commands: the ORDER token has been sent
  met : Word := 0                  -- commands: the address the fault that parked the port met (R342)
  deriving DecidableEq, Repr

/-- A status write of a chain that faulted and is owed (R306): where it goes, and WHERE and DONE of its record. -/
structure Owed where
  addr : Word
  size : Nat
  val : Nat
  place : Word
  done : Nat
  deriving DecidableEq, Repr

/-- A chain of a thread on an engine (R298, R299, Table 12.6). -/
structure Chain where
  header : Word
  cursor : Word
  last : Word := 0                 -- last entry enqueued, 0 when none
  enq : Nat := 0                   -- batches enqueued, counted from the header's SEQ at open
  seq : Nat := 0                   -- batches completed, likewise
  openb : Bool := false            -- an open batch is enqueued
  halted : Bool := false
  cause : BitVec 8 := 0
  capt : Capt := {}
  jobs : List Job := []            -- entries enqueued and not in a completed batch
  owed : List Owed := []           -- status writes that faulted (R306)
  deriving DecidableEq, Repr

/-! ## Regions -/

/-- A pending claim (R106, R108). -/
structure Claim where
  word : Word
  age : Nat                        -- the order in which claims entered PENDING
  bypass : Nat := 0
  deriving DecidableEq, Repr

/-- Why a marker is in passage (R355, R366, R395, R110). -/
inductive MarkFor where
  | rmark | ctxsave | overcap
  | weights                        -- the weight window has lost its banks: the region ends (R392)
  | move (origin : BitVec 4)
  deriving DecidableEq, Repr

/-- A marker in passage (R355). -/
structure Passage where
  num : BitVec 16
  start : Nat
  why : MarkFor
  deriving DecidableEq, Repr

/-- How an RMARK or CTXSAVE ended (R355). -/
inductive SavedHow where | marker | eviction
  deriving DecidableEq, Repr

/-- A sweep in progress (R179, R181): whether RSWEEP asked for it, the pages not yet examined, in stage order, and the blocked
nodes found with their slots. -/
structure Sweep where
  asked : Bool
  todo : List (BitVec 4)
  found : List ((BitVec 8 × Nat) × Nat) := []
  deriving DecidableEq, Repr

/-- The region of a thread (R104). -/
structure Region where
  st : BitVec 4 := 0               -- Table 4.1
  prev : BitVec 4 := 0
  how : SavedHow := .marker
  marker : BitVec 16 := 0
  claim : Word := 0
  origin : BitVec 4 := 0
  placed : Bool := true            -- false while a region CTXLOAD has loaded waits for pages (R367)
  legal : Bool := false            -- the loader has accepted the image (R6, R113)
  image : Nat := 0                 -- the image's bytes, byte k in bits [8k + 7 : 8k]
  newImage : Option Nat := none    -- a teardown swap's image (R122)
  ports : List Port := []
  tiles : Tab RTile := []
  flight : List Flight := []
  pos : Tab Nat := []              -- channel positions, by 16 * tile + 2 * slot + output (R170)
  flags : BitVec 16 := 0           -- RSTAT word 0 [31:16]
  ends : BitVec 32 := 0
  left : Nat := 0                  -- sinks not yet reported
  comp : Word := 0                 -- completion address
  last : Option Word := none       -- the last completion word (R120, R125)
  running : Bool := false          -- a period is in progress (R120)
  capt : Capt := {}
  seed : Word := 0
  epoch : Word := 0
  origs : Tab Word := []           -- ORIGIN snapshots by table index (R166)
  drainAsked : Bool := false
  mark : Option Passage := none
  replays : Nat := 0
  start : Nat := 0                 -- cycle of RSTART
  active : Nat := 0                -- cycle of the last activity (R178)
  sweep : Option Sweep := none     -- a sweep in progress
  cmds : List Job := []
  shadow : List (Nat × Nat × Nat) := []   -- shadow writes of the period: descriptor, address, bytes (R120, R317)
  cmdBufs : List Nat := []         -- the buffers the period's commands have written through shadows (R317)
  unread : List Nat := []          -- those a loaded section names whose descriptors could not be read yet
  published : Option Nat := none   -- the tick in which the period's buffers were published, while its end waits (R317)
  kept : Tab TileMem := []         -- while SAVED: the tiles' storage as saved, by logical bank (R365, R388, R395)
  inArea : Bool := false           -- while SAVED: the section stands in the area at CTXBASE (R355, R366)
  areaOwed : Bool := false         -- while SAVED: the section's write waits for a host page (R361, R351)
  retry : Bool := false            -- SAVED by an over-capacity fault and not yet placed again (R397)
  deriving DecidableEq, Repr

/-- A bridge between two regions (R119, R176). -/
structure Bridge where
  producer : Option (BitVec 9 × BitVec 14) := none
  consumer : Option (BitVec 9 × BitVec 14) := none
  buffer : Queue := {}
  live : Bool := false             -- the buffer is allocated (R320)
  deriving DecidableEq, Repr

/-! ## Threads -/

/-- A thread context's run state (R65, R95, R368). -/
inductive Run where
  | empty | ready | halted
  deriving DecidableEq, Repr

/-- A binding (R288). -/
structure Bind where
  obj : Word
  base : Word
  len : Word
  deriving DecidableEq, Repr

/-- What a thread waits in, and how the wait goes on. -/
inductive Wait where
  | none
  | reissue                        -- RWAIT, CWAIT, an empty mailbox: looked at again; a trigger may end it (R97)
  | again                          -- the word goes on when it is looked at; nothing ends the wait
  | inside                         -- RMARK or CTXSAVE has begun and is looked at again
  | drain (upto : Nat) (detail : BitVec 32)   -- TLBINV, SPGEN, PUB: waits for accesses issued before a tick (R316, R352)
  | busy                           -- a host page: an event wakes the thread (R351)
  | fetch                          -- a host page of the next word: an event wakes the thread
  | wfe
  | claim (d : BitVec 5)           -- RCLAIM waits for admission; a trigger may end it (R124)
  | ticket (excl : Bool) (obj : Word) (t : BitVec 32)   -- ACQX or ACQS waits at a sync object (R290)
  deriving DecidableEq, Repr

/-- A fault record (Table 11.13), with whether it is an event on entry 14. -/
structure FaultRec where
  addr : Word := 0
  place : Word := 0
  done : Word := 0
  cause : BitVec 8
  flags : BitVec 8 := 0
  space : BitVec 16 := 0
  owner : BitVec 16 := 0
  detail : BitVec 16 := 0
  event : Bool := true
  keep : Bool := false             -- waits for room (R349)
  deriving DecidableEq, Repr

/-- A completion word whose store waits for a host page (R120): the captured credentials, address, word and origin tile. -/
structure WordStore where
  capt : Capt
  va : Word
  val : Word
  place : BitVec 32
  deriving DecidableEq, Repr

/-- One control thread's context (Table 3.1). -/
structure Thread where
  run : Run := .empty
  wait : Wait := .none
  g : Vector Word 32 := Vector.replicate 32 0
  pc : Word := 0
  status : Word := 2
  fpctl : Word := 0
  trapvec : Word := 0
  trappc : Word := 0
  trapcause : Word := 0
  trapinfo : Word := 0
  trapsave : Word := 0
  space : Word := 0                -- GEN is read from the space table
  ptbase : Word := 0
  dirtybase : Word := 0
  dirtygran : Word := 16
  partition : Word := 0
  faultqbase : Word := 0
  faultqhead : Word := 0
  faultqtail : Word := 0
  mboxdest : Word := 0
  mbox : Vector (List Word) 4 := Vector.replicate 4 []
  lost : Vector (BitVec 8) 4 := Vector.replicate 4 0
  ctxbase : Word := 0
  seed : Word := 0
  epoch : Word := 0
  trig : Vector Word 16 := Vector.replicate 16 0
  binds : List Bind := []
  held : List (Word × Bool) := []  -- object, exclusive
  tensors : Tab (BitVec 512) := []
  claim : Option Claim := none
  chains : Tab Chain := []         -- by engine
  region : Region := {}
  records : List FaultRec := []    -- records waiting for room (R349)
  stores : List WordStore := []    -- completion words whose stores wait for a host page (R120)
  saver : Option (BitVec 9) := none     -- the thread whose CTXSAVE of this context has been accepted (R366)
  stopped : Bool := false          -- stopped at a boundary for that save (R360)
  frozen : Bool := false           -- its chains have stopped at sector boundaries for that save (R366)
  word : Option (BitVec 32) := none     -- the model's own: the word issued last, which a word that goes on is taken from
  deriving DecidableEq, Repr

/-- A flit toward a mailbox (R88, R408): its sender (512 + FN for a doorbell), its destination. -/
structure MboxFlit where
  src : Nat
  dest : BitVec 9
  box : BitVec 2
  val : Word
  deriving DecidableEq, Repr

/-! ## What a save keeps beside the area (log 28) -/

/-- A region as a save took it: the section's bytes from the image copy on, its port and command records, the region, and the
bridge buffers it consumes from, by port. -/
structure SavedRegion where
  key : Nat
  ports : List Nat := []
  cmds : List Nat := []
  region : Region
  buffers : Tab Queue := []
  deriving DecidableEq, Repr

/-- A chain as a save took it: its record, the thread's registers and `PC` beside it, and the chain. -/
structure SavedChain where
  key : Nat
  words : Nat
  chain : Chain
  deriving DecidableEq, Repr

/-! ## The module -/

/-- A doorbell (Table 14.5). -/
structure Doorbell where
  dest : BitVec 11 := 0
  discards : BitVec 32 := 0
  deriving DecidableEq, Repr

/-- An error log record (Table 14.4). -/
structure LogRec where
  time : Nat
  kind : BitVec 8
  struct : BitVec 8
  loc : Word
  index : Nat
  deriving DecidableEq, Repr

/-- A Cobalt command running, or the answer to the last one (R403): status, result as bytes. -/
structure CobAnswer where
  op : BitVec 8
  status : Word
  result : Nat := 0
  deriving DecidableEq, Repr

/-- A piece of a peer's source received on a Solwen Link port (R311), of the checksums that go with it, or of what the peer runs:
its entry's 64 bytes, then its ring descriptor. -/
structure Piece where
  modNo : BitVec 16
  engine : BitVec 5
  offset : Nat
  data : BitVec 2048
  sum : Bool := false              -- the checksum of the chunk at the offset: X, then Y (R380)
  entry : Bool := false            -- the entry and ring descriptor the peer runs
  deriving DecidableEq, Repr

/-- A firmware slot: the digest of its image. -/
structure Slot where
  digest : BitVec 64 := 0
  deriving DecidableEq, Repr

/-- The module's own state. -/
structure Module where
  errwindow : Word := 1000000
  errthresh : Word := 4
  winNow : Nat := 1000000          -- the values in force (R374)
  thrNow : Nat := 4
  winStart : Nat := 0              -- microsecond at which the window began
  injaddr : Word := 0
  injctl : Word := 0
  injSeen : Nat := 0               -- flits seen since arming
  modNo : BitVec 16 := 0xFFFF
  laneErrs : Tab Nat := []         -- by 8 * link + lane; links 0-15 Solwen ports, 16-19 ring
  laneDead : List Nat := []
  llc : Tab BankSet := []
  log : List LogRec := []          -- newest first
  logNext : Nat := 0
  cobalt : Option CobAnswer := none     -- running command with the answer it will give
  answer : Option CobAnswer := none     -- the last answer
  slots : Tab Slot := []
  active : Nat := 0
  fresh : Option Nat := none       -- a slot written by UPDATE and not yet booted
  firmware : Bool := true          -- Cobalt runs an image that verified (R406)
  rails : List (BitVec 2) := []    -- rails outside their limits
  goodSince : Nat := 0             -- cycle since which every rail has been within limits
  held : Bool := false             -- the AE40 is held in module reset
  started : Bool := false          -- START has been executed
  power : Nat := 0                 -- package watts over the last millisecond
  pieces : List Piece := []
  deriving DecidableEq, Repr

/-- The whole machine. -/
structure State where
  agenda : List Turn := []
  cur : BitVec 9 := 0              -- the thread the running word acts for
  focus : NodeRef := {}            -- the node the running operation word acts for
  ev : Event := {}                 -- the running event's operands
  tick : Nat := 0                  -- counter for free values
  cycle : Nat := 0                 -- reference cycles since reset
  mem : Memory := []
  poison : List Nat := []          -- poisoned 64-bit words of memory
  spaces : Tab SpaceGen := []
  tlb : List TlbEntry := []
  atc : List AtcEntry := []
  ats : List HostReq := []         -- Translation Requests in flight
  pri : List HostReq := []         -- Page Requests in flight
  priOn : List (BitVec 6) := []    -- functions with PRI enabled
  priOff : List (BitVec 6) := []   -- functions that got a Response Failure
  invals : List Inval := []
  threads : Tab Thread := []
  clusters : Tab Cluster := []
  flits : List MboxFlit := []
  doorbells : Tab Doorbell := []
  bridges : Tab Bridge := []
  claims : Nat := 0                -- claims entered so far, for their age
  savedRegions : List SavedRegion := []   -- the model's own: what saved sections have no field for, newest first
  savedChains : List SavedChain := []     -- the same of saved chain records
  hostValue : BitVec 2048 := 0     -- what the host's last read through BAR0 returned
  module : Module := {}
  deriving DecidableEq, Repr

/-- Why a step can end without a next state.  No step of the AE40 stops the machine: a control word's
faults are traps, a node's park it or end its region, an engine's halt its chain.  The type has no
constructor, so no meaning can answer with a fault. -/
inductive Fault
  deriving DecidableEq, Repr

/-- Why a step is refused. -/
inductive Refusal where
  /-- The instruction has no meaning in the model yet; raised by `exec` alone; safe, the machine stops. -/
  | notModelled (mnemonic : String)
  deriving DecidableEq, Repr

/-- The outcome of a step. -/
abbrev Out := Host.Outcome State Fault Refusal

/-- The machine right after module reset (R406): every context empty except thread 0, which is halted;
every register at its reset value, or at the value log 2 or log 4 names. -/
def State.reset : State :=
  { threads := [(0, { run := .halted })] }

end Sys2Proof.Machine
end

