-- ==== Sys2Proof/Machine/Ops.lean ====
section
/-! DEFINITION. The named operations over threads, registers and plain memory, the trap sequence and the
return from it, and the events of the trigger table. -/

namespace Sys2Proof.Machine

/-! ## Numbers of things -/

/-- The cluster of a thread, 8 * die + cluster (R12). -/
def clusterOf (n : BitVec 9) : BitVec 5 := fld n 4 5

/-- The control core of a thread, 4 * cluster + core (R12). -/
def coreOf (n : BitVec 9) : BitVec 7 := fld n 2 7

/-- The thread form of the coordinate word (Table 1.3). -/
def threadCoord (n : BitVec 9) : BitVec 32 :=
  0#8 ++ 1#1 ++ fld n 7 2 ++ fld n 4 3 ++ (fld n 2 2 ++ fld n 0 2) ++ 0#4 ++ 0#3 ++ 0#7

/-- The fabric form of the coordinate word (Table 1.3): cluster 8 * die + cluster, tile 16 * y + x. -/
def fabricCoord (stage : BitVec 8) (c : BitVec 5) (t : BitVec 8) (slot : BitVec 3) : BitVec 32 :=
  stage ++ 0#1 ++ fld c 3 2 ++ fld c 0 3 ++ fld t 0 4 ++ fld t 4 4 ++ slot ++ 0#7

/-- Quadtree position of tile 16 * y + x (R11). -/
def quadPos (t : BitVec 8) : BitVec 8 :=
  let x := fld t 0 4; let y := fld t 4 4
  fld y 3 1 ++ fld x 3 1 ++ fld y 2 1 ++ fld x 2 1 ++ fld y 1 1 ++ fld x 1 1 ++ fld y 0 1 ++ fld x 0 1

/-- Page number of tile 16 * y + x (R11). -/
def pageOf (t : BitVec 8) : BitVec 4 := fld t 6 2 ++ fld t 2 2

/-- Quarter number of tile 16 * y + x (R11). -/
def quarterOf (t : BitVec 8) : BitVec 2 := fld t 7 1 ++ fld t 3 1

/-- Quad number of tile 16 * y + x: 8 * (y / 2) + x / 2. -/
def quadOf (t : BitVec 8) : BitVec 6 := fld t 5 3 ++ fld t 1 3

/-! ## Threads and clusters -/

/-- The context of thread n. -/
def State.thr (s : State) (n : BitVec 9) : Thread := Tab.get {} s.threads n.toNat

/-- Write the context of thread n. -/
def State.setThr (s : State) (n : BitVec 9) (t : Thread) : State :=
  { s with threads := Tab.set s.threads n.toNat t }

/-- Change the context of thread n. -/
def State.modThr (s : State) (n : BitVec 9) (f : Thread → Thread) : State := s.setThr n (f (s.thr n))

/-- The thread the running word acts for. -/
def State.me (s : State) : Thread := s.thr s.cur

/-- Change the running thread's context. -/
def State.modMe (s : State) (f : Thread → Thread) : State := s.modThr s.cur f

/-- The state of cluster c. -/
def State.clu (s : State) (c : BitVec 5) : Cluster := Tab.get {} s.clusters c.toNat

/-- Change cluster c. -/
def State.modClu (s : State) (c : BitVec 5) (f : Cluster → Cluster) : State :=
  { s with clusters := Tab.set s.clusters c.toNat (f (s.clu c)) }

/-- The clock of a cluster, in its own cycles: reference cycles less those lost to throttling (R14, R223). -/
def State.cycleOf (s : State) (c : BitVec 5) : Nat := (4 * s.cycle - (s.clu c).lost4) / 4

/-- The clock by which the core, the tiles and the switches of thread n's cluster run (R14). -/
def State.now (s : State) (n : BitVec 9) : Nat := s.cycleOf (clusterOf n)

/-- The region of thread n. -/
def State.reg (s : State) (n : BitVec 9) : Region := (s.thr n).region

/-- Change the region of thread n. -/
def State.modReg (s : State) (n : BitVec 9) (f : Region → Region) : State :=
  s.modThr n (fun t => { t with region := f t.region })

/-! ## General registers and the program counter -/

/-- Read a general register: `g0` reads zero (R61). -/
def Thread.rd (t : Thread) (r : BitVec 5) : Word := if r = 0 then 0 else t.g[r.toNat]

/-- Write a general register: a write to `g0` is discarded (R61). -/
def Thread.wr (t : Thread) (r : BitVec 5) (v : Word) : Thread :=
  if r = 0 then t else { t with g := t.g.set r.toNat v }

/-- Read a register of the running thread. -/
def State.rd (s : State) (r : BitVec 5) : Word := s.me.rd r

/-- The running thread's program counter. -/
def State.pc (s : State) : Word := s.me.pc

/-- Write register d and go on with the next word (R67). -/
def State.put (s : State) (d : BitVec 5) (v : Word) : State :=
  s.modMe (fun t => { t.wr d v with pc := t.pc + 4 })

/-- Go on with the next word. -/
def State.advance (s : State) : State := s.modMe (fun t => { t with pc := t.pc + 4 })

/-- The running thread waits at this word, which issues again. -/
def State.stay (s : State) (w : Wait) : State := s.modMe (fun t => { t with wait := w })

/-! ## STATUS (Table 3.3) -/

/-- Current privilege level. -/
def Thread.pl (t : Thread) : BitVec 2 := fld t.status 0 2
/-- Privilege level before the last trap or trigger. -/
def Thread.ppl (t : Thread) : BitVec 2 := fld t.status 2 2
/-- Trigger enable. -/
def Thread.ie (t : Thread) : BitVec 1 := fld t.status 4 1
/-- Trigger enable before the last trap or trigger. -/
def Thread.pie (t : Thread) : BitVec 1 := fld t.status 5 1

/-- A STATUS word from its fields; bits [63:6] are reserved and zero. -/
def mkStatus (pie ie : BitVec 1) (ppl pl : BitVec 2) : Word := 0#58 ++ pie ++ ie ++ ppl ++ pl

/-! ## Trap causes (Table 12.3) -/

/-- ILLEGAL. -/
abbrev cILLEGAL : BitVec 8 := 0x01#8
/-- PRIV. -/
abbrev cPRIV : BitVec 8 := 0x02#8
/-- ALIGN. -/
abbrev cALIGN : BitVec 8 := 0x03#8
/-- PAGE. -/
abbrev cPAGE : BitVec 8 := 0x04#8
/-- ACCESS. -/
abbrev cACCESS : BitVec 8 := 0x05#8
/-- OVERCAP. -/
abbrev cOVERCAP : BitVec 8 := 0x06#8
/-- OVERRUN. -/
abbrev cOVERRUN : BitVec 8 := 0x07#8
/-- IMAGE. -/
abbrev cIMAGE : BitVec 8 := 0x08#8
/-- UNCORR. -/
abbrev cUNCORR : BitVec 8 := 0x09#8
/-- KILLED. -/
abbrev cKILLED : BitVec 8 := 0x0A#8
/-- HANG. -/
abbrev cHANG : BitVec 8 := 0x0B#8
/-- TRIGGER. -/
abbrev cTRIGGER : BitVec 8 := 0x0C#8
/-- PREEMPT. -/
abbrev cPREEMPT : BitVec 8 := 0x0E#8
/-- ENGINE. -/
abbrev cENGINE : BitVec 8 := 0x0F#8
/-- TRAPINSN. -/
abbrev cTRAPINSN : BitVec 8 := 0x10#8
/-- ATS. -/
abbrev cATS : BitVec 8 := 0x11#8
/-- REPLAYLIMIT. -/
abbrev cREPLAYLIMIT : BitVec 8 := 0x12#8

/-! ## Taking a trap and returning from one -/

/-- The trap sequence of R353 on a thread, with the return address to save. -/
def Thread.trapTo (t : Thread) (cause : BitVec 8) (info ret : Word) : Thread :=
  { t with
    trappc := ret
    trapcause := zext cause 64
    trapinfo := info
    status := mkStatus t.ie 0 t.pl (if t.pl = 0 then 1 else t.pl)
    pc := zext (fld t.trapvec 2 46) 64 <<< 2 }

/-- `trap(cause, info)` raised by the running thread's word: TRAPPC is the word's own address (R353). -/
def State.trap (s : State) (cause : BitVec 8) (info : Word) : State :=
  s.modMe (fun t => t.trapTo cause info t.pc)

/-- The return of R94, its checks first. -/
def State.sysret (s : State) : State :=
  let t := s.me
  if t.ppl = 3 ∨ t.pl < t.ppl then s.trap cPRIV 0
  else if fld t.trappc 0 2 ≠ 0 then s.trap cALIGN t.trappc
  else s.modMe (fun t =>
    { t with
      trapcause := if t.ppl < t.pl then 0 else t.trapcause
      trapinfo := if t.ppl < t.pl then 0 else t.trapinfo
      status := mkStatus 1 t.pie 0 t.ppl
      pc := t.trappc })

/-! ## Trigger events (R98 to R102) -/

/-- PEND of a trigger entry (Table 3.7). -/
def trigPend (e : Word) : BitVec 8 := fld e 48 8
/-- V of a trigger entry. -/
def trigV (e : Word) : Bool := e.getLsbD 47

/-- A trigger entry with another PEND. -/
def trigWithPend (e : Word) (p : BitVec 8) : Word := fld e 56 8 ++ p ++ fld e 0 48

/-- An event arrives at a trigger entry (R100): PEND rises, or OVF is set at 255. -/
def trigEvent (e : Word) : Word :=
  if trigPend e = 255 then e ||| (1#64 <<< 46) else trigWithPend e (trigPend e + 1)

/-- A thread that waits in WFE goes on with the next word (R96). -/
def Thread.wake (t : Thread) : Thread :=
  if t.wait = .wfe then { t with wait := .none, pc := t.pc + 4 } else t

/-- An event on entry `i` of thread n (R99, R100); a rise of PEND ends a WFE (R96). -/
def State.event (s : State) (n : BitVec 9) (i : BitVec 4) : State :=
  s.modThr n (fun t =>
    let e := t.trig[i.toNat]
    let t' := { t with trig := t.trig.set i.toNat (trigEvent e) }
    if trigPend e = 255 then t' else t'.wake)

/-! ## Bytes of memory (R2) -/

/-- The byte at an address of a cell list. -/
def cellRead : Memory → Nat → Byte
  | [], _ => Config.unlistedByte
  | (a, b) :: r, k => if a = k then b else if k < a then Config.unlistedByte else cellRead r k

/-- Write one byte, keeping the canonical form: addresses rising, no unlisted value listed. -/
def cellWrite : Memory → Nat → Byte → Memory
  | [], k, v => if v = Config.unlistedByte then [] else [(k, v)]
  | (a, b) :: r, k, v =>
    if k < a then (if v = Config.unlistedByte then (a, b) :: r else (k, v) :: (a, b) :: r)
    else if k = a then (if v = Config.unlistedByte then r else (k, v) :: r)
    else (a, b) :: cellWrite r k v

/-- The canonical form: every entry above the bound, addresses rising, no unlisted value listed. -/
def cellsAbove : Option Nat → Memory → Bool
  | _, [] => true
  | lo, (a, b) :: r =>
    (match lo with | none => true | some l => decide (l < a)) && (b != Config.unlistedByte) && cellsAbove (some a) r

/-- Memory in canonical form. -/
def Memory.wf (m : Memory) : Bool := cellsAbove none m

/-- n bytes, the lowest address least significant (R2). -/
def readLE (m : Memory) (a : Nat) : Nat → Nat
  | 0 => 0
  | n + 1 => (cellRead m a).toNat + 256 * readLE m (a + 1) n

/-- Write the low n bytes of v, the least significant at the lowest address (R2). -/
def writeLE (m : Memory) (a : Nat) : Nat → Nat → Memory
  | 0, _ => m
  | n + 1, v => writeLE (cellWrite m a (BitVec.ofNat 8 v)) (a + 1) n (v / 256)

/-- Write those of n bytes whose mask bit is set. -/
def writeMasked (m : Memory) (a : Nat) : Nat → Nat → Nat → Memory
  | 0, _, _ => m
  | n + 1, v, k =>
    writeMasked (if k % 2 = 1 then cellWrite m a (BitVec.ofNat 8 v) else m) (a + 1) n (v / 256) (k / 2)

/-- Bytes [off, off + n) of a little-endian number. -/
def bytesOf (v off n : Nat) : Nat := (v >>> (8 * off)) % 2 ^ (8 * n)

/-- Is the word of a byte address in a list of poisoned words? -/
def isPoisoned (p : List Nat) (a : Nat) : Bool := p.contains (a / 8)

/-- Mark the 64-bit word of a byte address. -/
def markPoison (p : List Nat) (a : Nat) : List Nat := insertNat p (a / 8)

/-- Clear the marks of the words a write of [a, a + n) covers whole (R372). -/
def clearPoison (p : List Nat) (a n : Nat) : List Nat :=
  p.filter (fun w => !(decide (a ≤ 8 * w) && decide (8 * w + 8 ≤ a + n)))

end Sys2Proof.Machine
end

