-- ==== Sys2Proof/Machine/Mem.lean ====
section
/-! DEFINITION. The storage levels of R270: the home with its poison marks and the injector's hook, the L2
slices with dirty bytes, the L1, instruction and quad caches as copies, and the dirty bitmaps of R334. -/

namespace Sys2Proof.Machine

/-! ## Byte masks of a line -/

/-- The mask of bytes [off, off + n) of a line. -/
def byteMask (off n : Nat) : BitVec 64 := BitVec.ofNat 64 ((2 ^ n - 1) <<< off)

/-- Each of the low n bits of a byte mask widened to eight bits. -/
def spreadN : Nat → Nat → Nat
  | 0, _ => 0
  | n + 1, m => (if m % 2 = 1 then 255 else 0) + 256 * spreadN n (m / 2)

/-- A byte mask of a line as a bit mask. -/
def spread (m : BitVec 64) : BitVec 512 := BitVec.ofNat 512 (spreadN 64 m.toNat)

/-- The bytes of `new` where the mask is set, of `old` elsewhere. -/
def mergeLine (new old : BitVec 512) (m : BitVec 64) : BitVec 512 :=
  (new &&& spread m) ||| (old &&& ~~~spread m)

/-- For each of the low n 64-bit words, a bit that says whether f holds of its byte mask. -/
def wordsWhere (f : BitVec 8 → Bool) (m : BitVec 64) : BitVec 8 :=
  (List.range 8).foldl (fun r k => if f (fld m (8 * k) 8) then r ||| 1#8 <<< k else r) 0

/-- Words all of whose bytes are in the mask. -/
def fullWords (m : BitVec 64) : BitVec 8 := wordsWhere (· == 255) m

/-- Words with a byte in the mask. -/
def anyWords (m : BitVec 64) : BitVec 8 := wordsWhere (· != 0) m

/-! ## Time and the error log -/

/-- `TIME` in nanoseconds: 4/9 of a nanosecond for each reference cycle (R14, R84). -/
def State.time (s : State) : Nat := s.cycle * 4 / 9

/-- Cobalt writes an error record; the oldest of 65,536 is overwritten (R405). -/
def State.logErr (s : State) (kind struct : BitVec 8) (loc : Word) : State :=
  let m := s.module
  { s with module := { m with
      log := (LogRec.mk s.time kind struct loc m.logNext :: m.log).take 65536
      logNext := m.logNext + 1 } }

/-! ## The home -/

/-- The M-die that is the home of a tier offset (R17). -/
def homeDie (pa : Nat) : BitVec 2 := BitVec.ofNat 2 (pa / 2 ^ 8)

/-- The logical LLC bank of a tier offset in its M-die (R17). -/
def llcBank (pa : Nat) : Nat := pa / 2 ^ 10 % 256

/-- The bank map of an M-die's LLC. -/
def Module.llcSet (m : Module) (d : BitVec 2) : BankSet := Tab.get { map := List.range 256, live := 256 } m.llc d.toNat

/-- The M-die and the physical LLC bank that serve a tier offset; none where the M-die has no live bank left and serves the
line from memory (R17, R391). -/
def Module.llcPlace (m : Module) (pa : Nat) : BitVec 2 × Option Nat :=
  let b := m.llcSet (homeDie pa)
  (homeDie pa, if b.live = 0 then none else b.map[llcBank pa]?)

/-- The armed injection of a TARGET, if one is armed (Table 13.10). -/
def Module.armed (m : Module) (target : BitVec 2) : Bool :=
  m.injctl.getLsbD 63 && fld m.injctl 60 2 == target

/-- The injection is made: ARM clears and FIRED sets (R398). -/
def Module.fired (m : Module) : Module :=
  { m with injctl := (m.injctl &&& ~~~(1#64 <<< 63)) ||| 1#64 <<< 62 }

/-- The TARGET 0 injection meets a read of [pa, pa + n) at the home (R398).  A single-bit error is
corrected and logged, a double-bit error is logged and poisons the word, KIND 2 poisons it. -/
def State.injectHome (s : State) (pa n : Nat) : State :=
  let m := s.module
  let w := (fld m.injaddr 3 39).toNat
  if m.armed 0 ∧ pa / 8 ≤ w ∧ w ≤ (pa + n - 1) / 8 then
    let s1 := { s with module := m.fired }
    if fld m.injctl 58 2 = 0 then s1.logErr 0 6 (BitVec.ofNat 64 (8 * w))
    else
      let s2 := { s1 with poison := insertNat s1.poison w }
      if fld m.injctl 58 2 = 1 then s2.logErr 1 6 (BitVec.ofNat 64 (8 * w)) else s2
  else s

/-- Is a 64-bit word that [a, a + n) touches poisoned? -/
def poisonIn (p : List Nat) (a n : Nat) : Bool := p.any (fun w => decide (a / 8 ≤ w) && decide (w ≤ (a + n - 1) / 8))

/-- Read n bytes at the home: the value and whether a word touched is poisoned. -/
def State.homeRead (s : State) (pa n : Nat) : State × Nat × Bool :=
  let s := s.injectHome pa n
  (s, readLE s.mem pa n, poisonIn s.poison pa n)

/-- The poison marks after a write of [a, a + n): words covered whole take the writer's mark, words
touched in part keep theirs or take the writer's (R372). -/
def poisonWrite (p : List Nat) (a n : Nat) (bad : Bool) : List Nat :=
  let p := clearPoison p a n
  if bad then (List.range ((a + n - 1) / 8 + 1 - a / 8)).foldl (fun p k => insertNat p (a / 8 + k)) p else p

/-- Write n bytes at the home. -/
def State.homeWrite (s : State) (pa n v : Nat) (bad : Bool := false) : State :=
  { s with mem := writeLE s.mem pa n v, poison := poisonWrite s.poison pa n bad }

/-- A line as it stands at the home, whole. -/
def State.homeLine (s : State) (line : Nat) : State × Line :=
  let s := s.injectHome (64 * line) 64
  (s, { data := BitVec.ofNat 512 (readLE s.mem (64 * line) 64)
        valid := -1
        poison := (List.range 8).foldl
          (fun r k => if s.poison.contains (8 * line + k) then r ||| 1#8 <<< k else r) 0 })

/-- Set the bit of a granule in a dirty bitmap, at the bitmap's home (R334). -/
def State.markOne (s : State) (pa : Nat) (m : Nat × Nat) : State :=
  let n := pa / 2 ^ m.2
  let a := m.1 + 8 * (n / 64)
  { s with mem := writeLE s.mem a 8 (readLE s.mem a 8 ||| 2 ^ (n % 64)) }

/-- Mark a granule in each of several bitmaps. -/
def State.markAll (s : State) (pa : Nat) (ms : List (Nat × Nat)) : State :=
  ms.foldl (fun s m => s.markOne pa m) s

/-- Write the masked bytes of a line at the home, with its marks (R334, R372, R391). -/
def State.homeMerge (s : State) (line : Nat) (l : Line) (m : BitVec 64) : State :=
  let full := fullWords m
  let touched := anyWords m
  let p := (List.range 8).foldl (fun p k =>
    if touched.getLsbD k then
      (if l.poison.getLsbD k then insertNat p (8 * line + k)
       else if full.getLsbD k then p.filter (· != 8 * line + k) else p)
    else p) s.poison
  let s := { s with mem := writeMasked s.mem (64 * line) 64 l.data.toNat m.toNat, poison := p }
  if m = 0 then s else s.markAll (64 * line) l.marks

/-! ## L2 slices -/

/-- The page whose slice holds a line (R270). -/
def slicePage (line : Nat) : Nat := line / 16 % 16

/-- Live banks of a slice. -/
def Cluster.l2Live (c : Cluster) (page : Nat) : Nat :=
  (Tab.get { map := List.range 16, live := 16 } c.l2Banks page).live

/-- The line as a cluster's slice holds it; empty when it does not. -/
def State.l2Line (s : State) (c : BitVec 5) (line : Nat) : Line := Tab.get {} (s.clu c).l2 line

/-- Write a line of a slice; an empty line is not kept. -/
def State.setL2 (s : State) (c : BitVec 5) (line : Nat) (l : Line) : State :=
  s.modClu c (fun k => { k with l2 := if l.valid = 0 then Tab.del k.l2 line else Tab.set k.l2 line l })

/-- Fill the bytes a line lacks from the home's copy; a word not wholly held keeps the home's mark. -/
def Line.fillFrom (l h : Line) : Line :=
  { l with
    data := mergeLine l.data h.data l.valid
    valid := -1
    poison := l.poison ||| (h.poison &&& ~~~fullWords l.valid) }

/-- The whole line for a reader of the cluster, filled from the home; a slice with no live bank keeps
nothing (R391). -/
def State.l2Get (s : State) (c : BitVec 5) (line : Nat) : State × Line :=
  let l := s.l2Line c line
  if l.valid = -1 then (s, l)
  else
    let (s, h) := s.homeLine line
    let l' := l.fillFrom h
    if (s.clu c).l2Live (slicePage line) = 0 ∧ l.valid = 0 then (s, l') else (s.setL2 c line l', l')

/-- Write the dirty bytes of a line to the home; the line stays, clean (R271). -/
def State.writeBack (s : State) (c : BitVec 5) (line : Nat) : State :=
  let l := s.l2Line c line
  if l.dirty = 0 then s
  else (s.homeMerge line l l.dirty).setL2 c line { l with dirty := 0, marks := [] }

/-- Write back every dirty byte of a cluster's slices (R271, R286). -/
def State.writeBackAll (s : State) (c : BitVec 5) : State :=
  (s.clu c).l2.foldl (fun s p => s.writeBack c p.1) s

/-- Write back the dirty bytes of a line that lie in a mask. -/
def State.writeBackMask (s : State) (c : BitVec 5) (line : Nat) (m : BitVec 64) : State :=
  let l := s.l2Line c line
  let d := l.dirty &&& m
  if d = 0 then s else (s.homeMerge line l d).setL2 c line { l with dirty := l.dirty &&& ~~~d }

/-- Invalidate the clean bytes of a line in a slice. -/
def State.dropClean (s : State) (c : BitVec 5) (line : Nat) : State :=
  let l := s.l2Line c line
  if l.valid = 0 then s else s.setL2 c line { l with valid := l.valid &&& l.dirty }

/-- Invalidate the clean bytes of every slice of a cluster (R286). -/
def State.dropCleanAll (s : State) (c : BitVec 5) : State :=
  (s.clu c).l2.foldl (fun s p => s.dropClean c p.1) s

/-- The line with stored bytes: valid and dirty, a word written whole with the writer's poison mark, a
word written in part with its own or the writer's (R372). -/
def Line.store (l : Line) (new : BitVec 512) (m : BitVec 64) (bad : Bool) (marks : List (Nat × Nat)) : Line :=
  { data := mergeLine new l.data m
    valid := l.valid ||| m
    dirty := l.dirty ||| m
    poison := if bad then l.poison ||| anyWords m else l.poison &&& ~~~fullWords m
    marks := l.marks ++ marks.filter (fun k => !l.marks.contains k) }

/-- A store of masked bytes arrives in the L2 slice of its line, dirty, and marks its granules
(R270, R334); with no live bank, and no line of one still being emptied, it goes to the home (R391). -/
def State.l2Store (s : State) (c : BitVec 5) (line : Nat) (new : BitVec 512) (m : BitVec 64) (bad : Bool)
    (marks : List (Nat × Nat)) : State :=
  let s := s.markAll (64 * line) marks
  if (s.clu c).l2Live (slicePage line) = 0 ∧ (s.l2Line c line).valid = 0 then
    s.homeMerge line (({} : Line).store new m bad marks) m
  else s.setL2 c line ((s.l2Line c line).store new m bad marks)

/-! ## Copies: L1, instruction and quad caches -/

/-- The L1 lines of core k of a cluster. -/
def Cluster.l1Of (c : Cluster) (k : Nat) : Tab Line := Tab.get [] c.l1 k

/-- Change the L1 lines of a core, 4 * cluster + core. -/
def State.modL1 (s : State) (k : BitVec 7) (f : Tab Line → Tab Line) : State :=
  s.modClu (fld k 2 5) (fun c => { c with l1 := Tab.set c.l1 (fld k 0 2).toNat (f (c.l1Of (fld k 0 2).toNat)) })

/-- Change the instruction lines of a core. -/
def State.modInst (s : State) (k : BitVec 7) (f : Tab Line → Tab Line) : State :=
  s.modClu (fld k 2 5) (fun c =>
    { c with inst := Tab.set c.inst (fld k 0 2).toNat (f (Tab.get [] c.inst (fld k 0 2).toNat)) })

/-- Change the lines of a quad cache. -/
def State.modQuad (s : State) (c : BitVec 5) (q : BitVec 6) (f : Tab Line → Tab Line) : State :=
  s.modClu c (fun k => { k with quad := Tab.set k.quad q.toNat (f (Tab.get [] k.quad q.toNat)) })

/-- n bytes at an offset of a line, and whether a word they touch is poisoned. -/
def Line.bytes (l : Line) (off n : Nat) : Nat × Bool :=
  (bytesOf l.data.toNat off n, (l.poison &&& anyWords (byteMask off n)) != 0)

/-- A thread's load of n bytes of one line: from its core's L1, filled from the slice (R285) where a word it touches is not
whole there, since the word's mark is the slice's (R372). -/
def State.l1Load (s : State) (k : BitVec 7) (pa n : Nat) : State × Nat × Bool :=
  let line := pa / 64
  let l := Tab.get {} ((s.clu (fld k 2 5)).l1Of (fld k 0 2).toNat) line
  let m := byteMask (pa % 64) n
  if anyWords m &&& ~~~fullWords l.valid = 0 then (s, l.bytes (pa % 64) n)
  else
    let (s, l2) := s.l2Get (fld k 2 5) line
    let s := s.modL1 k (fun t => Tab.set t line { l2 with dirty := 0, marks := [] })
    (s, l2.bytes (pa % 64) n)

/-- A thread's store of n bytes of one line: through L1 to the slice (R270). -/
def State.l1Store (s : State) (k : BitVec 7) (pa n v : Nat) (marks : List (Nat × Nat)) : State :=
  let line := pa / 64
  let m := byteMask (pa % 64) n
  let new := BitVec.ofNat 512 (v % 2 ^ (8 * n) * 2 ^ (8 * (pa % 64)))
  let s := s.modL1 k (fun t => Tab.set t line
    { (Tab.get ({} : Line) t line).store new m false [] with dirty := 0 })
  s.l2Store (fld k 2 5) line new m false marks

/-- An instruction fetch: from the core's instruction cache, filled from the slice (R68). -/
def State.instLoad (s : State) (k : BitVec 7) (pa : Nat) : State × Nat × Bool :=
  let line := pa / 64
  let l := Tab.get ({} : Line) (Tab.get [] (s.clu (fld k 2 5)).inst (fld k 0 2).toNat) line
  if l.valid = -1 then (s, l.bytes (pa % 64) 4)
  else
    let (s, l2) := s.l2Get (fld k 2 5) line
    let s := s.modInst k (fun t => Tab.set t line { l2 with dirty := 0, marks := [] })
    (s, l2.bytes (pa % 64) 4)

/-- A core discards its L1 and instruction caches (R286). -/
def State.dropCore (s : State) (k : BitVec 7) : State := (s.modL1 k (fun _ => [])).modInst k (fun _ => [])

/-- Live banks of a quad cache. -/
def Cluster.quadLive (c : Cluster) (q : BitVec 6) : Nat :=
  (Tab.get { map := List.range 8, live := 8 } c.quadBanks q.toNat).live

/-- A fabric load of 32 bytes at a scope (R278, Table 9.4): tile by default from the quad cache, `slice`
from the L2 slice, `home` from the home with the cluster's own dirty bytes. -/
inductive ReadPoint where | quad | slice | home
  deriving DecidableEq, Repr

/-- Read n bytes of one line for a tile of a cluster.  At the home's point the slice's clean
bytes are passed over; dirty bytes of the cluster itself are read where they stand (R283; DEDUCED, log 7). -/
def State.fabricLoad (s : State) (c : BitVec 5) (q : BitVec 6) (p : ReadPoint) (pa n : Nat) : State × Nat × Bool :=
  let line := pa / 64
  match p with
  | .home =>
    let (s, h) := s.homeLine line
    let l := s.l2Line c line
    (s, ({ l with valid := l.dirty }.fillFrom h).bytes (pa % 64) n)
  | .slice =>
    let (s, l) := s.l2Get c line
    (s, l.bytes (pa % 64) n)
  | .quad =>
    let l := Tab.get ({} : Line) (Tab.get [] (s.clu c).quad q.toNat) line
    if l.valid = -1 then (s, l.bytes (pa % 64) n)
    else
      let (s, l2) := s.l2Get c line
      let s := if (s.clu c).quadLive q = 0 then s
        else s.modQuad c q (fun t => Tab.set t line { l2 with dirty := 0, marks := [] })
      (s, l2.bytes (pa % 64) n)

end Sys2Proof.Machine
end

