-- ==== Sys2Proof/Machine/Xlate.lean ====
section
/-! DEFINITION. Translation (R321 to R339): partitions, spaces and generations, the table walk, buffers,
the translation cache, the ATC, and the accesses of a control word (R51). -/

namespace Sys2Proof.Machine

/-! ## Credentials: what an access is translated and checked with (R326) -/

/-- A thread's current credentials. -/
def Thread.cred (t : Thread) : Capt :=
  { space := t.space, ptbase := t.ptbase, dirtybase := t.dirtybase, dirtygran := t.dirtygran
    partition := t.partition, pl := t.pl }

/-- The space number (Table 11.2). -/
def Capt.spnum (c : Capt) : Nat := (fld c.space 0 12).toNat
/-- The PCI Express function (Table 11.1). -/
def Capt.fn (c : Capt) : BitVec 6 := fld c.partition 26 6
/-- The PASID (Table 11.2). -/
def Capt.pasid (c : Capt) : BitVec 20 := fld c.space 16 20

/-- Do the checks of R322 apply? -/
def Capt.checked (c : Capt) : Bool := c.fn != 0 && c.pl.ult 2

/-- Is a space number in the range of a function (R322)? -/
def spaceInRange (fn : BitVec 6) (n : Nat) : Bool :=
  decide (128 * (fn.toNat - 1) ≤ n) && decide (n < 128 * fn.toNat)

/-- The space check of R322. -/
def Capt.spaceOk (c : Capt) : Bool := !c.checked || spaceInRange c.fn c.spnum

/-- Is a cluster in the partition's CLMASK? -/
def clIn (partition : Word) (c : BitVec 5) : Bool := partition.getLsbD (32 + c.toNat)

/-- A device physical address that exists (R16). -/
def tierOk (pa : Nat) : Bool :=
  match pa / 2 ^ 40 with
  | 0 => decide (pa < Config.gddrBytes)
  | 1 => decide (pa - 2 ^ 40 < Config.lpddrBytes)
  | _ => false

/-- Does a device physical address lie in a window of the partition (R322)? -/
def Capt.inWindow (c : Capt) (pa : Nat) : Bool :=
  let gb := (fld c.partition 20 6).toNat; let gc := (fld c.partition 14 6).toNat
  let lb := (fld c.partition 8 6).toNat; let lc := (fld c.partition 2 6).toNat
  (decide (gb * 2 ^ 32 ≤ pa) && decide (pa < (gb + gc) * 2 ^ 32) && decide (pa < 2 ^ 40))
    || (decide (2 ^ 40 + lb * 2 ^ 34 ≤ pa) && decide (pa < 2 ^ 40 + (lb + lc) * 2 ^ 34))

/-- May these credentials use a device physical address (R16, R322)? -/
def Capt.paOk (c : Capt) (pa : Nat) : Bool := tierOk pa && (!c.checked || c.inWindow pa)

/-- The dirty bitmap a write of these credentials marks: base and granule, while tracking is on (R333). -/
def Capt.marks (c : Capt) (key : Nat) : List (Nat × Nat) :=
  let base := (fld c.dirtybase 3 39).toNat * 8
  if key < 2 ^ 42 ∧ base ≠ 0 then [(base, (fld c.dirtygran 0 5).toNat)] else []

/-- Does the bitmap dword a write marks exist and lie in the partition (R322)? -/
def Capt.marksOk (c : Capt) (key : Nat) : Bool :=
  (c.marks key).all (fun m => c.paOk (m.1 + 8 * (key / 2 ^ m.2 / 64)))

/-- The generation of a space (R325). -/
def State.gen (s : State) (n : Nat) : SpaceGen := Tab.get {} s.spaces n

/-! ## The walk (R331) -/

/-- A leaf found by a walk: the entry, its address, and the page size it maps. -/
structure Leaf where
  addr : Nat
  pte : Word
  size : Nat

/-- Levels of Table 11.4: level, lowest index bit, index bits. -/
def ptLevels : List (Nat × Nat × Nat) := [(3, 39, 13), (2, 30, 9), (1, 21, 9), (0, 16, 5)]

/-- Are a leaf's ADDR bits as its kind requires (R330)? -/
def leafAddrOk (e : Word) (size : Nat) : Bool :=
  match (fld e 6 2).toNat with
  | 2 => fld e 8 8 == 0 && (fld e 16 48).toNat * 65536 % size == 0
  | 3 => fld e 8 24 == 0
  | _ => fld e 40 24 == 0 && fld e 8 8 == 0 && (fld e 16 24).toNat * 65536 % size == 0

/-- The walk of the levels of Table 11.4 from the table at `addr`. -/
def State.walk (cr : Capt) (va : Word) : List (Nat × Nat × Nat) → Nat → State → State × Except (BitVec 8) Leaf
  | [], _, s => (s, .error cACCESS)
  | (lvl, lo, n) :: r, addr, s =>
    let a := addr + 8 * (va.toNat / 2 ^ lo % 2 ^ n)
    if !cr.paOk a then (s, .error cACCESS)
    else
      match s.homeRead a 8 with
      | (s, v, bad) =>
        let e : Word := BitVec.ofNat 64 v
        if bad then (s, .error cUNCORR)
        else if !e.getLsbD 0 then (s, .error cPAGE)
        else if e.getLsbD 1 then
          if lvl = 3 ∨ !leafAddrOk e (2 ^ lo) then (s, .error cACCESS)
          else (s, .ok { addr := a, pte := e, size := 2 ^ lo })
        else if lvl = 0 ∨ e.getLsbD 7 ∨ fld e 40 24 ≠ 0 then (s, .error cACCESS)
        else State.walk cr va r ((fld e 6 1).toNat * 2 ^ 40 + (fld e 8 32).toNat * 256) s

/-- The walk from PTBASE (R328); a base in a reserved tier raises ACCESS. -/
def State.walkFromBase (s : State) (cr : Capt) (va : Word) : State × Except (BitVec 8) Leaf :=
  State.walk cr va ptLevels ((fld cr.ptbase 16 26).toNat * 65536) s

/-- The permission checks of R331 on a leaf. -/
def leafPermits (e : Word) (k : Access) (pl : BitVec 2) : Bool :=
  !(k == .write && !e.getLsbD 2) && !(pl == 0 && !e.getLsbD 3) && !(k == .fetch && fld e 6 2 == 2)

/-- A and, for a write, D are set at the home of the entry (R331). -/
def State.touchPte (s : State) (l : Leaf) (k : Access) : State :=
  let e := l.pte ||| 16#64 ||| (if k = .write then 32#64 else 0)
  s.homeWrite l.addr 8 e.toNat

/-- The device address a device leaf gives. -/
def leafDevice (l : Leaf) (va : Word) : Nat :=
  (fld l.pte 6 2).toNat * 2 ^ 40 + (fld l.pte 16 24).toNat * 65536 + va.toNat % l.size

/-- A buffer descriptor as it has been read: its physical address, its bytes, and U of its page. -/
structure Desc where
  pa : Nat
  bytes : Nat
  user : Bool

/-- The descriptor of buffer b, translated as a read (R331) and read at its home.  Its leaf must be a device leaf; the
identifier 0 names no buffer (R314). -/
def State.descriptor (s : State) (cr : Capt) (b : Nat) : State × Except (BitVec 8) Desc :=
  if b = 0 then (s, .error cACCESS)
  else
  let va : Word := BitVec.ofNat 64 (b * 64)
  match s.walkFromBase cr va with
  | (s, .error c) => (s, .error c)
  | (s, .ok l) =>
    if !leafPermits l.pte .read cr.pl || l.pte.getLsbD 7 || !cr.paOk (leafDevice l va) then (s, .error cACCESS)
    else
      match (s.touchPte l .read).homeRead (leafDevice l va) 64 with
      | (s, v, bad) =>
        if bad then (s, .error cUNCORR) else (s, .ok { pa := leafDevice l va, bytes := v, user := l.pte.getLsbD 3 })

/-- Where a buffer leaf leads (R315): the backing's address and the descriptor.  A descriptor without
VALID, or an offset outside LENGTH, raises ACCESS. -/
def State.bufferTarget (s : State) (cr : Capt) (l : Leaf) (shadow : Bool) (va : Word) :
    State × Except (BitVec 8) (Nat × Desc) :=
  match s.descriptor cr (fld l.pte 32 32).toNat with
  | (s, .error c) => (s, .error c)
  | (s, .ok d) =>
    let v := d.bytes
    let vbase := bytesOf v 0 8
    let cur := bytesOf v 0x20 1 % 2 == 1
    let back := bytesOf v (if cur != shadow then 0x18 else 0x10) 8
    if bytesOf v 0x21 1 % 2 = 0 ∨ va.toNat < vbase ∨ bytesOf v 8 8 ≤ va.toNat - vbase then (s, .error cACCESS)
    else (s, .ok (back + (va.toNat - vbase), d))

/-! ## The translation cache -/

/-- Where an access goes, and the buffer descriptor it went through. -/
structure Xl where
  target : Target
  desc : Option Nat := none
  deriving DecidableEq, Repr

/-- May a cached entry serve an access (R325)? -/
def TlbEntry.serves (e : TlbEntry) (s : State) (cr : Capt) (k : Access) (shadow : Bool) (va : Nat) : Bool :=
  e.space.toNat == cr.spnum && e.gen == (s.gen cr.spnum).gen && decide (e.base ≤ va) && decide (va < e.base + e.size)
    && (k != .write || (e.write && e.dirtied)) && (cr.pl != 0 || e.user)
    && (match e.target with | .host _ _ _ => k != .fetch | .device _ => true)
    && (e.desc.isNone || e.shadow == shadow)

/-- The address a target of a page's first byte gives at an offset, under the credentials in use. -/
def Target.at (t : Target) (cr : Capt) (off : Nat) : Target :=
  match t with
  | .device pa => .device (pa + off)
  | .host _ _ ha => .host cr.fn cr.pasid (ha + off)

/-- The checks at the access itself: R16 and the windows of R322, and PASIDEN for a host address (R324). -/
def Xl.check (x : Xl) (cr : Capt) : Except (BitVec 8) Xl :=
  match x.target with
  | .device pa => if cr.paOk pa then .ok x else .error cACCESS
  | .host _ _ _ => if cr.space.getLsbD 36 then .ok x else .error cACCESS

/-- A translation formed from a leaf is checked; then the leaf's A and D are set and the cache takes its entry (R331). -/
def State.cacheXl (s : State) (cr : Capt) (k : Access) (l : Leaf) (x : Xl) (e : TlbEntry) : State × Except (BitVec 8) Xl :=
  match x.check cr with
  | .error c => (s, .error c)
  | .ok x => ({ s.touchPte l k with tlb := e :: s.tlb.filter (fun f => f != e) }, .ok x)

/-- The cache entry of a leaf, for a page or, through a descriptor, for 64 KiB of a buffer; user level needs U of the
descriptor's page too (R331). -/
def State.tlbEntry (s : State) (cr : Capt) (k : Access) (shadow : Bool) (l : Leaf) (base size : Nat) (t : Target) (d : Option Desc) : TlbEntry :=
  { space := BitVec.ofNat 12 cr.spnum, gen := (s.gen cr.spnum).gen, base := base, size := size, target := t
    user := l.pte.getLsbD 3 && (match d with | some d => d.user | none => true), write := l.pte.getLsbD 2
    dirtied := k = .write, desc := d.map (·.pa), shadow := shadow && d.isSome }

/-- Form a translation from a leaf: permissions, target, A and D, and the cached entry (R331). -/
def State.form (s : State) (cr : Capt) (k : Access) (shadow : Bool) (va : Word) (l : Leaf) :
    State × Except (BitVec 8) Xl :=
  let off := va.toNat % l.size
  let low := va.toNat % 65536
  if !leafPermits l.pte k cr.pl then (s, .error cACCESS)
  else
    match (fld l.pte 6 2).toNat with
    | 2 =>
      let t := Target.host cr.fn cr.pasid ((fld l.pte 16 48).toNat * 65536)
      s.cacheXl cr k l { target := t.at cr off } (s.tlbEntry cr k shadow l (va.toNat - off) l.size t none)
    | 3 =>
      match s.bufferTarget cr l shadow va with
      | (s, .error c) => (s, .error c)
      | (s, .ok (pa, d)) =>
        s.cacheXl cr k l { target := .device pa, desc := some d.pa }
          (s.tlbEntry cr k shadow l (va.toNat - low) 65536 (.device (pa - low)) (some d))
    | _ =>
      let pa := leafDevice l va
      s.cacheXl cr k l { target := .device pa } (s.tlbEntry cr k shadow l (va.toNat - off) l.size (.device (pa - off)) none)

/-- Translate a virtual address (R329, R331), `shadow` for a shadow write (R315).  The walk, the marks and the host requests
use the accessor's own PTBASE, DIRTYBASE and PASID; where threads that share a space number differ in them, R326 lets any of
the values be used (R5), and this one is the model's choice (DESIGN CHOICE, log 76). -/
def State.translate (s : State) (cr : Capt) (k : Access) (shadow : Bool) (va : Word) :
    State × Except (BitVec 8) Xl :=
  if fld va 52 12 ≠ 0 ∨ !cr.spaceOk then (s, .error cACCESS)
  else
    match s.tlb.find? (fun e => e.serves s cr k shadow va.toNat) with
    | some e => (s, ({ target := e.target.at cr (va.toNat - e.base), desc := e.desc } : Xl).check cr)
    | none =>
      match s.walkFromBase cr va with
      | (s, .error c) => (s, .error c)
      | (s, .ok l) => s.form cr k shadow va l

/-- Does an address lead to the host tier: the leaf a cached entry or the walk finds is a host leaf (FLAGS bit HOSTT,
Table 11.13)? -/
def State.hostTier (s : State) (cr : Capt) (va : Word) : Bool :=
  match s.tlb.find? (fun e => e.space.toNat == cr.spnum && e.gen == (s.gen cr.spnum).gen && decide (e.base ≤ va.toNat)
      && decide (va.toNat < e.base + e.size)) with
  | some e => (match e.target with | .host _ _ _ => true | .device _ => false)
  | none =>
    if fld va 52 12 ≠ 0 ∨ !cr.spaceOk then false
    else (match s.walkFromBase cr va with | (_, .ok l) => fld l.pte 6 2 == 2 | _ => false)

/-! ## Host memory (R337, R338) -/

/-- The memory key of a host byte: a device address lies below 2^42, host bytes above, by function,
PASID and host address. -/
def hostKey (fn : BitVec 6) (pasid : BitVec 20) (ha : Nat) : Nat :=
  2 ^ 42 + (fn.toNat * 2 ^ 20 + pasid.toNat) * 2 ^ 64 + ha

/-- Does the ATC hold a translation that grants the access (R337)? -/
def State.atcGrants (s : State) (fn : BitVec 6) (pasid : BitVec 20) (ha : Nat) (write : Bool) : Bool :=
  s.atc.any (fun e => e.fn == fn && e.pasid == pasid && decide (e.page ≤ ha) && decide (ha < e.page + e.size)
    && (if write then e.wr else e.rd))

/-- One Translation Request for the host pages of the 64 KiB around the address, shared with one already in
flight (R337). -/
def State.askAts (s : State) (fn : BitVec 6) (pasid : BitVec 20) (w : HostWaiter) : State :=
  let page := w.ha - w.ha % 65536
  let same (r : HostReq) : Bool := r.fn == fn && r.pasid == pasid && r.page == page
  if s.ats.any same then
    { s with ats := s.ats.map (fun r =>
        if same r ∧ !r.waiters.contains w then { r with waiters := r.waiters ++ [w] } else r) }
  else { s with ats := s.ats ++ [{ fn := fn, pasid := pasid, page := page, write := false, waiters := [w] }] }

/-- How an address resolves: to a memory key, to a fault, or to a wait for the host. -/
inductive Res where
  | ok (key : Nat) (x : Xl)
  | fault (cause : BitVec 8)
  | wait
  deriving DecidableEq, Repr

/-- Resolve an address for an access on behalf of `who` (R331, R337, R338): a write also checks the dirty
bitmap it marks (R322). -/
def State.resolve (s : State) (cr : Capt) (k : Access) (shadow : Bool) (va : Word) (who : Waiter) : State × Res :=
  match s.translate cr k shadow va with
  | (s, .error c) => (s, .fault c)
  | (s, .ok x) =>
    match x.target with
    | .device pa =>
      if k = .write ∧ !cr.marksOk pa then (s, .fault cACCESS) else (s, .ok pa x)
    | .host fn pasid ha =>
      if s.atcGrants fn pasid ha (k == .write) then (s, .ok (hostKey fn pasid ha) x)
      else (s.askAts fn pasid { who := who, va := va, ha := ha, write := k == .write }, .wait)

/-! ## The accesses of a control word (R51) -/

/-- Resolve an address for the running word: a fault is a trap with the address in TRAPINFO, a host page that
is not granted is waited for as a load is (R351). -/
def State.withVa (s : State) (k : Access) (va : Word) (f : State → Nat → Xl → State) : State :=
  match s.resolve s.me.cred k false va (.thread s.cur) with
  | (s, .fault c) => s.trap c va
  | (s, .wait) => s.stay .busy
  | (s, .ok key x) => f s key x

/-- Resolve an address for an operation at the line's home, which writes (R290, R291, R293): a host page raises
ACCESS. -/
def State.withHome (s : State) (va : Word) (f : State → Nat → State) : State :=
  match s.translate s.me.cred .write false va with
  | (s, .error c) => s.trap c va
  | (s, .ok x) =>
    match x.target with
    | .device pa => if s.me.cred.marksOk pa then f s pa else s.trap cACCESS va
    | .host _ _ _ => s.trap cACCESS va

/-- `mem_read(va, n)`: alignment, translation, then the load; poison traps UNCORR (R51, R372). -/
def State.memRead (s : State) (va : Word) (n : Nat) (f : State → Nat → State) : State :=
  if va.toNat % n ≠ 0 then s.trap cALIGN va
  else s.withVa .read va (fun s key _ =>
    match s.l1Load (coreOf s.cur) key n with
    | (s, v, bad) => if bad then s.trap cUNCORR va else f s v)

/-- `mem_write(va, n, v)`: alignment, translation, then the store (R51). -/
def State.memWrite (s : State) (va : Word) (n v : Nat) (f : State → State) : State :=
  if va.toNat % n ≠ 0 then s.trap cALIGN va
  else s.withVa .write va (fun s key _ => f (s.l1Store (coreOf s.cur) key n v (s.me.cred.marks key)))

end Sys2Proof.Machine
end

