-- ==== Sys2Proof/Machine/Entry.lean ====
section
/-! DEFINITION. Chain entries and commands (Table 10.3), engine numbers (R297) and endpoints (R300). -/

namespace Sys2Proof.Machine

/-! ## Names and entries -/

/-- The engine an engine number names (R297). -/
def engineOf (v : Word) : Option (BitVec 5) := if 32 ≤ v.toNat ∨ v.toNat % 8 = 7 then none else some (fld v 0 5)

/-- Bytes of an entry (Table 10.3). -/
def enAt (raw : BitVec 512) (off n : Nat) : Nat := bytesOf raw.toNat off n

/-- OP. -/
def enOp (r : BitVec 512) : Nat := enAt r 0 1
/-- FLAGS. -/
def enFlags (r : BitVec 512) : Nat := enAt r 1 1
/-- CLOSE. -/
def enClose (r : BitVec 512) : Bool := enFlags r % 2 == 1
/-- SRCSP. -/
def enSrcsp (r : BitVec 512) : Bool := enFlags r / 2 % 2 == 1
/-- DSTSP. -/
def enDstsp (r : BitVec 512) : Bool := enFlags r / 4 % 2 == 1
/-- SHADOW. -/
def enShadow (r : BitVec 512) : Bool := enFlags r / 8 % 2 == 1
/-- EAGER. -/
def enEager (r : BitVec 512) : Bool := enFlags r / 16 % 2 == 1
/-- TYPE. -/
def enType (r : BitVec 512) : Nat := enAt r 2 1
/-- ROP. -/
def enRop (r : BitVec 512) : Nat := enAt r 3 1
/-- BUFID. -/
def enBuf (r : BitVec 512) : Nat := enAt r 4 4
/-- SRC. -/
def enSrc (r : BitVec 512) : Nat := enAt r 8 8
/-- DST. -/
def enDst (r : BitVec 512) : Nat := enAt r 0x10 8
/-- LEN. -/
def enLen (r : BitVec 512) : Nat := enAt r 0x18 8
/-- AUX. -/
def enAux (r : BitVec 512) : Nat := enAt r 0x20 8
/-- ESIZE. -/
def enEsize (r : BitVec 512) : Nat := enAt r 0x28 4
/-- NEXT. -/
def enNext (r : BitVec 512) : Nat := enAt r 0x30 8

/-- Is the opcode a collective's? -/
def enColl (r : BitVec 512) : Bool := enOp r == 0x20 || enOp r == 0x21 || enOp r == 0x22

/-- Does the unit execute an opcode (Table 10.1)? -/
def unitRuns (e : BitVec 5) (op : Nat) : Bool :=
  let u := (fld e 0 3).toNat
  op == 0 || (u < 4 && (op == 1 || op == 2)) || ((u == 4 || u == 5) && op == 0x10) || (u == 6 && (op == 0x20 || op == 0x21 || op == 0x22))

/-! ## Endpoints (R300) -/

/-- The cluster of an endpoint. -/
def epCluster (a : Nat) : BitVec 5 := BitVec.ofNat 5 (a / 2 ^ 37)
/-- The tile of a scratchpad endpoint. -/
def epTile (a : Nat) : BitVec 8 := BitVec.ofNat 8 (a / 2 ^ 17)
/-- Its offset. -/
def epOff (a : Nat) : Nat := a % 2 ^ 17
/-- The quarter of a weight-store endpoint. -/
def wsQuarter (a : Nat) : BitVec 2 := BitVec.ofNat 2 (a / 2 ^ 35)
/-- Its offset. -/
def wsOff (a : Nat) : Nat := a % 2 ^ 23

/-- Bits of a scratchpad endpoint outside its fields are zero. -/
def spFormOk (a : Nat) : Bool := a / 2 ^ 25 % 2 ^ 12 == 0 && a < 2 ^ 42
/-- Bits of a weight-store endpoint outside its fields are zero. -/
def wsFormOk (a : Nat) : Bool := a / 2 ^ 23 % 2 ^ 12 == 0 && a < 2 ^ 42

/-- The ways a job can run a WLOAD in a quarter of a cluster (R309). -/
def Job.loads (j : Job) (c : BitVec 5) (q : BitVec 2) : Bool :=
  j.st == .running && enOp j.raw == 2 && epCluster (enDst j.raw) == c && wsQuarter (enDst j.raw) == q

end Sys2Proof.Machine
end

