-- ==== Sys2Proof/WellFormed.lean ====
section
/-! DEFINITION. Which field values a row's word may hold: R27 to R31 for control words (any other value
raises ILLEGAL), and the encoding tables of R153, R232, R243, R274, R318 and Table 13.4 for operation
words (any other value fails the load with IMAGE, R35).  Checks that need the node constant or the
queues of the image are the loader's. -/

namespace Sys2Proof
open Machine

/-- Formats of Table 2.5: f32, f64, bf16. -/
def fpFmt (f : BitVec 3) : Bool := f.toNat ≤ 2

/-- Rounding values of Table 2.5. -/
def fpRound (r : BitVec 3) : Bool := r.toNat ≤ 4

/-- The type codes FCVT admits in `b` (R30): the source types 0 to 2 and 4 to 7, or, with bit 4 set,
the integer destinations 4 to 7. -/
def fcvtCode (b : BitVec 5) : Bool :=
  let k := (b.extractLsb' 0 4).toNat
  if b.getLsbD 4 then 4 ≤ k && k ≤ 7 else k ≤ 7 && k != 3

/-- The part rule of R245: `es` source and `ed` destination elements, the ALL flag and PART. -/
def partRule (es ed : Nat) (all : Bool) (part : Nat) : Bool :=
  if ed == es then !all && part == 0
  else if ed % es == 0 && ed / es ≤ 8 then !all && part < ed / es
  else if es % ed == 0 && es / ed ≤ 8 then
    if all then part == 0 else part < es / ed
  else false

/-- The scope field of a memory node (R274): 0 to 5, and 0 unless EMIT or INORD is set. -/
def memScope (s : BitVec 3) (used : Bool) : Bool := s.toNat ≤ 5 && (used || s.toNat == 0)

/-- The values a row's fields may hold. -/
def Instr.wf (i : Instr) : Bool :=
  match i with
  | .add _ _ _ => true
  | .sub _ _ _ => true
  | .and _ _ _ => true
  | .or _ _ _ => true
  | .xor _ _ _ => true
  | .andn _ _ _ => true
  | .shl _ _ _ => true
  | .shr _ _ _ => true
  | .sha _ _ _ => true
  | .slt _ _ _ => true
  | .sltn _ _ _ => true
  | .min _ _ _ => true
  | .max _ _ _ => true
  | .minn _ _ _ => true
  | .maxn _ _ _ => true
  | .clz _ _ => true
  | .popc _ _ => true
  | .mul _ _ _ => true
  | .mulh _ _ _ => true
  | .mulhn _ _ _ => true
  | .div _ _ _ => true
  | .divn _ _ _ => true
  | .rem _ _ _ => true
  | .remn _ _ _ => true
  | .fadd _ _ _ f r => fpFmt f && fpRound r
  | .fsub _ _ _ f r => fpFmt f && fpRound r
  | .fmul _ _ _ f r => fpFmt f && fpRound r
  | .ffma _ _ _ f r => fpFmt f && fpRound r
  | .fmin _ _ _ f => fpFmt f
  | .fmax _ _ _ f => fpFmt f
  | .fcmpeq _ _ _ f => fpFmt f
  | .fcmplt _ _ _ f => fpFmt f
  | .fcmple _ _ _ f => fpFmt f
  | .frcp _ _ f r => fpFmt f && fpRound r
  | .frsq _ _ f r => fpFmt f && fpRound r
  | .fsqrt _ _ f r => fpFmt f && fpRound r
  | .fcvt _ _ t f r => fpFmt f && fpRound r && fcvtCode t
  | .fabs _ _ f => fpFmt f
  | .fneg _ _ f => fpFmt f
  | .addi _ _ _ => true
  | .andi _ _ _ => true
  | .ori _ _ _ => true
  | .xori _ _ _ => true
  | .shli _ _ _ => true
  | .shri _ _ _ => true
  | .shai _ _ _ => true
  | .ldhi _ _ => true
  | .slti _ _ _ => true
  | .br _ _ c _ => c.toNat ≤ 5
  | .jmp _ => true
  | .call _ => true
  | .jr _ _ => true
  | .ld _ _ s _ => s.toNat ≤ 6
  | .st _ _ s _ => s.toNat ≤ 3
  | .bind _ _ _ => true
  | .unbind _ _ _ => true
  | .acqx _ => true
  | .acqs _ => true
  | .rel _ => true
  | .fence s => s.toNat ≤ 3
  | .aadd _ _ _ _ => true
  | .aand _ _ _ _ => true
  | .aor _ _ _ _ => true
  | .axor _ _ _ _ => true
  | .amin _ _ _ _ => true
  | .amax _ _ _ _ => true
  | .aminn _ _ _ _ => true
  | .amaxn _ _ _ _ => true
  | .axchg _ _ _ _ => true
  | .acas _ _ _ _ => true
  | .rclaim _ _ _ => true
  | .rload _ _ => true
  | .rstart _ _ => true
  | .rfeed _ _ _ => true
  | .rfeedBridge _ _ _ => true
  | .rtap _ _ _ => true
  | .rtapBridge _ _ _ => true
  | .rdrain _ => true
  | .rwait _ => true
  | .rwaitDrained _ => true
  | .rswap _ _ => true
  | .rswapTd _ _ => true
  | .rstat _ s => s.toNat ≤ 3
  | .rfree _ => true
  | .rpost _ _ => true
  | .rsweep _ => true
  | .rmark _ _ => true
  | .rkill _ => true
  | .rreplay _ => true
  | .enq _ _ _ => true
  | .enqOpen _ _ _ => true
  | .enqShut _ _ => true
  | .enqResume _ _ _ => true
  | .cwait _ _ _ => true
  | .cseq _ _ => true
  | .pub _ _ => true
  | .tdset _ _ _ => true
  | .tdget _ _ _ => true
  | .tdclr _ _ => true
  | .srd _ _ => true
  | .swr _ _ => true
  | .sset _ _ _ => true
  | .sclr _ _ _ => true
  | .sysregWrite => true
  | .statusWrite => true
  | .mboxoutWrite => true
  | .mboxinRead => true
  | .injctlWrite => true
  | .trap _ => true
  | .sysret => true
  | .halt => true
  | .wfe => true
  | .tlbinvs _ => true
  | .tlbinva _ _ => true
  | .spgen _ _ => true
  | .ctxsave _ _ _ => true
  | .ctxload _ _ _ => true
  | .triggerDelivery => true
  | .threadPreemption => true
  | .mboxFlitArrival => true
  | .doorbellFlit => true
  | .arbiterCycle => true
  | .nitinolMove => true
  | .queueArrival => true
  | .ingressAdmit => true
  | .egressToken => true
  | .periodCompletion => true
  | .drainedEvent => true
  | .teardownPeriodStart => true
  | .hangSweep => true
  | .faultRecordDeferred => true
  | .atsTranslationCompletion => true
  | .prgResponse => true
  | .atsInvalidateRequest => true
  | .atsInvalidateCompletion => true
  | .nodeMarkSave => true
  | .markerPassageComplete => true
  | .markerTimeout => true
  | .nop => true
  | .copy => true
  | .wload => true
  | .gather => true
  | .allred => true
  | .redscat => true
  | .allgath => true
  | .engineSector => true
  | .batchCompletion => true
  | .commandPortReceive => true
  | .scrubRow => true
  | .errorWindowBoundary => true
  | .evacuationRowCopy => true
  | .invarRelaunchRetry => true
  | .linkCrcRetransmit => true
  | .refreshWindowStart => true
  | .refreshWindowEnd => true
  | .thermalSample => true
  | .thermalTrip => true
  | .railUndervoltage => true
  | .railRecovery => true
  | .moduleReset => true
  | .ident => true
  | .attest => true
  | .logread => true
  | .update => true
  | .start => true
  | .setmod => true
  | .reset => true
  | .iadd t b _ => isInt t && b != 3#2
  | .isub t b _ => isInt t && b != 3#2
  | .imul t b _ => isInt t && b != 3#2
  | .imulh t b => isInt t && b != 3#2
  | .imad t b _ => isInt t && b != 3#2
  | .imin t b => isInt t && b != 3#2
  | .imax t b => isInt t && b != 3#2
  | .iabs t _ => isInt t
  | .ineg t _ => isInt t
  | .iand t b => (isInt t || t == 15#4) && b != 3#2
  | .ior t b => (isInt t || t == 15#4) && b != 3#2
  | .ixor t b => (isInt t || t == 15#4) && b != 3#2
  | .inot t => isInt t || t == 15#4
  | .ishl t b => (isInt t || t == 15#4) && b != 3#2
  | .ishr t b => (isInt t || t == 15#4) && b != 3#2
  | .isha t b => (isInt t || t == 15#4) && b != 3#2
  | .icmpeq t b => isInt t && b != 3#2
  | .icmpne t b => isInt t && b != 3#2
  | .icmplt t b => isInt t && b != 3#2
  | .icmple t b => isInt t && b != 3#2
  | .sel _ b => b != 3#2
  | .clzNode t => isInt t || t == 15#4
  | .popcNode t => isInt t || t == 15#4
  | .isat t n => isInt t && decide (1 ≤ n.toNat) && decide (n.toNat ≤ elemBits t)
  | .iclamp t b => isInt t && b != 3#2
  | .faddNode t b _ => isFloat t && b != 3#2
  | .fsubNode t b _ => isFloat t && b != 3#2
  | .fmulNode t b _ => isFloat t && b != 3#2
  | .ffmaNode t b _ => isFloat t && b != 3#2
  | .fminNode t b => isFloat t && b != 3#2
  | .fmaxNode t b => isFloat t && b != 3#2
  | .fabsNode t => isFloat t
  | .fnegNode t => isFloat t
  | .fcmpeqNode t b => isFloat t && b != 3#2
  | .fcmpltNode t b => isFloat t && b != 3#2
  | .fcmpleNode t b => isFloat t && b != 3#2
  | .frcpNode t _ => isFloat t
  | .frsqNode t _ => isFloat t
  | .fsqrtNode t _ => isFloat t
  | .fexp2 t _ => isFloat t
  | .flog2 t _ => isFloat t
  | .cvt t s l p x _ => (isInt t || isFloat t || isSmallFloat t) && s != 13#4 && s != 15#4 && partRule (elemCount s) (elemCount t) (l == 1#1) p.toNat && !(isInt s && isInt t && x == 0#1 && decide (elemBits s ≤ elemBits t))
  | .cvtsr t _ _ => t == 7#4 || t == 8#4 || isSmallFloat t
  | .sdenc s l p _ => isInt s && partRule (elemCount s) 8 (l == 1#1) p.toNat
  | .sddec t l p _ => isInt t && partRule 8 (elemCount t) (l == 1#1) p.toNat
  | .qmax t e => isFloat t && isMx e
  | .qconv t s => isMx t && isFloat s
  | .qdeq t e => isFloat t && isMx e
  | .pack _ => true
  | .unpack _ _ => true
  | .shuf _ => true
  | .bcast t e => decide (e.toNat < elemCount t)
  | .rsum t _ => isInt t || isFloat t
  | .rmax t => isInt t || isFloat t
  | .rmin t => isInt t || isFloat t
  | .accum t _ => t == 0#4 || t == 14#4 || t == 6#4
  | .wsum t _ => t == 0#4 || t == 14#4 || t == 6#4
  | .wcnt _ => true
  | .xred t o => (t == 0#4 || t == 14#4 || t == 6#4) && o != 3#2
  | .steer _ => true
  | .merge _ _ => true
  | .gate _ _ => true
  | .chain a b => (a == 3#2 || a == 0#2) && (b == 3#2 || b == 0#2)
  | .repl _ _ => true
  | .sink _ v e => v == 0#1 || decide (e.toNat < 10)
  | .source _ a _ => a == 1#2 || a == 2#2
  | .join _ _ => true
  | .win t => t == 0#4 || t == 14#4 || t == 6#4
  | .gapc _ v e => v == 0#1 || decide (e.toNat < 10)
  | .hashk _ => true
  | .dropm t _ _ => isFloat t || t == 0#4 || t == 2#4 || t == 4#4
  | .gld _ n e s => memScope s (e == 1#1 || n == 1#1)
  | .gst _ n e s => memScope s (e == 1#1 || n == 1#1)
  | .sld _ n e s => memScope s (e == 1#1 || n == 1#1)
  | .sst _ n e s => memScope s (e == 1#1 || n == 1#1)
  | .wld _ n e s => memScope s (e == 1#1 || n == 1#1)
  | .tld b _ _ s => (b == 1#2 || b == 3#2) && decide (s.toNat ≤ 5)
  | .tst r _ s _ c => decide (s.toNat ≤ 5) && (c == 0#1 || r == 0#4)
  | .done _ => true
  | .ecmd => true
  | .tshape _ => true
  | .tprec => true
  | .tfill t b _ => (b == 1#2 || b == 3#2) && t != 15#4
  | .temit t r _ c => (c == 0#1 || r == 0#4) && (t == 0#4 || t == 2#4 || t == 4#4 || t == 14#4 || t == 13#4 || isFloat t || isSmallFloat t)
  | .tlds b _ s => (b == 1#2 || b == 3#2) && decide (s.toNat ≤ 5)
  | .tsts r s _ c => decide (s.toNat ≤ 5) && (c == 0#1 || r == 0#4)
  | .tzero b r _ c => if c == 1#1 then b == 1#2 && r == 0#4 else b == 3#2
  | .tmma r q _ k j => r != q || j == k
  | .tmmaCompletion => true
  | .tmov _ _ _ _ => true
  | .tcvt _ _ _ _ => true
  | .tepi t _ _ _ => t == 0#4 || t == 2#4 || t == 4#4 || isFloat t || t == 9#4 || t == 10#4 || t == 12#4
  | .tquant _ _ _ => true
  | .tacc t _ => t == 0#4 || t == 14#4 || t == 6#4
  | .csc t s l p _ => isFloat t && s != 13#4 && s != 15#4 && partRule (elemCount s) (elemCount t) (l == 1#1) p.toNat
  | .norm t _ => t == 6#4 || t == 7#4
  | .perm => true
  | .vote _ => true
  | .cksum t b c e => (t == 0#4 || t == 14#4 || t == 6#4) && (if c == 1#1 then b == 0#2 && e == 0#1 else b == 3#2)
  | .ckchk t => t == 0#4 || t == 14#4 || t == 6#4
  | .capq => true
  | .illegalWord _ => true
  | .wfeSpuriousEnd => true
  | .l2Eviction => true
  | .translationEntryDrop => true
  | .memoryAccessPerformed => true
  | .matrixOpCompletion => true
  | .solwenLinkFlit => true
  | .priCapabilityEnable => true
  | .discardsWrite => true
  | .bar0Access => true
  | .unassignedCobaltOpcode => true
  | .cobaltCommandDone => true

/-- Is the row a control word of Table 2.3? -/
def Instr.isControl (i : Instr) : Bool :=
  match i with
  | .add _ _ _ => true
  | .sub _ _ _ => true
  | .and _ _ _ => true
  | .or _ _ _ => true
  | .xor _ _ _ => true
  | .andn _ _ _ => true
  | .shl _ _ _ => true
  | .shr _ _ _ => true
  | .sha _ _ _ => true
  | .slt _ _ _ => true
  | .sltn _ _ _ => true
  | .min _ _ _ => true
  | .max _ _ _ => true
  | .minn _ _ _ => true
  | .maxn _ _ _ => true
  | .clz _ _ => true
  | .popc _ _ => true
  | .mul _ _ _ => true
  | .mulh _ _ _ => true
  | .mulhn _ _ _ => true
  | .div _ _ _ => true
  | .divn _ _ _ => true
  | .rem _ _ _ => true
  | .remn _ _ _ => true
  | .fadd _ _ _ _ _ => true
  | .fsub _ _ _ _ _ => true
  | .fmul _ _ _ _ _ => true
  | .ffma _ _ _ _ _ => true
  | .fmin _ _ _ _ => true
  | .fmax _ _ _ _ => true
  | .fcmpeq _ _ _ _ => true
  | .fcmplt _ _ _ _ => true
  | .fcmple _ _ _ _ => true
  | .frcp _ _ _ _ => true
  | .frsq _ _ _ _ => true
  | .fsqrt _ _ _ _ => true
  | .fcvt _ _ _ _ _ => true
  | .fabs _ _ _ => true
  | .fneg _ _ _ => true
  | .addi _ _ _ => true
  | .andi _ _ _ => true
  | .ori _ _ _ => true
  | .xori _ _ _ => true
  | .shli _ _ _ => true
  | .shri _ _ _ => true
  | .shai _ _ _ => true
  | .ldhi _ _ => true
  | .slti _ _ _ => true
  | .br _ _ _ _ => true
  | .jmp _ => true
  | .call _ => true
  | .jr _ _ => true
  | .ld _ _ _ _ => true
  | .st _ _ _ _ => true
  | .bind _ _ _ => true
  | .unbind _ _ _ => true
  | .acqx _ => true
  | .acqs _ => true
  | .rel _ => true
  | .fence _ => true
  | .aadd _ _ _ _ => true
  | .aand _ _ _ _ => true
  | .aor _ _ _ _ => true
  | .axor _ _ _ _ => true
  | .amin _ _ _ _ => true
  | .amax _ _ _ _ => true
  | .aminn _ _ _ _ => true
  | .amaxn _ _ _ _ => true
  | .axchg _ _ _ _ => true
  | .acas _ _ _ _ => true
  | .rclaim _ _ _ => true
  | .rload _ _ => true
  | .rstart _ _ => true
  | .rfeed _ _ _ => true
  | .rfeedBridge _ _ _ => true
  | .rtap _ _ _ => true
  | .rtapBridge _ _ _ => true
  | .rdrain _ => true
  | .rwait _ => true
  | .rwaitDrained _ => true
  | .rswap _ _ => true
  | .rswapTd _ _ => true
  | .rstat _ _ => true
  | .rfree _ => true
  | .rpost _ _ => true
  | .rsweep _ => true
  | .rmark _ _ => true
  | .rkill _ => true
  | .rreplay _ => true
  | .enq _ _ _ => true
  | .enqOpen _ _ _ => true
  | .enqShut _ _ => true
  | .enqResume _ _ _ => true
  | .cwait _ _ _ => true
  | .cseq _ _ => true
  | .pub _ _ => true
  | .tdset _ _ _ => true
  | .tdget _ _ _ => true
  | .tdclr _ _ => true
  | .srd _ _ => true
  | .swr _ _ => true
  | .sset _ _ _ => true
  | .sclr _ _ _ => true
  | .sysregWrite => false
  | .statusWrite => false
  | .mboxoutWrite => false
  | .mboxinRead => false
  | .injctlWrite => false
  | .trap _ => true
  | .sysret => true
  | .halt => true
  | .wfe => true
  | .tlbinvs _ => true
  | .tlbinva _ _ => true
  | .spgen _ _ => true
  | .ctxsave _ _ _ => true
  | .ctxload _ _ _ => true
  | .triggerDelivery => false
  | .threadPreemption => false
  | .mboxFlitArrival => false
  | .doorbellFlit => false
  | .arbiterCycle => false
  | .nitinolMove => false
  | .queueArrival => false
  | .ingressAdmit => false
  | .egressToken => false
  | .periodCompletion => false
  | .drainedEvent => false
  | .teardownPeriodStart => false
  | .hangSweep => false
  | .faultRecordDeferred => false
  | .atsTranslationCompletion => false
  | .prgResponse => false
  | .atsInvalidateRequest => false
  | .atsInvalidateCompletion => false
  | .nodeMarkSave => false
  | .markerPassageComplete => false
  | .markerTimeout => false
  | .nop => false
  | .copy => false
  | .wload => false
  | .gather => false
  | .allred => false
  | .redscat => false
  | .allgath => false
  | .engineSector => false
  | .batchCompletion => false
  | .commandPortReceive => false
  | .scrubRow => false
  | .errorWindowBoundary => false
  | .evacuationRowCopy => false
  | .invarRelaunchRetry => false
  | .linkCrcRetransmit => false
  | .refreshWindowStart => false
  | .refreshWindowEnd => false
  | .thermalSample => false
  | .thermalTrip => false
  | .railUndervoltage => false
  | .railRecovery => false
  | .moduleReset => false
  | .ident => false
  | .attest => false
  | .logread => false
  | .update => false
  | .start => false
  | .setmod => false
  | .reset => false
  | .iadd _ _ _ => false
  | .isub _ _ _ => false
  | .imul _ _ _ => false
  | .imulh _ _ => false
  | .imad _ _ _ => false
  | .imin _ _ => false
  | .imax _ _ => false
  | .iabs _ _ => false
  | .ineg _ _ => false
  | .iand _ _ => false
  | .ior _ _ => false
  | .ixor _ _ => false
  | .inot _ => false
  | .ishl _ _ => false
  | .ishr _ _ => false
  | .isha _ _ => false
  | .icmpeq _ _ => false
  | .icmpne _ _ => false
  | .icmplt _ _ => false
  | .icmple _ _ => false
  | .sel _ _ => false
  | .clzNode _ => false
  | .popcNode _ => false
  | .isat _ _ => false
  | .iclamp _ _ => false
  | .faddNode _ _ _ => false
  | .fsubNode _ _ _ => false
  | .fmulNode _ _ _ => false
  | .ffmaNode _ _ _ => false
  | .fminNode _ _ => false
  | .fmaxNode _ _ => false
  | .fabsNode _ => false
  | .fnegNode _ => false
  | .fcmpeqNode _ _ => false
  | .fcmpltNode _ _ => false
  | .fcmpleNode _ _ => false
  | .frcpNode _ _ => false
  | .frsqNode _ _ => false
  | .fsqrtNode _ _ => false
  | .fexp2 _ _ => false
  | .flog2 _ _ => false
  | .cvt _ _ _ _ _ _ => false
  | .cvtsr _ _ _ => false
  | .sdenc _ _ _ _ => false
  | .sddec _ _ _ _ => false
  | .qmax _ _ => false
  | .qconv _ _ => false
  | .qdeq _ _ => false
  | .pack _ => false
  | .unpack _ _ => false
  | .shuf _ => false
  | .bcast _ _ => false
  | .rsum _ _ => false
  | .rmax _ => false
  | .rmin _ => false
  | .accum _ _ => false
  | .wsum _ _ => false
  | .wcnt _ => false
  | .xred _ _ => false
  | .steer _ => false
  | .merge _ _ => false
  | .gate _ _ => false
  | .chain _ _ => false
  | .repl _ _ => false
  | .sink _ _ _ => false
  | .source _ _ _ => false
  | .join _ _ => false
  | .win _ => false
  | .gapc _ _ _ => false
  | .hashk _ => false
  | .dropm _ _ _ => false
  | .gld _ _ _ _ => false
  | .gst _ _ _ _ => false
  | .sld _ _ _ _ => false
  | .sst _ _ _ _ => false
  | .wld _ _ _ _ => false
  | .tld _ _ _ _ => false
  | .tst _ _ _ _ _ => false
  | .done _ => false
  | .ecmd => false
  | .tshape _ => false
  | .tprec => false
  | .tfill _ _ _ => false
  | .temit _ _ _ _ => false
  | .tlds _ _ _ => false
  | .tsts _ _ _ _ => false
  | .tzero _ _ _ _ => false
  | .tmma _ _ _ _ _ => false
  | .tmmaCompletion => false
  | .tmov _ _ _ _ => false
  | .tcvt _ _ _ _ => false
  | .tepi _ _ _ _ => false
  | .tquant _ _ _ => false
  | .tacc _ _ => false
  | .csc _ _ _ _ _ => false
  | .norm _ _ => false
  | .perm => false
  | .vote _ => false
  | .cksum _ _ _ _ => false
  | .ckchk _ => false
  | .capq => false
  | .illegalWord _ => false
  | .wfeSpuriousEnd => false
  | .l2Eviction => false
  | .translationEntryDrop => false
  | .memoryAccessPerformed => false
  | .matrixOpCompletion => false
  | .solwenLinkFlit => false
  | .priCapabilityEnable => false
  | .discardsWrite => false
  | .bar0Access => false
  | .unassignedCobaltOpcode => false
  | .cobaltCommandDone => false

/-- Is the row an operation word of Table 2.9? -/
def Instr.isOperation (i : Instr) : Bool :=
  match i with
  | .add _ _ _ => false
  | .sub _ _ _ => false
  | .and _ _ _ => false
  | .or _ _ _ => false
  | .xor _ _ _ => false
  | .andn _ _ _ => false
  | .shl _ _ _ => false
  | .shr _ _ _ => false
  | .sha _ _ _ => false
  | .slt _ _ _ => false
  | .sltn _ _ _ => false
  | .min _ _ _ => false
  | .max _ _ _ => false
  | .minn _ _ _ => false
  | .maxn _ _ _ => false
  | .clz _ _ => false
  | .popc _ _ => false
  | .mul _ _ _ => false
  | .mulh _ _ _ => false
  | .mulhn _ _ _ => false
  | .div _ _ _ => false
  | .divn _ _ _ => false
  | .rem _ _ _ => false
  | .remn _ _ _ => false
  | .fadd _ _ _ _ _ => false
  | .fsub _ _ _ _ _ => false
  | .fmul _ _ _ _ _ => false
  | .ffma _ _ _ _ _ => false
  | .fmin _ _ _ _ => false
  | .fmax _ _ _ _ => false
  | .fcmpeq _ _ _ _ => false
  | .fcmplt _ _ _ _ => false
  | .fcmple _ _ _ _ => false
  | .frcp _ _ _ _ => false
  | .frsq _ _ _ _ => false
  | .fsqrt _ _ _ _ => false
  | .fcvt _ _ _ _ _ => false
  | .fabs _ _ _ => false
  | .fneg _ _ _ => false
  | .addi _ _ _ => false
  | .andi _ _ _ => false
  | .ori _ _ _ => false
  | .xori _ _ _ => false
  | .shli _ _ _ => false
  | .shri _ _ _ => false
  | .shai _ _ _ => false
  | .ldhi _ _ => false
  | .slti _ _ _ => false
  | .br _ _ _ _ => false
  | .jmp _ => false
  | .call _ => false
  | .jr _ _ => false
  | .ld _ _ _ _ => false
  | .st _ _ _ _ => false
  | .bind _ _ _ => false
  | .unbind _ _ _ => false
  | .acqx _ => false
  | .acqs _ => false
  | .rel _ => false
  | .fence _ => false
  | .aadd _ _ _ _ => false
  | .aand _ _ _ _ => false
  | .aor _ _ _ _ => false
  | .axor _ _ _ _ => false
  | .amin _ _ _ _ => false
  | .amax _ _ _ _ => false
  | .aminn _ _ _ _ => false
  | .amaxn _ _ _ _ => false
  | .axchg _ _ _ _ => false
  | .acas _ _ _ _ => false
  | .rclaim _ _ _ => false
  | .rload _ _ => false
  | .rstart _ _ => false
  | .rfeed _ _ _ => false
  | .rfeedBridge _ _ _ => false
  | .rtap _ _ _ => false
  | .rtapBridge _ _ _ => false
  | .rdrain _ => false
  | .rwait _ => false
  | .rwaitDrained _ => false
  | .rswap _ _ => false
  | .rswapTd _ _ => false
  | .rstat _ _ => false
  | .rfree _ => false
  | .rpost _ _ => false
  | .rsweep _ => false
  | .rmark _ _ => false
  | .rkill _ => false
  | .rreplay _ => false
  | .enq _ _ _ => false
  | .enqOpen _ _ _ => false
  | .enqShut _ _ => false
  | .enqResume _ _ _ => false
  | .cwait _ _ _ => false
  | .cseq _ _ => false
  | .pub _ _ => false
  | .tdset _ _ _ => false
  | .tdget _ _ _ => false
  | .tdclr _ _ => false
  | .srd _ _ => false
  | .swr _ _ => false
  | .sset _ _ _ => false
  | .sclr _ _ _ => false
  | .sysregWrite => false
  | .statusWrite => false
  | .mboxoutWrite => false
  | .mboxinRead => false
  | .injctlWrite => false
  | .trap _ => false
  | .sysret => false
  | .halt => false
  | .wfe => false
  | .tlbinvs _ => false
  | .tlbinva _ _ => false
  | .spgen _ _ => false
  | .ctxsave _ _ _ => false
  | .ctxload _ _ _ => false
  | .triggerDelivery => false
  | .threadPreemption => false
  | .mboxFlitArrival => false
  | .doorbellFlit => false
  | .arbiterCycle => false
  | .nitinolMove => false
  | .queueArrival => false
  | .ingressAdmit => false
  | .egressToken => false
  | .periodCompletion => false
  | .drainedEvent => false
  | .teardownPeriodStart => false
  | .hangSweep => false
  | .faultRecordDeferred => false
  | .atsTranslationCompletion => false
  | .prgResponse => false
  | .atsInvalidateRequest => false
  | .atsInvalidateCompletion => false
  | .nodeMarkSave => false
  | .markerPassageComplete => false
  | .markerTimeout => false
  | .nop => false
  | .copy => false
  | .wload => false
  | .gather => false
  | .allred => false
  | .redscat => false
  | .allgath => false
  | .engineSector => false
  | .batchCompletion => false
  | .commandPortReceive => false
  | .scrubRow => false
  | .errorWindowBoundary => false
  | .evacuationRowCopy => false
  | .invarRelaunchRetry => false
  | .linkCrcRetransmit => false
  | .refreshWindowStart => false
  | .refreshWindowEnd => false
  | .thermalSample => false
  | .thermalTrip => false
  | .railUndervoltage => false
  | .railRecovery => false
  | .moduleReset => false
  | .ident => false
  | .attest => false
  | .logread => false
  | .update => false
  | .start => false
  | .setmod => false
  | .reset => false
  | .iadd _ _ _ => true
  | .isub _ _ _ => true
  | .imul _ _ _ => true
  | .imulh _ _ => true
  | .imad _ _ _ => true
  | .imin _ _ => true
  | .imax _ _ => true
  | .iabs _ _ => true
  | .ineg _ _ => true
  | .iand _ _ => true
  | .ior _ _ => true
  | .ixor _ _ => true
  | .inot _ => true
  | .ishl _ _ => true
  | .ishr _ _ => true
  | .isha _ _ => true
  | .icmpeq _ _ => true
  | .icmpne _ _ => true
  | .icmplt _ _ => true
  | .icmple _ _ => true
  | .sel _ _ => true
  | .clzNode _ => true
  | .popcNode _ => true
  | .isat _ _ => true
  | .iclamp _ _ => true
  | .faddNode _ _ _ => true
  | .fsubNode _ _ _ => true
  | .fmulNode _ _ _ => true
  | .ffmaNode _ _ _ => true
  | .fminNode _ _ => true
  | .fmaxNode _ _ => true
  | .fabsNode _ => true
  | .fnegNode _ => true
  | .fcmpeqNode _ _ => true
  | .fcmpltNode _ _ => true
  | .fcmpleNode _ _ => true
  | .frcpNode _ _ => true
  | .frsqNode _ _ => true
  | .fsqrtNode _ _ => true
  | .fexp2 _ _ => true
  | .flog2 _ _ => true
  | .cvt _ _ _ _ _ _ => true
  | .cvtsr _ _ _ => true
  | .sdenc _ _ _ _ => true
  | .sddec _ _ _ _ => true
  | .qmax _ _ => true
  | .qconv _ _ => true
  | .qdeq _ _ => true
  | .pack _ => true
  | .unpack _ _ => true
  | .shuf _ => true
  | .bcast _ _ => true
  | .rsum _ _ => true
  | .rmax _ => true
  | .rmin _ => true
  | .accum _ _ => true
  | .wsum _ _ => true
  | .wcnt _ => true
  | .xred _ _ => true
  | .steer _ => true
  | .merge _ _ => true
  | .gate _ _ => true
  | .chain _ _ => true
  | .repl _ _ => true
  | .sink _ _ _ => true
  | .source _ _ _ => true
  | .join _ _ => true
  | .win _ => true
  | .gapc _ _ _ => true
  | .hashk _ => true
  | .dropm _ _ _ => true
  | .gld _ _ _ _ => true
  | .gst _ _ _ _ => true
  | .sld _ _ _ _ => true
  | .sst _ _ _ _ => true
  | .wld _ _ _ _ => true
  | .tld _ _ _ _ => true
  | .tst _ _ _ _ _ => true
  | .done _ => true
  | .ecmd => true
  | .tshape _ => true
  | .tprec => true
  | .tfill _ _ _ => true
  | .temit _ _ _ _ => true
  | .tlds _ _ _ => true
  | .tsts _ _ _ _ => true
  | .tzero _ _ _ _ => true
  | .tmma _ _ _ _ _ => true
  | .tmmaCompletion => false
  | .tmov _ _ _ _ => true
  | .tcvt _ _ _ _ => true
  | .tepi _ _ _ _ => true
  | .tquant _ _ _ => true
  | .tacc _ _ => true
  | .csc _ _ _ _ _ => true
  | .norm _ _ => true
  | .perm => true
  | .vote _ => true
  | .cksum _ _ _ _ => true
  | .ckchk _ => true
  | .capq => true
  | .illegalWord _ => false
  | .wfeSpuriousEnd => false
  | .l2Eviction => false
  | .translationEntryDrop => false
  | .memoryAccessPerformed => false
  | .matrixOpCompletion => false
  | .solwenLinkFlit => false
  | .priCapabilityEnable => false
  | .discardsWrite => false
  | .bar0Access => false
  | .unassignedCobaltOpcode => false
  | .cobaltCommandDone => false

/-- A well-formed instruction. -/
abbrev WellFormed (i : Instr) : Prop := i.wf = true

end Sys2Proof
end

