-- ==== Sys2Proof/Decode.lean ====
section
/-! DEFINITION. The decoders of the two kinds of 32-bit word, total on any word, and the encoder.  A
control word that is in no row, or whose fields the row does not allow, is the instruction
`illegalWord`, which raises ILLEGAL when it issues (R26, R27).  An operation word that is in no row
is refused: the loader answers IMAGE (R35). -/

namespace Sys2Proof
open Machine

/-- The control word's row of Tables 2.3 to 2.7: every bit a row fixes, the reserved fields of R27,
R28 and R31 included, must hold the row's value. -/
def controlRow (w : BitVec 32) : Option Instr :=
  match (w.extractLsb' 26 6).toNat with
  | 0x00 =>
    if fld w 0 11 == 0 then some (.add (fld w 21 5) (fld w 16 5) (fld w 11 5))
    else if fld w 0 11 == 1 then some (.sub (fld w 21 5) (fld w 16 5) (fld w 11 5))
    else if fld w 0 11 == 2 then some (.and (fld w 21 5) (fld w 16 5) (fld w 11 5))
    else if fld w 0 11 == 3 then some (.or (fld w 21 5) (fld w 16 5) (fld w 11 5))
    else if fld w 0 11 == 4 then some (.xor (fld w 21 5) (fld w 16 5) (fld w 11 5))
    else if fld w 0 11 == 5 then some (.andn (fld w 21 5) (fld w 16 5) (fld w 11 5))
    else if fld w 0 11 == 6 then some (.shl (fld w 21 5) (fld w 16 5) (fld w 11 5))
    else if fld w 0 11 == 7 then some (.shr (fld w 21 5) (fld w 16 5) (fld w 11 5))
    else if fld w 0 11 == 8 then some (.sha (fld w 21 5) (fld w 16 5) (fld w 11 5))
    else if fld w 0 11 == 9 then some (.slt (fld w 21 5) (fld w 16 5) (fld w 11 5))
    else if fld w 0 11 == 10 then some (.sltn (fld w 21 5) (fld w 16 5) (fld w 11 5))
    else if fld w 0 11 == 11 then some (.min (fld w 21 5) (fld w 16 5) (fld w 11 5))
    else if fld w 0 11 == 12 then some (.max (fld w 21 5) (fld w 16 5) (fld w 11 5))
    else if fld w 0 11 == 13 then some (.minn (fld w 21 5) (fld w 16 5) (fld w 11 5))
    else if fld w 0 11 == 14 then some (.maxn (fld w 21 5) (fld w 16 5) (fld w 11 5))
    else if fld w 0 16 == 15 then some (.clz (fld w 21 5) (fld w 16 5))
    else if fld w 0 16 == 16 then some (.popc (fld w 21 5) (fld w 16 5))
    else none
  | 0x01 =>
    if fld w 0 11 == 0 then some (.mul (fld w 21 5) (fld w 16 5) (fld w 11 5))
    else if fld w 0 11 == 1 then some (.mulh (fld w 21 5) (fld w 16 5) (fld w 11 5))
    else if fld w 0 11 == 2 then some (.mulhn (fld w 21 5) (fld w 16 5) (fld w 11 5))
    else if fld w 0 11 == 3 then some (.div (fld w 21 5) (fld w 16 5) (fld w 11 5))
    else if fld w 0 11 == 4 then some (.divn (fld w 21 5) (fld w 16 5) (fld w 11 5))
    else if fld w 0 11 == 5 then some (.rem (fld w 21 5) (fld w 16 5) (fld w 11 5))
    else if fld w 0 11 == 6 then some (.remn (fld w 21 5) (fld w 16 5) (fld w 11 5))
    else none
  | 0x02 =>
    if fld w 0 5 == 0 then some (.fadd (fld w 21 5) (fld w 16 5) (fld w 11 5) (fld w 8 3) (fld w 5 3))
    else if fld w 0 5 == 1 then some (.fsub (fld w 21 5) (fld w 16 5) (fld w 11 5) (fld w 8 3) (fld w 5 3))
    else if fld w 0 5 == 2 then some (.fmul (fld w 21 5) (fld w 16 5) (fld w 11 5) (fld w 8 3) (fld w 5 3))
    else if fld w 0 5 == 3 then some (.ffma (fld w 21 5) (fld w 16 5) (fld w 11 5) (fld w 8 3) (fld w 5 3))
    else if fld w 0 8 == 4 then some (.fmin (fld w 21 5) (fld w 16 5) (fld w 11 5) (fld w 8 3))
    else if fld w 0 8 == 5 then some (.fmax (fld w 21 5) (fld w 16 5) (fld w 11 5) (fld w 8 3))
    else if fld w 0 8 == 6 then some (.fcmpeq (fld w 21 5) (fld w 16 5) (fld w 11 5) (fld w 8 3))
    else if fld w 0 8 == 7 then some (.fcmplt (fld w 21 5) (fld w 16 5) (fld w 11 5) (fld w 8 3))
    else if fld w 0 8 == 8 then some (.fcmple (fld w 21 5) (fld w 16 5) (fld w 11 5) (fld w 8 3))
    else if fld w 0 5 == 9 && fld w 11 5 == 0 then some (.frcp (fld w 21 5) (fld w 16 5) (fld w 8 3) (fld w 5 3))
    else if fld w 0 5 == 10 && fld w 11 5 == 0 then some (.frsq (fld w 21 5) (fld w 16 5) (fld w 8 3) (fld w 5 3))
    else if fld w 0 5 == 11 && fld w 11 5 == 0 then some (.fsqrt (fld w 21 5) (fld w 16 5) (fld w 8 3) (fld w 5 3))
    else if fld w 0 5 == 12 then some (.fcvt (fld w 21 5) (fld w 16 5) (fld w 11 5) (fld w 8 3) (fld w 5 3))
    else if fld w 0 8 == 13 && fld w 11 5 == 0 then some (.fabs (fld w 21 5) (fld w 16 5) (fld w 8 3))
    else if fld w 0 8 == 14 && fld w 11 5 == 0 then some (.fneg (fld w 21 5) (fld w 16 5) (fld w 8 3))
    else none
  | 0x04 =>
    some (.addi (fld w 21 5) (fld w 16 5) (fld w 0 16))
  | 0x05 =>
    some (.andi (fld w 21 5) (fld w 16 5) (fld w 0 16))
  | 0x06 =>
    some (.ori (fld w 21 5) (fld w 16 5) (fld w 0 16))
  | 0x07 =>
    some (.xori (fld w 21 5) (fld w 16 5) (fld w 0 16))
  | 0x08 =>
    if fld w 6 10 == 0 then some (.shli (fld w 21 5) (fld w 16 5) (fld w 0 6))
    else none
  | 0x09 =>
    if fld w 6 10 == 0 then some (.shri (fld w 21 5) (fld w 16 5) (fld w 0 6))
    else none
  | 0x0A =>
    if fld w 6 10 == 0 then some (.shai (fld w 21 5) (fld w 16 5) (fld w 0 6))
    else none
  | 0x0B =>
    if fld w 16 5 == 0 then some (.ldhi (fld w 21 5) (fld w 0 16))
    else none
  | 0x0C =>
    some (.slti (fld w 21 5) (fld w 16 5) (fld w 0 16))
  | 0x10 =>
    some (.br (fld w 21 5) (fld w 16 5) (fld w 13 3) (fld w 0 13))
  | 0x11 =>
    some (.jmp (fld w 0 26))
  | 0x12 =>
    some (.call (fld w 0 26))
  | 0x13 =>
    if fld w 0 16 == 0 then some (.jr (fld w 21 5) (fld w 16 5))
    else none
  | 0x14 =>
    some (.ld (fld w 21 5) (fld w 16 5) (fld w 13 3) (fld w 0 13))
  | 0x15 =>
    some (.st (fld w 21 5) (fld w 16 5) (fld w 13 3) (fld w 0 13))
  | 0x16 =>
    if fld w 0 11 == 0 then some (.bind (fld w 21 5) (fld w 16 5) (fld w 11 5))
    else if fld w 0 11 == 1 then some (.unbind (fld w 21 5) (fld w 16 5) (fld w 11 5))
    else if fld w 0 16 == 2 && fld w 21 5 == 0 then some (.acqx (fld w 16 5))
    else if fld w 0 16 == 3 && fld w 21 5 == 0 then some (.acqs (fld w 16 5))
    else if fld w 0 16 == 4 && fld w 21 5 == 0 then some (.rel (fld w 16 5))
    else if fld w 0 8 == 5 && fld w 11 15 == 0 then some (.fence (fld w 8 3))
    else none
  | 0x17 =>
    if fld w 0 4 == 0 && fld w 5 6 == 0 then some (.aadd (fld w 21 5) (fld w 16 5) (fld w 11 5) (fld w 4 1))
    else if fld w 0 4 == 1 && fld w 5 6 == 0 then some (.aand (fld w 21 5) (fld w 16 5) (fld w 11 5) (fld w 4 1))
    else if fld w 0 4 == 2 && fld w 5 6 == 0 then some (.aor (fld w 21 5) (fld w 16 5) (fld w 11 5) (fld w 4 1))
    else if fld w 0 4 == 3 && fld w 5 6 == 0 then some (.axor (fld w 21 5) (fld w 16 5) (fld w 11 5) (fld w 4 1))
    else if fld w 0 4 == 4 && fld w 5 6 == 0 then some (.amin (fld w 21 5) (fld w 16 5) (fld w 11 5) (fld w 4 1))
    else if fld w 0 4 == 5 && fld w 5 6 == 0 then some (.amax (fld w 21 5) (fld w 16 5) (fld w 11 5) (fld w 4 1))
    else if fld w 0 4 == 6 && fld w 5 6 == 0 then some (.aminn (fld w 21 5) (fld w 16 5) (fld w 11 5) (fld w 4 1))
    else if fld w 0 4 == 7 && fld w 5 6 == 0 then some (.amaxn (fld w 21 5) (fld w 16 5) (fld w 11 5) (fld w 4 1))
    else if fld w 0 4 == 8 && fld w 5 6 == 0 then some (.axchg (fld w 21 5) (fld w 16 5) (fld w 11 5) (fld w 4 1))
    else if fld w 0 4 == 9 && fld w 5 6 == 0 then some (.acas (fld w 21 5) (fld w 16 5) (fld w 11 5) (fld w 4 1))
    else none
  | 0x18 =>
    if fld w 1 15 == 0 then some (.rclaim (fld w 21 5) (fld w 16 5) (fld w 0 1))
    else if fld w 0 16 == 64 then some (.rload (fld w 21 5) (fld w 16 5))
    else if fld w 0 16 == 128 then some (.rstart (fld w 21 5) (fld w 16 5))
    else if fld w 0 11 == 192 then some (.rfeed (fld w 21 5) (fld w 16 5) (fld w 11 5))
    else if fld w 0 11 == 193 then some (.rfeedBridge (fld w 21 5) (fld w 16 5) (fld w 11 5))
    else if fld w 0 11 == 256 then some (.rtap (fld w 21 5) (fld w 16 5) (fld w 11 5))
    else if fld w 0 11 == 257 then some (.rtapBridge (fld w 21 5) (fld w 16 5) (fld w 11 5))
    else if fld w 0 21 == 320 then some (.rdrain (fld w 21 5))
    else if fld w 0 21 == 384 then some (.rwait (fld w 21 5))
    else if fld w 0 21 == 385 then some (.rwaitDrained (fld w 21 5))
    else if fld w 0 16 == 448 then some (.rswap (fld w 21 5) (fld w 16 5))
    else if fld w 0 16 == 449 then some (.rswapTd (fld w 21 5) (fld w 16 5))
    else if fld w 6 15 == 8 then some (.rstat (fld w 21 5) (fld w 0 6))
    else if fld w 0 21 == 576 then some (.rfree (fld w 21 5))
    else if fld w 0 16 == 640 then some (.rpost (fld w 21 5) (fld w 16 5))
    else if fld w 0 21 == 704 then some (.rsweep (fld w 21 5))
    else if fld w 0 16 == 768 then some (.rmark (fld w 21 5) (fld w 16 5))
    else if fld w 0 21 == 832 then some (.rkill (fld w 21 5))
    else if fld w 0 21 == 896 then some (.rreplay (fld w 21 5))
    else none
  | 0x19 =>
    if fld w 0 11 == 0 then some (.enq (fld w 21 5) (fld w 16 5) (fld w 11 5))
    else if fld w 0 11 == 1 then some (.enqOpen (fld w 21 5) (fld w 16 5) (fld w 11 5))
    else if fld w 0 16 == 2 then some (.enqShut (fld w 21 5) (fld w 16 5))
    else if fld w 0 11 == 4 then some (.enqResume (fld w 21 5) (fld w 16 5) (fld w 11 5))
    else if fld w 6 10 == 1 then some (.cwait (fld w 21 5) (fld w 16 5) (fld w 0 6))
    else if fld w 0 16 == 128 then some (.cseq (fld w 21 5) (fld w 16 5))
    else if fld w 0 16 == 192 then some (.pub (fld w 21 5) (fld w 16 5))
    else none
  | 0x1A =>
    if fld w 0 11 == 0 then some (.tdset (fld w 21 5) (fld w 16 5) (fld w 11 5))
    else if fld w 0 11 == 64 then some (.tdget (fld w 21 5) (fld w 16 5) (fld w 11 5))
    else if fld w 0 16 == 128 then some (.tdclr (fld w 21 5) (fld w 16 5))
    else none
  | 0x1C =>
    if fld w 0 4 == 0 && fld w 16 5 == 0 then some (.srd (fld w 21 5) (fld w 4 12))
    else if fld w 0 4 == 1 && fld w 21 5 == 0 then some (.swr (fld w 16 5) (fld w 4 12))
    else if fld w 0 4 == 2 then some (.sset (fld w 21 5) (fld w 16 5) (fld w 4 12))
    else if fld w 0 4 == 3 then some (.sclr (fld w 21 5) (fld w 16 5) (fld w 4 12))
    else none
  | 0x1D =>
    if fld w 0 11 == 0 && fld w 16 10 == 0 then some (.trap (fld w 11 5))
    else if fld w 0 26 == 1 then some (.sysret)
    else if fld w 0 26 == 2 then some (.halt)
    else if fld w 0 26 == 3 then some (.wfe)
    else none
  | 0x1E =>
    if fld w 0 16 == 0 && fld w 21 5 == 0 then some (.tlbinvs (fld w 16 5))
    else if fld w 0 11 == 1 && fld w 21 5 == 0 then some (.tlbinva (fld w 16 5) (fld w 11 5))
    else if fld w 0 16 == 2 then some (.spgen (fld w 21 5) (fld w 16 5))
    else none
  | 0x1F =>
    if fld w 0 11 == 0 then some (.ctxsave (fld w 21 5) (fld w 16 5) (fld w 11 5))
    else if fld w 0 11 == 1 then some (.ctxload (fld w 21 5) (fld w 16 5) (fld w 11 5))
    else none
  | _ => none

/-- The operation word's row of Table 2.9 and of the encoding tables of the operations. -/
def operationRow (w : BitVec 32) : Option Instr :=
  match (w.extractLsb' 24 8).toNat with
  | 0x00 => if fld w 0 2 == 0 && fld w 3 13 == 0 && fld w 18 2 == 0 then some (.iadd (fld w 20 4) (fld w 16 2) (fld w 2 1)) else none
  | 0x01 => if fld w 0 2 == 0 && fld w 3 13 == 0 && fld w 18 2 == 0 then some (.isub (fld w 20 4) (fld w 16 2) (fld w 2 1)) else none
  | 0x02 => if fld w 0 2 == 0 && fld w 3 13 == 0 && fld w 18 2 == 0 then some (.imul (fld w 20 4) (fld w 16 2) (fld w 2 1)) else none
  | 0x03 => if fld w 0 16 == 0 && fld w 18 2 == 0 then some (.imulh (fld w 20 4) (fld w 16 2)) else none
  | 0x04 => if fld w 0 2 == 0 && fld w 3 13 == 0 && fld w 18 2 == 0 then some (.imad (fld w 20 4) (fld w 16 2) (fld w 2 1)) else none
  | 0x05 => if fld w 0 16 == 0 && fld w 18 2 == 0 then some (.imin (fld w 20 4) (fld w 16 2)) else none
  | 0x06 => if fld w 0 16 == 0 && fld w 18 2 == 0 then some (.imax (fld w 20 4) (fld w 16 2)) else none
  | 0x07 => if fld w 0 2 == 0 && fld w 3 17 == 24576 then some (.iabs (fld w 20 4) (fld w 2 1)) else none
  | 0x08 => if fld w 0 2 == 0 && fld w 3 17 == 24576 then some (.ineg (fld w 20 4) (fld w 2 1)) else none
  | 0x09 => if fld w 0 16 == 0 && fld w 18 2 == 0 then some (.iand (fld w 20 4) (fld w 16 2)) else none
  | 0x0A => if fld w 0 16 == 0 && fld w 18 2 == 0 then some (.ior (fld w 20 4) (fld w 16 2)) else none
  | 0x0B => if fld w 0 16 == 0 && fld w 18 2 == 0 then some (.ixor (fld w 20 4) (fld w 16 2)) else none
  | 0x0C => if fld w 0 20 == 196608 then some (.inot (fld w 20 4)) else none
  | 0x0D => if fld w 0 16 == 0 && fld w 18 2 == 0 then some (.ishl (fld w 20 4) (fld w 16 2)) else none
  | 0x0E => if fld w 0 16 == 0 && fld w 18 2 == 0 then some (.ishr (fld w 20 4) (fld w 16 2)) else none
  | 0x0F => if fld w 0 16 == 0 && fld w 18 2 == 0 then some (.isha (fld w 20 4) (fld w 16 2)) else none
  | 0x10 => if fld w 0 16 == 0 && fld w 18 2 == 0 then some (.icmpeq (fld w 20 4) (fld w 16 2)) else none
  | 0x11 => if fld w 0 16 == 0 && fld w 18 2 == 0 then some (.icmpne (fld w 20 4) (fld w 16 2)) else none
  | 0x12 => if fld w 0 16 == 0 && fld w 18 2 == 0 then some (.icmplt (fld w 20 4) (fld w 16 2)) else none
  | 0x13 => if fld w 0 16 == 0 && fld w 18 2 == 0 then some (.icmple (fld w 20 4) (fld w 16 2)) else none
  | 0x14 => if fld w 0 16 == 0 && fld w 18 2 == 0 then some (.sel (fld w 20 4) (fld w 16 2)) else none
  | 0x15 => if fld w 0 20 == 196608 then some (.clzNode (fld w 20 4)) else none
  | 0x16 => if fld w 0 20 == 196608 then some (.popcNode (fld w 20 4)) else none
  | 0x17 => if fld w 6 14 == 3072 then some (.isat (fld w 20 4) (fld w 0 6)) else none
  | 0x18 => if fld w 0 16 == 0 && fld w 18 2 == 0 then some (.iclamp (fld w 20 4) (fld w 16 2)) else none
  | 0x20 => if fld w 2 14 == 0 && fld w 18 2 == 0 then some (.faddNode (fld w 20 4) (fld w 16 2) (fld w 0 2)) else none
  | 0x21 => if fld w 2 14 == 0 && fld w 18 2 == 0 then some (.fsubNode (fld w 20 4) (fld w 16 2) (fld w 0 2)) else none
  | 0x22 => if fld w 2 14 == 0 && fld w 18 2 == 0 then some (.fmulNode (fld w 20 4) (fld w 16 2) (fld w 0 2)) else none
  | 0x23 => if fld w 2 14 == 0 && fld w 18 2 == 0 then some (.ffmaNode (fld w 20 4) (fld w 16 2) (fld w 0 2)) else none
  | 0x24 => if fld w 0 16 == 0 && fld w 18 2 == 0 then some (.fminNode (fld w 20 4) (fld w 16 2)) else none
  | 0x25 => if fld w 0 16 == 0 && fld w 18 2 == 0 then some (.fmaxNode (fld w 20 4) (fld w 16 2)) else none
  | 0x26 => if fld w 0 20 == 196608 then some (.fabsNode (fld w 20 4)) else none
  | 0x27 => if fld w 0 20 == 196608 then some (.fnegNode (fld w 20 4)) else none
  | 0x28 => if fld w 0 16 == 0 && fld w 18 2 == 0 then some (.fcmpeqNode (fld w 20 4) (fld w 16 2)) else none
  | 0x29 => if fld w 0 16 == 0 && fld w 18 2 == 0 then some (.fcmpltNode (fld w 20 4) (fld w 16 2)) else none
  | 0x2A => if fld w 0 16 == 0 && fld w 18 2 == 0 then some (.fcmpleNode (fld w 20 4) (fld w 16 2)) else none
  | 0x2B => if fld w 2 18 == 49152 then some (.frcpNode (fld w 20 4) (fld w 0 2)) else none
  | 0x2C => if fld w 2 18 == 49152 then some (.frsqNode (fld w 20 4) (fld w 0 2)) else none
  | 0x2D => if fld w 2 18 == 49152 then some (.fsqrtNode (fld w 20 4) (fld w 0 2)) else none
  | 0x2E => if fld w 2 18 == 49152 then some (.fexp2 (fld w 20 4) (fld w 0 2)) else none
  | 0x2F => if fld w 2 18 == 49152 then some (.flog2 (fld w 20 4) (fld w 0 2)) else none
  | 0x30 => if fld w 3 5 == 0 && fld w 16 4 == 3 then some (.cvt (fld w 20 4) (fld w 12 4) (fld w 11 1) (fld w 8 3) (fld w 2 1) (fld w 0 2)) else none
  | 0x31 => if fld w 14 6 == 12 then some (.cvtsr (fld w 20 4) (fld w 8 6) (fld w 0 8)) else none
  | 0x32 => if fld w 6 2 == 0 && fld w 16 8 == 211 then some (.sdenc (fld w 12 4) (fld w 11 1) (fld w 8 3) (fld w 0 6)) else none
  | 0x33 => if fld w 6 2 == 0 && fld w 12 8 == 48 then some (.sddec (fld w 20 4) (fld w 11 1) (fld w 8 3) (fld w 0 6)) else none
  | 0x34 => if fld w 4 16 == 12288 then some (.qmax (fld w 20 4) (fld w 0 4)) else none
  | 0x35 => if fld w 0 12 == 0 && fld w 16 4 == 0 then some (.qconv (fld w 20 4) (fld w 12 4)) else none
  | 0x36 => if fld w 0 12 == 0 && fld w 16 4 == 0 then some (.qdeq (fld w 20 4) (fld w 12 4)) else none
  | 0x37 => if fld w 0 20 == 0 then some (.pack (fld w 20 4)) else none
  | 0x38 => if fld w 8 12 == 768 then some (.unpack (fld w 20 4) (fld w 0 8)) else none
  | 0x39 => if fld w 0 20 == 196608 then some (.shuf (fld w 20 4)) else none
  | 0x3A => if fld w 6 14 == 3072 then some (.bcast (fld w 20 4) (fld w 0 6)) else none
  | 0x40 => if fld w 1 19 == 98304 then some (.rsum (fld w 20 4) (fld w 0 1)) else none
  | 0x41 => if fld w 0 20 == 196608 then some (.rmax (fld w 20 4)) else none
  | 0x42 => if fld w 0 20 == 196608 then some (.rmin (fld w 20 4)) else none
  | 0x43 => if fld w 1 19 == 98304 then some (.accum (fld w 20 4) (fld w 0 1)) else none
  | 0x44 => if fld w 1 19 == 98304 then some (.wsum (fld w 20 4) (fld w 0 1)) else none
  | 0x45 => if fld w 1 23 == 622592 then some (.wcnt (fld w 0 1)) else none
  | 0x46 => if fld w 2 18 == 0 then some (.xred (fld w 20 4) (fld w 0 2)) else none
  | 0x50 => if fld w 0 20 == 196608 then some (.steer (fld w 20 4)) else none
  | 0x51 => if fld w 1 19 == 0 then some (.merge (fld w 20 4) (fld w 0 1)) else none
  | 0x52 => if fld w 1 19 == 98304 then some (.gate (fld w 20 4) (fld w 0 1)) else none
  | 0x53 => if fld w 0 16 == 0 && fld w 20 4 == 0 then some (.chain (fld w 18 2) (fld w 16 2)) else none
  | 0x54 => if fld w 6 14 == 3072 then some (.repl (fld w 20 4) (fld w 0 6)) else none
  | 0x55 => if fld w 5 15 == 6144 then some (.sink (fld w 20 4) (fld w 4 1) (fld w 0 4)) else none
  | 0x56 => if fld w 8 10 == 768 then some (.source (fld w 20 4) (fld w 18 2) (fld w 0 8)) else none
  | 0x57 => if fld w 1 19 == 0 then some (.join (fld w 20 4) (fld w 0 1)) else none
  | 0x58 => if fld w 0 20 == 196608 then some (.win (fld w 20 4)) else none
  | 0x59 => if fld w 5 15 == 6144 then some (.gapc (fld w 20 4) (fld w 4 1) (fld w 0 4)) else none
  | 0x5A => if fld w 8 16 == 58112 then some (.hashk (fld w 0 8)) else none
  | 0x5B => if fld w 14 6 == 12 then some (.dropm (fld w 20 4) (fld w 8 6) (fld w 0 8)) else none
  | 0x60 => if fld w 3 3 == 0 && fld w 8 12 == 768 then some (.gld (fld w 20 4) (fld w 7 1) (fld w 6 1) (fld w 0 3)) else none
  | 0x61 => if fld w 3 3 == 0 && fld w 8 12 == 0 then some (.gst (fld w 20 4) (fld w 7 1) (fld w 6 1) (fld w 0 3)) else none
  | 0x62 => if fld w 3 3 == 0 && fld w 8 12 == 768 then some (.sld (fld w 20 4) (fld w 7 1) (fld w 6 1) (fld w 0 3)) else none
  | 0x63 => if fld w 3 3 == 0 && fld w 8 12 == 0 then some (.sst (fld w 20 4) (fld w 7 1) (fld w 6 1) (fld w 0 3)) else none
  | 0x64 => if fld w 3 3 == 0 && fld w 8 12 == 768 then some (.wld (fld w 20 4) (fld w 7 1) (fld w 6 1) (fld w 0 3)) else none
  | 0x65 => if fld w 4 8 == 0 && fld w 18 6 == 60 then some (.tld (fld w 16 2) (fld w 12 4) (fld w 3 1) (fld w 0 3)) else none
  | 0x66 => if fld w 6 6 == 0 && fld w 16 8 == 243 then some (.tst (fld w 12 4) (fld w 5 1) (fld w 2 3) (fld w 1 1) (fld w 0 1)) else none
  | 0x67 => if fld w 0 3 == 0 && fld w 4 20 == 983040 then some (.done (fld w 3 1)) else none
  | 0x68 => if fld w 0 24 == 15728640 then some (.ecmd) else none
  | 0x70 => if fld w 0 12 == 0 && fld w 16 8 == 241 then some (.tshape (fld w 12 4)) else none
  | 0x71 => if fld w 0 24 == 15794176 then some (.tprec) else none
  | 0x72 => if fld w 0 12 == 0 && fld w 18 2 == 0 then some (.tfill (fld w 20 4) (fld w 16 2) (fld w 12 4)) else none
  | 0x73 => if fld w 2 10 == 0 && fld w 16 4 == 3 then some (.temit (fld w 20 4) (fld w 12 4) (fld w 1 1) (fld w 0 1)) else none
  | 0x74 => if fld w 3 9 == 0 && fld w 18 6 == 60 then some (.tlds (fld w 16 2) (fld w 12 4) (fld w 0 3)) else none
  | 0x75 => if fld w 5 7 == 0 && fld w 16 8 == 243 then some (.tsts (fld w 12 4) (fld w 2 3) (fld w 1 1) (fld w 0 1)) else none
  | 0x76 => if fld w 2 10 == 0 && fld w 18 6 == 60 then some (.tzero (fld w 16 2) (fld w 12 4) (fld w 1 1) (fld w 0 1)) else none
  | 0x77 => if fld w 3 5 == 0 && fld w 16 8 == 243 then some (.tmma (fld w 12 4) (fld w 8 4) (fld w 2 1) (fld w 1 1) (fld w 0 1)) else none
  | 0x78 => if fld w 2 6 == 0 && fld w 16 8 == 243 then some (.tmov (fld w 12 4) (fld w 8 4) (fld w 1 1) (fld w 0 1)) else none
  | 0x79 => if fld w 3 5 == 0 && fld w 16 8 == 243 then some (.tcvt (fld w 12 4) (fld w 8 4) (fld w 2 1) (fld w 0 2)) else none
  | 0x7A => if fld w 4 16 == 4096 then some (.tepi (fld w 20 4) (fld w 3 1) (fld w 2 1) (fld w 0 2)) else none
  | 0x7B => if fld w 1 7 == 0 && fld w 16 8 == 243 then some (.tquant (fld w 12 4) (fld w 8 4) (fld w 0 1)) else none
  | 0x7C => if fld w 1 19 == 98304 then some (.tacc (fld w 20 4) (fld w 0 1)) else none
  | 0x80 => if fld w 2 6 == 0 && fld w 16 4 == 3 then some (.csc (fld w 20 4) (fld w 12 4) (fld w 11 1) (fld w 8 3) (fld w 0 2)) else none
  | 0x81 => if fld w 2 18 == 49152 then some (.norm (fld w 20 4) (fld w 0 2)) else none
  | 0x82 => if fld w 0 24 == 1245184 then some (.perm) else none
  | 0x83 => if fld w 0 20 == 0 then some (.vote (fld w 20 4)) else none
  | 0x84 => if fld w 2 14 == 0 && fld w 18 2 == 0 then some (.cksum (fld w 20 4) (fld w 16 2) (fld w 1 1) (fld w 0 1)) else none
  | 0x85 => if fld w 0 20 == 0 then some (.ckchk (fld w 20 4)) else none
  | 0x86 => if fld w 0 24 == 1245184 then some (.capq) else none
  | _ => none

/-- The 32-bit word of an instruction: `none` for a step that has no word. -/
def encode (i : Instr) : Option (BitVec 32) :=
  match i with
  | .add d a b => some (0#6 ++ d ++ a ++ b ++ 0#11)
  | .sub d a b => some (0#6 ++ d ++ a ++ b ++ 1#11)
  | .and d a b => some (0#6 ++ d ++ a ++ b ++ 2#11)
  | .or d a b => some (0#6 ++ d ++ a ++ b ++ 3#11)
  | .xor d a b => some (0#6 ++ d ++ a ++ b ++ 4#11)
  | .andn d a b => some (0#6 ++ d ++ a ++ b ++ 5#11)
  | .shl d a b => some (0#6 ++ d ++ a ++ b ++ 6#11)
  | .shr d a b => some (0#6 ++ d ++ a ++ b ++ 7#11)
  | .sha d a b => some (0#6 ++ d ++ a ++ b ++ 8#11)
  | .slt d a b => some (0#6 ++ d ++ a ++ b ++ 9#11)
  | .sltn d a b => some (0#6 ++ d ++ a ++ b ++ 10#11)
  | .min d a b => some (0#6 ++ d ++ a ++ b ++ 11#11)
  | .max d a b => some (0#6 ++ d ++ a ++ b ++ 12#11)
  | .minn d a b => some (0#6 ++ d ++ a ++ b ++ 13#11)
  | .maxn d a b => some (0#6 ++ d ++ a ++ b ++ 14#11)
  | .clz d a => some (0#6 ++ d ++ a ++ 15#16)
  | .popc d a => some (0#6 ++ d ++ a ++ 16#16)
  | .mul d a b => some (1#6 ++ d ++ a ++ b ++ 0#11)
  | .mulh d a b => some (1#6 ++ d ++ a ++ b ++ 1#11)
  | .mulhn d a b => some (1#6 ++ d ++ a ++ b ++ 2#11)
  | .div d a b => some (1#6 ++ d ++ a ++ b ++ 3#11)
  | .divn d a b => some (1#6 ++ d ++ a ++ b ++ 4#11)
  | .rem d a b => some (1#6 ++ d ++ a ++ b ++ 5#11)
  | .remn d a b => some (1#6 ++ d ++ a ++ b ++ 6#11)
  | .fadd d a b f r => some (2#6 ++ d ++ a ++ b ++ f ++ r ++ 0#5)
  | .fsub d a b f r => some (2#6 ++ d ++ a ++ b ++ f ++ r ++ 1#5)
  | .fmul d a b f r => some (2#6 ++ d ++ a ++ b ++ f ++ r ++ 2#5)
  | .ffma d a b f r => some (2#6 ++ d ++ a ++ b ++ f ++ r ++ 3#5)
  | .fmin d a b f => some (2#6 ++ d ++ a ++ b ++ f ++ 4#8)
  | .fmax d a b f => some (2#6 ++ d ++ a ++ b ++ f ++ 5#8)
  | .fcmpeq d a b f => some (2#6 ++ d ++ a ++ b ++ f ++ 6#8)
  | .fcmplt d a b f => some (2#6 ++ d ++ a ++ b ++ f ++ 7#8)
  | .fcmple d a b f => some (2#6 ++ d ++ a ++ b ++ f ++ 8#8)
  | .frcp d a f r => some (2#6 ++ d ++ a ++ 0#5 ++ f ++ r ++ 9#5)
  | .frsq d a f r => some (2#6 ++ d ++ a ++ 0#5 ++ f ++ r ++ 10#5)
  | .fsqrt d a f r => some (2#6 ++ d ++ a ++ 0#5 ++ f ++ r ++ 11#5)
  | .fcvt d a t f r => some (2#6 ++ d ++ a ++ t ++ f ++ r ++ 12#5)
  | .fabs d a f => some (2#6 ++ d ++ a ++ 0#5 ++ f ++ 13#8)
  | .fneg d a f => some (2#6 ++ d ++ a ++ 0#5 ++ f ++ 14#8)
  | .addi d a i => some (4#6 ++ d ++ a ++ i)
  | .andi d a i => some (5#6 ++ d ++ a ++ i)
  | .ori d a i => some (6#6 ++ d ++ a ++ i)
  | .xori d a i => some (7#6 ++ d ++ a ++ i)
  | .shli d a i => some (8#6 ++ d ++ a ++ 0#10 ++ i)
  | .shri d a i => some (9#6 ++ d ++ a ++ 0#10 ++ i)
  | .shai d a i => some (10#6 ++ d ++ a ++ 0#10 ++ i)
  | .ldhi d i => some (11#6 ++ d ++ 0#5 ++ i)
  | .slti d a i => some (12#6 ++ d ++ a ++ i)
  | .br a b c o => some (16#6 ++ a ++ b ++ c ++ o)
  | .jmp o => some (17#6 ++ o)
  | .call o => some (18#6 ++ o)
  | .jr d a => some (19#6 ++ d ++ a ++ 0#16)
  | .ld d a s o => some (20#6 ++ d ++ a ++ s ++ o)
  | .st v a s o => some (21#6 ++ v ++ a ++ s ++ o)
  | .bind d a b => some (22#6 ++ d ++ a ++ b ++ 0#11)
  | .unbind d a b => some (22#6 ++ d ++ a ++ b ++ 1#11)
  | .acqx a => some (704#11 ++ a ++ 2#16)
  | .acqs a => some (704#11 ++ a ++ 3#16)
  | .rel a => some (704#11 ++ a ++ 4#16)
  | .fence s => some (720896#21 ++ s ++ 5#8)
  | .aadd d a b z => some (23#6 ++ d ++ a ++ b ++ 0#6 ++ z ++ 0#4)
  | .aand d a b z => some (23#6 ++ d ++ a ++ b ++ 0#6 ++ z ++ 1#4)
  | .aor d a b z => some (23#6 ++ d ++ a ++ b ++ 0#6 ++ z ++ 2#4)
  | .axor d a b z => some (23#6 ++ d ++ a ++ b ++ 0#6 ++ z ++ 3#4)
  | .amin d a b z => some (23#6 ++ d ++ a ++ b ++ 0#6 ++ z ++ 4#4)
  | .amax d a b z => some (23#6 ++ d ++ a ++ b ++ 0#6 ++ z ++ 5#4)
  | .aminn d a b z => some (23#6 ++ d ++ a ++ b ++ 0#6 ++ z ++ 6#4)
  | .amaxn d a b z => some (23#6 ++ d ++ a ++ b ++ 0#6 ++ z ++ 7#4)
  | .axchg d a b z => some (23#6 ++ d ++ a ++ b ++ 0#6 ++ z ++ 8#4)
  | .acas d a b z => some (23#6 ++ d ++ a ++ b ++ 0#6 ++ z ++ 9#4)
  | .rclaim d a n => some (24#6 ++ d ++ a ++ 0#15 ++ n)
  | .rload d a => some (24#6 ++ d ++ a ++ 64#16)
  | .rstart d a => some (24#6 ++ d ++ a ++ 128#16)
  | .rfeed d a b => some (24#6 ++ d ++ a ++ b ++ 192#11)
  | .rfeedBridge d a b => some (24#6 ++ d ++ a ++ b ++ 193#11)
  | .rtap d a b => some (24#6 ++ d ++ a ++ b ++ 256#11)
  | .rtapBridge d a b => some (24#6 ++ d ++ a ++ b ++ 257#11)
  | .rdrain d => some (24#6 ++ d ++ 320#21)
  | .rwait d => some (24#6 ++ d ++ 384#21)
  | .rwaitDrained d => some (24#6 ++ d ++ 385#21)
  | .rswap d a => some (24#6 ++ d ++ a ++ 448#16)
  | .rswapTd d a => some (24#6 ++ d ++ a ++ 449#16)
  | .rstat d s => some (24#6 ++ d ++ 8#15 ++ s)
  | .rfree d => some (24#6 ++ d ++ 576#21)
  | .rpost d a => some (24#6 ++ d ++ a ++ 640#16)
  | .rsweep d => some (24#6 ++ d ++ 704#21)
  | .rmark d a => some (24#6 ++ d ++ a ++ 768#16)
  | .rkill d => some (24#6 ++ d ++ 832#21)
  | .rreplay d => some (24#6 ++ d ++ 896#21)
  | .enq d a b => some (25#6 ++ d ++ a ++ b ++ 0#11)
  | .enqOpen d a b => some (25#6 ++ d ++ a ++ b ++ 1#11)
  | .enqShut d a => some (25#6 ++ d ++ a ++ 2#16)
  | .enqResume d a b => some (25#6 ++ d ++ a ++ b ++ 4#11)
  | .cwait d a n => some (25#6 ++ d ++ a ++ 1#10 ++ n)
  | .cseq d a => some (25#6 ++ d ++ a ++ 128#16)
  | .pub d a => some (25#6 ++ d ++ a ++ 192#16)
  | .tdset d a b => some (26#6 ++ d ++ a ++ b ++ 0#11)
  | .tdget d a b => some (26#6 ++ d ++ a ++ b ++ 64#11)
  | .tdclr d a => some (26#6 ++ d ++ a ++ 128#16)
  | .srd d r => some (28#6 ++ d ++ 0#5 ++ r ++ 0#4)
  | .swr a r => some (896#11 ++ a ++ r ++ 1#4)
  | .sset d a r => some (28#6 ++ d ++ a ++ r ++ 2#4)
  | .sclr d a r => some (28#6 ++ d ++ a ++ r ++ 3#4)
  | .trap c => some (29696#16 ++ c ++ 0#11)
  | .sysret => some (1946157057#32)
  | .halt => some (1946157058#32)
  | .wfe => some (1946157059#32)
  | .tlbinvs a => some (960#11 ++ a ++ 0#16)
  | .tlbinva a b => some (960#11 ++ a ++ b ++ 1#11)
  | .spgen d a => some (30#6 ++ d ++ a ++ 2#16)
  | .ctxsave d a b => some (31#6 ++ d ++ a ++ b ++ 0#11)
  | .ctxload d a b => some (31#6 ++ d ++ a ++ b ++ 1#11)
  | .iadd t b s => some (0#8 ++ t ++ 0#2 ++ b ++ 0#13 ++ s ++ 0#2)
  | .isub t b s => some (1#8 ++ t ++ 0#2 ++ b ++ 0#13 ++ s ++ 0#2)
  | .imul t b s => some (2#8 ++ t ++ 0#2 ++ b ++ 0#13 ++ s ++ 0#2)
  | .imulh t b => some (3#8 ++ t ++ 0#2 ++ b ++ 0#16)
  | .imad t b s => some (4#8 ++ t ++ 0#2 ++ b ++ 0#13 ++ s ++ 0#2)
  | .imin t b => some (5#8 ++ t ++ 0#2 ++ b ++ 0#16)
  | .imax t b => some (6#8 ++ t ++ 0#2 ++ b ++ 0#16)
  | .iabs t s => some (7#8 ++ t ++ 24576#17 ++ s ++ 0#2)
  | .ineg t s => some (8#8 ++ t ++ 24576#17 ++ s ++ 0#2)
  | .iand t b => some (9#8 ++ t ++ 0#2 ++ b ++ 0#16)
  | .ior t b => some (10#8 ++ t ++ 0#2 ++ b ++ 0#16)
  | .ixor t b => some (11#8 ++ t ++ 0#2 ++ b ++ 0#16)
  | .inot t => some (12#8 ++ t ++ 196608#20)
  | .ishl t b => some (13#8 ++ t ++ 0#2 ++ b ++ 0#16)
  | .ishr t b => some (14#8 ++ t ++ 0#2 ++ b ++ 0#16)
  | .isha t b => some (15#8 ++ t ++ 0#2 ++ b ++ 0#16)
  | .icmpeq t b => some (16#8 ++ t ++ 0#2 ++ b ++ 0#16)
  | .icmpne t b => some (17#8 ++ t ++ 0#2 ++ b ++ 0#16)
  | .icmplt t b => some (18#8 ++ t ++ 0#2 ++ b ++ 0#16)
  | .icmple t b => some (19#8 ++ t ++ 0#2 ++ b ++ 0#16)
  | .sel t b => some (20#8 ++ t ++ 0#2 ++ b ++ 0#16)
  | .clzNode t => some (21#8 ++ t ++ 196608#20)
  | .popcNode t => some (22#8 ++ t ++ 196608#20)
  | .isat t n => some (23#8 ++ t ++ 3072#14 ++ n)
  | .iclamp t b => some (24#8 ++ t ++ 0#2 ++ b ++ 0#16)
  | .faddNode t b m => some (32#8 ++ t ++ 0#2 ++ b ++ 0#14 ++ m)
  | .fsubNode t b m => some (33#8 ++ t ++ 0#2 ++ b ++ 0#14 ++ m)
  | .fmulNode t b m => some (34#8 ++ t ++ 0#2 ++ b ++ 0#14 ++ m)
  | .ffmaNode t b m => some (35#8 ++ t ++ 0#2 ++ b ++ 0#14 ++ m)
  | .fminNode t b => some (36#8 ++ t ++ 0#2 ++ b ++ 0#16)
  | .fmaxNode t b => some (37#8 ++ t ++ 0#2 ++ b ++ 0#16)
  | .fabsNode t => some (38#8 ++ t ++ 196608#20)
  | .fnegNode t => some (39#8 ++ t ++ 196608#20)
  | .fcmpeqNode t b => some (40#8 ++ t ++ 0#2 ++ b ++ 0#16)
  | .fcmpltNode t b => some (41#8 ++ t ++ 0#2 ++ b ++ 0#16)
  | .fcmpleNode t b => some (42#8 ++ t ++ 0#2 ++ b ++ 0#16)
  | .frcpNode t m => some (43#8 ++ t ++ 49152#18 ++ m)
  | .frsqNode t m => some (44#8 ++ t ++ 49152#18 ++ m)
  | .fsqrtNode t m => some (45#8 ++ t ++ 49152#18 ++ m)
  | .fexp2 t m => some (46#8 ++ t ++ 49152#18 ++ m)
  | .flog2 t m => some (47#8 ++ t ++ 49152#18 ++ m)
  | .cvt t s l p x m => some (48#8 ++ t ++ 3#4 ++ s ++ l ++ p ++ 0#5 ++ x ++ m)
  | .cvtsr t i c => some (49#8 ++ t ++ 12#6 ++ i ++ c)
  | .sdenc s l p w => some (13011#16 ++ s ++ l ++ p ++ 0#2 ++ w)
  | .sddec t l p w => some (51#8 ++ t ++ 48#8 ++ l ++ p ++ 0#2 ++ w)
  | .qmax t e => some (52#8 ++ t ++ 12288#16 ++ e)
  | .qconv t s => some (53#8 ++ t ++ 0#4 ++ s ++ 0#12)
  | .qdeq t e => some (54#8 ++ t ++ 0#4 ++ e ++ 0#12)
  | .pack t => some (55#8 ++ t ++ 0#20)
  | .unpack t m => some (56#8 ++ t ++ 768#12 ++ m)
  | .shuf t => some (57#8 ++ t ++ 196608#20)
  | .bcast t e => some (58#8 ++ t ++ 3072#14 ++ e)
  | .rsum t q => some (64#8 ++ t ++ 98304#19 ++ q)
  | .rmax t => some (65#8 ++ t ++ 196608#20)
  | .rmin t => some (66#8 ++ t ++ 196608#20)
  | .accum t e => some (67#8 ++ t ++ 98304#19 ++ e)
  | .wsum t e => some (68#8 ++ t ++ 98304#19 ++ e)
  | .wcnt e => some (579436544#31 ++ e)
  | .xred t o => some (70#8 ++ t ++ 0#18 ++ o)
  | .steer t => some (80#8 ++ t ++ 196608#20)
  | .merge t c => some (81#8 ++ t ++ 0#19 ++ c)
  | .gate t v => some (82#8 ++ t ++ 98304#19 ++ v)
  | .chain a b => some (1328#12 ++ a ++ b ++ 0#16)
  | .repl t r => some (84#8 ++ t ++ 3072#14 ++ r)
  | .sink t v e => some (85#8 ++ t ++ 6144#15 ++ v ++ e)
  | .source t a n => some (86#8 ++ t ++ a ++ 768#10 ++ n)
  | .join t u => some (87#8 ++ t ++ 0#19 ++ u)
  | .win t => some (88#8 ++ t ++ 196608#20)
  | .gapc t v e => some (89#8 ++ t ++ 6144#15 ++ v ++ e)
  | .hashk c => some (5956352#24 ++ c)
  | .dropm t i c => some (91#8 ++ t ++ 12#6 ++ i ++ c)
  | .gld t n e s => some (96#8 ++ t ++ 768#12 ++ n ++ e ++ 0#3 ++ s)
  | .gst t n e s => some (97#8 ++ t ++ 0#12 ++ n ++ e ++ 0#3 ++ s)
  | .sld t n e s => some (98#8 ++ t ++ 768#12 ++ n ++ e ++ 0#3 ++ s)
  | .sst t n e s => some (99#8 ++ t ++ 0#12 ++ n ++ e ++ 0#3 ++ s)
  | .wld t n e s => some (100#8 ++ t ++ 768#12 ++ n ++ e ++ 0#3 ++ s)
  | .tld b r n s => some (6524#14 ++ b ++ r ++ 0#8 ++ n ++ s)
  | .tst r n s k c => some (26355#16 ++ r ++ 0#6 ++ n ++ s ++ k ++ c)
  | .done h => some (108986368#28 ++ h ++ 0#3)
  | .ecmd => some (1760559104#32)
  | .tshape r => some (28913#16 ++ r ++ 0#12)
  | .tprec => some (1911619584#32)
  | .tfill t b r => some (114#8 ++ t ++ 0#2 ++ b ++ r ++ 0#12)
  | .temit t r k c => some (115#8 ++ t ++ 3#4 ++ r ++ 0#10 ++ k ++ c)
  | .tlds b r s => some (7484#14 ++ b ++ r ++ 0#9 ++ s)
  | .tsts r s k c => some (30195#16 ++ r ++ 0#7 ++ s ++ k ++ c)
  | .tzero b r f c => some (7612#14 ++ b ++ r ++ 0#10 ++ f ++ c)
  | .tmma r q l k j => some (30707#16 ++ r ++ q ++ 0#5 ++ l ++ k ++ j)
  | .tmov r q x k => some (30963#16 ++ r ++ q ++ 0#6 ++ x ++ k)
  | .tcvt r q k m => some (31219#16 ++ r ++ q ++ 0#5 ++ k ++ m)
  | .tepi t k l m => some (122#8 ++ t ++ 4096#16 ++ k ++ l ++ m)
  | .tquant r q k => some (31731#16 ++ r ++ q ++ 0#7 ++ k)
  | .tacc t c => some (124#8 ++ t ++ 98304#19 ++ c)
  | .csc t s l p m => some (128#8 ++ t ++ 3#4 ++ s ++ l ++ p ++ 0#6 ++ m)
  | .norm t m => some (129#8 ++ t ++ 49152#18 ++ m)
  | .perm => some (2182283264#32)
  | .vote t => some (131#8 ++ t ++ 0#20)
  | .cksum t b c e => some (132#8 ++ t ++ 0#2 ++ b ++ 0#14 ++ c ++ e)
  | .ckchk t => some (133#8 ++ t ++ 0#20)
  | .capq => some (2249392128#32)
  | .illegalWord _ => none
  | .sysregWrite => none
  | .statusWrite => none
  | .mboxoutWrite => none
  | .mboxinRead => none
  | .injctlWrite => none
  | .triggerDelivery => none
  | .threadPreemption => none
  | .mboxFlitArrival => none
  | .doorbellFlit => none
  | .arbiterCycle => none
  | .nitinolMove => none
  | .queueArrival => none
  | .ingressAdmit => none
  | .egressToken => none
  | .periodCompletion => none
  | .drainedEvent => none
  | .teardownPeriodStart => none
  | .hangSweep => none
  | .faultRecordDeferred => none
  | .atsTranslationCompletion => none
  | .prgResponse => none
  | .atsInvalidateRequest => none
  | .atsInvalidateCompletion => none
  | .nodeMarkSave => none
  | .markerPassageComplete => none
  | .markerTimeout => none
  | .nop => none
  | .copy => none
  | .wload => none
  | .gather => none
  | .allred => none
  | .redscat => none
  | .allgath => none
  | .engineSector => none
  | .batchCompletion => none
  | .commandPortReceive => none
  | .scrubRow => none
  | .errorWindowBoundary => none
  | .evacuationRowCopy => none
  | .invarRelaunchRetry => none
  | .linkCrcRetransmit => none
  | .refreshWindowStart => none
  | .refreshWindowEnd => none
  | .thermalSample => none
  | .thermalTrip => none
  | .railUndervoltage => none
  | .railRecovery => none
  | .moduleReset => none
  | .ident => none
  | .attest => none
  | .logread => none
  | .update => none
  | .start => none
  | .setmod => none
  | .reset => none
  | .tmmaCompletion => none
  | .wfeSpuriousEnd => none
  | .l2Eviction => none
  | .translationEntryDrop => none
  | .memoryAccessPerformed => none
  | .matrixOpCompletion => none
  | .solwenLinkFlit => none
  | .priCapabilityEnable => none
  | .discardsWrite => none
  | .bar0Access => none
  | .unassignedCobaltOpcode => none
  | .cobaltCommandDone => none

/-- The control word a thread fetched (R23): every word has a meaning, an unassigned one raises ILLEGAL. -/
def decodeControl (w : BitVec 32) : Instr :=
  match controlRow w with
  | some i => if i.wf then i else .illegalWord w
  | none => .illegalWord w

/-- The operation word of a node slot (R33, R35): `none` where the loader answers IMAGE.  The word of an
empty slot, NOPN (R38), is no operation and is `none` here as well. -/
def decodeOperation (w : BitVec 32) : Option Instr :=
  match operationRow w with
  | some i => if i.wf then some i else none
  | none => none

/-- The word of an empty node slot (R38). -/
def nopn : BitVec 32 := 0xFF000000#32

/-- Does the word stand in a control row with legal fields? -/
def isControlWord (w : BitVec 32) : Bool :=
  match decodeControl w with
  | .illegalWord _ => false
  | _ => true

/-- The instruction of a table word: a word that is a legal operation word is read as one, any other legal word as a control
word.  (One 32-bit value can be both: they lie in different places of the machine, in an image and in memory, and nothing in
the word itself tells them apart.) -/
def decodeTableWord (nbits w : Nat) : Option Instr :=
  if nbits = 32 then
    let x := BitVec.ofNat 32 w
    match decodeOperation x with
    | some i => some i
    | none => if isControlWord x then some (decodeControl x) else none
  else none

end Sys2Proof
end

