-- ==== Sys2Proof/Machine/Image.lean ====
section
/-! DEFINITION. An image as the region holds it (R112, Table 4.7): its fields, the words of its tiles, and the
paths its switch words give (R40 to R42). -/

namespace Sys2Proof.Machine

/-! ## Fields -/

/-- n bytes of an image at an offset. -/
def imgAt (img off n : Nat) : Nat := bytesOf img off n

/-- The header's fields (Table 4.7). -/
def imgW (img : Nat) : Nat := imgAt img 6 1 % 4 + 1
/-- Height in pages. -/
def imgH (img : Nat) : Nat := imgAt img 6 1 / 4 % 4 + 1
/-- FLAGS bit 0. -/
def imgInvar (img : Nat) : Bool := imgAt img 8 4 % 2 == 1
/-- FLAGS bit 1. -/
def imgElectrum (img : Nat) : Bool := imgAt img 8 4 / 2 % 2 == 1
/-- FLAGS bit 2. -/
def imgCapok (img : Nat) : Bool := imgAt img 8 4 / 4 % 2 == 1
/-- CONFIG. -/
def imgConfig (img : Nat) : BitVec 16 := BitVec.ofNat 16 (imgAt img 0xC 2)
/-- SINKS. -/
def imgSinks (img : Nat) : Nat := imgAt img 0xE 2
/-- WSBASE. -/
def imgWsbase (img : Nat) : Nat := imgAt img 0x10 8
/-- WSLEN. -/
def imgWslen (img : Nat) : Nat := imgAt img 0x18 8
/-- SCRBANKS. -/
def imgScrbanks (img : Nat) : Nat := imgAt img 0x20 1
/-- TREGS. -/
def imgTregs (img : Nat) : Nat := imgAt img 0x21 1
/-- Bytes of an image of W × H pages. -/
def imgLength (w h : Nat) : Nat := 64 + w * h * 16384

/-- A tile of a region: 16 * y + x from the region's north-west tile. -/
abbrev TileNo := BitVec 8

/-- x of a tile. -/
def tx (t : TileNo) : Nat := (fld t 0 4).toNat
/-- y of a tile. -/
def ty (t : TileNo) : Nat := (fld t 4 4).toNat
/-- The tile at (x, y). -/
def tileAt (x y : Nat) : TileNo := BitVec.ofNat 8 (16 * y + x)

/-- The offset of a tile's block in an image of width w pages (R112). -/
def tileOff (w : Nat) (t : TileNo) : Nat :=
  64 + 16384 * (ty t / 4 * w + tx t / 4) + 1024 * (4 * (ty t % 4) + tx t % 4)

/-- The tiles of an image in image order: page by page, and tile by tile in a page (R112). -/
def imgTiles (img : Nat) : List TileNo :=
  (List.range (imgW img * imgH img)).flatMap (fun p =>
    (List.range 16).map (fun k => tileAt (4 * (p % imgW img) + k % 4) (4 * (p / imgW img) + k / 4)))

/-- The operation word of a slot. -/
def opWord (img : Nat) (t : TileNo) (slot : Nat) : BitVec 32 :=
  BitVec.ofNat 32 (imgAt img (tileOff (imgW img) t + 4 * slot) 4)
/-- The node constant of a slot. -/
def nodeConst (img : Nat) (t : TileNo) (slot : Nat) : BitVec 32 :=
  BitVec.ofNat 32 (imgAt img (tileOff (imgW img) t + 0x20 + 4 * slot) 4)
/-- The operation in a slot of a tile, when it decodes. -/
def opAt (img : Nat) (t : TileNo) (slot : Nat) : Option Instr := decodeOperation (opWord img t slot)

/-- Queue record q of a tile (R139). -/
def queueRec (img : Nat) (t : TileNo) (q : Nat) : Word :=
  BitVec.ofNat 64 (imgAt img (tileOff (imgW img) t + 0x40 + 8 * q) 8)
/-- Counter-chain record of a slot (R157). -/
def chainRec (img : Nat) (t : TileNo) (slot : Nat) : Word :=
  BitVec.ofNat 64 (imgAt img (tileOff (imgW img) t + 0x140 + 8 * slot) 8)
/-- Switch word count of a tile. -/
def nsw (img : Nat) (t : TileNo) : Nat := imgAt img (tileOff (imgW img) t + 0x180) 2
/-- Switch word k of a tile. -/
def switchWord (img : Nat) (t : TileNo) (k : Nat) : BitVec 16 :=
  BitVec.ofNat 16 (imgAt img (tileOff (imgW img) t + 0x188 + 2 * k) 2)
/-- The switch words of a tile (at most 256). -/
def switchWords (img : Nat) (t : TileNo) : List (BitVec 16) :=
  (List.range (Nat.min (nsw img t) 256)).map (switchWord img t)

/-! ## Fields of an operation word (R33) -/

/-- op8. -/
def opCode (w : BitVec 32) : Nat := (fld w 24 8).toNat
/-- The type code. -/
def opType (w : BitVec 32) : BitVec 4 := fld w 20 4
/-- amode. -/
def opA (w : BitVec 32) : BitVec 2 := fld w 18 2
/-- bmode. -/
def opB (w : BitVec 32) : BitVec 2 := fld w 16 2
/-- param. -/
def opParam (w : BitVec 32) : BitVec 16 := fld w 0 16

/-- Does the operation's description name slot C for this word (R36; Tables 5.2, 8.1, 9.3, 13.4)? -/
def readsC (w : BitVec 32) : Bool :=
  match opCode w with
  | 0x04 | 0x14 | 0x18 | 0x23 | 0x50 | 0x52 | 0x83 => true
  | 0x51 | 0x57 => w.getLsbD 0
  | 0x67 => w.getLsbD 3
  | _ => false

/-! ## Switch words (Table 2.10) -/

/-- A switch word's form. -/
inductive SwForm where
  | route (src dst : Nat)
  | fork (src mask : Nat)
  | term (node slot low : Nat)
  | conf (attr : Nat)
  deriving DecidableEq, Repr

/-- Its channel. -/
def swChan (w : BitVec 16) : Nat := (fld w 8 6).toNat

/-- Its form. -/
def swForm (w : BitVec 16) : SwForm :=
  match (fld w 14 2).toNat with
  | 0 => .route (fld w 4 4).toNat (fld w 0 4).toNat
  | 1 => .fork (fld w 4 4).toNat (fld w 0 4).toNat
  | 2 => .term (fld w 5 3).toNat (fld w 3 2).toNat (fld w 0 3).toNat
  | _ => .conf (fld w 0 8).toNat

/-- The forms of a tile's words for a channel. -/
def chanForms (img : Nat) (t : TileNo) (c : Nat) : List SwForm :=
  ((switchWords img t).filter (fun w => swChan w == c)).map swForm

/-- The neighbour of a tile in direction 0 N, 1 E, 2 S, 3 W inside a region of w × h pages. -/
def neighbour (w h : Nat) (t : TileNo) (d : Nat) : Option TileNo :=
  match d with
  | 0 => if ty t = 0 then none else some (tileAt (tx t) (ty t - 1))
  | 1 => if tx t + 1 < 4 * w then some (tileAt (tx t + 1) (ty t)) else none
  | 2 => if ty t + 1 < 4 * h then some (tileAt (tx t) (ty t + 1)) else none
  | 3 => if tx t = 0 then none else some (tileAt (tx t - 1) (ty t))
  | _ => none

/-- The directions a form sends a channel in. -/
def SwForm.dirs : SwForm → List Nat
  | .route _ d => if d < 4 then [d] else []
  | .fork _ m => (List.range 4).filter (fun d => m / 2 ^ d % 2 == 1)
  | _ => []

/-- The from port a form names. -/
def SwForm.src : SwForm → Option Nat
  | .route s _ => some s | .fork s _ => some s | _ => none

/-- A port identifier (R115). -/
def portId (t : TileNo) (c : Nat) : BitVec 14 := BitVec.ofNat 14 (1024 * tx t + 64 * ty t + c)
/-- The tile of a port. -/
def portTile (p : BitVec 14) : TileNo := tileAt (fld p 10 4).toNat (fld p 6 4).toNat
/-- The channel of a port. -/
def portChan (p : BitVec 14) : Nat := (fld p 0 6).toNat

/-- Where a token on channel c that enters the switch of tile t goes: each queue or egress port with the number of
switches passed after this one (R42, R128).  The fuel is one per switch of a path. -/
def route (img : Nat) (c : Nat) : Nat → TileNo → Nat → List (Dest × Nat)
  | 0, _, _ => []
  | fuel + 1, t, h =>
    (chanForms img t c).flatMap (fun f =>
      match f with
      | .term n s _ => [(.queue t (BitVec.ofNat 5 (4 * n + s)), h)]
      | .route _ 7 => [(.port (portId t c), h)]
      | f => f.dirs.flatMap (fun d =>
          match neighbour (imgW img) (imgH img) t d with
          | some t' => route img c fuel t' (h + 1)
          | none => []))

/-- The channels that output o of a node slot feeds (R41): those a ROUTE or FORK word takes from its port. -/
def outChans (img : Nat) (t : TileNo) (slot o : Nat) : List Nat :=
  (((switchWords img t).filter (fun w => (swForm w).src == some (8 + slot) && swChan w / 32 == o)).map swChan).eraseDups

/-- Where output o of a node slot goes. -/
def outDests (img : Nat) (t : TileNo) (slot o : Nat) : List (Dest × Nat) :=
  (outChans img t slot o).flatMap (fun c => route img c 257 t 0)

/-- The ingress ports of an image: a channel that a ROUTE or FORK word takes from port 6 (R40). -/
def ingressPorts (img : Nat) : List (BitVec 14) :=
  (imgTiles img).flatMap (fun t =>
    (((switchWords img t).filter (fun w => (swForm w).src == some 6)).map swChan).eraseDups.map (portId t))

/-- The egress ports of an image: a channel that a ROUTE word takes to port 7. -/
def egressPorts (img : Nat) : List (BitVec 14) :=
  (imgTiles img).flatMap (fun t =>
    ((switchWords img t).filterMap (fun w =>
      match swForm w with | .route _ 7 => some (swChan w) | _ => none)).eraseDups.map (portId t))

/-- Does a TERM of the tile deliver into queue q (4 * node + slot)? -/
def termFeeds (img : Nat) (t : TileNo) (q : Nat) : Bool :=
  (switchWords img t).any (fun w => match swForm w with | .term n s _ => 4 * n + s == q | _ => false)

/-- The slots a node reads (R127): A and B under mode 00, C where its description names it, O where a TERM
delivers into it. -/
def slotsRead (img : Nat) (t : TileNo) (slot : Nat) : List Nat :=
  let w := opWord img t slot
  (if opA w = 0 then [0] else []) ++ (if opB w = 0 then [1] else []) ++ (if readsC w then [2] else [])
    ++ (if termFeeds img t (4 * slot + 3) then [3] else [])

/-- Is the slot occupied by an operation? -/
def isNode (img : Nat) (t : TileNo) (slot : Nat) : Bool := opCode (opWord img t slot) != 0xFF

/-- The nodes of an image: tile and slot, in image order. -/
def imgNodes (img : Nat) : List (TileNo × Nat) :=
  (imgTiles img).flatMap (fun t => ((List.range 8).filter (isNode img t)).map (fun k => (t, k)))

/-! ## Back along a channel (R41, R43, R376) -/

/-- Who feeds a channel. -/
inductive ChanSrc where
  | node (t : TileNo) (slot : Nat) (out : Nat)
  | port (p : BitVec 14)
  deriving DecidableEq, Repr

/-- The CONF attributes of a channel in a switch. -/
def confOf (img : Nat) (t : TileNo) (c : Nat) : Nat :=
  (chanForms img t c).foldl (fun a f => match f with | .conf x => a ||| x | _ => a) 0

/-- The port a channel enters a switch by: that of its ROUTE or FORK, else the side of the neighbour that sends it in
(R41). -/
def entryPort (img : Nat) (t : TileNo) (c : Nat) : Option Nat :=
  match (chanForms img t c).findSome? SwForm.src with
  | some s => some s
  | none => (List.range 4).find? (fun d =>
      match neighbour (imgW img) (imgH img) t d with
      | some t' => (chanForms img t' c).any (fun f => f.dirs.contains ((d + 2) % 4))
      | none => false)

/-- Back from a switch to the channel's producer, with the CONF attributes met on the way; a channel that comes in by a tree port
(R40) has none the spec names (log 53). -/
def traceWay (img : Nat) (c : Nat) : Nat → TileNo → Nat → Option (Option ChanSrc × Nat)
  | 0, _, _ => none
  | fuel + 1, t, attrs =>
    let attrs := attrs ||| confOf img t c
    match entryPort img t c with
    | none => none
    | some p =>
      if 8 ≤ p then some (some (.node t (p - 8) (c / 32)), attrs)
      else if p = 6 then some (some (.port (portId t c)), attrs)
      else if p = 4 ∨ p = 5 then some (none, attrs)
      else
        match neighbour (imgW img) (imgH img) t p with
        | some t' => traceWay img c fuel t' attrs
        | none => none

/-- The producer of a channel, from a switch it reaches. -/
def traceBack (img : Nat) (c fuel : Nat) (t : TileNo) (attrs : Nat) : Option (ChanSrc × Nat) :=
  (traceWay img c fuel t attrs).bind (fun x => x.1.map (fun s => (s, x.2)))

/-- The channel a TERM delivers into queue q of a tile. -/
def termChan (img : Nat) (t : TileNo) (q : Nat) : Option Nat :=
  ((switchWords img t).find? (fun w => match swForm w with | .term n s _ => 4 * n + s == q | _ => false)).map swChan

/-- The producer of the channel that feeds a queue, with the channel's CONF attributes. -/
def feeder (img : Nat) (t : TileNo) (q : Nat) : Option (ChanSrc × Nat) :=
  (termChan img t q).bind (fun c => traceBack img c 257 t 0)

/-- The nodes of an Electrum copy: back from the queues of a frontier along channels whose CONF sets bit 1 (R376).  The
fuel is one per node. -/
def copyFrom (img : Nat) : Nat → List (TileNo × Nat) → List (TileNo × Nat) → List (TileNo × Nat)
  | 0, _, seen => seen
  | _, [], seen => seen
  | fuel + 1, (t, q) :: rest, seen =>
    match feeder img t q with
    | some (.node t' k _, a) =>
      if a / 2 % 2 = 1 ∧ !seen.contains (t', k) then
        copyFrom img fuel (rest ++ (List.range 4).map (fun s => (t', 4 * k + s))) (seen ++ [(t', k)])
      else copyFrom img fuel rest seen
    | _ => copyFrom img fuel rest seen

/-- The copy that slot k of a VOTE node traces back to. -/
def voteCopy (img : Nat) (t : TileNo) (slot k : Nat) : List (TileNo × Nat) :=
  copyFrom img 10240 [(t, 4 * slot + k)] []

/-- Does a node belong to an Electrum copy? -/
def inCopy (img : Nat) (t : TileNo) (slot : Nat) : Bool :=
  imgElectrum img && (imgNodes img).any (fun v =>
    opCode (opWord img v.1 v.2) == 0x83 && (List.range 3).any (fun k => (voteCopy img v.1 v.2 k).contains (t, slot)))

/-! ## Queue record fields (Table 5.1) -/

/-- KEY. -/
def qKey (q : Word) : Nat := (fld q 56 8).toNat
/-- WCARRY. -/
def qWcarry (q : Word) : Bool := q.getLsbD 55
/-- GCOAL. -/
def qGcoal (q : Word) : Bool := q.getLsbD 54
/-- SEL. -/
def qSel (q : Word) : Bool := q.getLsbD 53
/-- MOP. -/
def qMop (q : Word) : Nat := (fld q 50 3).toNat
/-- KEEP. -/
def qKeep (q : Word) : Nat := (fld q 46 4).toNat
/-- SHIFT. -/
def qShift (q : Word) : Nat := (fld q 42 4).toNat
/-- IOFF. -/
def qIoff (q : Word) : Nat := (fld q 26 15).toNat
/-- IPER. -/
def qIper (q : Word) : Nat := (fld q 22 4).toNat
/-- RELEASE. -/
def qRelease (q : Word) : Nat := (fld q 15 7).toNat
/-- THRESH. -/
def qThresh (q : Word) : Nat := (fld q 8 7).toNat
/-- TRIG. -/
def qTrig (q : Word) : Nat := (fld q 6 2).toNat
/-- POLICY. -/
def qPolicy (q : Word) : Nat := (fld q 3 3).toNat
/-- The record of a bridge buffer (R176): bit 41, which is zero in an image, marks it. -/
def bridgeRecord (q : Word) : Word := q ||| (1#64 <<< 41)
/-- Depth in tokens; a bridge buffer's is 1024. -/
def qDepth (q : Word) : Nat := if q.getLsbD 41 then 1024 else 2 ^ (fld q 0 3).toNat

/-! ## Counter-chain record fields (Table 5.3) -/

/-- PHASE. -/
def chPhase (c : Word) : Nat := (fld c 48 6).toNat
/-- REARM. -/
def chRearm (c : Word) : Bool := c.getLsbD 47
/-- LC. -/
def chLc (c : Word) : Bool := c.getLsbD 46
/-- II. -/
def chIi (c : Word) : Nat := (fld c 40 6).toNat
/-- STEP. -/
def chStep (c : Word) : BitVec 8 := fld c 32 8
/-- START. -/
def chStart (c : Word) : BitVec 16 := fld c 16 16
/-- COUNT. -/
def chCount (c : Word) : Nat := (fld c 0 16).toNat

/-! ## Stages (chapter 1, R13): depth along the pipeline from the nearest ingress port -/

/-- The nodes a list of destinations feeds. -/
def destNodes (ds : List (Dest × Nat)) : List (TileNo × Nat) :=
  ds.filterMap (fun d => match d.1 with | .queue t q => some (t, q.toNat / 4) | .port _ => none)

/-- Breadth-first depth: the fuel is one per depth, the frontier's nodes stand at depth k. -/
def stageFrom (img : Nat) : Nat → Nat → List (TileNo × Nat) → List ((TileNo × Nat) × Nat) → List ((TileNo × Nat) × Nat)
  | 0, _, _, seen => seen
  | _, _, [], seen => seen
  | fuel + 1, k, fr, seen =>
    let fresh := fr.eraseDups.filter (fun n => !seen.any (fun s => s.1 == n))
    stageFrom img fuel (k + 1)
      (fresh.flatMap (fun n => destNodes (outDests img n.1 n.2 0 ++ outDests img n.1 n.2 1)))
      (seen ++ fresh.map (fun n => (n, k)))

/-- The stage of every node an ingress port reaches; other nodes stand at stage 0.  DEDUCED, log 14. -/
def stages (img : Nat) : List ((TileNo × Nat) × Nat) :=
  stageFrom img 256 1
    (destNodes ((ingressPorts img).flatMap (fun p => route img (portChan p) 257 (portTile p) 0))) []

/-- The stage of a node. -/
def stageOf (img : Nat) (t : TileNo) (slot : Nat) : BitVec 8 :=
  BitVec.ofNat 8 (Nat.min 255 ((((stages img).find? (fun s => s.1 == (t, slot))).map (fun s => s.2)).getD 0))

/-- Is a slot's node counter logic, which takes no part in the tile's turn? -/
def isCounter (img : Nat) (t : TileNo) (k : Nat) : Bool := opCode (opWord img t k) == 0x53 || opCode (opWord img t k) == 0x56

end Sys2Proof.Machine
end

