-- ==== Sys2Proof/Machine/Operands.lean ====
section
/-! DEFINITION. The operand forms of the control words: immediates, effective addresses, load sizes,
branch conditions, and the ILLEGAL trap of a word whose fields no encoding allows. -/

namespace Sys2Proof.Machine

/-- 1 when a condition holds, else 0, as a register value. -/
def flag (b : Bool) : Word := if b then 1 else 0

/-- Signed comparison s(a) < s(b). -/
def sLt (a b : Word) : Bool := a.slt b

/-- Unsigned comparison u(a) < u(b). -/
def uLt (a b : Word) : Bool := a.ult b

/-- The effective address g[a] + sext(off13, 64) of LD and ST (R76). -/
def State.ea (s : State) (a : BitVec 5) (o : BitVec 13) : Word := s.rd a + sext o 64

/-- Bytes a load size reads (R76); size 7 has none. -/
def ldBytes (z : BitVec 3) : Option Nat :=
  match z.toNat with
  | 0 => some 1 | 1 => some 2 | 2 => some 4 | 3 => some 8
  | 4 => some 1 | 5 => some 2 | 6 => some 4 | _ => none

/-- Bytes a store size writes (R76); sizes 4 to 7 have none. -/
def stBytes (z : BitVec 3) : Option Nat :=
  match z.toNat with
  | 0 => some 1 | 1 => some 2 | 2 => some 4 | 3 => some 8 | _ => none

/-- The register value of n loaded bytes under a load size (R76). -/
def ldExtend (z : BitVec 3) (v : Nat) : Word :=
  match z.toNat with
  | 0 => sext (BitVec.ofNat 8 v) 64
  | 1 => sext (BitVec.ofNat 16 v) 64
  | 2 => sext (BitVec.ofNat 32 v) 64
  | _ => BitVec.ofNat 64 v

/-- Does the condition of BR hold (R73)?  `none` for conditions 6 and 7. -/
def brHolds (c : BitVec 3) (x y : Word) : Option Bool :=
  match c.toNat with
  | 0 => some (x == y)
  | 1 => some (x != y)
  | 2 => some (sLt x y)
  | 3 => some (!sLt x y)
  | 4 => some (uLt x y)
  | 5 => some (!uLt x y)
  | _ => none

/-- The word of an instruction, zero for an event. -/
def wordOf (i : Instr) : BitVec 32 := (encode i).getD 0

/-- ILLEGAL with the word in TRAPINFO (R32). -/
def State.illegal (s : State) (i : Instr) : State := s.trap cILLEGAL (zext (wordOf i) 64)

end Sys2Proof.Machine
end

