-- ==== Sys2Proof/Machine/Sync.lean ====
section
/-! DEFINITION. Entry consistency (R287 to R292), FENCE (R286) and the far atomics (R293, R294). -/

namespace Sys2Proof.Machine

/-! ## Bindings (R289) -/

/-- The operand checks BIND and UNBIND share (R289): the trap they raise, if any. -/
def bindCheck (o base len : Word) : Option (BitVec 8 × Word) :=
  if o.toNat % 64 ≠ 0 then some (cALIGN, o)
  else if base.toNat % 64 ≠ 0 then some (cALIGN, base)
  else if len = 0 ∨ len.toNat % 64 ≠ 0 then some (cALIGN, len)
  else if 2 ^ 32 < len.toNat then some (cACCESS, len)
  else none

/-- BIND (R289). -/
def execBind (d a b : BitVec 5) (s : State) : Out :=
  let e : Bind := ⟨s.rd d, s.rd a, s.rd b⟩
  match bindCheck e.obj e.base e.len with
  | some (c, v) => .next (s.trap c v)
  | none =>
    if s.me.binds.contains e then .next s.advance
    else if 16 ≤ s.me.binds.length then .next (s.trap cACCESS e.obj)
    else .next (s.advance.modMe (fun t => { t with binds := t.binds ++ [e] }))

/-- UNBIND (R289). -/
def execUnbind (d a b : BitVec 5) (s : State) : Out :=
  let e : Bind := ⟨s.rd d, s.rd a, s.rd b⟩
  match bindCheck e.obj e.base e.len with
  | some (c, v) => .next (s.trap c v)
  | none => .next (s.advance.modMe (fun t => { t with binds := t.binds.erase e }))

/-! ## Bound ranges: translation without permission (R291) -/

/-- Where a page of a bound range lies: translated without a permission check; `none` where it has no valid
translation or leads outside the partition. -/
def State.maintTarget (s : State) (cr : Capt) (va : Word) : State × Option Target :=
  if fld va 52 12 ≠ 0 ∨ !cr.spaceOk then (s, none)
  else
    match s.walkFromBase cr va with
    | (s, .error _) => (s, none)
    | (s, .ok l) =>
      match (fld l.pte 6 2).toNat with
      | 2 =>
        if cr.space.getLsbD 36 then
          (s.touchPte l .read, some ((Target.host cr.fn cr.pasid ((fld l.pte 16 48).toNat * 65536)).at cr (va.toNat % l.size)))
        else (s, none)
      | 3 =>
        match s.bufferTarget cr l false va with
        | (s, .error _) => (s, none)
        | (s, .ok (pa, _)) => (s.touchPte l .read, if cr.paOk pa then some (.device pa) else none)
      | _ => (s.touchPte l .read, if cr.paOk (leafDevice l va) then some (.device (leafDevice l va)) else none)

/-- The ATC's answer for a host page: none yet, or whether it grants anything. -/
def State.atcAnswer (s : State) (fn : BitVec 6) (pasid : BitVec 20) (ha : Nat) : Option Bool :=
  (s.atc.find? (fun e => e.fn == fn && e.pasid == pasid && decide (e.page ≤ ha) && decide (ha < e.page + e.size))).map
    (fun e => e.rd || e.wr)

/-- Physical ranges [lo, hi) of a bound range, and whether a Translation Request had to be sent (R291).
A device page is one range; a host page is taken in pieces of 4 KiB, skipped where the host grants nothing. -/
structure Ranges where
  list : List (Nat × Nat) := []
  asked : Bool := false

/-- The pieces of 4 KiB of a host range. -/
def hostPieces (s : State) (n : BitVec 9) (va : Word) (fn : BitVec 6) (pasid : BitVec 20) (ha len : Nat) (r : Ranges) :
    State × Ranges :=
  (List.range (len / 4096 + 2)).foldl (fun (s, r) k =>
    let lo := Nat.max ha (ha - ha % 4096 + 4096 * k)
    let hi := Nat.min (ha + len) (ha - ha % 4096 + 4096 * (k + 1))
    if hi ≤ lo then (s, r)
    else
      match s.atcAnswer fn pasid lo with
      | some true => (s, { r with list := (hostKey fn pasid lo, hostKey fn pasid hi) :: r.list })
      | some false => (s, r)
      | none => (s.askAts fn pasid { who := .maint n, va := va, ha := lo, write := false }, { r with asked := true }))
    (s, r)

/-- The physical ranges of one bound range, by pages of 64 KiB. -/
def State.boundRange (s : State) (n : BitVec 9) (cr : Capt) (base len : Nat) (r : Ranges) : State × Ranges :=
  (List.range ((base + len - 1) / 65536 + 1 - base / 65536)).foldl (fun (s, r) k =>
    let page := (base / 65536 + k) * 65536
    let lo := Nat.max base page
    let hi := Nat.min (base + len) (page + 65536)
    match s.maintTarget cr (BitVec.ofNat 64 lo) with
    | (s, none) => (s, r)
    | (s, some (.device pa)) => (s, { r with list := (pa, pa + (hi - lo)) :: r.list })
    | (s, some (.host fn pasid ha)) => hostPieces s n (BitVec.ofNat 64 lo) fn pasid ha (hi - lo) r) (s, r)

/-- The physical ranges of every range the running thread has bound to an object. -/
def State.boundTo (s : State) (o : Word) : State × Ranges :=
  (s.me.binds.filter (fun e => e.obj == o)).foldl (fun (s, r) e =>
    s.boundRange s.cur s.me.cred e.base.toNat e.len.toNat r) (s, {})

/-! ## Maintenance of ranges -/

/-- Does a line lie in one of the ranges? -/
def lineIn (rs : List (Nat × Nat)) (line : Nat) : Bool :=
  rs.any (fun r => decide (r.1 ≤ 64 * line) && decide (64 * line < r.2))

/-- Write back the dirty bytes of the ranges in a cluster's slices. -/
def State.writeBackIn (s : State) (c : BitVec 5) (rs : List (Nat × Nat)) : State :=
  (s.clu c).l2.foldl (fun s p => if lineIn rs p.1 then s.writeBack c p.1 else s) s

/-- Invalidate the ranges as clean bytes in a cluster's slices. -/
def State.dropCleanIn (s : State) (c : BitVec 5) (rs : List (Nat × Nat)) : State :=
  (s.clu c).l2.foldl (fun s p => if lineIn rs p.1 then s.dropClean c p.1 else s) s

/-- Invalidate the ranges in a core's L1. -/
def State.dropL1In (s : State) (k : BitVec 7) (rs : List (Nat × Nat)) : State :=
  s.modL1 k (fun t => t.filter (fun p => !lineIn rs p.1))

/-- W and H of a claim word, in pages (Table 4.2). -/
def claimW (w : Word) : Nat := (fld w 0 2).toNat + 1
/-- Height of a claim word. -/
def claimH (w : Word) : Nat := (fld w 2 2).toNat + 1

/-- Does a region in a state hold pages? -/
def holdsPages (st : BitVec 4) : Bool := decide (2 ≤ st.toNat)

/-- The pages of a region: the rectangle at its origin (R107). -/
def Region.pages (r : Region) : List Nat :=
  if holdsPages r.st && r.placed then
    (List.range (claimH r.claim)).flatMap (fun y =>
      (List.range (claimW r.claim)).map (fun x => r.origin.toNat + 4 * y + x))
  else []

/-- The page of a quad: quad 8 * qy + qx. -/
def quadPage (q : Nat) : Nat := 4 * (q / 16) + q % 8 / 2

/-- Change the quad caches of a region's pages. -/
def State.modRegionQuads (s : State) (n : BitVec 9) (f : Tab Line → Tab Line) : State :=
  let pages := (s.reg n).pages
  s.modClu (clusterOf n) (fun c =>
    { c with quad := c.quad.map (fun p => if pages.contains (quadPage p.1) then (p.1, f p.2) else p) })

/-! ## Sync objects (Table 9.5) -/

/-- Write n bytes at the home for a thread, marking its granules (R334). -/
def State.homeStore (s : State) (cr : Capt) (pa n v : Nat) : State :=
  (s.markAll pa (cr.marks pa)).homeWrite pa n v

/-- A waiting ACQX or ACQS with ticket t on object o at pa: granted when SERVING has reached the ticket and, for
ACQX, no sharer is left; then the bound ranges are invalidated (R290). -/
def State.acqPoll (s : State) (excl : Bool) (o : Word) (t : BitVec 32) (pa : Nat) : State :=
  let cr := s.me.cred
  let serving := readLE s.mem (pa + 4) 4
  let sharers := readLE s.mem (pa + 0x14) 4
  let wait (s : State) : State := s.stay (.ticket excl o t)
  if serving ≠ t.toNat ∨ (excl ∧ sharers ≠ 0) then wait s
  else
    match s.boundTo o with
    | (s, rs) =>
      if rs.asked then wait s
      else
        let s := if excl then s.homeStore cr (pa + 0x10) 4 (s.cur.toNat + 1)
          else (s.homeStore cr (pa + 0x14) 4 (sharers + 1)).homeStore cr (pa + 4) 4 (serving + 1)
        let s := s.dropL1In (coreOf s.cur) rs.list
        let s := s.dropCleanIn (clusterOf s.cur) rs.list
        let s := s.modRegionQuads s.cur (fun q => q.filter (fun p => !lineIn rs.list p.1))
        s.modMe (fun m => { m with wait := .none, held := m.held ++ [(o, excl)], pc := m.pc + 4 })

/-- ACQX and ACQS (R290).  A thread that holds a ticket goes on waiting with it; its object's translation is
formed afresh each time it is looked at, and while it has none the wait goes on (DEDUCED, log 12). -/
def State.acq (s : State) (excl : Bool) (a : BitVec 5) : State :=
  let o := s.rd a
  match s.me.wait with
  | .ticket e _ t =>
    match s.translate s.me.cred .write false o with
    | (s, .ok { target := .device pa, .. }) => s.acqPoll e o t pa
    | (s, _) => s
  | _ =>
    if o.toNat % 64 ≠ 0 then s.trap cALIGN o
    else s.withHome o (fun s pa =>
      if s.me.held.any (fun h => h.1 == o) ∨ 8 ≤ s.me.held.length then s.trap cACCESS o
      else
        match s.homeRead pa 64 with
        | (s, _, bad) =>
          if bad then s.trap cUNCORR o
          else
            let t := readLE s.mem pa 4
            (s.homeStore s.me.cred pa 4 (t + 1)).acqPoll excl o (BitVec.ofNat 32 t) pa)

/-- ACQX (R290). -/
def execAcqx (a : BitVec 5) (s : State) : Out := .next (s.acq true a)
/-- ACQS (R290). -/
def execAcqs (a : BitVec 5) (s : State) : Out := .next (s.acq false a)

/-- The release at the home (R291). -/
def State.release (s : State) (o : Word) (pa : Nat) : State :=
  let cr := s.me.cred
  let inc (s : State) (off n : Nat) : State := s.homeStore cr (pa + off) n (readLE s.mem (pa + off) n + 1)
  let s :=
    if s.me.held.contains (o, true) then inc ((inc s 8 8).homeStore cr (pa + 0x10) 4 0) 4 4
    else if s.me.held.contains (o, false) then
      s.homeStore cr (pa + 0x14) 4 (readLE s.mem (pa + 0x14) 4 + (2 ^ 32 - 1))
    else inc s 8 8
  s.advance.modMe (fun t => { t with held := t.held.filter (fun h => h.1 != o) })

/-- REL (R291): bound dirty bytes reach the home first; a host page the ATC does not hold is asked for. -/
def execRel (a : BitVec 5) (s : State) : Out :=
  let o := s.rd a
  if o.toNat % 64 ≠ 0 then .next (s.trap cALIGN o)
  else .next (s.withHome o (fun s pa =>
    match s.homeRead pa 64 with
    | (s, _, bad) =>
      if bad then s.trap cUNCORR o
      else
        match s.boundTo o with
        | (s, rs) =>
          if rs.asked then s.stay .busy
          else (s.writeBackIn (clusterOf s.cur) rs.list).release o pa))

/-- The two steps of FENCE (R286) at scope 0 cluster, 1 die, 2 device, 3 system. -/
def State.fence (s : State) (scope : Nat) : State :=
  let c := clusterOf s.cur
  let s := if scope = 0 then s else s.writeBackAll c
  let s := s.dropCore (coreOf s.cur)
  if scope = 0 then s else s.dropCleanAll c

/-- FENCE (R286); scopes 4 to 7 raise ILLEGAL (R27). -/
def execFence (z : BitVec 3) (s : State) : Out :=
  if 4 ≤ z.toNat then .next (s.illegal (.fence z)) else .next (s.fence z.toNat).advance

/-! ## Far atomics (R293) -/

/-- A far atomic of 4 or 8 bytes: f gives the new value from the old and the operands, all of n bytes. -/
def atomic (f : Nat → Nat → Nat → Nat → Nat) (d a b : BitVec 5) (z : BitVec 1) (s : State) : Out :=
  let ea := s.rd a
  let n := if z = 1 then 8 else 4
  if ea.toNat % n ≠ 0 then .next (s.trap cALIGN ea)
  else .next (s.withHome ea (fun s pa =>
    let s := s.dropL1In (coreOf s.cur) [(pa - pa % 64, pa - pa % 64 + 64)]
    let s := s.dropClean (clusterOf s.cur) (pa / 64)
    match s.homeRead pa n with
    | (s, old, bad) =>
      if bad then s.trap cUNCORR ea
      else
        let w := 2 ^ (8 * n)
        let new := f n old ((s.rd b).toNat % w) ((s.rd d).toNat % w)
        (s.homeStore s.me.cred pa n (new % w)).put d (BitVec.ofNat 64 old)))

/-- The signed value of an n-byte number. -/
def signedOf (n v : Nat) : Int := if v < 2 ^ (8 * n - 1) then v else (v : Int) - 2 ^ (8 * n)

/-- AADD (R293). -/
def execAadd (d a b : BitVec 5) (z : BitVec 1) (s : State) : Out := atomic (fun _ old x _ => old + x) d a b z s
/-- AAND (R293). -/
def execAand (d a b : BitVec 5) (z : BitVec 1) (s : State) : Out := atomic (fun _ old x _ => old &&& x) d a b z s
/-- AOR (R293). -/
def execAor (d a b : BitVec 5) (z : BitVec 1) (s : State) : Out := atomic (fun _ old x _ => old ||| x) d a b z s
/-- AXOR (R293). -/
def execAxor (d a b : BitVec 5) (z : BitVec 1) (s : State) : Out := atomic (fun _ old x _ => old ^^^ x) d a b z s
/-- AMIN (R293). -/
def execAmin (d a b : BitVec 5) (z : BitVec 1) (s : State) : Out :=
  atomic (fun n old x _ => if signedOf n x < signedOf n old then x else old) d a b z s
/-- AMAX (R293). -/
def execAmax (d a b : BitVec 5) (z : BitVec 1) (s : State) : Out :=
  atomic (fun n old x _ => if signedOf n old < signedOf n x then x else old) d a b z s
/-- AMINN (R293). -/
def execAminn (d a b : BitVec 5) (z : BitVec 1) (s : State) : Out := atomic (fun _ old x _ => Nat.min old x) d a b z s
/-- AMAXN (R293). -/
def execAmaxn (d a b : BitVec 5) (z : BitVec 1) (s : State) : Out := atomic (fun _ old x _ => Nat.max old x) d a b z s
/-- AXCHG (R293). -/
def execAxchg (d a b : BitVec 5) (z : BitVec 1) (s : State) : Out := atomic (fun _ _ x _ => x) d a b z s
/-- ACAS (R293): g[d] is compared with the old value. -/
def execAcas (d a b : BitVec 5) (z : BitVec 1) (s : State) : Out :=
  atomic (fun _ old x c => if old = c then x else old) d a b z s

end Sys2Proof.Machine
end

