-- ==== Sys2Proof/Machine/Fault.lean ====
section
/-! DEFINITION. Fault records (R346 to R349), the end of a period (R120), kill and automatic replay (R383,
R384), region faults (R174, R175) and publication (R316). -/

namespace Sys2Proof.Machine

/-! ## Coordinates of a region's tiles -/

/-- The tile of the cluster that a region's tile is, 16 * y + x. -/
def Region.absTile (r : Region) (t : TileNo) : BitVec 8 :=
  tileAt (4 * (r.origin.toNat % 4) + tx t) (4 * (r.origin.toNat / 4) + ty t)

/-- The coordinate word of a node of thread n's region (R13). -/
def State.nodeCoord (s : State) (n : BitVec 9) (t : TileNo) (slot : Nat) : BitVec 32 :=
  let r := s.reg n
  fabricCoord (stageOf r.image t slot) (clusterOf n) (r.absTile t) (BitVec.ofNat 3 slot)

/-- The coordinate word of a region's origin tile (R120, R363).  No node is meant: STAGE and SLOT, which the spec does not give, are 0
(DESIGN CHOICE, log 92). -/
def State.originCoord (s : State) (n : BitVec 9) : BitVec 32 :=
  fabricCoord 0 (clusterOf n) ((s.reg n).absTile 0) 0

/-! ## Fault records -/

/-- The 32 bytes of a record (Table 11.13). -/
def FaultRec.bytes (r : FaultRec) : Nat :=
  r.addr.toNat + r.place.toNat * 2 ^ 64 + r.done.toNat * 2 ^ 128 + r.cause.toNat * 2 ^ 192 + r.flags.toNat * 2 ^ 200
    + r.space.toNat * 2 ^ 208 + r.owner.toNat * 2 ^ 224 + r.detail.toNat * 2 ^ 240

/-- Records the ring holds. -/
def Thread.faultCap (t : Thread) : Nat := 16 * 2 ^ (fld t.faultqbase 0 4).toNat

/-- Is the queue off or full (R349)? -/
def Thread.faultStuck (t : Thread) : Bool :=
  fld t.faultqbase 12 40 == 0 || decide (t.faultCap ≤ (fld t.faultqtail 0 32 - fld t.faultqhead 0 32).toNat)

/-- LOST rises, saturating; QERR is set when a write faulted (Table 11.12). -/
def lostRecord (w : Word) (qerr : Bool) : Word :=
  let l := fld w 48 16
  (if l = 0xFFFF then l else l + 1) ++ 0#15 ++ (if qerr then 1#1 else fld w 32 1) ++ fld w 0 32

/-- A record of thread n is dropped: LOST rises (R349). -/
def State.loseRecord (s : State) (n : BitVec 9) (qerr : Bool) : State :=
  s.modThr n (fun t => { t with faultqtail := lostRecord t.faultqtail qerr })

/-- Write a record that has room (R348): in full at the home, in the owner's space at guest privilege, then TAIL,
then the event on entry 14.  A faulting write drops it; answers false where a host page is asked for first (R337). -/
def State.putRecord (s : State) (n : BitVec 9) (r : FaultRec) : State × Bool :=
  let t := s.thr n
  let slot := (fld t.faultqtail 0 32).toNat % t.faultCap
  let va : Word := (zext (fld t.faultqbase 12 40) 64 <<< 12) + BitVec.ofNat 64 (32 * slot)
  let cr := { t.cred with pl := 1 }
  match s.resolve cr .write false va (.record n) with
  | (s, .fault _) => (s.loseRecord n true, true)
  | (s, .wait) => (s, false)
  | (s, .ok k _) =>
    let s := (s.markAll k (cr.marks k)).homeWrite k 32 r.bytes
    let s := s.modThr n (fun t =>
      { t with faultqtail := fld t.faultqtail 32 32 ++ (fld t.faultqtail 0 32 + 1) })
    (if r.event then s.event n 14 else s, true)

/-- Write waiting records, oldest first: one that finds no room waits, or is dropped where it need not be kept (R349).  The
fuel is the number waiting. -/
def State.flushRecords : Nat → BitVec 9 → State → State
  | 0, _, s => s
  | k + 1, n, s =>
    match (s.thr n).records with
    | [] => s
    | r :: rest =>
      let next (s : State) : State := State.flushRecords k n (s.modThr n (fun t => { t with records := rest }))
      if (s.thr n).faultStuck then (if r.keep then s else next (s.loseRecord n false))
      else
        match s.putRecord n r with
        | (s, true) => next s
        | (s, false) => s

/-- A record arises for thread n: the waiting ones go first; without room it waits or is dropped (R349). -/
def State.faultRecord (s : State) (n : BitVec 9) (r : FaultRec) : State :=
  let r := { r with owner := zext n 16 }
  let s := s.flushRecords (s.thr n).records.length n
  let t := s.thr n
  let wait (s : State) : State := s.modThr n (fun t => { t with records := t.records ++ [r] })
  if t.faultStuck then (if r.keep then wait s else s.loseRecord n false)
  else if !t.records.isEmpty then wait s
  else
    match s.putRecord n r with
    | (s, true) => s
    | (s, false) => wait s

/-- FAULT_RECORD_DEFERRED (R349): the waiting records of thread `n` that now have room are written. -/
def execFaultRecordDeferred (s : State) : Out :=
  .next (s.flushRecords (s.thr s.ev.n).records.length s.ev.n)

/-- The SPACE field of a record: number and generation in use. -/
def State.spaceField (s : State) (c : Capt) : BitVec 16 := (s.gen c.spnum).gen ++ BitVec.ofNat 12 c.spnum

/-! ## Publication (R316) -/

/-- Publish the buffer whose descriptor lies at a physical address: flip CUR, count, kill its translations and the
clean cached copies of the new visible backing, device-wide. -/
def State.publish (s : State) (d : Nat) (mark : State → State) : State :=
  let cur := readLE s.mem (d + 0x20) 1
  let pubs := readLE s.mem (d + 0x28) 8
  let back := readLE s.mem (d + (if cur % 2 = 1 then 0x10 else 0x18)) 8
  let len := readLE s.mem (d + 8) 8
  let s := mark s
  let s := (s.homeWrite (d + 0x20) 1 (if cur % 2 = 1 then cur - 1 else cur + 1)).homeWrite (d + 0x28) 8 (pubs + 1)
  let rs := [(back, back + len)]
  let clean (t : Tab Line) : Tab Line := t.filter (fun p => !lineIn rs p.1)
  { s with
    tlb := s.tlb.filter (fun e => e.desc != some d)
    clusters := s.clusters.map (fun p => (p.1, { p.2 with
      l1 := p.2.l1.map (fun q => (q.1, clean q.2))
      inst := p.2.inst.map (fun q => (q.1, clean q.2))
      quad := p.2.quad.map (fun q => (q.1, clean q.2))
      l2 := (p.2.l2.map (fun q => if lineIn rs q.1 then (q.1, { q.2 with valid := q.2.valid &&& q.2.dirty }) else q)).filter
        (fun q => q.2.valid != 0) })) }

/-! ## Storage of a region's tiles -/

/-- The storage of a tile of a cluster. -/
def Cluster.tile (c : Cluster) (t : BitVec 8) : TileMem := Tab.get {} c.tiles t.toNat

/-- Change the storage of a tile of a cluster. -/
def State.modTile (s : State) (c : BitVec 5) (t : BitVec 8) (f : TileMem → TileMem) : State :=
  s.modClu c (fun k => { k with tiles := Tab.set k.tiles t.toNat (f (k.tile t)) })

/-- The physical bank of a logical bank. -/
def BankSet.phys (b : BankSet) (q : Nat) : Nat := b.map.getD q q

/-- Zero the scratchpad banks below SCRBANKS (R114). -/
def TileMem.zeroScr (m : TileMem) (banks : Nat) : TileMem :=
  let ps := (List.range banks).map m.scrBanks.phys
  { m with
    scr := m.scr.filter (fun c => !ps.contains (c.1 / 8192))
    scrPoison := m.scrPoison.filter (fun w => !ps.contains (w / 1024)) }

/-- Zero the tile registers below TREGS (R216). -/
def TileMem.zeroTreg (m : TileMem) (regs : Nat) : TileMem :=
  let ps := (List.range regs).map m.tregBanks.phys
  { m with
    treg := m.treg.filter (fun c => !ps.contains c.1)
    tregPoison := m.tregPoison.filter (fun w => !ps.contains (w / 512)) }

/-- What a load writes into the storage of a region's tiles (R114, R216): banks used, registers and accumulators zero;
an automatic replay leaves the scratchpad (R384). -/
def State.zeroTiles (s : State) (n : BitVec 9) (img : Nat) (scr : Bool) : State :=
  (imgTiles img).foldl (fun s t =>
    s.modTile (clusterOf n) ((s.reg n).absTile t) (fun m =>
      { (if scr then m.zeroScr (imgScrbanks img) else m).zeroTreg (imgTregs img) with acc := 0, accPoison := [] })) s

/-- The tiles of a freshly loaded image: only the precision word is not zero, its CAPOK bit the header's (R220). -/
def freshTiles (img : Nat) : Tab RTile :=
  if imgCapok img then (imgTiles img).foldl (fun t k => Tab.set t k.toNat { prec := 1#32 <<< 18 }) [] else []

/-- A region with its image's words freshly written: no token, no node state, every tag empty (R114). -/
def Region.fresh (r : Region) : Region :=
  { r with tiles := freshTiles r.image, flight := [], pos := [], cmds := [], mark := none, drainAsked := false, kept := [], retry := false, areaOwed := false, unread := [] }

/-! ## The end of a period -/

/-- The sinks of an image (R113): SINKS of its header. -/
def Region.sinks (r : Region) : Nat := imgSinks r.image

/-- A completion word (R120). -/
def compWord (config status : BitVec 16) (ends : BitVec 32) : Word := config ++ status ++ ends

/-- A completion store is dropped with a record as an event on entry 14 (R120). -/
def State.dropWord (s : State) (n : BitVec 9) (w : WordStore) (c : BitVec 8) : State :=
  s.faultRecord n { addr := w.va, place := zext w.place 64, cause := c, flags := if s.hostTier w.capt w.va then 5 else 1
                    space := s.spaceField w.capt }

/-- A completion store in the owner's space as captured (R120): performed at the home, where it ends a WFE of the owner (R96),
or dropped; one that needs a host page waits for it (R337). -/
def State.storeWord (s : State) (n : BitVec 9) (w : WordStore) : State :=
  match s.resolve w.capt .write false w.va (.word n) with
  | (s, .fault c) => s.dropWord n w c
  | (s, .ok k _) => (s.homeStore w.capt k 8 w.val.toNat).modThr n Thread.wake
  | (s, .wait) => s.modThr n (fun t => { t with stores := t.stores ++ [w] })

/-- The completion stores that wait are tried again. -/
def State.storeWords (s : State) (n : BitVec 9) : State :=
  ((s.thr n).stores).foldl (fun s w => s.storeWord n w) (s.modThr n (fun t => { t with stores := [] }))

/-- The host refuses the page of a completion store: the store is dropped with cause ATS (R120, R338). -/
def State.refuseWord (s : State) (n : BitVec 9) (va : Word) : State :=
  let (no, yes) := ((s.thr n).stores).partition (fun w => w.va == va)
  no.foldl (fun s w => s.dropWord n w cATS) (s.modThr n (fun t => { t with stores := yes }))

/-- The period of thread n's region ends with a status (R120): what its nodes left dirty is written back (R284), then its word
is stored and kept. -/
def State.finishPeriod (s : State) (n : BitVec 9) (status : BitVec 16) : State :=
  let s := s.writeBackAll (clusterOf n)
  let r := s.reg n
  let w := compWord (imgConfig r.image) status r.ends
  (s.storeWord n { capt := r.capt, va := r.comp, val := w, place := s.originCoord n }).modReg n
    (fun r => { r with running := false, last := some w })

/-- Entries of the range scoreboards go (R313). -/
def State.dropScore (s : State) (p : Score → Bool) : State :=
  { s with clusters := s.clusters.map (fun c => (c.1, { c.2 with score := c.2.score.filter (fun e => !p e) })) }

/-- The scoreboard entries of thread n's commands go: bit 63 of ENTRY marks a command. -/
def State.dropCommandScore (s : State) (n : BitVec 9) : State := s.dropScore (fun e => e.owner == n && e.entry.getLsbD 63)

/-- The region of thread n ends: a completion word for a period in progress, otherwise a fault record (R120).
Its parked heads, tokens and commands are gone. -/
def State.endRegion (s : State) (n : BitVec 9) (cause : BitVec 8) : State :=
  let r := s.reg n
  let s := if r.running then s.finishPeriod n (zext cause 16)
    else s.faultRecord n { place := zext (s.originCoord n) 64, cause := if cause = cOVERCAP then cOVERCAP else cKILLED
                           space := s.spaceField r.capt }
  (s.dropCommandScore n).modReg n (fun r => { r.fresh with st := 9, shadow := [], newImage := none, ports := r.ports })

/-! ## Kill and replay (R383, R384) -/

/-- The bytes a killed period wrote through shadows become unspecified (R317). -/
def State.spoilShadows (s : State) (ws : List (Nat × Nat × Nat)) : State :=
  ws.foldl (fun s w =>
    { s with tick := s.tick + 1
             mem := (List.range w.2.2).foldl (fun m k => cellWrite m (w.2.1 + k) (Config.shadowByte s.tick (w.2.1 + k))) s.mem })
    s

/-- Steps 1 to 4 of R383. -/
def State.killSteps (s : State) (n : BitVec 9) : State :=
  ((s.spoilShadows (s.reg n).shadow).dropCommandScore n).modReg n (fun r =>
    { r with tiles := [], flight := [], cmds := [], shadow := [], unread := [] })

/-- Does an image hold one of the operations that rule out an automatic replay (R384)? -/
def imgStores (img : Nat) : Bool :=
  (imgNodes img).any (fun n => [0x61, 0x63, 0x66, 0x75, 0x68].contains (opCode (opWord img n.1 n.2)))

/-- The nodes that consume from an ingress port. -/
def portNodes (img : Nat) (p : BitVec 14) : List (TileNo × Nat) :=
  (destNodes (route img (portChan p) 257 (portTile p) 0)).eraseDups

/-- Is what an ingress port's edge holds freed (R320): its consumers have emitted END, an egress port it reaches directly has
passed END on, or the region has ENDED? -/
def Region.edgeFreed (r : Region) (p : BitVec 14) : Bool :=
  let outs := (route r.image (portChan p) 257 (portTile p) 0).filterMap (fun d => match d.1 with | .port q => some q | _ => none)
  r.st == 9 || ((portNodes r.image p).all (fun v => (Tab.get ({} : RTile) r.tiles v.1.toNat).ended.contains v.2)
    && outs.all (fun q => r.ports.any (fun x => x.id == q && !x.kind.inward && x.endSent)))

/-- Does every ingress port's replay buffer hold every token the port has admitted (R384)? -/
def Region.replayable (r : Region) : Bool :=
  r.ports.all (fun p => match p.kind with
    | .ingress | .bridgeIn => !p.freed && !r.edgeFreed p.id
    | _ => true)

/-- A port at the start of a replay: it admits from index 0, its buffer first (R384). -/
def Port.rewind (p : Port) : Port :=
  { p with next := 0, taken := 0, endSent := false, drainSent := false, markSent := false, mid := false, half := none }

/-- Chain positions at cycle `now`: each CHAIN first emits PHASE cycles later (R158). -/
def chainsAt (img : Nat) (t : TileNo) (now : Nat) : Tab ChainPos :=
  (List.range 8).filterMap (fun k =>
    if opCode (opWord img t k) = 0x53 then some (k, { ready := now + chPhase (chainRec img t k) }) else none)

/-- A tile as the period starts: no engagement, no emission in progress, chains at their start. -/
def RTile.opened (r : RTile) (img : Nat) (t : TileNo) (now : Nat) : RTile :=
  { r with
    queues := r.queues.map (fun q => (q.1, { q.2 with engaged := false }))
    prog := [], chain := chainsAt img t now, ended := [], drained := [], marked := []
    nstate := (List.range 8).foldl (fun n k =>
      if opCode (opWord img t k) = 0x51 then Tab.del n k else n) r.nstate }

/-- The tiles of a region as the period starts.  Its cycle 0 is the one after the word that opens the ports (DEDUCED, log 3). -/
def openTiles (img : Nat) (ts : Tab RTile) (now : Nat) : Tab RTile :=
  (imgTiles img).foldl (fun a t =>
    let r := (Tab.get {} ts t.toNat).opened img t now
    if r = ({} : RTile) then Tab.del a t.toNat else Tab.set a t.toNat r) ts

/-- The automatic replay (R384): words, token stores, tags and accumulators afresh, scratchpad as it stands.  A MARK in
passage goes through the region as it starts over, and a drain that was asked for stays asked for (R121). -/
def State.replay (s : State) (n : BitVec 9) : State :=
  let s := s.zeroTiles n (s.reg n).image false
  s.modReg n (fun r =>
    { r.fresh with
      mark := r.mark, drainAsked := r.drainAsked, st := 4, flags := 0, ends := 0, left := r.sinks, ports := r.ports.map Port.rewind, replays := r.replays + 1
      tiles := openTiles r.image r.fresh.tiles ((s.now n) + 1), start := (s.now n) + 1, active := (s.now n), shadow := [] })

/-- A kill by UNCORR of the region at a node (R383, R384): record, then replay or the end. -/
def State.killUncorr (s : State) (n : BitVec 9) (place : BitVec 32) : State :=
  let r := s.reg n
  let stores := imgStores r.image
  let s := (s.killSteps n).faultRecord n
    { place := zext place 64, cause := cUNCORR, space := s.spaceField r.capt }
  if !stores ∧ r.replayable ∧ r.replays < 3 ∧ r.running then s.replay n
  else s.endRegion n (if !stores ∧ r.replays < 3 ∧ r.running then cREPLAYLIMIT else cUNCORR)

/-- A region fault (R52, R174, R175, R372): OVERRUN and the others write their record, with WRITE and HOSTT of an access (R347), and
end the region; UNCORR follows R383. -/
def State.regionFault (s : State) (n : BitVec 9) (place : BitVec 32) (cause : BitVec 8) (addr : Word) (flags : BitVec 8 := 0) : State :=
  if cause = cUNCORR then s.killUncorr n place
  else
    let r := s.reg n
    let s := s.faultRecord n
      { addr := if cause = cALIGN ∨ cause = cACCESS then addr else 0, place := zext place 64, cause := cause, flags := flags
        space := s.spaceField r.capt }
    (s.killSteps n).endRegion n cause

/-- Raise one of the region's sticky flags (Table 4.9, bit 16 + k of word 0). -/
def State.raiseFlag (s : State) (n : BitVec 9) (k : Nat) : State :=
  s.modReg n (fun r => { r with flags := r.flags ||| 1#16 <<< k })

end Sys2Proof.Machine
end

