-- ==== Sys2Proof/Machine/Num.lean ====
section
/-! DEFINITION. Numbers (chapter 6): exact values, the floating-point formats of Table 6.3 and TF8, the one
rounding function of R198, and the exact arithmetic every operation rounds. -/

namespace Sys2Proof.Machine

/-! ## Exact values and flags -/

/-- An exact value: NaN, an infinity, or (−1)^neg · m · 2^e, where m = 0 is a signed zero. -/
inductive Num where
  | nan
  | inf (neg : Bool)
  | fin (neg : Bool) (m : Nat) (e : Int)
  deriving DecidableEq, Repr

/-- The flags an operation raises (R203), and the saturation of R184. -/
structure Fl where
  inv : Bool := false
  ovf : Bool := false
  inx : Bool := false
  aovf : Bool := false
  deriving DecidableEq, Repr

/-- The OR of two sets of flags. -/
def Fl.or (a b : Fl) : Fl := ⟨a.inv || b.inv, a.ovf || b.ovf, a.inx || b.inx, a.aovf || b.aovf⟩

/-- Invalid alone. -/
def Fl.invalid : Fl := { inv := true }

/-- The rounding modes of R198, coded as `FPCTL`.RM. -/
inductive Mode where | rne | rtz | rdn | rup
  deriving DecidableEq, Repr

/-- The mode of a two-bit code (Table 6.6). -/
def Mode.ofCode (m : BitVec 2) : Mode :=
  match m.toNat with | 0 => .rne | 1 => .rtz | 2 => .rdn | _ => .rup

/-- The formats of Table 6.3, and TF8. -/
inductive Fmt where | f64 | f32 | f16 | bf16 | e5m2 | e4m3 | e2m1 | tf8
  deriving DecidableEq, Repr

/-- Exponent bits (Table 6.3). -/
def Fmt.ew : Fmt → Nat
  | .f64 => 11 | .f32 => 8 | .f16 => 5 | .bf16 => 8 | .e5m2 => 5 | .e4m3 => 4 | .e2m1 => 2 | .tf8 => 0
/-- Bias (Table 6.3). -/
def Fmt.bias : Fmt → Nat
  | .f64 => 1023 | .f32 => 127 | .f16 => 15 | .bf16 => 127 | .e5m2 => 15 | .e4m3 => 7 | .e2m1 => 1 | .tf8 => 0
/-- Fraction bits (Table 6.3). -/
def Fmt.fw : Fmt → Nat
  | .f64 => 52 | .f32 => 23 | .f16 => 10 | .bf16 => 7 | .e5m2 => 2 | .e4m3 => 3 | .e2m1 => 1 | .tf8 => 0
/-- Has the format infinities? -/
def Fmt.hasInf : Fmt → Bool
  | .e4m3 | .e2m1 | .tf8 => false | _ => true
/-- The canonical NaN (Table 6.3, R192); E2M1 writes +0 in its place (R198). -/
def Fmt.qnan : Fmt → Nat
  | .f64 => 0x7FF8000000000000 | .f32 => 0x7FC00000 | .f16 => 0x7E00 | .bf16 => 0x7FC0
  | .e5m2 => 0x7E | .e4m3 => 0x7F | .e2m1 => 0 | .tf8 => 0x80
/-- Width in bits. -/
def Fmt.bits : Fmt → Nat
  | .f64 => 64 | .f32 => 32 | .f16 => 16 | .bf16 => 16 | .e2m1 => 4 | _ => 8

/-- The floating-point format of an element type code, f32 where it names none. -/
def fmtOf (t : BitVec 4) : Fmt :=
  match t.toNat with
  | 7 => .bf16 | 8 => .f16 | 9 => .e4m3 | 10 => .e5m2 | 11 => .e2m1 | 12 => .tf8 | _ => .f32

/-! ## TF8 (R192) -/

/-- Row z of Table 6.4 for an exponent from −15 to 13. -/
def tfRow (e : Int) : Nat :=
  if e = -1 ∨ e = 0 then 0
  else if -3 ≤ e ∧ e ≤ 2 then 1
  else if -7 ≤ e ∧ e ≤ 6 then 2
  else if -11 ≤ e ∧ e ≤ 10 then 3
  else if -13 ≤ e ∧ e ≤ 12 then 4
  else if -14 ≤ e ∧ e ≤ 13 then 5
  else 6

/-- ex, fw, Eneg and Epos of a row (Table 6.4). -/
def tfCols : Nat → Nat × Nat × Int × Int
  | 0 => (1, 5, -1, 0) | 1 => (2, 3, -3, 1) | 2 => (3, 1, -7, 3) | 3 => (3, 0, -11, 7)
  | 4 => (2, 0, -13, 11) | 5 => (1, 0, -14, 13) | _ => (0, 0, -15, 0)

/-- Fraction bits at an exponent: those of its row, 0 above the format's range (R198). -/
def tfFw (e : Int) : Nat := if e < -15 ∨ 13 < e then 0 else (tfCols (tfRow e)).2.1

/-- The magnitude code of 2^e · (1 + f/2^fw). -/
def tfCode (e : Int) (f : Nat) : Nat :=
  let z := tfRow e
  let (ex, fw, en, ep) := tfCols z
  let v : Nat := if e < 0 then (e - en).toNat else (e - ep).toNat + 2 ^ (ex - 1)
  2 ^ (6 - z) + v * 2 ^ fw + f

/-- Leading zeros of a 7-bit magnitude field. -/
def tfLead (m : Nat) : Nat := 6 - Nat.log2 m

/-- The value of a TF8 code. -/
def tfDecode (c : Nat) : Num :=
  let m := c % 128
  let neg := c / 128 % 2 == 1
  if m = 0 then (if neg then .nan else .fin false 0 0)
  else
    let z := tfLead m
    let (ex, fw, en, ep) := tfCols z
    let v := m / 2 ^ fw % 2 ^ ex
    let f := m % 2 ^ fw
    let e : Int := if ex = 0 then en else if v < 2 ^ (ex - 1) then en + v else ep + (v - 2 ^ (ex - 1) : Nat)
    .fin neg (2 ^ fw + f) (e - fw)

/-! ## Decoding (R189 to R191) -/

/-- The value an encoding stands for. -/
def Fmt.decode (f : Fmt) (c : Nat) : Num :=
  if f = .tf8 then tfDecode c
  else
    let neg := c / 2 ^ (f.ew + f.fw) % 2 == 1
    let e := c / 2 ^ f.fw % 2 ^ f.ew
    let fr := c % 2 ^ f.fw
    let special : Option Num :=
      if e = 2 ^ f.ew - 1 then
        match f with
        | .e2m1 => none
        | .e4m3 => if fr = 7 then some .nan else none
        | _ => if fr = 0 then some (.inf neg) else some .nan
      else none
    match special with
    | some x => x
    | none =>
      if e = 0 then .fin neg fr (1 - (f.bias : Int) - f.fw)
      else .fin neg (2 ^ f.fw + fr) ((e : Int) - f.bias - f.fw)

/-! ## Comparing and combining exact values -/

/-- The integer a finite value is, in units of 2^lo (lo at most its exponent). -/
def scaled (neg : Bool) (m : Nat) (e lo : Int) : Int :=
  let v : Int := (m * 2 ^ (e - lo).toNat : Nat)
  if neg then -v else v

/-- Sign of a nonzero exact value, of an infinity, or of a zero. -/
def Num.neg : Num → Bool
  | .nan => false | .inf n => n | .fin n _ _ => n

/-- Is the value a zero of either sign? -/
def Num.isZero : Num → Bool
  | .fin _ m _ => m == 0 | _ => false

/-- Is the value NaN? -/
def Num.isNan : Num → Bool
  | .nan => true | _ => false

/-- Is the value an infinity? -/
def Num.isInf : Num → Bool
  | .inf _ => true | _ => false

/-- Compare numerically: −1, 0, 1; NaN compares as 0 and its users test for it first. -/
def Num.cmp (x y : Num) : Int :=
  match x, y with
  | .fin a m e, .fin b n f =>
    let lo := if e ≤ f then e else f
    let u := scaled a m e lo; let v := scaled b n f lo
    if u < v then -1 else if u = v then 0 else 1
  | .inf a, .inf b => if a = b then 0 else if a then -1 else 1
  | .inf a, _ => if a then -1 else 1
  | _, .inf b => if b then 1 else -1
  | _, _ => 0

/-- Negate, NaN unchanged. -/
def Num.negate : Num → Num
  | .nan => .nan | .inf n => .inf (!n) | .fin n m e => .fin (!n) m e

/-- Absolute value. -/
def Num.abs : Num → Num
  | .nan => .nan | .inf _ => .inf false | .fin _ m e => .fin false m e

/-- Exact sum (R201, R203, R204). -/
def Num.add (x y : Num) : Num × Fl :=
  match x, y with
  | .nan, _ => (.nan, {})
  | _, .nan => (.nan, {})
  | .inf a, .inf b => if a = b then (.inf a, {}) else (.nan, Fl.invalid)
  | .inf a, _ => (.inf a, {})
  | _, .inf b => (.inf b, {})
  | .fin a m e, .fin b n f =>
    let lo := if e ≤ f then e else f
    let v := scaled a m e lo + scaled b n f lo
    if v = 0 then (.fin (m == 0 && n == 0 && a && b) 0 0, {}) else (.fin (decide (v < 0)) v.natAbs lo, {})

/-- Exact product (R201, R203). -/
def Num.mul (x y : Num) : Num × Fl :=
  match x, y with
  | .nan, _ => (.nan, {})
  | _, .nan => (.nan, {})
  | .fin a m e, .fin b n f => (.fin (a != b) (m * n) (e + f), {})
  | .inf a, y => if y.isZero then (.nan, Fl.invalid) else (.inf (a != y.neg), {})
  | x, .inf b => if x.isZero then (.nan, Fl.invalid) else (.inf (x.neg != b), {})

/-- Exact d + a·b (R203, R208). -/
def Num.fma (d a b : Num) : Num × Fl :=
  let (p, f) := a.mul b
  let (r, g) := d.add p
  (r, f.or g)

/-- An integer as an exact value. -/
def Num.ofInt (v : Int) : Num := .fin (decide (v < 0)) v.natAbs 0

/-- Multiply by 2^k. -/
def Num.scale (k : Int) : Num → Num
  | .fin n m e => .fin n m (e + k) | x => x

/-- The exponent of the leading bit of a finite nonzero value. -/
def leadExp (m : Nat) (e : Int) : Int := (Nat.log2 m : Int) + e

/-! ## Rounding (R198) -/

/-- The exponent of the spacing of Gx about a magnitude m · 2^e, m ≠ 0. -/
def Fmt.quantum (f : Fmt) (m : Nat) (e : Int) : Int :=
  let top := leadExp m e
  if f = .tf8 then (if top < -15 then -15 else top - tfFw top)
  else
    let emin : Int := 1 - (f.bias : Int)
    (if top < emin then emin else top) - f.fw

/-- Round a magnitude down to a multiple of 2^q: the multiple, and the remainder against a half: 0 exact,
1 below, 2 half, 3 above. -/
def floorTo (m : Nat) (e q : Int) : Nat × Nat :=
  if q ≤ e then (m * 2 ^ (e - q).toNat, 0)
  else
    let k := (q - e).toNat
    let r := m % 2 ^ k
    (m / 2 ^ k, if r = 0 then 0 else if 2 * r < 2 ^ k then 1 else if 2 * r = 2 ^ k then 2 else 3)

/-- Does the mode round this magnitude away from zero?  `up` is the choice at a tie of RNE. -/
def Mode.away (mode : Mode) (neg : Bool) (rem : Nat) (up : Bool) : Bool :=
  if rem = 0 then false
  else
    match mode with
    | .rtz => false
    | .rdn => neg
    | .rup => !neg
    | .rne => rem == 3 || (rem == 2 && up)

/-- At a tie, does RNE take the larger magnitude?  Where the spacing leaves no fraction bit both neighbours
are even and the larger is taken; elsewhere the even one (R198). -/
def Fmt.tieUp (f : Fmt) (n : Nat) (m : Nat) (e : Int) : Bool :=
  if f = .tf8 ∧ tfFw (leadExp m e) = 0 then true else n % 2 == 1

/-- The largest finite magnitude, as m · 2^e (Table 6.3, R193). -/
def Fmt.max : Fmt → Nat × Int
  | .f64 => (2 ^ 53 - 1, 971) | .f32 => (2 ^ 24 - 1, 104) | .f16 => (2 ^ 11 - 1, 5) | .bf16 => (255, 120)
  | .e5m2 => (7, 13) | .e4m3 => (7, 6) | .e2m1 => (3, 1) | .tf8 => (1, 13)

/-- The code of a finite member of ±G. -/
def Fmt.encode (f : Fmt) (neg : Bool) (m : Nat) (e : Int) : Nat :=
  let s := fun (c w : Nat) => (if neg then 2 ^ w else 0) + c
  if f = .tf8 then
    if m = 0 then 0
    else
      let top := leadExp m e
      s (tfCode top (m * 2 ^ tfFw top / 2 ^ Nat.log2 m - 2 ^ tfFw top)) 7
  else
    let emin : Int := 1 - (f.bias : Int)
    if m = 0 then s 0 (f.ew + f.fw)
    else
      let top := leadExp m e
      if top < emin then s (floorTo m e (emin - f.fw)).1 (f.ew + f.fw)
      else s ((top + f.bias).toNat * 2 ^ f.fw + (m * 2 ^ f.fw / 2 ^ Nat.log2 m - 2 ^ f.fw)) (f.ew + f.fw)

/-- The code of an infinity of a format that has them. -/
def Fmt.infCode (f : Fmt) (neg : Bool) : Nat :=
  (if neg then 2 ^ (f.ew + f.fw) else 0) + (2 ^ f.ew - 1) * 2 ^ f.fw

/-- A magnitude rounded onto Gx has been found; compare it with the largest finite magnitude (R198). -/
def Fmt.finish (f : Fmt) (mode : Mode) (neg : Bool) (n : Nat) (q : Int) (inx : Bool) : Nat × Fl :=
  let (mm, me) := f.max
  if Num.cmp (.fin false n q) (.fin false mm me) = 1 then
    (if f.hasInf && (mode == .rne || (mode == .rdn && neg) || (mode == .rup && !neg)) then f.infCode neg
      else f.encode neg mm me,
     { ovf := true, inx := true })
  else (f.encode neg n q, { inx := inx })

/-- `round(x, fmt, mode)` (R198): the code and the flags. -/
def Fmt.round (f : Fmt) (mode : Mode) (x : Num) : Nat × Fl :=
  match x with
  | .nan => (f.qnan, if f = .e2m1 then Fl.invalid else {})
  | .inf neg =>
    if f.hasInf then (f.infCode neg, {})
    else if f = .e2m1 then ((if neg then 8 else 0) + 7, Fl.invalid)
    else (f.qnan, Fl.invalid)
  | .fin neg m e =>
    if m = 0 then (f.encode neg 0 0, {})
    else
      let q := f.quantum m e
      let (n, rem) := floorTo m e q
      let n' := if mode.away neg rem (f.tieUp n m e) then n + 1 else n
      f.finish mode neg n' q (rem != 0)

/-- Round and read back: the value a format holds after rounding, with the flags. -/
def Fmt.roundNum (f : Fmt) (mode : Mode) (x : Num) : Num × Fl :=
  let (c, fl) := f.round mode x
  (f.decode c, fl)

/-! ## Integers -/

/-- Round a finite value to an integer: the integer and whether it differs (R211). -/
def toInteger (mode : Mode) (neg : Bool) (m : Nat) (e : Int) : Int × Bool :=
  let (n, rem) := floorTo m e 0
  let n' := if mode.away neg rem (n % 2 == 1) then n + 1 else n
  (if neg then -(n' : Int) else (n' : Int), rem != 0)

/-- Convert to an integer of range [lo, hi] (R203, R211). -/
def Num.toInt (x : Num) (mode : Mode) (lo hi : Int) : Int × Fl :=
  match x with
  | .nan => (0, Fl.invalid)
  | .inf neg => (if neg then lo else hi, Fl.invalid)
  | .fin neg m e =>
    let (q, inx) := toInteger mode neg m e
    if q < lo then (lo, Fl.invalid) else if hi < q then (hi, Fl.invalid) else (q, { inx := inx })

/-- The range of an integer of w bits. -/
def intRange (signed : Bool) (w : Nat) : Int × Int :=
  if signed then (-(2 ^ (w - 1) : Int), 2 ^ (w - 1) - 1) else (0, 2 ^ w - 1)

/-! ## Reciprocal and roots (R210) -/

/-- Append a sticky bit: the exact value lies strictly above the floor when `more` holds. -/
def sticky (neg : Bool) (m : Nat) (e : Int) (more : Bool) : Num := .fin neg (2 * m + if more then 1 else 0) (e - 1)

/-- The integer square root, by bits from bit b − 1 down. -/
def isqrt : Nat → Nat → Nat → Nat
  | 0, _, r => r
  | b + 1, n, r => isqrt b n (if (r + 2 ^ b) * (r + 2 ^ b) ≤ n then r + 2 ^ b else r)

/-- 1/x (R210). -/
def Num.rcp : Num → Num × Fl
  | .nan => (.nan, {})
  | .inf n => (.fin n 0 0, {})
  | .fin n m e =>
    if m = 0 then (.inf n, {})
    else
      let k := Nat.log2 m + 80
      (sticky n (2 ^ k / m) (-(k : Int) - e) (2 ^ k % m != 0), {})

/-- √x (R210). -/
def Num.sqrt : Num → Num × Fl
  | .nan => (.nan, {})
  | .inf n => if n then (.nan, Fl.invalid) else (.inf false, {})
  | .fin n m e =>
    if m = 0 then (.fin n 0 0, {})
    else if n then (.nan, Fl.invalid)
    else
      let m' := if e % 2 = 0 then m else 2 * m
      let e' := if e % 2 = 0 then e else e - 1
      let v := m' * 2 ^ 160
      let r := isqrt (Nat.log2 v / 2 + 1) v 0
      (sticky false r (e' / 2 - 80) (r * r != v), {})

/-- 1/√x (R210). -/
def Num.rsq : Num → Num × Fl
  | .nan => (.nan, {})
  | .inf n => if n then (.nan, Fl.invalid) else (.fin false 0 0, {})
  | .fin n m e =>
    if m = 0 then (.inf n, {})
    else if n then (.nan, Fl.invalid)
    else
      let m' := if e % 2 = 0 then m else 2 * m
      let e' := if e % 2 = 0 then e else e - 1
      let k := Nat.log2 m' / 2 + 80
      let v := 2 ^ (2 * k)
      let r := isqrt 82 (v / m') 0
      (sticky false r (-(e' / 2) - k) (r * r * m' != v), {})

/-! ## Minimum, maximum and comparison (R209) -/

/-- Is x before y in the order of FMIN, −0 before +0? -/
def Num.before (x y : Num) : Bool :=
  if x.isZero && y.isZero then x.neg && !y.neg else x.cmp y == -1

/-- The lesser of two values, NaN if either is (R209). -/
def Num.min (x y : Num) : Num := if x.isNan || y.isNan then .nan else if y.before x then y else x

/-- The greater of two values, NaN if either is (R209). -/
def Num.max (x y : Num) : Num := if x.isNan || y.isNan then .nan else if x.before y then y else x

/-- A = B, A < B, A ≤ B; false when either is NaN (R209). -/
def Num.eqv (x y : Num) : Bool := !x.isNan && !y.isNan && x.cmp y == 0
/-- A < B. -/
def Num.lt (x y : Num) : Bool := !x.isNan && !y.isNan && x.cmp y == -1
/-- A ≤ B. -/
def Num.le (x y : Num) : Bool := !x.isNan && !y.isNan && x.cmp y != 1

end Sys2Proof.Machine
end

