-- ==== Sys2Proof/Machine/Token.lean ====
section
/-! DEFINITION. Tokens (R45 to R49): sideband fields, elements, signed digits (R185 to R188) and the keyed
hash (R54). -/

namespace Sys2Proof.Machine

/-! ## Kinds (Table 2.12) -/

/-- DATA. -/
abbrev kDATA : Nat := 0
/-- GAP. -/
abbrev kGAP : Nat := 1
/-- END. -/
abbrev kEND : Nat := 2
/-- DRAIN. -/
abbrev kDRAIN : Nat := 3
/-- MARK. -/
abbrev kMARK : Nat := 4
/-- CMD. -/
abbrev kCMD : Nat := 5
/-- RESUME. -/
abbrev kRESUME : Nat := 6
/-- POISON. -/
abbrev kPOISON : Nat := 7
/-- CTRL. -/
abbrev kCTRL : Nat := 8
/-- ORDER. -/
abbrev kORDER : Nat := 9

/-! ## Sideband fields -/

/-- KIND. -/
def Token.kind (t : Token) : Nat := (fld t.side 28 4).toNat
/-- WEXP. -/
def Token.wexp (t : Token) : Nat := (fld t.side 23 5).toNat
/-- MCOUNT. -/
def Token.mcount (t : Token) : Nat := (fld t.side 18 5).toNat
/-- NARROW. -/
def Token.narrow (t : Token) : Nat := (fld t.side 14 4).toNat
/-- FIRST. -/
def Token.first (t : Token) : Bool := t.side.getLsbD 13
/-- LAST. -/
def Token.last (t : Token) : Bool := t.side.getLsbD 12
/-- VALID. -/
def Token.valid (t : Token) : BitVec 8 := fld t.side 4 8

/-- A sideband from its fields. -/
def mkSide (kind wexp mcount narrow : Nat) (first last : Bool) (valid : BitVec 8) : BitVec 32 :=
  BitVec.ofNat 4 kind ++ BitVec.ofNat 5 wexp ++ BitVec.ofNat 5 mcount ++ BitVec.ofNat 4 narrow
    ++ BitVec.ofBool first ++ BitVec.ofBool last ++ valid ++ 0#4

/-- A token with another WEXP, MCOUNT, NARROW, FIRST, LAST and VALID. -/
def Token.withSide (t : Token) (wexp mcount narrow : Nat) (first last : Bool) (valid : BitVec 8) : Token :=
  { t with side := mkSide t.kind wexp mcount narrow first last valid }

/-- Another FIRST and LAST. -/
def Token.marked (t : Token) (first last : Bool) : Token :=
  t.withSide t.wexp t.mcount t.narrow first last t.valid

/-- Is a token a record's (R143)? -/
def Token.isRecord (t : Token) : Bool := t.kind == kDATA || t.kind == kCTRL

/-- A DATA token. -/
def dataTok (pay : BitVec 256) (valid : BitVec 8) (first last : Bool := false) : Token :=
  { pay := pay, side := mkSide kDATA 0 0 0 first last valid }

/-- A token of another kind, sideband [27:4] zero (R46). -/
def bareTok (kind : Nat) (pay : Nat) : Token := { pay := BitVec.ofNat 256 pay, side := mkSide kind 0 0 0 false false 0 }

/-- The largest count a GAP holds. -/
def maxCount : Nat := 2 ^ 32 - 1

/-- A GAP token (Table 2.13); a count beyond the field saturates and clears the flag (R135). -/
def gapTok (first count : Nat) (comp : Bool) : Token :=
  bareTok kGAP (first % 2 ^ 48 + Nat.min count maxCount * 2 ^ 64 + (if comp ∧ count < maxCount then 2 ^ 96 else 0))

/-- First lost index of a GAP. -/
def Token.gapFirst (t : Token) : Nat := (fld t.pay 0 48).toNat
/-- Count of a GAP. -/
def Token.gapCount (t : Token) : Nat := (fld t.pay 64 32).toNat
/-- Compensated flag of a GAP. -/
def Token.gapComp (t : Token) : Bool := t.pay.getLsbD 96

/-- END, with its teardown flag. -/
def endTok (td : Bool) : Token := bareTok kEND (if td then 1 else 0)
/-- DRAIN with a configuration number. -/
def drainTok (config : BitVec 16) : Token := bareTok kDRAIN config.toNat
/-- MARK with a marker number. -/
def markTok (num : BitVec 16) : Token := bareTok kMARK num.toNat
/-- ORDER with a scope: VALID is 0xFF (R46). -/
def orderTok (scope : BitVec 3) : Token :=
  { pay := BitVec.ofNat 256 scope.toNat, side := mkSide kORDER 0 0 0 false false 0xFF }
/-- CTRL with a condition: VALID is 0xFF (R46). -/
def ctrlTok (c : Bool) : Token :=
  { pay := if c then 1 else 0, side := mkSide kCTRL 0 0 0 false false 0xFF }
/-- RESUME with the address replayed (Table 2.13). -/
def resumeTok (va : Word) : Token := bareTok kRESUME (fld va 0 52).toNat
/-- POISON. -/
def poisonTok : Token := bareTok kPOISON 0

/-- An index counts modulo 2^48 (R45). -/
def ix (n : Nat) : Nat := n % 2 ^ 48

/-- A 32-bit lane of the payload. -/
def Token.lane (t : Token) (j : Nat) : BitVec 32 := fld t.pay (32 * j) 32

/-- The condition of a slot-C record (R153). -/
def Token.cond (t : Token) : Bool :=
  if t.kind = kCTRL then t.pay.getLsbD 0 else t.valid.getLsbD 0 && t.lane 0 != 0

/-! ## Elements (R48, R55) -/

/-- The pattern of element i of a payload. -/
def elemAt (ty : BitVec 4) (pay : BitVec 256) (i : Nat) : Nat := pay.toNat >>> (elemBits ty * i) % 2 ^ elemBits ty

/-- Is element i valid under a lane mask? -/
def elemValid (ty : BitVec 4) (v : BitVec 8) (i : Nat) : Bool :=
  if elemBits ty = 64 then v.getLsbD (2 * i) && v.getLsbD (2 * i + 1) else v.getLsbD (elemBits ty * i / 32)

/-- The elements of a token, an invalid one absent (R55). -/
def Token.elems (ty : BitVec 4) (t : Token) : List (Option Nat) :=
  (List.range (elemCount ty)).map (fun i => if elemValid ty t.valid i then some (elemAt ty t.pay i) else none)

/-- Lane j built of elements, absent when one of them is (R242). -/
def laneOf (ty : BitVec 4) (l : List (Option Nat)) (j : Nat) : Option Nat :=
  let w := elemBits ty
  if w = 64 then ((l.getD (j / 2) none).map (fun v => v / 2 ^ (32 * (j % 2)) % 2 ^ 32))
  else
    (List.range (32 / w)).foldl (fun r i =>
      match r, l.getD (32 / w * j + i) none with
      | some a, some v => some (a + v % 2 ^ w * 2 ^ (w * i))
      | _, _ => none) (some 0)

/-- Payload and VALID of elements: a lane is valid when every element in it is present, an invalid lane is
zero. -/
def packElems (ty : BitVec 4) (l : List (Option Nat)) : BitVec 256 × BitVec 8 :=
  (List.range 8).foldl (fun (p, v) j =>
    match laneOf ty l j with
    | some x => (p ||| BitVec.ofNat 256 (x * 2 ^ (32 * j)), v ||| 1#8 <<< j)
    | none => (p, v)) (0, 0)

/-- The payload with its invalid lanes zero. -/
def maskLanes (pay : BitVec 256) (v : BitVec 8) : BitVec 256 :=
  (List.range 8).foldl (fun p j => if v.getLsbD j then p ||| (zext (fld pay (32 * j) 32) 256 <<< (32 * j)) else p) 0

/-- The integer an element's pattern stands for (R183); other types are read unsigned. -/
def intOf (ty : BitVec 4) (v : Nat) : Int :=
  if isSigned ty ∧ 2 ^ (elemBits ty - 1) ≤ v then (v : Int) - 2 ^ elemBits ty else v

/-- The pattern of an integer, its low bits. -/
def patOf (ty : BitVec 4) (v : Int) : Nat := (v % 2 ^ elemBits ty).toNat

/-- Bound an integer to a range, with `AOVF` when it bounds (R184). -/
def satTo (r : Int × Int) (v : Int) : Int × Fl :=
  if v < r.1 then (r.1, { aovf := true }) else if r.2 < v then (r.2, { aovf := true }) else (v, {})

/-- Bound an integer to its type. -/
def satInt (ty : BitVec 4) (v : Int) : Nat × Fl :=
  let (x, f) := satTo (intRange (isSigned ty) (elemBits ty)) v
  (patOf ty x, f)

/-- A combined element of a reduction or merge: sum, maximum or minimum in the type's order; the sum of
integers saturates, that of floating-point values is RNE (R145, R256, R258). -/
def combineElem (op : Nat) (ty : BitVec 4) (x y : Nat) : Nat × Fl :=
  if isFloat ty || isSmallFloat ty then
    let f := fmtOf ty
    let a := f.decode x; let b := f.decode y
    match op with
    | 0 => let (r, g) := a.add b; let (c, h) := f.round .rne r; (c, g.or h)
    | 1 => ((f.round .rne (a.max b)).1, {})
    | _ => ((f.round .rne (a.min b)).1, {})
  else
    let a := intOf ty x; let b := intOf ty y
    match op with
    | 0 => satInt ty (a + b)
    | 1 => (patOf ty (max a b), {})
    | _ => (patOf ty (min a b), {})

/-! ## Sums of many addends (R204) -/

/-- Which infinities a sum has taken in: 1 for +∞, 2 for −∞, 3 for both. -/
def infBit (x : Num) : Nat := match x with | .inf n => if n then 2 else 1 | _ => 0

/-- A running sum and an addend, rounded RNE: the code, the flags, and the infinities taken in so far.  Invalid is set
once the addends, overflowed partial sums among them, hold both infinities, whatever NaN came between (R204). -/
def addSeen (f : Fmt) (a b : Num) (seen : Nat) : Nat × Fl × Nat :=
  let (r, g) := a.add b
  let (c, h) := f.round .rne r
  let q := seen ||| infBit a ||| infBit b ||| infBit (f.decode c)
  (c, (g.or h).or { inv := q == 3 }, q)

/-- The infinities of place k in a pair of masks of width w, +∞ below. -/
def seenAt (w m k : Nat) : Nat := m / 2 ^ k % 2 + 2 * (m / 2 ^ (w + k) % 2)

/-- Add infinities at place k. -/
def seenPut (w m k q : Nat) : Nat := m ||| q % 2 * 2 ^ k ||| q / 2 % 2 * 2 ^ (w + k)

/-! ## Signed digits (R185 to R188) -/

/-- The sixteen digits of a lane, most significant first, none for absent. -/
def laneDigits (lane : Nat) : List (Option Int) :=
  (List.range 16).map (fun j =>
    match lane / 2 ^ (30 - 2 * j) % 4 with | 0 => some 0 | 1 => some 1 | 3 => some (-1) | _ => none)

/-- Every digit after the first absent one is absent (R186). -/
def prefixOnly : List (Option Int) → List (Option Int)
  | [] => []
  | none :: r => none :: r.map (fun _ => none)
  | some d :: r => some d :: prefixOnly r

/-- The digits of an element whose lanes are given, most significant first. -/
def sdDigits (lanes : List Nat) : List (Option Int) := prefixOnly (lanes.flatMap laneDigits)

/-- The value at nominal width wd (R187). -/
def sdValue (wd : Nat) (ds : List (Option Int)) : Int :=
  (ds.zipIdx.foldl (fun (v : Int) p => if p.2 < wd then v + p.1.getD 0 * 2 ^ (wd - 1 - p.2) else v) 0)

/-- How many digits are present. -/
def sdLen (ds : List (Option Int)) : Nat := (ds.takeWhile Option.isSome).length

/-- The canonical digits of an integer at width wd (R188), absent beyond it up to n digits. -/
def sdCanon (wd n : Nat) (v : Int) : List (Option Int) :=
  (List.range n).map (fun p =>
    if p < wd then
      (let b := v.natAbs / 2 ^ (wd - 1 - p) % 2
       some (if b = 0 then 0 else if v < 0 then -1 else 1))
    else none)

/-- Digits at or beyond position k made absent. -/
def sdCut (k : Nat) (ds : List (Option Int)) : List (Option Int) :=
  ds.zipIdx.map (fun p => if p.2 < k then p.1 else none)

/-- The code of a digit (R185). -/
def digitCode : Option Int → Nat
  | none => 2 | some d => if d = 0 then 0 else if d < 0 then 3 else 1

/-- A lane of sixteen digits. -/
def lanePack (ds : List (Option Int)) : Nat := ds.foldl (fun v d => 4 * v + digitCode d) 0

/-- Lane m of an element's digits. -/
def sdLane (ds : List (Option Int)) (m : Nat) : Nat := lanePack ((ds.drop (16 * m)).take 16)

/-- The digits of element k over the tokens of a record, absent where the element's lane is invalid. -/
def recDigits (toks : List Token) (k : Nat) : List (Option Int) :=
  sdDigits (toks.map (fun t => if t.valid.getLsbD k then (t.lane k).toNat else 0xAAAAAAAA))

/-- Is element k of a record valid? -/
def recValid (toks : List Token) (k : Nat) : Bool := toks.any (fun t => t.valid.getLsbD k)

/-- The payload of token m of a record from the digits of its eight elements (none: invalid). -/
def recPay (els : List (Option (List (Option Int)))) (m : Nat) : BitVec 256 × BitVec 8 :=
  els.zipIdx.foldl (fun (p, v) e =>
    match e.1 with
    | some ds => (p ||| BitVec.ofNat 256 (sdLane ds m * 2 ^ (32 * e.2)), v ||| 1#8 <<< e.2)
    | none => (p, v)) (0, 0)

/-! ## The keyed hash (R54) -/

/-- The mixing function. -/
def mix (x : Word) : Word :=
  let x := x ^^^ (x >>> 32)
  let x := x * 0x9A3F51C7E2D84B6D
  let x := x ^^^ (x >>> 29)
  let x := x * 0x5BD1E9A37C4F2863
  x ^^^ (x >>> 32)

/-- H(s, c, i). -/
def hashH (s : Word) (c i : Nat) : Word := mix (s ^^^ (BitVec.ofNat 64 c <<< 56) ^^^ BitVec.ofNat 64 i)

end Sys2Proof.Machine
end

