-- ==== Sys2Proof/Machine/Queue.lean ====
section
/-! DEFINITION. Queues (R134 to R148): the arrival of tokens under a queue record, the pending gap, the
policies, and the head a consumer sees. -/

namespace Sys2Proof.Machine

/-! ## Occupancy and the pending gap -/

/-- Is a record still arriving to be folded into the tail (R145, R147)?  It keeps no token of its own. -/
def RecBuf.folds (b : RecBuf) : Bool := b.lose.isNone && b.kept == 0

/-- The groups (R146) at or beyond `keep` of a record that hold a present digit in some element. -/
def cutGroups (keep : Nat) (toks : List Token) : List Nat :=
  (List.range (4 * toks.length)).filter (fun g =>
    decide (keep ≤ g) && (List.range 8).any (fun k => recValid toks k && decide (4 * g < sdLen (recDigits toks k))))

/-- NARROW of a record (R146): digits at or beyond group `keep` made absent, tokens made wholly absent
removed; a record with nothing to remove passes unchanged. -/
def narrowRec (keep : Nat) (toks : List Token) : List Token :=
  if (cutGroups keep toks).isEmpty then toks
  else
    let els := (List.range 8).map (fun k => if recValid toks k then some (recDigits toks k) else none)
    let cut := els.map (fun e => e.map (sdCut (4 * keep)))
    let had (m : Nat) : Bool := els.any (fun e => match e with | some ds => decide (16 * m < sdLen ds) | none => false)
    let has (m : Nat) : Bool := cut.any (fun e => match e with | some ds => decide (16 * m < sdLen ds) | none => false)
    (toks.zipIdx.filter (fun p => p.2 = 0 || !had p.2 || has p.2)).map (fun p => { p.1 with pay := (recPay cut p.2).1 })

/-- The tokens of a buffered record as the store holds them. -/
def bufToks (r : Word) (b : RecBuf) : List Token :=
  let ts := b.toks.take b.kept
  if b.act ∧ qPolicy r = 5 then narrowRec (qKeep r) ts else ts

/-- Entries of the token store in use (R142). -/
def Queue.occ (r : Word) (q : Queue) : Nat :=
  (q.items.filter (fun e => !e.ctl)).length
    + (match q.buf with | some b => (bufToks r b).length | none => 0)

/-- A lost record opens or extends the pending gap (R135). -/
def Queue.lose (q : Queue) (i : Nat) (comp : Bool) : Queue :=
  { q with pgap := some (match q.pgap with
      | none => ⟨i, i, 1, comp⟩
      | some p => { p with last := i, lost := p.lost + 1, comp := p.comp && comp }) }

/-- The GAP token of a pending gap (R138). -/
def PGap.tok (p : PGap) : Token :=
  let g := ix (p.last + 1 + 2 ^ 48 - p.first)
  gapTok p.first g (p.comp && g == p.lost)

/-- A record of index i, or a GAP of k indices from i on, is to be enqueued: the pending gap closes (R135).  Answers the queue,
the entry's gap-before count and its flag, and whether the arrival is lost to the GAP entry.  DESIGN CHOICE, log 75: it closes before
a GAP token that takes an entry too, and the two become one uncompensated GAP where one entry is free. -/
def Queue.closeGap (r : Word) (q : Queue) (i k now : Nat) : Queue × Nat × Bool × Bool :=
  match q.pgap with
  | none => (q, 0, false, false)
  | some p =>
    let g := ix (i + 2 ^ 48 - p.first)
    let comp := p.comp && g == p.lost
    let q' := { q with pgap := none }
    if g ≤ 63 then (q', g, comp, false)
    else if q.occ r + 2 ≤ qDepth r then
      ({ q' with items := q'.items ++ [{ tok := gapTok p.first g comp, idx := p.first, arr := now }] }, 0, false, false)
    else
      ({ q' with items := q'.items ++ [{ tok := gapTok p.first (g + k) false, idx := p.first, arr := now }] }, 0, false, true)

/-- Append the tokens of one record (R135). -/
def Queue.append (q : Queue) (toks : List Token) (i gap : Nat) (comp : Bool) (now : Nat) : Queue :=
  { q with
    seen := 0
    items := q.items ++ toks.zipIdx.map (fun p =>
      ({ tok := p.1, gap := if p.2 = 0 then gap else 0, comp := p.2 = 0 && comp, idx := i, arr := now } : Entry)) }

/-! ## Triggers (R142) -/

/-- Does the trigger act on index i?  The queue has been engaged if its level was reached. -/
def qActs (r : Word) (q : Queue) (i : Nat) : Bool :=
  if qPolicy r = 0 then false
  else
    match qTrig r with
    | 0 => q.engaged
    | 1 => decide (qIoff r ≤ i % 2 ^ qIper r)
    | _ => true

/-- Engagement at an arrival (R142). -/
def Queue.engage (r : Word) (q : Queue) : Queue :=
  if qPolicy r ≠ 0 ∧ qTrig r = 0 ∧ qThresh r ≤ q.occ r then { q with engaged := true } else q

/-- Disengagement at a dequeue (R142). -/
def Queue.release (r : Word) (q : Queue) : Queue :=
  if q.occ r ≤ qRelease r then { q with engaged := false } else q

/-! ## Policies -/

/-- First index and count an entry stands for, its gap-before included. -/
def Entry.span (e : Entry) : Nat × Nat :=
  (ix (e.idx + 2 ^ 48 - e.gap), e.gap + (if e.tok.kind = kGAP then e.tok.gapCount else 1))

/-- drop_head() of R143.  Where the joined count would pass 63 the head's indices become a GAP entry in the place it leaves, so that
the queue is as full as before: R143's text speaks of a full queue, its pseudocode tests the occupancy, and the model follows that
(DESIGN CHOICE, log 89). -/
def Queue.dropHead (q : Queue) (now : Nat) : Queue :=
  let ctls := q.items.takeWhile (fun e => e.ctl)
  match q.items.dropWhile (fun e => e.ctl) with
  | [] => q
  | h :: r =>
    let (start, cnt) := h.span
    let r := if h.tok.kind = kDATA then r.dropWhile (fun e => !e.ctl && e.tok.kind == kDATA && e.idx == h.idx && !e.tok.first) else r
    let mid := r.takeWhile (fun e => e.ctl)
    match r.dropWhile (fun e => e.ctl) with
    | [] =>
      let last := ix (start + cnt - 1)
      { q with
        items := ctls ++ mid
        pgap := some (match q.pgap with
          | none => ⟨start, last, cnt, false⟩
          | some p => { p with first := start, lost := p.lost + cnt, comp := false }) }
    | n :: rest =>
      let g := ix (n.idx + 2 ^ 48 - start)
      if g ≤ 63 then { q with items := ctls ++ mid ++ { n with gap := g, comp := false } :: rest }
      else
        { q with items := ctls ++ ({ tok := gapTok start g false, idx := start, arr := now } : Entry) :: mid
            ++ { n with gap := 0, comp := false } :: rest }

/-- Does SAMPLE keep index i (R144)? -/
def sampleKeeps (r seed : Word) (i : Nat) : Bool :=
  if qSel r then (hashH seed (qKey r) i).toNat % 2 ^ qShift r == 0 else (i + qKey r) % 2 ^ qShift r == 0

/-- One element of a merge (R145); WCARRY scales each operand by 2^e first.  `seen` is the infinities a sum has taken in
(R204).  The spec gives lanes of type raw no numeric meaning and refuses no such merge: they are unsigned 32-bit numbers here
(DESIGN CHOICE, log 90). -/
def mergeElem (r : Word) (ty : BitVec 4) (ea eb seen : Nat) (x y : Option Nat) : Option Nat × Fl × Nat :=
  let wc := qWcarry r && qMop r == 0
  let up (e v : Nat) : Nat × Fl :=
    if !wc ∨ e = 0 then (v, {})
    else if isFloat ty || isSmallFloat ty then (fmtOf ty).round .rne (((fmtOf ty).decode v).scale e)
    else satInt ty (intOf ty v * 2 ^ e)
  match x, y with
  | none, none => (none, {}, seen)
  | some a, none => let (v, f) := up ea a; (some v, f, seen)
  | none, some b => let (v, f) := up eb b; (some v, f, seen)
  | some a, some b =>
    match qMop r with
    | 0 =>
      if isFloat ty || isSmallFloat ty then
        let f := fmtOf ty
        let (c, g, q) := addSeen f ((f.decode a).scale (if wc then ea else 0)) ((f.decode b).scale (if wc then eb else 0)) seen
        (some c, g, q)
      else
        let (v, f) := satInt ty (intOf ty a * 2 ^ (if wc then ea else 0) + intOf ty b * 2 ^ (if wc then eb else 0))
        (some v, f, 0)
    | 1 => (some (combineElem 1 ty a b).1, {}, 0)
    | 2 => (some (combineElem 2 ty a b).1, {}, 0)
    | 3 => (some b, {}, 0)
    | _ => (some (a ||| b), {}, 0)

/-- One sd element of a SUM, MAX or MIN merge (R145): its digits in both records. -/
def mergeDigits (r : Word) (t ea eb : Nat) (x y : Option (List (Option Int))) : Option (List (Option Int)) × Fl :=
  let wd := 16 * t
  let wc := qWcarry r && qMop r == 0
  let enc (p : Nat) (v : Int) : List (Option Int) × Fl :=
    let top : Int := 2 ^ wd - 2 ^ (wd - p)
    let (v', f) := satTo (-top, top) v
    (sdCut p (sdCanon wd wd v'), f)
  let one (e : Nat) (ds : List (Option Int)) : Option (List (Option Int)) × Fl :=
    if !wc ∨ e = 0 then (some ds, {}) else (let (d, f) := enc (sdLen ds) (sdValue wd ds * 2 ^ e); (some d, f))
  match x, y with
  | none, none => (none, {})
  | some a, none => one ea a
  | none, some b => one eb b
  | some a, some b =>
    let p := Nat.max (sdLen a) (sdLen b)
    let va := sdValue wd a; let vb := sdValue wd b
    match qMop r with
    | 0 => let (d, f) := enc p (va * 2 ^ (if wc then ea else 0) + vb * 2 ^ (if wc then eb else 0)); (some d, f)
    | 1 => (some (enc p (max va vb)).1, {})
    | _ => (some (enc p (min va vb)).1, {})

/-- Are two records mergeable by their first tokens (R145)?  A tail whose first token has left is not. -/
def mergeable (r : Word) (ty : BitVec 4) (a b : Token) : Bool :=
  a.isRecord && b.isRecord && decide (a.mcount + 1 + b.mcount ≤ 31)
    && ((qWcarry r && qMop r == 0) || a.wexp == b.wexp) && (ty != 13 || a.kind == kCTRL || a.first)

/-- Fold a record into a tail record (R145), when they are mergeable: the tokens, flags, the infinities taken in. -/
def mergeRec (r : Word) (ty : BitVec 4) (seen : Nat) (tail toks : List Token) : Option (List Token × Fl × Nat) :=
  match tail, toks with
  | a :: _, b :: _ =>
    let wc := qWcarry r && qMop r == 0
    let mc := a.mcount + 1 + b.mcount
    if tail.length ≠ toks.length ∨ !mergeable r ty a b then none
    else
      let we := if wc then 0 else a.wexp
      let nr := Nat.max a.narrow b.narrow
      if ty = 13 ∧ 3 ≤ qMop r then
        -- LAST and OR act on the lane bits (R145)
        some ((tail.zip toks).map (fun p =>
          let (pay, v) := packElems 1 (((p.1.elems 1).zip (p.2.elems 1)).map (fun e => (mergeElem r 1 0 0 0 e.1 e.2).1))
          { p.1.withSide we mc nr p.1.first p.1.last v with pay := pay }), {}, 0)
      else if ty = 13 then
        let els := (List.range 8).map (fun k =>
          mergeDigits r tail.length a.wexp b.wexp
            (if recValid tail k then some (recDigits tail k) else none)
            (if recValid toks k then some (recDigits toks k) else none))
        some (tail.zipIdx.map (fun p =>
            let (pay, v) := recPay (els.map (·.1)) p.2
            { p.1.withSide we mc nr p.1.first p.1.last v with pay := pay }),
          els.foldl (fun f e => f.or e.2) {}, 0)
      else
        let els := ((a.elems ty).zip (b.elems ty)).zipIdx.map (fun p =>
          mergeElem r ty a.wexp b.wexp (seenAt 32 seen p.2) p.1.1 p.1.2)
        let (pay, v) := packElems ty (els.map (·.1))
        some ([{ a.withSide we mc nr a.first a.last v with pay := pay }], els.foldl (fun f e => f.or e.2.1) {},
          els.zipIdx.foldl (fun m e => seenPut 32 m e.2 e.1.2.2) 0)
  | _, _ => none

/-- The entries of the last record of a queue, when the tail entry is a record's with no control entry behind it. -/
def Queue.tailRec (q : Queue) : List Entry :=
  match q.items.reverse with
  | [] => []
  | e :: r =>
    if e.ctl ∨ !e.tok.isRecord then []
    else if e.tok.kind = kCTRL then [e]
    else (e :: r.takeWhile (fun f => !f.ctl && f.tok.kind == kDATA && f.idx == e.idx)).reverse

/-- Does a record whose first token is t fold into the tail (R143, R145)? -/
def Queue.foldable (r : Word) (ty : BitVec 4) (q : Queue) (t : Token) : Bool :=
  q.pgap.isNone && (match q.tailRec with | e :: _ => mergeable r ty e.tok t | [] => false)

/-- Does the head belong to the tail record, which a record still arriving is to be folded into (R147)? -/
def Queue.tailHeld (q : Queue) : Bool :=
  match q.buf with | some b => b.folds && q.items.length == q.tailRec.length | none => false

/-! ## Arrival -/

/-- What an arrival does: the queue, flags raised, whether a gap was opened or extended, and OVERRUN. -/
structure Arrived where
  q : Queue
  fl : Fl := {}
  gaps : Bool := false
  overrun : Bool := false

/-- A record is complete: merged into the tail, or its tokens take their entries (R143, R145 to R147).  A record that was to
be folded and has another number of tokens than the tail is enqueued only now (DESIGN CHOICE, log 75). -/
def Queue.finish (r : Word) (invar : Bool) (ty : BitVec 4) (now : Nat) (q : Queue) (b : RecBuf) : Arrived :=
  let q0 := { q with buf := none }
  let all := b.toks
  let tail := q0.tailRec
  let merged := if b.folds ∧ q0.pgap.isNone then mergeRec r ty q0.seen (tail.map (·.tok)) all else none
  if b.lose.isSome then { q := q0 }
  else match merged with
  | some (ts, fl, seen) =>
    { q := { q0 with seen := seen, items := q0.items.take (q0.items.length - tail.length)
              ++ (tail.zip ts).map (fun p => { p.1 with tok := p.2 }) }, fl := fl }
  | none =>
    if b.folds ∧ qDepth r ≤ q0.occ r then
      (if invar then { q := q0, overrun := true } else { q := q0.lose b.idx false, gaps := true })
    else
      let (q1, gap, comp, lost) := if b.folds then q0.closeGap r b.idx 1 now else (q0, b.gap, b.comp, false)
      if lost then { q := q1, gaps := true }
      else
        let kept := if b.folds then Nat.min all.length (qDepth r - q1.occ r) else b.kept
        let keep := all.take kept
        let sd : Bool := ty == 13 && all.all (fun t => t.kind == kDATA)
        let narrow := b.act && qPolicy r == 5 && sd
        let groups := (cutGroups (if narrow then Nat.min (qKeep r) (4 * kept) else 4 * kept) all).length
        let ts := if narrow then narrowRec (qKeep r) keep else keep
        let add := if b.act ∧ qPolicy r = 3 then qShift r else 0
        let n := ts.length
        let sat := all.any (fun t => decide (31 < t.wexp + add))
        let out := ts.zipIdx.map (fun p =>
          let t := p.1
          t.withSide (Nat.min 31 (t.wexp + add)) t.mcount (if sd then Nat.min 15 (t.narrow + groups) else t.narrow)
            (if sd then p.2 == 0 else t.first) (if sd then p.2 + 1 == n else t.last) t.valid)
        { q := q1.append (out.map (fun t => t)) b.idx gap comp now, fl := { aovf := sat } }

/-- The first (or only) token of a DATA or CTRL record arrives (R143). -/
def Queue.firstTok (r : Word) (invar : Bool) (seed : Word) (ty : BitVec 4) (now : Nat) (q : Queue) (t : Token)
    (i : Nat) (whole : Bool) : Arrived :=
  let q := q.engage r
  let act := qActs r q i
  let drop (q : Queue) (comp : Bool) : Arrived :=
    let q := q.lose i comp
    { q := if whole then q else { q with buf := some { idx := i, act := act, lose := some comp } }, gaps := true }
  if act ∧ qPolicy r = 1 then drop q false
  else if act ∧ qPolicy r = 3 ∧ !sampleKeeps r seed i then drop q true
  else
    let dropped := act && qPolicy r == 2 && decide (0 < q.occ r)
    let q := if dropped then q.dropHead now else q
    let fold := act && qPolicy r == 4 && q.foldable r ty t
    if !fold ∧ qDepth r ≤ q.occ r then
      (if qPolicy r = 0 ∨ invar then { q := q, overrun := true } else drop q false)
    else
      let (q, gap, comp, lost) := if fold then (q, 0, false, false) else q.closeGap r i 1 now
      let b : RecBuf :=
        { idx := i, act := act, kept := if fold then 0 else 1, toks := [t], gap := gap, comp := comp
          lose := if lost then some false else none }
      if lost then { q := if whole then q else { q with buf := some b }, gaps := true }
      else if whole then
        let a := q.finish r invar ty now b
        { a with gaps := a.gaps || dropped }
      else { q := { q with buf := some b }, gaps := dropped }

/-- A later token of a multi-token record arrives (R147). -/
def Queue.laterTok (r : Word) (invar : Bool) (ty : BitVec 4) (now : Nat) (q : Queue) (b : RecBuf) (t : Token) : Arrived :=
  match b.lose with
  | some _ => { q := if t.last then { q with buf := none } else q }
  | none =>
    let b' : RecBuf := { b with toks := b.toks ++ [t], kept := if b.cut ∨ b.folds then b.kept else b.kept + 1 }
    let grows := decide ((bufToks r b).length < (bufToks r b').length)
    let full := !b.folds && !b.cut && grows && decide (qDepth r ≤ q.occ r)
    let b' := if full then { b' with cut := true, kept := b.kept } else b'
    if full ∧ invar then { q := q, overrun := true }
    else if t.last then q.finish r invar ty now b'
    else { q := { q with buf := some b' } }

/-- Has the sd record of index i been lost whole, or become POISON, before its last token came? -/
def Queue.forgone (q : Queue) (i : Nat) : Bool :=
  q.pgap.map (·.last) == some i || (match q.items.getLast? with | some e => e.tok.kind == kPOISON && e.idx == i | none => false)

/-- A token arrives at a queue whose consumer takes elements of type ty (R137, R138, R143, R147); the rest of an sd record that is
lost already goes with it. -/
def Queue.arrive (r : Word) (invar : Bool) (seed : Word) (ty : BitVec 4) (now : Nat) (q : Queue) (t : Token) (i : Nat) : Arrived :=
  let k := t.kind
  if k = kGAP then
    if qGcoal r ∨ qDepth r ≤ q.occ r then
      let last := ix (t.gapFirst + t.gapCount + 2 ^ 48 - 1)
      { q := { q with pgap := some (match q.pgap with
                | none => ⟨t.gapFirst, last, t.gapCount, t.gapComp⟩
                | some p => { p with last := last, lost := p.lost + t.gapCount, comp := p.comp && t.gapComp }) }
        gaps := true }
    else
      let (q, gap, comp, lost) := q.closeGap r t.gapFirst t.gapCount now
      { q := if lost then q else { q with items := q.items ++ [{ tok := t, gap := gap, comp := comp, idx := t.gapFirst, arr := now }] }
        gaps := lost }
  else if k = kEND ∨ k = kDRAIN ∨ k = kMARK ∨ k = kPOISON ∨ k = kRESUME then
    let q := match q.buf with | some b => (q.finish r false ty now { b with cut := true }).q | none => q
    let gaps : List Token := if k = kEND then (match q.pgap with | some p => [p.tok] | none => []) else []
    let q := if k = kEND then { q with pgap := none } else q
    let new : List Entry := (gaps ++ [t]).map (fun u => { tok := u, idx := if u.kind = kGAP then u.gapFirst else i, ctl := true, arr := now })
    if 4 < (q.items.filter (fun e => e.ctl)).length + new.length then { q := q, overrun := true }
    else { q := { q with items := q.items ++ new } }
  else
    match q.buf with
    | some b =>
      if ty = 13 ∧ k = kDATA ∧ !t.first ∧ i = b.idx then q.laterTok r invar ty now b t
      else
        let q' := (q.finish r false ty now { b with cut := true }).q
        q'.firstTok r invar seed ty now t i (!(ty == 13 && k == kDATA && t.first && !t.last))
    | none =>
      if ty = 13 ∧ k = kDATA ∧ !t.first ∧ q.forgone i then { q := q }
      else q.firstTok r invar seed ty now t i (!(ty == 13 && k == kDATA && t.first && !t.last))

/-! ## The head -/

/-- The token at the head of a queue with its index: the gap-before first, as a GAP (R136); nothing that arrived in
this cycle (R128). -/
def Queue.head (q : Queue) (now : Nat) : Option (Token × Nat) :=
  match q.items with
  | [] => none
  | e :: _ =>
    if now ≤ e.arr ∨ q.tailHeld then none
    else if 0 < e.gap then
      (let f := ix (e.idx + 2 ^ 48 - e.gap)
       some (gapTok f e.gap e.comp, f))
    else some (e.tok, e.idx)

/-- The head leaves the queue. -/
def Queue.pop (r : Word) (q : Queue) : Queue :=
  match q.items with
  | [] => q
  | e :: rest =>
    if 0 < e.gap then { q with items := { e with gap := 0 } :: rest }
    else if e.ctl then { q with items := rest }
    else ({ q with items := rest }).release r

/-- n indices of the GAP at the head are consumed (R130). -/
def Queue.eatGap (r : Word) (q : Queue) (n : Nat) : Queue :=
  match q.items with
  | [] => q
  | e :: rest =>
    if 0 < e.gap then { q with items := { e with gap := e.gap - n } :: rest }
    else if e.tok.gapCount ≤ n then q.pop r
    else
      let f := ix (e.tok.gapFirst + n)
      { q with items := { e with tok := gapTok f (e.tok.gapCount - n) e.tok.gapComp, idx := f } :: rest }

/-- Discard the DATA record of index i at the head, all its tokens (R130). -/
def Queue.discard (r : Word) (q : Queue) (i : Nat) : Queue :=
  ({ q with items := q.items.dropWhile (fun e => !e.ctl && e.gap == 0 && e.tok.kind != kGAP && e.idx == i) }).release r

/-- The record whose entry stands at place k becomes POISON in its place, with its index (R372): a DATA record whole, a record still
arriving when k lies behind the entries.  A GAP's entry and those of the control lane are no records (log 31). -/
def Queue.spoil (q : Queue) (k : Nat) : Queue :=
  match q.items[k]? with
  | none =>
    (match q.buf with
     | some b => { q with buf := none, items := q.items ++ [{ tok := poisonTok, idx := b.idx, gap := b.gap, comp := b.comp }] }
     | none => q)
  | some e =>
    let same (x : Entry) : Bool := !x.ctl && x.tok.kind == kDATA && x.idx == e.idx
    if e.ctl ∨ !(e.tok.isRecord || e.tok.kind == kORDER) then q
    else if e.tok.kind ≠ kDATA then { q with items := q.items.set k { e with tok := poisonTok } }
    else
      match q.items.dropWhile (fun x => !same x) with
      | h :: rest => { q with items := q.items.takeWhile (fun x => !same x) ++ { h with tok := poisonTok } :: rest.filter (fun x => !same x) }
      | [] => q

/-- The tokens of the record at the head, when the head is DATA: those of its index. -/
def Queue.headRec (q : Queue) : List Token :=
  match q.items with
  | [] => []
  | e :: rest => e.tok :: (rest.takeWhile (fun f => !f.ctl && f.gap == 0 && f.tok.kind == kDATA && f.idx == e.idx && !f.tok.first)).map (·.tok)

end Sys2Proof.Machine
end

