-- ==== Sys2Proof/Machine/Firing.lean ====
section
/-! DEFINITION. How a node fires (R127 to R133): its slots and heads, alignment, emission along its channels, DRAIN
(R121), the kinds no node takes (R132), and the sideband of an output (R131). -/

namespace Sys2Proof.Machine

/-! ## The node in focus -/

/-- A node: the owner thread, the tile, the slot, the image of its region. -/
structure Nd where
  n : BitVec 9
  t : TileNo
  slot : Nat
  img : Nat

/-- The node the running operation word acts for. -/
def State.nd (s : State) : Nd :=
  { n := s.focus.owner, t := s.focus.tile, slot := s.focus.slot.toNat, img := (s.reg s.focus.owner).image }

/-- The node's constant. -/
def Nd.const (d : Nd) : BitVec 32 := nodeConst d.img d.t d.slot
/-- The node's operation word. -/
def Nd.word (d : Nd) : BitVec 32 := opWord d.img d.t d.slot
/-- The queue record of one of its slots. -/
def Nd.qrec (d : Nd) (k : Nat) : Word := queueRec d.img d.t (4 * d.slot + k)
/-- Does a TERM deliver into its slot O (R149)? -/
def Nd.ordered (d : Nd) : Bool := termFeeds d.img d.t (4 * d.slot + 3)

/-- A tile of a region. -/
def State.rt (s : State) (n : BitVec 9) (t : TileNo) : RTile := Tab.get {} (s.reg n).tiles t.toNat

/-- Change a tile of a region. -/
def State.modRt (s : State) (n : BitVec 9) (t : TileNo) (f : RTile → RTile) : State :=
  s.modReg n (fun r => { r with tiles := Tab.set r.tiles t.toNat (f (Tab.get {} r.tiles t.toNat)) })

/-- Queue q (4 * node + slot) of a tile. -/
def RTile.queue (r : RTile) (q : Nat) : Queue := Tab.get {} r.queues q

/-- Change a queue of a tile. -/
def State.modQueue (s : State) (n : BitVec 9) (t : TileNo) (q : Nat) (f : Queue → Queue) : State :=
  s.modRt n t (fun r => { r with queues := Tab.set r.queues q (f (r.queue q)) })

/-- The head at a slot of a node. -/
def State.headAt (s : State) (d : Nd) (k : Nat) : Option (Token × Nat) :=
  ((s.rt d.n d.t).queue (4 * d.slot + k)).head (s.now d.n)

/-- The head at a slot leaves its queue. -/
def State.popAt (s : State) (d : Nd) (k : Nat) : State :=
  s.modQueue d.n d.t (4 * d.slot + k) (fun q => q.pop (d.qrec k))

/-- The heads at several slots leave their queues. -/
def State.popAll (s : State) (d : Nd) (ks : List Nat) : State := ks.foldl (fun s k => s.popAt d k) s

/-- The node state register. -/
def State.nstate (s : State) (d : Nd) : BitVec 512 := Tab.get 0 (s.rt d.n d.t).nstate d.slot

/-- Write the node state register: its words are overwritten whole, so that no poison stays in them (R372). -/
def State.setNstate (s : State) (d : Nd) (v : BitVec 512) : State :=
  s.modRt d.n d.t (fun r => { r with nstate := Tab.set r.nstate d.slot v, illState := r.illState.filter (fun w => w / 8 != d.slot) })

/-- Does an operation read its node state: as an operand (R34), or for sums, counts, a block or a position of its own? -/
def stateful (img : Nat) (t : TileNo) (k : Nat) : Bool :=
  let w := opWord img t k
  opA w == 2 || opB w == 2
    || (match opAt img t k with
      | some (.merge _ c) => c == 0
      | some (.sdenc _ _ _ _) | some (.qmax _ _) | some (.qconv _ _) | some (.accum _ _) | some (.wsum _ _) | some (.wcnt _) | some (.win _)
      | some (.gapc _ _ _) | some (.cksum _ _ _ _) => true
      | _ => false)

/-- Does a firing of the node read a poisoned word of its own tile: its operation word, its constant, or node state it reads
(R373; log 31)? -/
def State.illAt (s : State) (d : Nd) : Bool :=
  let r := s.rt d.n d.t
  r.illWords.any (fun w => w % 4 == d.slot / 2) || (stateful d.img d.t d.slot && r.illState.any (fun w => w / 8 == d.slot))

/-- Private counts of the node. -/
def State.counts (s : State) (d : Nd) : List Nat := Tab.get [] (s.rt d.n d.t).win d.slot

/-- Write the private counts; none are kept when the list is empty. -/
def State.setCounts (s : State) (d : Nd) (l : List Nat) : State :=
  s.modRt d.n d.t (fun r => { r with win := if l.isEmpty then Tab.del r.win d.slot else Tab.set r.win d.slot l })

/-- Progress of a multi-firing emission. -/
def State.prog (s : State) (d : Nd) : Nat := Tab.get 0 (s.rt d.n d.t).prog d.slot

/-- Write the progress. -/
def State.setProg (s : State) (d : Nd) (k : Nat) : State :=
  s.modRt d.n d.t (fun r => { r with prog := if k = 0 then Tab.del r.prog d.slot else Tab.set r.prog d.slot k })

/-- Raise a region's sticky flags (R203, Table 4.9). -/
def State.addFl (s : State) (n : BitVec 9) (f : Fl) : State :=
  let m : BitVec 16 := (if f.inv then 1 else 0) ||| (if f.ovf then 2 else 0) ||| (if f.inx then 4 else 0)
    ||| (if f.aovf then 8 else 0)
  s.modReg n (fun r => { r with flags := r.flags ||| m })

/-- The gaps-seen flag. -/
def State.sawGap (s : State) (n : BitVec 9) : State := s.raiseFlag n 6

/-- A region fault raised by the node (R52). -/
def State.nodeFault (s : State) (d : Nd) (cause : BitVec 8) (addr : Word := 0) : State :=
  s.regionFault d.n (s.nodeCoord d.n d.t d.slot) cause addr

/-! ## Emission (R128, R170) -/

/-- The position of a channel an output feeds: the highest index emitted, skipped or covered, plus one. -/
def State.raisePos (s : State) (d : Nd) (o upto : Nat) : State :=
  let k := 16 * d.t.toNat + 2 * d.slot + o
  s.modReg d.n (fun r => { r with pos := Tab.set r.pos k (Nat.max upto (Tab.get 0 r.pos k)) })

/-- The output's position advances past an index (R154, R156). -/
def State.skip (s : State) (d : Nd) (o i : Nat) : State := s.raisePos d o (i + 1)

/-- Emit a token of index i on output o: a copy to each destination, enqueued one cycle and one per switch later. -/
def State.emit (s : State) (d : Nd) (o : Nat) (t : Token) (i : Nat) : State :=
  let fs := (outDests d.img d.t d.slot o).map (fun p => ({ dest := p.1, tok := t, idx := i, due := s.now d.n + 1 + p.2 } : Flight))
  let s := s.modReg d.n (fun r => { r with flight := r.flight ++ fs, active := (s.now d.n) })
  if t.kind = kDATA ∨ t.kind = kCTRL ∨ t.kind = kORDER ∨ t.kind = kPOISON then s.raisePos d o (i + 1)
  else if t.kind = kGAP then s.raisePos d o (t.gapFirst + t.gapCount)
  else s

/-- Emit on several outputs. -/
def State.emitAll (s : State) (d : Nd) (os : List Nat) (t : Token) (i : Nat) : State :=
  os.foldl (fun s o => s.emit d o t i) s

/-- Emit a GAP on several outputs; the count saturates. -/
def State.emitGap (s : State) (d : Nd) (os : List Nat) (first n : Nat) (comp : Bool) : State :=
  s.emitAll d os (gapTok (ix first) n comp) (ix first)

/-! ## The sideband of a firing (R131) -/

/-- A head taken into a firing: the slot, the token, its index. -/
abbrev Taken := Nat × Token × Nat

/-- WEXP: the largest in each key class, summed over the classes. -/
def wexpOf (d : Nd) (hs : List Taken) : Nat :=
  let keys := (hs.map (fun h => qKey (d.qrec h.1))).eraseDups
  (keys.map (fun k => (hs.filter (fun h => qKey (d.qrec h.1) == k)).foldl (fun m h => Nat.max m h.2.1.wexp) 0)).foldl (· + ·) 0

/-- The sideband fields of a firing: WEXP, MCOUNT, NARROW, FIRST, LAST, VALID. -/
structure Side where
  wexp : Nat := 0
  mcount : Nat := 0
  narrow : Nat := 0
  first : Bool := false
  last : Bool := false
  valid : BitVec 8 := 0xFF

/-- The fields of R131 for the heads of a firing, slot A first, with `AOVF` when WEXP saturates. -/
def sideOf (d : Nd) (sd : Bool) (hs : List Taken) : Side × Fl :=
  let w := wexpOf d hs
  let lead := (hs.find? (fun h => h.1 == 0)).orElse (fun _ => hs.head?)
  ({ wexp := Nat.min 31 w
     mcount := hs.foldl (fun m h => Nat.max m h.2.1.mcount) 0
     narrow := if sd then hs.foldl (fun m h => Nat.max m h.2.1.narrow) 0 else 0
     first := match lead with | some h => h.2.1.first | none => false
     last := match lead with | some h => h.2.1.last | none => false
     valid := hs.foldl (fun v h => v &&& h.2.1.valid) (-1) }, { aovf := decide (31 < w) })

/-- A DATA token of a payload under side fields. -/
def Side.tok (x : Side) (pay : BitVec 256) : Token :=
  { pay := pay, side := mkSide kDATA x.wexp x.mcount x.narrow x.first x.last x.valid }

/-- An operand from the node constant or the node state (R34). -/
def State.operand (s : State) (d : Nd) (ty : BitVec 4) (mode : BitVec 2) : Token :=
  if mode = 1 then
    let w := elemBits ty
    let e := if w = 64 then (sext d.const 64).toNat else d.const.toNat % 2 ^ w
    dataTok (BitVec.ofNat 256 ((List.range (256 / w)).foldl (fun p i => p + e * 2 ^ (w * i)) 0)) 0xFF
  else dataTok (fld (s.nstate d) 0 256) 0xFF

/-! ## One action of a node -/

/-- What an attempt to act came to: nothing can be done, or the next state, and whether the action was a firing that
takes an ORDER token at slot O. -/
inductive Went where
  | wait
  | did (s : State) (firing : Bool)

/-- How a node acts on aligned inputs. -/
structure NodeOp where
  slots : List Nat                 -- aligned slots
  outs : List Nat := [0]           -- outputs that carry GAP, END, DRAIN
  fire : State → List Taken → State                     -- takes the heads and consumes them itself
  gap : State → Nat → Nat → Bool → State                -- indices consumed as a gap
  fin : State → Option State := fun _ => none           -- an action due before END is emitted
  hold : State → List Taken → Bool := fun _ _ => false  -- the heads are there and something else is not
  gapHold : State → Bool := fun _ => false              -- a GAP waits as a record does
  sick : List Taken → List (Nat × Nat) :=               -- outputs and indices of a firing's records, where POISON is its input
    fun hs => outs.map (fun o => (o, match hs with | h :: _ => h.2.2 | [] => 0))

/-- lo(q) of R130: none stands for infinity. -/
def lowOf (t : Token) (i : Nat) : Option Nat :=
  if t.kind = kEND ∨ t.kind = kDRAIN then none else if t.kind = kGAP then some t.gapFirst else some i

/-- END is emitted on every output and the ENDs are consumed (R130); a teardown flag goes with it (R122). -/
def State.endNode (s : State) (d : Nd) (outs : List Nat) (hs : List Taken) : State :=
  let td := hs.any (fun h => h.2.1.kind == kEND && h.2.1.pay.getLsbD 0)
  let s := s.popAll d ((hs.filter (fun h => h.2.1.kind == kEND)).map (·.1))
  (s.emitAll d outs (endTok td) 0).modRt d.n d.t (fun r => { r with ended := insertNat r.ended d.slot })

/-- The alignment of R130. -/
def State.align (s : State) (d : Nd) (op : NodeOp) : Went :=
  let hs : List (Option Taken) := op.slots.map (fun k => (s.headAt d k).map (fun h => (k, h.1, h.2)))
  if hs.any (fun h => match h with | none => true | some h => h.2.1.kind == kMARK) then .wait
  else
    let hs := hs.filterMap id
    let lows := hs.filterMap (fun h => lowOf h.2.1 h.2.2)
    match lows with
    | [] =>
      if hs.any (fun h => h.2.1.kind == kEND) then
        (match op.fin s with
         | some s' => .did s' false
         | none => .did (s.endNode d op.outs hs) false)
      else .wait
    | l :: ls =>
      let m := ls.foldl Nat.min l
      let at_m (h : Taken) : Bool := lowOf h.2.1 h.2.2 == some m
      let gaps := hs.filter (fun h => h.2.1.kind == kGAP && at_m h)
      let datas := hs.filter (fun h => h.2.1.kind != kGAP && at_m h)
      let dropData (s : State) : State := datas.foldl (fun s h =>
        s.modQueue d.n d.t (4 * d.slot + h.1) (fun q => q.discard (d.qrec h.1) m)) s
      if !gaps.isEmpty ∧ op.gapHold s then .wait
      else if !gaps.isEmpty then
        let n := gaps.foldl (fun n g => Nat.min n g.2.1.gapCount) (2 ^ 32)
        let n := hs.foldl (fun n h =>
          match lowOf h.2.1 h.2.2 with
          | some l => if h.2.1.kind ≠ kGAP ∧ m < l then Nat.min n (l - m) else n
          | none => n) n
        let n := if datas.isEmpty then n else 1
        let s' := gaps.foldl (fun s g => s.modQueue d.n d.t (4 * d.slot + g.1) (fun q => q.eatGap (d.qrec g.1) n)) s
        .did (op.gap (dropData s') m n (gaps.all (fun g => g.2.1.gapComp))) true
      else if datas.length = op.slots.length then
        (if op.hold s hs then .wait else .did (op.fire s hs) true)
      else .did (op.gap ((dropData s).sawGap d.n) m 1 false) true

/-- Regions in these states act: RUNNING, DONE and DRAINING. -/
def actsIn (st : BitVec 4) : Bool := st == 4 || st == 5 || st == 6

/-- May the node act at all: its region runs, it is not parked and has not saved at MARK? -/
def State.nodeLive (s : State) (d : Nd) : Bool :=
  actsIn (s.reg d.n).st && !(s.rt d.n d.t).parked.any (fun p => p.slot.toNat == d.slot)
    && !(s.rt d.n d.t).marked.contains d.slot

/-- The fault a head raises at a slot, if any (R132, R282): `orders` for `DONE`, which reads ORDER alone. -/
def badHead (orders : Bool) (k : Nat) (t : Token) : Option (BitVec 8) :=
  let x := t.kind
  if k = 3 then
    (if x = kPOISON then some cUNCORR
     else if x = kGAP ∨ x = kCMD ∨ x = kRESUME ∨ (orders ∧ x = kCTRL) then some cIMAGE
     else none)
  else if x = kPOISON then some cUNCORR
  else if x = kCMD ∨ x = kRESUME then some cIMAGE
  else if orders then (if x = kDATA ∨ x = kCTRL then some cIMAGE else none)
  else if x = kORDER ∨ (x = kCTRL ∧ k < 2) then some cIMAGE
  else none

/-- DRAIN heads every input (R121): at slot O what is left is discarded until its DRAIN comes; then DRAIN is consumed
and forwarded. -/
def State.drainNode (s : State) (d : Nd) (slots outs : List Nat) : State :=
  let go (s : State) : State :=
    let tok := match slots with | k :: _ => ((s.headAt d k).map (·.1)).getD (drainTok (imgConfig d.img)) | [] => drainTok (imgConfig d.img)
    ((s.popAll d slots).emitAll d outs tok 0).modRt d.n d.t (fun r => { r with drained := insertNat r.drained d.slot })
  if d.ordered then
    match s.headAt d 3 with
    | none => s
    | some (t, _) =>
      if t.kind = kDRAIN then (go s).popAt d 3
      else if t.kind = kMARK then s
      else s.popAt d 3
  else go s

/-- POISON on outputs, under the indices of the records it stands for (R377). -/
def State.emitPoison (s : State) (d : Nd) (l : List (Nat × Nat)) : State :=
  l.foldl (fun s p => s.emit d p.1 poisonTok (ix p.2)) s

/-- The heads of a poisoned firing leave their queues, each as a whole record. -/
def State.popRecords (s : State) (d : Nd) (hs : List Taken) : State :=
  hs.foldl (fun s h =>
    if h.2.1.kind = kPOISON then s.popAt d h.1
    else s.modQueue d.n d.t (4 * d.slot + h.1) (fun q => q.discard (d.qrec h.1) h.2.2)) s

/-- A node of an Electrum copy meets POISON (R377): when the poisoned record is the next in index order the firing emits
POISON in place of each output record, else the node acts as it would. -/
def State.poisonStep (s : State) (d : Nd) (op : NodeOp) (go : State → Went) : Went :=
  let hs := op.slots.filterMap (fun k => s.headAt d k)
  let m := (hs.filterMap (fun h => lowOf h.1 h.2)).foldl Nat.min (2 ^ 48)
  if hs.any (fun h => h.1.kind == kPOISON && h.2 == m) then
    s.align d { op with fire := fun s hs => (s.popRecords d hs).emitPoison d (op.sick hs), hold := fun _ _ => false }
  else go s

/-- The records of the lowest index at the heads of slots become POISON, for a firing that meets an uncorrectable error elsewhere. -/
def State.spoilHeads (s : State) (d : Nd) (slots : List Nat) : State :=
  let hs := slots.filterMap (fun k => (s.headAt d k).map (fun h => (k, h.1, h.2)))
  let m := (hs.filterMap (fun h => lowOf h.2.1 h.2.2)).foldl Nat.min (2 ^ 48)
  (hs.filter (fun h => h.2.1.kind != kGAP && lowOf h.2.1 h.2.2 == some m)).foldl (fun s h =>
    s.modQueue d.n d.t (4 * d.slot + h.1) (fun q => q.spoil 0)) s

/-- How a node whose outputs carry one record for each firing meets POISON. -/
def plainOp (d : Nd) (slots outs : List Nat) : NodeOp :=
  { slots := slots, outs := outs, fire := fun s _ => s, gap := fun s m n c => s.emitGap d outs m n c }

/-- The node acts once: a bad head faults, DRAIN is forwarded when it heads every slot, slot O is waited for (R149),
else `go` acts on the heads of `slots`; a node that reads a poisoned word of its own tile faults with UNCORR.  In an Electrum copy a
poisoned head goes to `ill`, which takes the node's own act; POISON at slot O or a poisoned word of the tile spoils, by `hurt`, the
record the firing takes (R377). -/
def State.nodeStep (s : State) (d : Nd) (slots outs : List Nat) (orders : Bool) (go : State → Went)
    (ill : State → (State → Went) → Went := fun s go => s.poisonStep d (plainOp d slots outs) go)
    (hurt : State → State := fun s => s.spoilHeads d slots) : State :=
  if !s.nodeLive d then s
  else
    let all := slots ++ (if d.ordered then [3] else [])
    let bads := all.filterMap (fun k => (s.headAt d k).bind (fun h => (badHead orders k h.1).map (fun c => (k, c))))
    let here : Bool := inCopy d.img d.t d.slot
    let o : Option Nat := if d.ordered then (s.headAt d 3).map (fun h => h.1.kind) else some kEND
    let forced : Bool := here && (s.illAt d || o == some kPOISON) && s.prog d == 0
    let sick : Bool := here && bads.any (fun b => b.2 == cUNCORR && b.1 != 3)
    let go : State → Went := if forced then (fun s => ill (hurt s) go) else if sick then (fun s => ill s go) else go
    let bad := (bads.find? (fun b => !(here && b.2 == cUNCORR))).map (·.2)
    match bad with
    | some c => s.nodeFault d c
    | none =>
      if slots ≠ [] ∧ slots.all (fun k => match s.headAt d k with | some h => h.1.kind == kDRAIN | none => false) then
        s.drainNode d slots outs
      else
        if o = some kORDER ∨ o = some kEND ∨ o = some kPOISON then
          match go s with
          | .wait => s
          | .did s' firing =>
            let s' := s'.modReg d.n (fun r => { r with active := (s.now d.n) })
            if s.illAt d ∧ !here then s.nodeFault d cUNCORR
            else if firing ∧ d.ordered ∧ o ≠ some kEND ∧ actsIn (s'.reg d.n).st then s'.popAt d 3 else s'
        else s

/-- A node whose inputs are all aligned. -/
def State.node (s : State) (op : NodeOp) : State :=
  let d := s.nd
  s.nodeStep d op.slots op.outs false (fun s => s.align d op) (fun s go => s.poisonStep d op go)

/-- An element operation over aligned queue operands: `f` gives payload, VALID and flags from the heads. -/
def State.elementNode (s : State) (slots : List Nat) (sd : Bool) (f : State → List Taken → BitVec 256 × BitVec 8 × Fl) : State :=
  let d := s.nd
  s.node
    { slots := slots
      fire := fun s hs =>
        let (x, fl) := sideOf d sd hs
        let (pay, v, g) := f s hs
        let i := match hs with | h :: _ => h.2.2 | [] => 0
        ((s.popAll d slots).addFl d.n (fl.or g)).emit d 0 (({ x with valid := v } : Side).tok pay) i
      gap := fun s m n c => s.emitGap d [0] m n c }

/-! ## Arrival at a queue -/

/-- The element type a node takes at a slot: its type, or the source type its fields name (R243).  DEDUCED, log 15. -/
def slotType (img : Nat) (t : TileNo) (slot k : Nat) : BitVec 4 :=
  let w := opWord img t slot
  match opCode w, k with
  | 0x30, 0 => fld w 12 4
  | 0x31, 0 => fld (nodeConst img t slot) 0 4
  | 0x32, 0 => fld w 12 4
  | 0x33, 0 => 13
  | 0x35, 0 => fld w 12 4
  | 0x36, 0 => fld w 12 4
  | 0x35, 1 => 5
  | 0x36, 1 => 5
  | 0x80, 0 => fld w 12 4
  | _, _ => fld w 20 4

/-- A token arrives at a queue of a region (R36, R137 to R147). -/
def State.queueArrive (s : State) (n : BitVec 9) (t : TileNo) (q : Nat) (tok : Token) (i : Nat) : State :=
  let r := s.reg n
  let img := r.image
  let d : Nd := { n := n, t := t, slot := q / 4, img := img }
  if q % 4 = 3 ∧ tok.kind = kDATA then s.nodeFault d cIMAGE
  else
    let a := ((s.rt n t).queue q).arrive (queueRec img t q) (imgInvar img) r.seed (slotType img t (q / 4) (q % 4)) (s.now n) tok i
    let s := (s.modQueue n t q (fun _ => a.q)).addFl n a.fl
    let s := if a.gaps then s.sawGap n else s
    let s := s.modReg n (fun r => { r with active := (s.now n) })
    if a.overrun then s.nodeFault d cOVERRUN else s

/-- Has flight k come due, with no earlier flight to the same place? -/
def flightDue (now : Nat) (fs : List Flight) (k : Nat) : Option Flight :=
  match fs[k]? with
  | none => none
  | some f => if f.due ≤ now ∧ !(fs.take k).any (fun g => g.dest == f.dest) then some f else none

end Sys2Proof.Machine
end

