-- ==== Sys2Proof/Machine/Sys.lean ====
section
/-! DEFINITION. System registers (R78 to R92, Table 3.2) and the words that read and write them. -/

namespace Sys2Proof.Machine

/-! ## The levels of Table 3.2 -/

/-- Read level and write level of a listed register, `none` for a write level no level has; `none` for an
unlisted number.  0 user, 1 guest, 2 host. -/
def sysLevels (r : BitVec 12) : Option (Nat × Option Nat) :=
  let n := r.toNat
  if n = 0x000 ∨ n = 0x001 then some (0, none)
  else if n = 0x002 ∨ n = 0x003 then some (0, some 0)
  else if n = 0x010 ∨ n = 0x014 then some (1, some 1)
  else if 0x011 ≤ n ∧ n ≤ 0x013 then some (0, some 0)
  else if 0x020 ≤ n ∧ n ≤ 0x023 then some (1, some 1)
  else if n = 0x024 then some (1, some 2)
  else if 0x030 ≤ n ∧ n ≤ 0x032 then some (1, some 1)
  else if n = 0x040 ∨ n = 0x041 then some (0, some 0)
  else if 0x048 ≤ n ∧ n ≤ 0x04B then some (0, none)
  else if n = 0x04C then some (0, some 0)
  else if 0x050 ≤ n ∧ n ≤ 0x054 then some (0, none)
  else if n = 0x060 ∨ n = 0x061 then some (0, some 1)
  else if 0x062 ≤ n ∧ n ≤ 0x064 then some (0, none)
  else if n = 0x070 ∨ n = 0x071 then some (2, some 2)
  else if n = 0x072 ∨ n = 0x073 then some (1, some 2)
  else if n = 0x080 then some (1, some 1)
  else if n = 0x090 ∨ n = 0x091 then some (0, none)
  else if n = 0x0A0 ∨ n = 0x0A1 then some (0, some 0)
  else if 0x100 ≤ n ∧ n ≤ 0x10F then some (0, some 0)
  else none

/-- How R79 treats an access. -/
inductive Perm where | ok | priv | ignored
  deriving DecidableEq, Repr

/-- A read of a register at a level: listed registers have a read level, unlisted numbers read zero (R79). -/
def readPerm (r : BitVec 12) (pl : BitVec 2) : Perm :=
  match sysLevels r with
  | some (lv, _) => if pl.toNat < lv then .priv else .ok
  | none => .ignored

/-- A write of a register at a level (R79). -/
def writePerm (r : BitVec 12) (pl : BitVec 2) : Perm :=
  match sysLevels r with
  | some (_, some lv) => if pl.toNat < lv then .priv else .ok
  | _ => if pl = 0 then .priv else .ignored

/-! ## Composed registers -/

/-- A word with bits [hi:lo] taken from `v` where the mask is set, else from `old` (R80). -/
def rwFields (old v mask : Word) : Word := (old &&& ~~~mask) ||| (v &&& mask)

/-- `MBOXSTAT` (Table 3.9). -/
def Thread.mboxstat (t : Thread) : Word :=
  (List.range 4).foldl (fun w k =>
    w ||| (zext (t.lost[k]!) 64 <<< (16 * k + 8)) ||| (BitVec.ofNat 64 (t.mbox[k]!).length <<< (16 * k))) 0

/-- A write of `MBOXSTAT`: the LOST fields (Table 3.9). -/
def Thread.setMboxstat (t : Thread) (v : Word) : Thread :=
  { t with lost := #v[fld v 8 8, fld v 24 8, fld v 40 8, fld v 56 8] }

/-- `SPACE` with GEN from the space table (Table 11.2). -/
def State.spaceReg (s : State) (w : Word) : Word :=
  rwFields w (zext (s.gen (fld w 0 12).toNat).gen 64 <<< 12) 0xF000

/-- The pending claims of a cluster, by thread. -/
def State.pending (s : State) (c : BitVec 5) : List (BitVec 9 × Claim) :=
  s.threads.filterMap (fun p =>
    let n : BitVec 9 := BitVec.ofNat 9 p.1
    if clusterOf n = c then p.2.claim.map (fun k => (n, k)) else none)

/-- RANK of a claim word (Table 4.2). -/
def claimRank (w : Word) : Nat := (fld w 4 4).toNat

/-- `ARBRANK` (Table 4.3). -/
def State.arbrank (s : State) (c : BitVec 5) : Word :=
  (s.pending c).foldl (fun w p => w ||| 1#64 <<< (16 + claimRank p.2.word)) (zext (s.clu c).ceil 64)

/-- MIN, NLOW and the lowest quadtree position having MIN, of the live counts of a cluster's tiles (R393). -/
def capTiles (c : Cluster) (live : TileMem → Nat) : Word :=
  let mn := c.tiles.foldl (fun m p => Nat.min m (live p.2)) 16
  let low := (c.tiles.filter (fun p => decide (live p.2 < 16))).length
  let w := c.tiles.foldl (fun w p =>
    if live p.2 = mn then Nat.min w (quadPos (BitVec.ofNat 8 p.1)).toNat else w) 255
  BitVec.ofNat 64 mn ||| (BitVec.ofNat 64 low <<< 16) ||| ((if mn = 16 then 0 else BitVec.ofNat 64 w) <<< 32)

/-- `CAPL2` (Table 13.7). -/
def capL2 (c : Cluster) : Word :=
  let mn := (List.range 16).foldl (fun m p => Nat.min m (c.l2Live p)) 16
  let low := ((List.range 16).filter (fun p => decide (c.l2Live p < 16))).length
  let w := ((List.range 16).find? (fun p => c.l2Live p == mn)).getD 0
  BitVec.ofNat 64 mn ||| (BitVec.ofNat 64 low <<< 16) ||| (BitVec.ofNat 64 w <<< 32)

/-- Live banks of a quarter's weight store. -/
def Cluster.weightLive (c : Cluster) (q : Nat) : Nat := (Tab.get {} c.quarters q).banks.live

/-- Live LLC banks of an M-die. -/
def Module.llcLive (m : Module) (d : Nat) : Nat :=
  (Tab.get { map := List.range 256, live := 256 } m.llc d).live

/-- Four 16-bit counts (Table 13.8). -/
def four (f : Nat → Nat) : Word :=
  (List.range 4).foldl (fun w k => w ||| BitVec.ofNat 64 (f k) <<< (16 * k)) 0

/-- `WSPHASE` (Table 9.2). -/
def State.wsphase (s : State) (c : BitVec 5) : Word :=
  let k := s.clu c
  let count := if s.cycle < k.refNext then Nat.min (k.refNext - s.cycle) (if k.inWin then 1125 else 70875)
    else if s.cycle = 0 then 0 else 1
  BitVec.ofNat 64 count ||| (if k.inWin then 1#64 <<< 17 else 0)

/-! ## Reading -/

/-- The value a register reads as, for a thread; unlisted numbers and `MBOXOUT` read zero, `MBOXIN` is read
by its own operation (R79, R82, R90). -/
def State.sysRead (s : State) (n : BitVec 9) (r : BitVec 12) : Word :=
  let t := s.thr n
  let c := clusterOf n
  match r.toNat with
  | 0x000 => zext n 64
  | 0x001 => zext (threadCoord n) 64
  | 0x002 => t.status
  | 0x003 => t.fpctl
  | 0x010 => t.trapvec
  | 0x011 => t.trappc
  | 0x012 => t.trapcause
  | 0x013 => t.trapinfo
  | 0x014 => t.trapsave
  | 0x020 => s.spaceReg t.space
  | 0x021 => t.ptbase
  | 0x022 => t.dirtybase
  | 0x023 => t.dirtygran
  | 0x024 => t.partition
  | 0x030 => t.faultqbase
  | 0x031 => t.faultqhead
  | 0x032 => t.faultqtail
  | 0x040 => t.mboxdest
  | 0x04C => t.mboxstat
  | 0x050 => capTiles (s.clu c) (fun m => m.scrBanks.live)
  | 0x051 => capTiles (s.clu c) (fun m => m.tregBanks.live)
  | 0x052 => capL2 (s.clu c)
  | 0x053 => four (s.clu c).weightLive
  | 0x054 => four s.module.llcLive
  | 0x060 => s.arbrank c
  | 0x061 => zext (s.clu c).bound 64
  | 0x062 => zext (s.clu c).cap 64
  | 0x063 => (zext (s.clu c).used 64 <<< 16) ||| zext (s.clu c).budget 64
  | 0x064 => s.wsphase c
  | 0x070 => s.module.injaddr
  | 0x071 => s.module.injctl
  | 0x072 => s.module.errwindow
  | 0x073 => s.module.errthresh
  | 0x080 => t.ctxbase
  | 0x090 => BitVec.ofNat 64 (s.cycleOf c)
  | 0x091 => BitVec.ofNat 64 s.time
  | 0x0A0 => t.seed
  | 0x0A1 => t.epoch
  | k => if 0x100 ≤ k ∧ k ≤ 0x10F then t.trig[k - 0x100]! else 0

/-! ## Writing -/

/-- A write of `STATUS` at the writer's level (R64): IE and PIE always, PPL at guest or host level within the
level, PL never. -/
def statusWrite (old v : Word) : Word :=
  let pl := fld old 0 2
  let ppl := if pl ≠ 0 ∧ fld v 2 2 ≤ pl then fld v 2 2 else fld old 2 2
  mkStatus (fld v 5 1) (fld v 4 1) ppl pl

/-- A write of `INJCTL` (R398, Table 13.10): the fields, ARM only for a KIND that arms, FIRED cleared by a
one. -/
def Module.injctlWrite (m : Module) (v : Word) : Module :=
  let arm := v.getLsbD 63 && fld v 58 2 != 3
  let fired := m.injctl.getLsbD 62 && !v.getLsbD 62
  { m with
    injctl := (v &&& 0x3FFCFFFFFFFF07FF) ||| (if arm then 1#64 <<< 63 else 0) ||| (if fired then 1#64 <<< 62 else 0)
    injSeen := 0 }

/-- A write of `PARTITION` (Table 11.1): an FN of 33 to 63 leaves FN unchanged. -/
def partitionWrite (old v : Word) : Word :=
  let fn : Word := 0xFC000000
  let v' := rwFields old v 0xFFFFFFFFFFFFFFFC
  if 33 ≤ (fld v 26 6).toNat then rwFields v' old fn else v'

/-- The per-thread registers a write changes, each in its RW fields alone (R80). -/
def Thread.sysWrite (t : Thread) (r : BitVec 12) (v : Word) : Thread :=
  match r.toNat with
  | 0x002 => { t with status := statusWrite t.status v }
  | 0x003 => { t with fpctl := rwFields t.fpctl v 0x73 }
  | 0x010 => { t with trapvec := rwFields t.trapvec v 0xFFFFFFFFFFFC }
  | 0x011 => { t with trappc := v }
  | 0x012 => { t with trapcause := rwFields t.trapcause v 0xFF }
  | 0x013 => { t with trapinfo := v }
  | 0x014 => { t with trapsave := v }
  | 0x020 => { t with space := rwFields t.space v 0x1FFFFF0FFF }
  | 0x021 => { t with ptbase := rwFields t.ptbase v 0x3FFFFFF0000 }
  | 0x022 => { t with dirtybase := rwFields t.dirtybase v 0x3FFFFFFFFF8 }
  | 0x023 =>
    let g := (fld v 0 5).toNat
    if 16 ≤ g ∧ g ≤ 30 then { t with dirtygran := rwFields t.dirtygran v 0x1F } else t
  | 0x024 => { t with partition := partitionWrite t.partition v }
  | 0x030 =>
    let b := rwFields t.faultqbase v 0xFFFFFFFFFF000
    { t with faultqbase := if (fld v 0 4).toNat ≤ 11 then rwFields b v 0xF else b }
  | 0x031 => { t with faultqhead := rwFields t.faultqhead v 0xFFFFFFFF }
  | 0x032 => { t with faultqtail := rwFields t.faultqtail v 0xFFFF000100000000 }
  | 0x040 => { t with mboxdest := rwFields t.mboxdest v 0x7FF }
  | 0x04C => t.setMboxstat v
  | 0x080 => { t with ctxbase := rwFields t.ctxbase v 0xFFFFFFFFFF000 }
  | 0x0A0 => { t with seed := v }
  | 0x0A1 => { t with epoch := v }
  | k =>
    if h : 0x100 ≤ k ∧ k ≤ 0x10F then
      { t with trig := t.trig.set (k - 0x100) (rwFields t.trig[k - 0x100] v 0xFF00FFFFFFFFFFFF) }
    else t

/-- A permitted write of a register other than `MBOXOUT` (R80). -/
def State.sysWrite (s : State) (n : BitVec 9) (r : BitVec 12) (v : Word) : State :=
  match r.toNat with
  | 0x060 => s.modClu (clusterOf n) (fun c => { c with ceil := fld v 0 4 })
  | 0x061 => s.modClu (clusterOf n) (fun c => { c with bound := fld v 0 8 })
  | 0x070 => { s with module := { s.module with injaddr := v } }
  | 0x071 => { s with module := s.module.injctlWrite v }
  | 0x072 => { s with module := { s.module with errwindow := zext (fld v 0 32) 64 } }
  | 0x073 => { s with module := { s.module with errthresh := zext (fld v 0 8) 64 } }
  | _ => s.modThr n (fun t => t.sysWrite r v)

/-- Is this `MBOXOUT`? -/
def isMboxout (r : BitVec 12) : Bool := r == 0x041#12

/-- The mailbox number of `MBOXIN0` to `MBOXIN3`. -/
def mboxinOf (r : BitVec 12) : Option (BitVec 2) := if fld r 2 10 = 0x012#10 then some (fld r 0 2) else none

/-- May a thread send to the destination its `MBOXDEST` names (R87)? -/
def Thread.mayMail (t : Thread) : Bool :=
  !t.cred.checked || clIn t.partition (clusterOf (fld t.mboxdest 0 9))

/-- One flit on its way from the running thread to the destination its `MBOXDEST` names (R88). -/
def State.mboxSend (s : State) (v : Word) : State :=
  { s with flits := s.flits ++ [⟨s.cur.toNat, fld s.me.mboxdest 0 9, fld s.me.mboxdest 9 2, v⟩] }

/-- A write to `MBOXOUT` (R87, R88): the destination's check, then the flit. -/
def State.mboxout (s : State) (v : Word) : State :=
  if s.me.mayMail then (s.mboxSend v).advance else s.trap cACCESS s.me.mboxdest

/-- The oldest flit of a mailbox of the running thread leaves it for a register (R90). -/
def State.mboxTake (s : State) (d : BitVec 5) (b : BitVec 2) (v : Word) (r : List Word) : State :=
  s.modMe (fun t => { t.wr d v with mbox := t.mbox.set b.toNat r })

/-- An SRD of `MBOXINn` (R90): the oldest flit, or a wait while the mailbox is empty. -/
def State.mboxin (s : State) (d : BitVec 5) (b : BitVec 2) : State :=
  match s.me.mbox[b.toNat] with
  | [] => s.stay .reissue
  | v :: r => (s.mboxTake d b v r).advance

/-! ## The words -/

/-- SRD (R81, R90). -/
def execSrd (d : BitVec 5) (r : BitVec 12) (s : State) : Out :=
  match mboxinOf r with
  | some b => .next (s.mboxin d b)
  | none =>
    if readPerm r s.me.pl = .priv then .next (s.trap cPRIV (zext r 64))
    else .next (s.put d (s.sysRead s.cur r))

/-- SWR (R79, R81, R88). -/
def execSwr (a : BitVec 5) (r : BitVec 12) (s : State) : Out :=
  match writePerm r s.me.pl with
  | .priv => .next (s.trap cPRIV (zext r 64))
  | .ignored => .next s.advance
  | .ok => if isMboxout r then .next (s.mboxout (s.rd a)) else .next (s.sysWrite s.cur r (s.rd a)).advance

/-- SSET and SCLR (R79, R81, R82): the old value to g[d], the changed one to the register. -/
def State.sysModify (s : State) (d : BitVec 5) (r : BitVec 12) (f : Word → Word) : State :=
  if isMboxout r ∨ (mboxinOf r).isSome then s.put d 0
  else if readPerm r s.me.pl = .priv then s.trap cPRIV (zext r 64)
  else
    let old := s.sysRead s.cur r
    match writePerm r s.me.pl with
    | .priv => s.trap cPRIV (zext r 64)
    | .ignored => s.put d old
    | .ok => (s.sysWrite s.cur r (f old)).put d old

/-- SSET (R81). -/
def execSset (d a : BitVec 5) (r : BitVec 12) (s : State) : Out :=
  .next (s.sysModify d r (fun old => old ||| s.rd a))

/-- SCLR (R81). -/
def execSclr (d a : BitVec 5) (r : BitVec 12) (s : State) : Out :=
  .next (s.sysModify d r (fun old => old &&& ~~~s.rd a))

/-! ## The same effects as steps of their own, inside a word: the event names thread, register and value -/

/-- SYSREG_WRITE (R80): a permitted write changes the RW fields of register `k` of thread `n`. -/
def execSysregWrite (s : State) : Out :=
  let r := BitVec.ofNat 12 s.ev.k
  if writePerm r (s.thr s.ev.n).pl = .ok then .next (s.sysWrite s.ev.n r s.ev.v) else .next s

/-- STATUS_WRITE (R64). -/
def execStatusWrite (s : State) : Out := .next (s.sysWrite s.ev.n 0x002 s.ev.v)

/-- MBOXOUT_WRITE (R87, R88). -/
def execMboxoutWrite (s : State) : Out :=
  let s := { s with cur := s.ev.n }
  .next (if s.me.mayMail then s.mboxSend s.ev.v else s.trap cACCESS s.me.mboxdest)

/-- MBOXIN_READ (R90): mailbox `k` of thread `n` into register `w`; an empty mailbox is waited for. -/
def execMboxinRead (s : State) : Out :=
  let s := { s with cur := s.ev.n }
  let b := BitVec.ofNat 2 s.ev.k
  match s.me.mbox[b.toNat] with
  | [] => .next (s.stay .reissue)
  | v :: r => .next (s.mboxTake (fld s.ev.w 0 5) b v r)

/-- INJCTL_WRITE (R398). -/
def execInjctlWrite (s : State) : Out := .next { s with module := s.module.injctlWrite s.ev.v }

end Sys2Proof.Machine
end

