-- ==== Sys2Proof/Machine/Region.lean ====
section
/-! DEFINITION. Region state and status words (R104, R105), area claims and the arbiter (R106 to R108, R124), RFREE,
RSTAT, RWAIT, RDRAIN and RPOST, port bindings (R115 to R119) and the TENSOR words (R126). -/

namespace Sys2Proof.Machine

/-! ## Status words (Table 4.11, Table 10.5) -/

/-- OK. -/
abbrev stOK : Nat := 0
/-- PENDING. -/
abbrev stPENDING : Nat := 0x100
/-- NOREGION. -/
abbrev stNOREGION : Nat := 0x101
/-- BADSTATE. -/
abbrev stBADSTATE : Nat := 0x102
/-- BADARG. -/
abbrev stBADARG : Nat := 0x103
/-- UNBOUND. -/
abbrev stUNBOUND : Nat := 0x104
/-- LATE. -/
abbrev stLATE : Nat := 0x105
/-- NOTPARKED. -/
abbrev stNOTPARKED : Nat := 0x106
/-- NOCHAIN. -/
abbrev stNOCHAIN : Nat := 0x107
/-- OPENBATCH. -/
abbrev stOPENBATCH : Nat := 0x108
/-- NOSLOT. -/
abbrev stNOSLOT : Nat := 0x109
/-- HALTED. -/
abbrev stHALTED : Nat := 0x10A

/-- A status word: [15:0] the code, [63:32] the detail. -/
def statusWord (code detail : Nat) : Word := (BitVec.ofNat 64 detail <<< 32) ||| BitVec.ofNat 64 (code % 65536)

/-- The word answers with a status and is done. -/
def State.status (s : State) (d : BitVec 5) (code : Nat) (detail : Nat := 0) : State :=
  (s.put d (statusWord code detail)).modMe (fun t => { t with wait := .none })

/-! ## Region states (Table 4.1) -/

/-- The running thread's region. -/
def State.my (s : State) : Region := s.reg s.cur

/-- A region word that needs one of some states: NOREGION in NONE, BADSTATE elsewhere (R105). -/
def State.inStates (s : State) (d : BitVec 5) (ok : List Nat) (f : State → State) : State :=
  let st := s.my.st.toNat
  if ok.contains st then f s else s.status d (if st = 0 then stNOREGION else stBADSTATE)

/-- The cause a region ended with: the status of its last completion word, KILLED where it has none (Table 4.11). -/
def Region.endCause (r : Region) : Nat :=
  match r.last with
  | some w => if fld w 32 16 = 0 then cKILLED.toNat else (fld w 32 16).toNat
  | none => cKILLED.toNat

/-- Does a region in a state have its period's storage (LOADED to DRAINED)? -/
def holdsTiles (st : BitVec 4) : Bool := decide (3 ≤ st.toNat) && decide (st.toNat ≤ 7)

/-- Is the completion word of the current or last period written (R125)? -/
def State.wordWritten (s : State) : Bool := !s.my.running && s.me.stores.isEmpty

/-- Is a node of the region parked, or a command port (R340)? -/
def Region.anyParked (r : Region) : Bool :=
  r.tiles.any (fun t => !t.2.parked.isEmpty)
    || r.cmds.any (fun j => match j.st with | .faulted _ => true | _ => false)

/-- Is the region's ingress held (R173, R341)? -/
def Region.held (r : Region) : Bool := r.anyParked || r.mark.isSome || !(r.st == 4 || r.st == 6)

/-! ## Claims (R106, R107, R124) -/

/-- Energy class of a claim word. -/
def claimClass (w : Word) : Nat := (fld w 8 4).toNat
/-- CAPOK of a claim word. -/
def claimCapok (w : Word) : Bool := w.getLsbD 12
/-- INVAR of a claim word. -/
def claimInvar (w : Word) : Bool := w.getLsbD 13
/-- Energy units of a claim. -/
def claimUnits (w : Word) : Nat := claimClass w * claimW w * claimH w

/-- Is a claim word legal at a level under CEIL (R106)? -/
def claimOk (w : Word) (pl : BitVec 2) (ceil : BitVec 4) : Bool :=
  fld w 14 50 == 0 && !(claimInvar w && claimCapok w) && (pl != 0 || decide (claimRank w ≤ ceil.toNat))

/-- Enter or keep a claim (R124). -/
def State.enterClaim (s : State) (n : BitVec 9) (w : Word) : State :=
  let t := s.thr n
  if t.region.st = 1 ∧ t.claim.map (·.word) = some w then s
  else
    ({ s with claims := s.claims + 1 }.modThr n (fun t => { t with claim := some { word := w, age := s.claims } })).modReg n
      (fun r => if r.st = 0 then { r with st := 1 } else r)

/-- May a thread claim in its own cluster (R322)? -/
def Thread.mayClaim (t : Thread) (c : BitVec 5) : Bool := !t.cred.checked || clIn t.partition c

/-! ## The arbiter (R107, R108) -/

/-- The pages that regions of a cluster hold. -/
def State.heldPages (s : State) (c : BitVec 5) : List Nat :=
  s.threads.flatMap (fun p => if clusterOf (BitVec.ofNat 9 p.1) = c then p.2.region.pages else [])

/-- The pages of a W × H rectangle at an origin, when it lies in the 4 × 4 grid. -/
def rect (w h o : Nat) : Option (List Nat) :=
  if o % 4 + w ≤ 4 ∧ o / 4 + h ≤ 4 then
    some ((List.range h).flatMap (fun y => (List.range w).map (fun x => o + 4 * y + x)))
  else none

/-- The lowest origin where a rectangle of allowed pages fits. -/
def lowestFit (w h : Nat) (ok : Nat → Bool) : Option Nat :=
  (List.range 16).find? (fun o => match rect w h o with | some ps => ps.all ok | none => false)

/-- Do the energy and cap conditions of R107 hold for a claim? -/
def Cluster.allows (c : Cluster) (w : Word) : Bool :=
  decide (c.used.toNat + claimUnits w ≤ c.budget.toNat) && (c.cap == 0 || claimInvar w || claimCapok w)

/-- Where an eligible claim would be placed (R107). -/
def State.eligible (s : State) (c : BitVec 5) (w : Word) : Option Nat :=
  if (s.clu c).allows w then
    (let held := s.heldPages c
     lowestFit (claimW w) (claimH w) (fun p => !held.contains p))
  else none

/-- Admit the claim of thread n at an origin: a thread waiting in RCLAIM goes on with OK.  A region whose saved state
waits for pages (R367) stays SAVED, or ENDED when it was killed meanwhile. -/
def State.letIn (s : State) (n : BitVec 9) (w : Word) (o : Nat) : State :=
  let s := s.modClu (clusterOf n) (fun c => { c with used := BitVec.ofNat 8 (c.used.toNat + claimUnits w) })
  s.modThr n (fun t =>
    let t := { t with
      claim := none
      region := { t.region with
        st := if t.region.st = 8 ∨ t.region.st = 9 then t.region.st else 2, claim := w, origin := BitVec.ofNat 4 o, placed := true } }
    match t.wait with
    | .claim d => { t.wr d (statusWord stOK 0) with wait := .none, pc := t.pc + 4 }
    | _ => t)

/-- Is claim x ranked before claim y: higher RANK, then the older? -/
def claimBefore (x y : Claim) : Bool :=
  decide (claimRank y.word < claimRank x.word) || (claimRank x.word == claimRank y.word && decide (x.age < y.age))

/-- Pending claims in rank order. -/
def State.ranked (s : State) (c : BitVec 5) : List (BitVec 9 × Claim) :=
  (s.pending c).foldl (fun l p => l.takeWhile (fun q => claimBefore q.2 p.2) ++ p :: l.dropWhile (fun q => claimBefore q.2 p.2)) []

/-- The claim that blocks all other admission, if any (R108). -/
def State.blocking (s : State) (c : BitVec 5) : Option (BitVec 9 × Claim) :=
  let bound := Nat.max (s.clu c).bound.toNat 1
  (s.ranked c).find? (fun p => decide (bound ≤ p.2.bypass))

/-- One cycle of a cluster's arbiter (R108). -/
def State.arbiter (s : State) (c : BitVec 5) : State :=
  match s.blocking c with
  | some (n, k) =>
    (match s.eligible c k.word with
     | some o => s.letIn n k.word o
     | none => s)
  | none =>
    let l := s.ranked c
    match l.find? (fun p => (s.eligible c p.2.word).isSome) with
    | none => s
    | some (n, k) =>
      let before := l.takeWhile (fun p => p.1 != n)
      let s := before.foldl (fun s p =>
        s.modThr p.1 (fun t => { t with claim := t.claim.map (fun k => { k with bypass := Nat.min 255 (k.bypass + 1) }) })) s
      match s.eligible c k.word with
      | some o => s.letIn n k.word o
      | none => s

/-- RCLAIM (R124, R322).  Whether an arbiter cycle falls between the claim's entry and the answer is open: log 83. -/
def execRclaim (d a : BitVec 5) (n : BitVec 1) (s : State) : Out :=
  let w := s.rd a
  if s.my.st ≠ 0 ∧ s.my.st ≠ 1 then .next (s.status d stBADSTATE)
  else if !claimOk w s.me.pl (s.clu (clusterOf s.cur)).ceil ∨ !s.me.mayClaim (clusterOf s.cur) then .next (s.status d stBADARG)
  else
    let s := s.enterClaim s.cur w
    let s' := s.arbiter (clusterOf s.cur)
    .next (if Config.admitsAtOnce s.tick ∧ s'.me.claim.isNone then s'.status d stOK
      else if n = 1 then s.status d stPENDING else s.stay (.claim d))

/-! ## RFREE (Table 4.8) -/

/-- The bridges a region's ports end are given back: a consuming end frees the buffer (R320). -/
def State.dropBridges (s : State) (n : BitVec 9) : State :=
  { s with bridges := s.bridges.map (fun b =>
      let own (e : Option (BitVec 9 × BitVec 14)) : Bool := match e with | some p => p.1 == n | none => false
      (b.1, { b.2 with
        producer := if own b.2.producer then none else b.2.producer
        consumer := if own b.2.consumer then none else b.2.consumer
        buffer := if own b.2.consumer then {} else b.2.buffer
        live := b.2.live && !own b.2.consumer })) }

/-- Pages, weight binding and budget share of a region are freed, and the region reaches NONE. -/
def State.freeRegion (s : State) (n : BitVec 9) : State :=
  let r := s.reg n
  let s := if holdsPages r.st && r.placed then s.modClu (clusterOf n) (fun c =>
    { c with used := BitVec.ofNat 8 (c.used.toNat - claimUnits r.claim) }) else s
  ((s.dropBridges n).dropCommandScore n).modThr n (fun t => { t with claim := none, region := {} })

/-- RFREE. -/
def execRfree (d : BitVec 5) (s : State) : Out :=
  .next (if [0, 1, 2, 3, 5, 7, 9].contains s.my.st.toNat then (s.freeRegion s.cur).status d stOK
    else s.status d stBADSTATE)

/-! ## RSTAT (Table 4.9) -/

/-- Smallest live count among the region's tiles; 0 while it has no tile. -/
def State.minLive (s : State) (n : BitVec 9) (f : TileMem → Nat) : Nat :=
  let r := s.reg n
  if !holdsPages r.st || !r.placed then 0
  else
    (List.range (16 * claimW r.claim * claimH r.claim)).foldl (fun m k =>
      let t := tileAt (k % (4 * claimW r.claim)) (k / (4 * claimW r.claim))
      Nat.min m (f ((s.clu (clusterOf n)).tile (r.absTile t)))) 16

/-- RSTAT word `sel` of a thread's region. -/
def State.rstat (s : State) (n : BitVec 9) (sel : Nat) : Word :=
  let t := s.thr n
  let r := t.region
  let claim := (t.claim.map (·.word)).getD r.claim
  if r.st = 0 then 0
  else
    match sel with
    | 0 => (zext (imgConfig r.image) 64 <<< 48) ||| (BitVec.ofNat 64 ((t.claim.map (·.bypass)).getD 0) <<< 32)
        ||| (zext r.flags 64 <<< 16) ||| zext r.st 64
    | 1 => (zext r.origin 64 <<< 4) ||| zext (fld claim 0 4) 64
    | 2 => (zext r.ends 64 <<< 32) ||| BitVec.ofNat 64 r.left
    | _ => (BitVec.ofNat 64 (s.minLive n (fun m => m.tregBanks.live)) <<< 8)
        ||| BitVec.ofNat 64 (s.minLive n (fun m => m.scrBanks.live))

/-- RSTAT: selectors 4 to 63 raise ILLEGAL. -/
def execRstat (d : BitVec 5) (sel : BitVec 6) (s : State) : Out :=
  if 4 ≤ sel.toNat then .next (s.illegal (.rstat d sel)) else .next (s.put d (s.rstat s.cur sel.toNat))

/-! ## RDRAIN, RWAIT -/

/-- RDRAIN (R121). -/
def execRdrain (d : BitVec 5) (s : State) : Out :=
  .next (s.inStates d [4, 5] (fun s =>
    (s.modReg s.cur (fun r => { r with drainAsked := true, st := if r.st = 5 then 6 else r.st })).status d stOK))

/-- An acquire at system scope: the core's L1 and the clean bytes of the cluster's L2 slices go (R125, R284, R304). -/
def State.acquire (s : State) : State :=
  (s.modL1 (coreOf s.cur) (fun _ => [])).dropCleanAll (clusterOf s.cur)

/-- The refusal word of R125. -/
def refusalWord (code : Nat) : Word := compWord 0 (BitVec.ofNat 16 code) 0

/-- RWAIT returns the last completion word with an acquire, or BADSTATE when there is none (R125). -/
def State.rwaitDone (s : State) (d : BitVec 5) : State :=
  match s.my.last with
  | some w => s.acquire.put d w
  | none => s.put d (refusalWord stBADSTATE)

/-- RWAIT (R125): `fin` says in which states the wait is over. -/
def State.rwait (s : State) (d : BitVec 5) (fin : Region → Bool) : State :=
  let r := s.my
  match r.st.toNat with
  | 0 => s.put d (refusalWord stNOREGION)
  | 1 | 2 => s.put d (refusalWord stBADSTATE)
  | 3 => s.rwaitDone d
  | 8 => s.stay .reissue
  | _ => if fin r then s.rwaitDone d else s.stay .reissue

/-- RWAIT: until the completion word of the current or last period has been written. -/
def execRwait (d : BitVec 5) (s : State) : Out := .next (s.rwait d (fun _ => s.wordWritten))

/-- RWAIT.drained: until DRAINED or ENDED. -/
def execRwaitDrained (d : BitVec 5) (s : State) : Out :=
  .next (s.rwait d (fun r => r.st == 7 || r.st == 9))

/-! ## RPOST (R342) -/

/-- The thread whose region holds a tile of a cluster, with the tile in the region. -/
def State.ownerOf (s : State) (c : BitVec 5) (t : BitVec 8) : Option (BitVec 9 × TileNo) :=
  s.threads.findSome? (fun p =>
    let n : BitVec 9 := BitVec.ofNat 9 p.1
    let r := p.2.region
    if clusterOf n = c ∧ r.pages.contains (pageOf t).toNat then
      some (n, tileAt (tx t - 4 * (r.origin.toNat % 4)) (ty t - 4 * (r.origin.toNat / 4)))
    else none)

/-- Is a command parked at the command port that the ECMD node at a slot feeds? -/
def Job.parkedAt (j : Job) (t : TileNo) (slot : BitVec 3) : Bool :=
  j.tile == t && j.slot == slot && (match j.st with | .faulted _ => true | _ => false)

/-- The address the parked node at a slot waits to replay, or the command port an ECMD node feeds (R319); none where nothing
is parked. -/
def State.parkedAddr (s : State) (n : BitVec 9) (t : TileNo) (slot : BitVec 3) : Option Word :=
  match (s.rt n t).parked.find? (fun p => p.slot == slot), (s.reg n).cmds.find? (fun j => j.parkedAt t slot) with
  | some p, _ => some p.addr
  | none, some j => some j.met
  | none, none => none

/-- RESUME reaches the node at a slot over the configuration network (R342): what is parked there at the address it carries
unparks, and its access is made again in full; a command starts again where it stands, with its checks and its scoreboard entries (R308,
R313).  The stillness of R178 is counted afresh. -/
def State.takeResume (s : State) (n : BitVec 9) (t : TileNo) (slot : BitVec 3) (tok : Token) : State :=
  let named (va : Word) : Bool := tok.kind == kRESUME && fld tok.pay 0 52 == fld va 0 52
  let s := s.modRt n t (fun r => { r with parked := r.parked.filter (fun p => !(p.slot == slot && named p.addr)) })
  s.modReg n (fun r => { r with
    active := s.now n
    cmds := r.cmds.map (fun j => if j.parkedAt t slot && named j.met then { j with st := .queued } else j) })

/-- Send RESUME to the node at a slot; none where nothing is parked there. -/
def State.unpark (s : State) (n : BitVec 9) (t : TileNo) (slot : BitVec 3) : Option State :=
  (s.parkedAddr n t slot).map (fun va => s.takeResume n t slot (resumeTok va))

/-- RPOST (R342). -/
def execRpost (d a : BitVec 5) (s : State) : Out :=
  let c := s.rd a
  let cl : BitVec 5 := fld c 21 2 ++ fld c 18 3
  let tile : BitVec 8 := fld c 10 4 ++ fld c 14 4
  if s.me.pl = 0 then .next (s.trap cPRIV 0)
  else if fld c 32 32 ≠ 0 ∨ c.getLsbD 23 ∨ fld c 0 7 ≠ 0 then .next (s.status d stBADARG)
  else if s.me.pl = 1 ∧ s.me.cred.fn ≠ 0 ∧ !clIn s.me.partition cl then .next (s.trap cACCESS c)
  else
    match s.ownerOf cl tile with
    | none => .next (s.status d stNOTPARKED)
    | some (n, t) =>
      let st := (s.reg n).st
      if st ≠ 4 ∧ st ≠ 6 then .next (s.status d stNOTPARKED)
      else
        match s.unpark n t (fld c 7 3) with
        | some s => .next (s.status d stOK)
        | none => .next (s.status d stNOTPARKED)

end Sys2Proof.Machine
end

