-- ==== Sys2Proof/Machine/Section.lean ====
section
/-! DEFINITION. The context area (R362 to R365): the region section with its port, command, origin and tile records
built from the machine, and the same records read back.  What the layout has no field for is kept beside the area, by its bytes:
DESIGN CHOICE, log 28. -/

namespace Sys2Proof.Machine

/-- A field of n bytes at an offset. -/
def fieldAt (off n v : Nat) : Nat := v % 2 ^ (8 * n) * 2 ^ (8 * off)

/-- A sum of fields. -/
def fieldsAt (l : List Nat) : Nat := l.foldl (· + ·) 0

/-- A condition as a bit. -/
def bit (b : Bool) (k : Nat) : Nat := if b then 2 ^ k else 0

/-- A multiple of m at or above v. -/
def alignTo (m v : Nat) : Nat := (v + m - 1) / m * m

/-- The next thing to read: field of n bytes. -/
abbrev at_ (a off n : Nat) : Nat := bytesOf a off n

/-! ## Tokens -/

/-- A TOKENS entry (R364). -/
def entryBytes (q : Nat) (e : Entry) : Nat :=
  fieldsAt [fieldAt 0 32 e.tok.pay.toNat, fieldAt 0x20 4 e.tok.side.toNat, fieldAt 0x24 1 q
    , fieldAt 0x25 1 (e.gap % 64 + bit e.comp 6 + bit e.ctl 7), fieldAt 0x26 6 e.idx]

/-- Read a TOKENS entry back: its queue byte and the entry. -/
def entryOf (v now : Nat) : Nat × Entry :=
  (at_ v 0x24 1,
   { tok := ⟨BitVec.ofNat 256 (at_ v 0 32), BitVec.ofNat 32 (at_ v 0x20 4)⟩
     gap := at_ v 0x25 1 % 64, comp := at_ v 0x25 1 / 64 % 2 == 1, ctl := at_ v 0x25 1 / 128 == 1
     idx := at_ v 0x26 6, arr := now })

/-- Records of a size one after the other. -/
def recordsAt (off size : Nat) (l : List Nat) : Nat :=
  fieldsAt (l.zipIdx.map (fun p => p.1 * 2 ^ (8 * (off + size * p.2))))

/-! ## What a scan takes from a tile (R344, R356, R358) -/

/-- A MARK is no part of what is saved (R359). -/
def Queue.unmark (q : Queue) : Queue := { q with items := q.items.filter (fun e => e.tok.kind != kMARK) }

/-- Put an entry back at the head of a queue. -/
def Queue.unpop (q : Queue) (t : Token) (i now : Nat) : Queue := { q with items := { tok := t, idx := i, arr := now } :: q.items }

/-- An operation in progress whose go record has been consumed: TMMA, TMOV, TCVT, TQUANT, TZERO. -/
def consumedGo : Instr → Bool
  | .tmma _ _ _ _ _ | .tmov _ _ _ _ | .tcvt _ _ _ _ | .tquant _ _ _ | .tzero _ _ _ _ => true
  | _ => false

/-- An abandoned operation: its go record stands at the head of slot A again, with the ORDER token it took (R358); a row
operation keeps the rows it has done. -/
def RTile.abandon (r : RTile) (img : Nat) (t : TileNo) (m : MatOp) (now : Nat) : RTile :=
  let k := m.slot.toNat
  if consumedGo m.op then
    let r := { r with queues := Tab.set r.queues (4 * k) ((Tab.get ({} : Queue) r.queues (4 * k)).unpop m.go m.idx now) }
    if termFeeds img t (4 * k + 3) then
      { r with queues := Tab.set r.queues (4 * k + 3) ((Tab.get ({} : Queue) r.queues (4 * k + 3)).unpop (orderTok 0) m.idx now) }
    else r
  else { r with prog := Tab.set r.prog k m.rows }

/-- A tile as it is saved: no MARK, nothing in progress. -/
def RTile.scan (r : RTile) (img : Nat) (t : TileNo) (now : Nat) : RTile :=
  let r := r.mops.foldl (fun r m => r.abandon img t m now) r
  { r with
    queues := r.queues.map (fun q => (q.1, q.2.unmark)), mops := [], marked := []
    chain := r.chain.map (fun c => (c.1, { c.2 with stopped := false })) }

/-- The tiles and flights of a region as they are saved; the half of a command that waits at a port is a token of its link again. -/
def Region.scan (r : Region) (now : Nat) : Region :=
  { r with
    tiles := r.tiles.map (fun t => (t.1, t.2.scan r.image (BitVec.ofNat 8 t.1) now))
    flight := r.ports.filterMap (fun p => p.half.map (fun h => ({ dest := .port p.id, tok := h.1, idx := h.2, due := now } : Flight)))
      ++ r.flight.filter (fun f => f.tok.kind != kMARK)
    ports := r.ports.map (fun p => { p with markSent := false, half := none })
    cmds := r.cmds.map (fun j => { j with st := if j.st = .running then .queued else j.st }) }

/-! ## Tile blocks -/

/-- Bytes of a tile block. -/
def tileSize (img : Nat) : Nat := 0xA800 + 4096 * imgTregs img + 8192 * imgScrbanks img

/-- The channel and tile a flight is on. -/
def Flight.link (f : Flight) (img : Nat) : TileNo × Nat :=
  match f.dest with
  | .queue t q => (t, (termChan img t q.toNat).getD 0)
  | .port p => (portTile p, portChan p)

/-- The flights on a tile's links that stand for a token each: of those of one token that a channel carries to several places, the
ones to the place that still awaits most. -/
def linkToks (l : List (Flight × Nat)) : List (Flight × Nat) :=
  l.filter (fun f =>
    let same := l.filter (fun g => g.2 == f.2 && g.1.tok == f.1.tok && g.1.idx == f.1.idx)
    let count (d : Dest) : Nat := (same.filter (fun g => g.1.dest == d)).length
    match same.find? (fun g => same.all (fun h => decide (count h.1.dest ≤ count g.1.dest))) with
    | some g => g.1.dest == f.1.dest
    | none => false)

/-- The entries of a queue, those of a record still arriving behind them. -/
def Queue.held (q : Queue) : List Entry :=
  q.items ++ (match q.buf with
    | some b => b.toks.zipIdx.map (fun u => { tok := u.1, idx := b.idx, gap := if u.2 = 0 then b.gap else 0, comp := u.2 == 0 && b.comp })
    | none => [])

/-- The entries of a tile: queues ascending, then the tokens on the tile's links. -/
def Region.entries (r : Region) (t : TileNo) : List (Nat × Entry) :=
  let rt : RTile := Tab.get {} r.tiles t.toNat
  let qs := (List.range 32).flatMap (fun k => ((Tab.get ({} : Queue) rt.queues k).held).map (fun e => (k, e)))
  let ls := linkToks ((r.flight.filter (fun f => (f.link r.image).1 == t)).map (fun f => (f, (f.link r.image).2)))
  (qs ++ ls.map (fun (f : Flight × Nat) => (0x40 + f.2, ({ tok := f.1.tok, idx := f.1.idx } : Entry)))).take 640

/-- QSTATE of a queue. -/
def Queue.qstate (q : Queue) : Nat :=
  (q.held.filter (fun e => !e.ctl)).length % 128 + (q.held.filter (fun e => e.ctl)).length % 8 * 2 ^ 7 + bit q.engaged 10

/-- PGAP of a queue. -/
def Queue.pgapBytes (q : Queue) : Nat :=
  match q.pgap with
  | some p => fieldsAt [fieldAt 0 8 p.first, fieldAt 8 8 p.last, fieldAt 16 8 p.lost, fieldAt 24 8 (bit p.comp 0 + 2)]
  | none => 0

/-- CHAINPOS of a slot.  The sideband of the run, an iteration that is owed, bit 16 of the iteration and whether iterations to come are
POISON stand above the index (DESIGN CHOICE, log 28). -/
def ChainPos.bytes (c : ChainPos) : Nat :=
  let t : Token := { side := c.side }
  fieldAt 0 8 (c.iter % 65536 + bit c.run 16)
    + fieldAt 8 8 (c.base % 2 ^ 48 + t.wexp % 32 * 2 ^ 48 + t.mcount % 32 * 2 ^ 53 + bit c.owed 58 + c.iter / 65536 % 2 * 2 ^ 59
      + bit (1 < c.ill) 60 + bit (c.ill == 1) 61)

/-- CHAINPOS read back; `ready` is when a CHAIN may emit again, `count` the iterations of its runs. -/
def chainPosOf (v ready count : Nat) (ended : Bool) : ChainPos :=
  let w := at_ v 0 8
  let x := at_ v 8 8
  { iter := w % 65536 + x / 2 ^ 59 % 2 * 65536, run := w / 2 ^ 16 % 2 == 1, base := x % 2 ^ 48, ready := ready
    side := mkSide 0 (x / 2 ^ 48 % 32) (x / 2 ^ 53 % 32) 0 false false 0, owed := x / 2 ^ 58 % 2 == 1, ended := ended
    ill := if x / 2 ^ 60 % 2 = 1 then count - (w % 65536 + x / 2 ^ 59 % 2 * 65536) else x / 2 ^ 61 % 2 }

/-- PROG of a slot.  Whether the slot has emitted END and forwarded DRAIN stands above the count; in slot 0 of the region's first
tile, whether a drain has been asked for too (DESIGN CHOICE, log 28). -/
def RTile.progBytes (r : RTile) (k : Nat) (asked : Bool) : Nat :=
  Tab.get 0 r.prog k % 2 ^ 29 + bit asked 29 + bit (r.drained.contains k) 30 + bit (r.ended.contains k) 31

/-- TREGMETA of a register. -/
def TregMeta.bytes (m : TregMeta) : Nat :=
  fieldsAt [fieldAt 0 4 m.shape.toNat, fieldAt 4 1 (bit m.full 0), fieldAt 5 1 m.ncut, fieldAt 6 2 m.cursor]

/-- A register's bits by logical number. -/
def TileMem.reg (m : TileMem) (q : Nat) : BitVec 32768 := Tab.get 0 m.treg (m.tregBanks.phys q)

/-- The block of a tile (R364), for a region already scanned. -/
def Region.tileBlock (r : Region) (m : TileMem) (t : TileNo) : Nat :=
  let rt : RTile := Tab.get {} r.tiles t.toNat
  let slots := List.range 8
  let queues := (List.range 32).map (fun k => (Tab.get {} rt.queues k : Queue))
  let tregs := imgTregs r.image
  fieldsAt [
    recordsAt 0 64 (slots.map (fun k => (Tab.get (0 : BitVec 512) rt.nstate k).toNat)),
    recordsAt 0x200 8 (queues.map Queue.qstate),
    recordsAt 0x300 32 (queues.map Queue.pgapBytes),
    recordsAt 0x700 16 (slots.map (fun k => (Tab.get {} rt.chain k : ChainPos).bytes)),
    recordsAt 0x780 24 (slots.map (fun k =>
      let l := Tab.get [] rt.win k
      fieldsAt [fieldAt 0 8 (l.getD 0 0), fieldAt 8 8 (l.getD 1 0), fieldAt 16 8 (l.getD 2 0)])),
    recordsAt 0x840 16 ((List.range 16).map (fun k => (Tab.get {} rt.tmeta k : TregMeta).bytes)),
    fieldAt 0x940 4 rt.prec.toNat, fieldAt 0x944 4 rt.accRec.toNat, fieldAt 0x948 1 (bit rt.accFull 0), fieldAt 0x94A 2 rt.taccCur,
    recordsAt 0x950 4 (slots.map (fun k => rt.progBytes k (r.drainAsked && t == 0 && k == 0))),
    recordsAt 0x1000 48 ((r.entries t).map (fun p => entryBytes p.1 p.2)),
    recordsAt 0x8800 4096 ((List.range tregs).map (fun q => (m.reg q).toNat)),
    fieldAt (0x8800 + 4096 * tregs) 8192 m.acc.toNat,
    recordsAt (0x8800 + 4096 * tregs + 8192) 8192 ((List.range (imgScrbanks r.image)).map (fun q =>
      readLE m.scr (8192 * m.scrBanks.phys q) 8192))]

/-- Poisoned 64-bit words of a tile's storage and node state as word offsets in its block (R372). -/
def Region.tilePoison (r : Region) (m : TileMem) (t : TileNo) : List Nat :=
  let tregs := imgTregs r.image
  (List.range tregs).flatMap (fun q =>
    (m.tregPoison.filter (fun w => w / 512 == m.tregBanks.phys q)).map (fun w => 0x8800 / 8 + 512 * q + w % 512))
  ++ (List.range (imgScrbanks r.image)).flatMap (fun q =>
    (m.scrPoison.filter (fun w => w / 1024 == m.scrBanks.phys q)).map (fun w =>
      (0x8800 + 4096 * tregs + 8192) / 8 + 1024 * q + w % 1024))
  ++ m.accPoison.map (fun k => (0x8800 + 4096 * tregs) / 8 + k) ++ (Tab.get ({} : RTile) r.tiles t.toNat).illState

/-- The storage of a tile by logical bank, only the footprint. -/
def TileMem.normal (m : TileMem) (img : Nat) : TileMem :=
  let tregs := imgTregs img
  let scr := imgScrbanks img
  { scr := (List.range scr).foldl (fun a q => writeLE a (8192 * q) 8192 (readLE m.scr (8192 * m.scrBanks.phys q) 8192)) []
    scrPoison := (List.range scr).flatMap (fun q =>
      (m.scrPoison.filter (fun w => w / 1024 == m.scrBanks.phys q)).map (fun w => 1024 * q + w % 1024))
    treg := (List.range tregs).map (fun q => (q, m.reg q))
    tregPoison := (List.range tregs).flatMap (fun q =>
      (m.tregPoison.filter (fun w => w / 512 == m.tregBanks.phys q)).map (fun w => 512 * q + w % 512))
    acc := m.acc, accPoison := m.accPoison }

/-- Storage kept by logical bank goes into a tile, by the tile's own bank map (R396). -/
def TileMem.install (m k : TileMem) (img : Nat) : TileMem :=
  let tregs := List.range (imgTregs img)
  let scr := List.range (imgScrbanks img)
  let sb := scr.map m.scrBanks.phys
  let tb := tregs.map m.tregBanks.phys
  { m with
    scr := scr.foldl (fun a q => writeLE a (8192 * m.scrBanks.phys q) 8192 (readLE k.scr (8192 * q) 8192)) m.scr
    scrPoison := (k.scrPoison.map (fun w => 1024 * m.scrBanks.phys (w / 1024) + w % 1024)).foldl insertNat
      (m.scrPoison.filter (fun w => !sb.contains (w / 1024)))
    treg := tregs.foldl (fun a q => Tab.set a (m.tregBanks.phys q) (Tab.get 0 k.treg q)) m.treg
    tregPoison := (k.tregPoison.map (fun w => 512 * m.tregBanks.phys (w / 512) + w % 512)).foldl insertNat
      (m.tregPoison.filter (fun w => !tb.contains (w / 512)))
    acc := k.acc, accPoison := k.accPoison }

/-- The storage of a tile of a region: as kept while SAVED, else the tile itself. -/
def State.storeOf (s : State) (n : BitVec 9) (t : TileNo) : TileMem :=
  let r := s.reg n
  if Tab.has r.kept t.toNat then Tab.get {} r.kept t.toNat else (s.clu (clusterOf n)).tile (r.absTile t)

/-! ## Reading a tile block -/

/-- A queue read back. -/
def queueOf (st pg : Nat) (es : List Entry) : Queue :=
  let flags := at_ pg 24 8
  { items := es, engaged := st / 2 ^ 10 % 2 == 1
    pgap := if flags / 2 % 2 = 1 then some ⟨at_ pg 0 8, at_ pg 8 8, at_ pg 16 8, flags % 2 == 1⟩ else none }

/-- The sd record a queue's entries end with, when its last token has not come, is one that is still arriving (R147). -/
def Queue.reassemble (r : Word) (ty : BitVec 4) (q : Queue) : Queue :=
  let tail := q.tailRec
  match tail with
  | e :: _ =>
    if ty = 13 ∧ e.tok.kind = kDATA ∧ e.tok.first ∧ tail.all (fun x => !x.tok.last) then
      let q' := { q with items := q.items.take (q.items.length - tail.length) }
      { q' with buf := some { idx := e.idx, act := qActs r q' e.idx, kept := tail.length, gap := e.gap, comp := e.comp, toks := tail.map (·.tok) } }
    else q
  | [] => q

/-- The private counts of a slot read back. -/
def winOf (w : Nat) : List Nat :=
  let l := [at_ w 0 8, at_ w 8 8, at_ w 16 8]
  if l.all (· == 0) then [] else l

/-- Keep the entries of a table that are not the default. -/
def tabOf {α : Type} [BEq α] (d : α) (l : List α) : Tab α := (l.zipIdx.filter (fun p => p.1 != d)).map (fun p => (p.2, p.1))

/-- A tile read back, with its poisoned words; each CHAIN goes on `PHASE` cycles from now (R359). -/
def rtileOf (img : Nat) (t : TileNo) (v now : Nat) (illWords illState : List Nat := []) : RTile :=
  let slots := List.range 8
  let es := ((List.range 640).map (fun k => at_ v (0x1000 + 48 * k) 48)).map (fun x => entryOf x 0)
  let st := (List.range 32).map (fun q => at_ v (0x200 + 8 * q) 8)
  let count (x : Nat) : Nat := x % 128 + x / 2 ^ 7 % 8
  let start (q : Nat) : Nat := (st.take q).foldl (fun a x => a + count x) 0
  let prog (k : Nat) : Nat := at_ v (0x950 + 4 * k) 4
  let queues := (List.range 32).map (fun q =>
    (queueOf (st.getD q 0) (at_ v (0x300 + 32 * q) 32) (((es.drop (start q)).take (count (st.getD q 0))).map (·.2))).reassemble
      (queueRec img t q) (slotType img t (q / 4) (q % 4)))
  { queues := tabOf {} queues
    nstate := tabOf 0 (slots.map (fun k => BitVec.ofNat 512 (at_ v (64 * k) 64)))
    chain := tabOf {} (slots.map (fun k =>
      chainPosOf (at_ v (0x700 + 16 * k) 16) (if opCode (opWord img t k) = 0x53 then now + chPhase (chainRec img t k) else 0)
        (chCount (chainRec img t k)) (isCounter img t k && prog k / 2 ^ 31 == 1)))
    win := tabOf [] (slots.map (fun k => winOf (at_ v (0x780 + 24 * k) 24)))
    prog := tabOf 0 (slots.map (fun k => prog k % 2 ^ 29))
    ended := slots.filter (fun k => prog k / 2 ^ 31 == 1)
    drained := slots.filter (fun k => prog k / 2 ^ 30 % 2 == 1)
    tmeta := tabOf {} ((List.range 16).map (fun q =>
      let w := at_ v (0x840 + 16 * q) 16
      ({ shape := BitVec.ofNat 32 (at_ w 0 4), full := at_ w 4 1 % 2 == 1, ncut := at_ w 5 1, cursor := at_ w 6 2 } : TregMeta)))
    prec := BitVec.ofNat 32 (at_ v 0x940 4), accRec := BitVec.ofNat 32 (at_ v 0x944 4), accFull := at_ v 0x948 1 % 2 == 1
    taccCur := at_ v 0x94A 2, illWords := illWords, illState := illState }

/-- Tokens on a tile's links read back: each goes on to every place its channel delivers in the tile. -/
def linksOf (img : Nat) (t : TileNo) (v now : Nat) : List Flight :=
  (((List.range 640).map (fun k => at_ v (0x1000 + 48 * k) 48)).map (fun x => entryOf x 0)).flatMap (fun p =>
    if p.1 < 0x40 ∨ p.1 / 0x80 = 1 then []
    else (chanForms img t (p.1 - 0x40)).filterMap (fun f =>
      match f with
      | .term n k _ => some { dest := .queue t (BitVec.ofNat 5 (4 * n + k)), tok := p.2.tok, idx := p.2.idx, due := now }
      | .route _ 7 => some { dest := .port (portId t (p.1 - 0x40)), tok := p.2.tok, idx := p.2.idx, due := now }
      | _ => none))

/-- The storage of a tile read back, by logical bank. -/
def keptOf (img v : Nat) : TileMem :=
  let tregs := imgTregs img
  { treg := (List.range tregs).map (fun q => (q, BitVec.ofNat 32768 (at_ v (0x8800 + 4096 * q) 4096)))
    acc := BitVec.ofNat 65536 (at_ v (0x8800 + 4096 * tregs) 8192)
    scr := (List.range (imgScrbanks img)).foldl (fun a q =>
      writeLE a (8192 * q) 8192 (at_ v (0x8800 + 4096 * tregs + 8192 + 8192 * q) 8192)) [] }

/-! ## Port and command records -/

/-- The kind code of a port. -/
def PortKind.code : PortKind → Nat
  | .ingress => 0 | .egress => 1 | .bridgeIn => 2 | .bridgeOut => 3 | .command => 4

/-- The kind of a code. -/
def portKindOf (c : Nat) : PortKind :=
  match c with | 0 => .ingress | 1 => .egress | 2 => .bridgeIn | 3 => .bridgeOut | _ => .command

/-- The bridge buffer a port consumes from, as TOKENS entries. -/
def State.portToks (s : State) (p : Port) : List Entry :=
  match p.kind with
  | .bridgeIn => (Tab.get ({} : Bridge) s.bridges p.num).buffer.items
  | _ => []

/-- The table index or bridge number of a port: a command port's is 0xFF00 and the engine's number (R319). -/
def Port.number (p : Port) : Nat := if p.kind = .command then 0xFF00 + p.num else p.num

/-- The next index of a port record: END and DRAIN, once past, stand 2^48 beyond each, an sd record part-way admitted
2^50 (DESIGN CHOICE, log 28). -/
def Port.nextBytes (p : Port) : Nat := p.next % 2 ^ 48 + (bit p.endSent 48 + bit p.drainSent 48 + bit p.mid 50)

/-- A port record; `off` is where its buffered tokens lie. -/
def State.portBytes (s : State) (p : Port) (off : Nat) : Nat :=
  let k := (s.portToks p).length
  fieldsAt [fieldAt 0 2 p.id.toNat, fieldAt 2 1 p.kind.code, fieldAt 4 4 p.number, fieldAt 8 8 p.nextBytes
    , fieldAt 0x10 8 (if k = 0 then 0 else off), fieldAt 0x18 4 k, fieldAt 0x40 64 p.snap.toNat]

/-- A port read back from its record; its replay window is empty (R365). -/
def portOf (v : Nat) : Port :=
  let kind := portKindOf (at_ v 2 1)
  let next := at_ v 8 8
  { id := BitVec.ofNat 14 (at_ v 0 2), kind := kind, num := if kind = .command then at_ v 4 4 - 0xFF00 else at_ v 4 4
    snap := BitVec.ofNat 512 (at_ v 0x40 64), next := next % 2 ^ 48, freed := next != 0
    endSent := decide (1 ≤ next / 2 ^ 48 % 4), endKept := kind == .bridgeIn && decide (1 ≤ next / 2 ^ 48 % 4)
    drainSent := decide (2 ≤ next / 2 ^ 48 % 4), mid := next / 2 ^ 50 % 2 == 1 }

/-- The buffered tokens of a port record. -/
def bufferedOf (v area : Nat) : List Nat := (List.range (at_ v 0x18 4)).map (fun k => at_ area (at_ v 0x10 8 + 48 * k) 48)

/-- ESTATE of a command or entry (Table 10.3). -/
def JobSt.estate : JobSt → Nat
  | .queued | .running => 0
  | .done => 2 ^ 8
  | .faulted c => c.toNat + 2 ^ 9

/-- A command record: NEXT holds the port. -/
def Job.bytes (j : Job) : Nat :=
  fieldsAt [j.raw.toNat % 2 ^ 384, fieldAt 0x30 8 j.port.toNat, fieldAt 0x38 4 j.prog
    , fieldAt 0x3C 4 j.st.estate]

/-! ## The region section -/

/-- Where the parts of a section lie (area offsets). -/
structure Parts where
  ports : Nat := 0x2100
  cmds : Nat
  origs : Nat
  bufs : Nat
  image : Nat
  tiles : Nat
  len : Nat

/-- The parts of thread n's region. -/
def State.parts (s : State) (n : BitVec 9) : Parts :=
  let r := s.reg n
  let cmds := 0x2100 + 128 * r.ports.length
  let origs := cmds + 64 * r.cmds.length
  let bufs := alignTo 64 (origs + 16 * r.origs.length)
  let image := alignTo 64 (bufs + 48 * (r.ports.foldl (fun k p => k + (s.portToks p).length) 0))
  let il := imgLength (imgW r.image) (imgH r.image)
  let tiles := alignTo 4096 (image + il)
  { cmds := cmds, origs := origs, bufs := bufs, image := image, tiles := tiles
    len := tiles + tileSize r.image * (imgTiles r.image).length }

/-- The port records with their token offsets. -/
def State.portRecords (s : State) (off : Nat) : List Port → List Nat
  | [] => []
  | p :: r => s.portBytes p off :: s.portRecords (off + 48 * (s.portToks p).length) r

/-- The region section of thread n's region, which has been scanned: bytes at area offsets. -/
def State.sectionBytes (s : State) (n : BitVec 9) : Nat :=
  let r := s.reg n
  let p := s.parts n
  let h := 0x2000
  fieldsAt [
    fieldAt h 8 r.claim.toNat, fieldAt (h + 8) 1 r.prev.toNat, fieldAt (h + 9) 1 (bit (r.how == .eviction) 0), fieldAt (h + 0xA) 2 r.marker.toNat,
    fieldAt (h + 0xC) 2 (imgConfig r.image).toNat, fieldAt (h + 0xE) 1 r.origin.toNat, fieldAt (h + 0xF) 1 r.capt.pl.toNat,
    fieldAt (h + 0x10) 8 r.comp.toNat, fieldAt (h + 0x18) 4 r.flags.toNat, fieldAt (h + 0x1C) 4 r.ends.toNat, fieldAt (h + 0x20) 4 r.left,
    fieldAt (h + 0x24) 2 r.ports.length, fieldAt (h + 0x26) 2 r.cmds.length, fieldAt (h + 0x28) 8 r.seed.toNat, fieldAt (h + 0x30) 8 r.epoch.toNat,
    fieldAt (h + 0x38) 8 r.capt.space.toNat, fieldAt (h + 0x40) 8 r.capt.ptbase.toNat, fieldAt (h + 0x48) 8 r.capt.dirtybase.toNat,
    fieldAt (h + 0x50) 8 r.capt.dirtygran.toNat, fieldAt (h + 0x58) 8 r.capt.partition.toNat,
    fieldAt (h + 0x60) 8 (imgWsbase r.image), fieldAt (h + 0x68) 8 (imgWslen r.image),
    fieldAt (h + 0x70) 8 p.ports, fieldAt (h + 0x78) 8 p.cmds, fieldAt (h + 0x80) 8 p.image, fieldAt (h + 0x88) 8 p.tiles,
    fieldAt (h + 0x90) 8 (tileSize r.image), fieldAt (h + 0x98) 8 p.origs, fieldAt (h + 0xA0) 2 r.origs.length,
    recordsAt p.ports 128 (s.portRecords p.bufs r.ports),
    recordsAt p.cmds 64 (r.cmds.map Job.bytes),
    recordsAt p.origs 16 (r.origs.map (fun o => fieldAt 0 1 o.1 + fieldAt 8 8 o.2.toNat)),
    recordsAt p.bufs 48 (r.ports.flatMap (fun q => (s.portToks q).map (entryBytes 0))),
    fieldAt p.image (imgLength (imgW r.image) (imgH r.image)) r.image,
    recordsAt p.tiles (tileSize r.image) ((imgTiles r.image).map (fun t =>
      r.tileBlock (s.storeOf n t) t))]

/-- What a section has no field for is kept beside it (DESIGN CHOICE, log 28): a section with the same bytes from the image copy on
brings it back. -/
def State.noteSaved (s : State) (n : BitVec 9) (sec : Nat) : State :=
  let r := s.reg n
  let p := s.parts n
  let x : SavedRegion := {
    key := sec / 2 ^ (8 * p.image), ports := s.portRecords p.bufs r.ports, cmds := r.cmds.map Job.bytes, region := r
    buffers := (r.ports.filter (fun q => q.kind == .bridgeIn)).map (fun q => (q.id.toNat, (Tab.get ({} : Bridge) s.bridges q.num).buffer)) }
  { s with savedRegions := x :: s.savedRegions.filter (fun y => y.key != x.key) }

/-- Poisoned words of the section, as area word offsets. -/
def State.sectionPoison (s : State) (n : BitVec 9) : List Nat :=
  let r := s.reg n
  let p := s.parts n
  (imgTiles r.image).zipIdx.flatMap (fun t =>
    (r.tilePoison (s.storeOf n t.1) t.1).map (fun w => (p.tiles + tileSize r.image * t.2) / 8 + w)
      ++ (Tab.get ({} : RTile) r.tiles t.1.toNat).illWords.map (fun w => (p.image + tileOff (imgW r.image) t.1) / 8 + w))

/-- The header of an area (R362). -/
def areaHeader (parts len frm : Nat) : Nat :=
  fieldsAt [fieldAt 0 4 0x31585443, fieldAt 4 2 1, fieldAt 6 2 parts, fieldAt 8 8 len, fieldAt 0x10 2 frm]

/-! ## Writing an area -/

/-- What a write of an area came to. -/
inductive Wrote where
  | ok
  | fault (cause : BitVec 8) (va : Word)
  | wait

/-- Write bytes [off, off + len) of an area page by page at the home, `k` pages from page `page` on, poisoned words marked.
DEDUCED, log 29: the words of the area perform at the home, as records do. -/
def State.areaPages (s : State) (cr : Capt) (base : Word) (off len v : Nat) (poison : List Nat) (who : Waiter) :
    Nat → Nat → State × Wrote
  | 0, _ => (s, .ok)
  | k + 1, page =>
    let lo := Nat.max off (4096 * page)
    let hi := Nat.min (off + len) (4096 * (page + 1))
    let va := base + BitVec.ofNat 64 (4096 * page)
    match s.resolve cr .write false va who with
    | (s, .fault c) => (s, .fault c va)
    | (s, .wait) => (s, .wait)
    | (s, .ok key _) =>
      let a := key + (lo - 4096 * page)
      let s := s.homeStore cr a (hi - lo) (at_ v lo (hi - lo))
      let s := { s with poison := (poison.filter (fun w => decide (lo ≤ 8 * w) && decide (8 * w < hi))).foldl (fun l w =>
        insertNat l ((key + 8 * w - 4096 * page) / 8)) s.poison }
      State.areaPages s cr base off len v poison who k (page + 1)

/-- Write bytes [off, off + len) of an area. -/
def State.areaWrite (s : State) (cr : Capt) (base : Word) (off len v : Nat) (poison : List Nat) (who : Waiter) : State × Wrote :=
  if len = 0 then (s, .ok) else s.areaPages cr base off len v poison who ((off + len - 1) / 4096 + 1 - off / 4096) (off / 4096)

/-- The region section of thread n goes to its `CTXBASE` with a header of PARTS 2 (R355, R362); nothing when `CTXBASE` is
0.  A write that needs a host page is made when the host answers (R351); one that faults is dropped, the image being kept by the
AE40 (DESIGN CHOICE, log 30). -/
def State.writeSection (s : State) (n : BitVec 9) : State :=
  let t := s.thr n
  let done (s : State) (ok owed : Bool) : State := s.modReg n (fun r => { r with inArea := ok, areaOwed := owed })
  if fld t.ctxbase 12 40 = 0 then done s false false
  else
    let cr := { t.cred with pl := if t.pl = 0 then 1 else t.pl }
    let base : Word := zext (fld t.ctxbase 12 40) 64 <<< 12
    let len := (s.parts n).len
    let sec := s.sectionBytes n
    match s.areaWrite cr base 0 256 (areaHeader 2 len n.toNat) [] (.area n) with
    | (s, .ok) =>
      (match s.areaWrite cr base 0x2000 (len - 0x2000) sec (s.sectionPoison n) (.area n) with
       | (s, .ok) => (done s true false).noteSaved n sec
       | (s, .wait) => done s false true
       | (s, .fault _ _) => done s false false)
    | (s, .wait) => done s false true
    | (s, .fault _ _) => done s false false

/-- The write of a section that waits for the host is tried again. -/
def State.writeOwed (s : State) (n : BitVec 9) : State := if (s.reg n).st = 8 ∧ (s.reg n).areaOwed then s.writeSection n else s

/-- The write of a section that waits for the host is dropped: the host refuses its page. -/
def State.dropOwed (s : State) (n : BitVec 9) : State := s.modReg n (fun r => { r with areaOwed := false })

end Sys2Proof.Machine
end

