-- ==== Sys2Proof/Machine/Banks.lean ====
section
/-! DEFINITION. The bank maps (R387 to R393): error counts and retirement (R373, R374), evacuation, the over-capacity fault
with the relaunch that follows it (R395 to R397), the save of a region, and the injections into fabric storage (R398). -/

namespace Sys2Proof.Machine

/-! ## Units -/

/-- The kind of a unit, its row in Table 13.5 (STRUCT of Table 14.4). -/
def BankUnit.kind : BankUnit → Nat
  | .scratch _ _ => 0 | .treg _ _ => 1 | .quad _ _ => 2 | .l2 _ _ => 3 | .weight _ _ => 4 | .llc _ => 5

/-- Banks of a unit at manufacture. -/
def BankUnit.banks : BankUnit → Nat
  | .scratch _ _ | .treg _ _ | .l2 _ _ => 16 | .quad _ _ => 8 | .weight _ _ => 32 | .llc _ => 256

/-- Is a unit a cache, whose banks are emptied and not copied (R391)? -/
def BankUnit.cache : BankUnit → Bool
  | .quad _ _ | .l2 _ _ | .llc _ => true
  | _ => false

/-- Rows an evacuation copies one at a time (Table 13.5). -/
def BankUnit.rows : BankUnit → Nat
  | .scratch _ _ => 256 | .treg _ _ => 128 | .weight _ _ => 8192 | _ => 1

/-- 64-bit words of a bank. -/
def BankUnit.words : BankUnit → Nat
  | .scratch _ _ => 1024 | .treg _ _ => 512 | .quad _ _ => 2048 | .l2 _ _ => 8192 | .weight _ _ => 32768 | .llc _ => 131072

/-- The cluster of a unit; for the LLC the die's first. -/
def BankUnit.cluster : BankUnit → BitVec 5
  | .scratch c _ | .treg c _ | .quad c _ | .l2 c _ | .weight c _ => c
  | .llc d => d ++ 0#3

/-- The tile a unit is named by in `INJADDR` (Table 13.9): its own, or the north-west tile it serves. -/
def BankUnit.tile : BankUnit → BitVec 8
  | .scratch _ t | .treg _ t => t
  | .quad _ q => fld q 3 3 ++ 0#1 ++ fld q 0 3 ++ 0#1
  | .l2 _ p => fld p 2 2 ++ 0#2 ++ fld p 0 2 ++ 0#2
  | .weight _ q => fld q 1 1 ++ 0#3 ++ fld q 0 1 ++ 0#3
  | .llc _ => 0

/-- The location of a physical word in the `INJADDR` form; caches stand under structure 3 (DESIGN CHOICE, log 31). -/
def BankUnit.loc (u : BankUnit) (word : Nat) : Word :=
  let code := match u with | .scratch _ _ => 0 | .treg _ _ => 1 | .weight _ _ => 2 | _ => 3
  BitVec.ofNat 64 (u.cluster.toNat * 2 ^ 41 + (ty u.tile) * 2 ^ 37 + tx u.tile * 2 ^ 33 + code * 2 ^ 31 + word % 2 ^ 20 * 8)

/-- A unit's bank set at reset. -/
def BankUnit.fresh (u : BankUnit) : BankSet := { map := List.range u.banks, live := u.banks }

/-- A unit's bank set. -/
def State.bankSet (s : State) (u : BankUnit) : BankSet :=
  match u with
  | .scratch c t => ((s.clu c).tile t).scrBanks
  | .treg c t => ((s.clu c).tile t).tregBanks
  | .quad c q => Tab.get u.fresh (s.clu c).quadBanks q.toNat
  | .l2 c p => Tab.get u.fresh (s.clu c).l2Banks p.toNat
  | .weight c q => (Tab.get {} (s.clu c).quarters q.toNat).banks
  | .llc d => Tab.get u.fresh s.module.llc d.toNat

/-- Change a unit's bank set. -/
def State.modBanks (s : State) (u : BankUnit) (f : BankSet → BankSet) : State :=
  let b := f (s.bankSet u)
  match u with
  | .scratch c t => s.modTile c t (fun m => { m with scrBanks := b })
  | .treg c t => s.modTile c t (fun m => { m with tregBanks := b })
  | .quad c q => s.modClu c (fun k => { k with quadBanks := Tab.set k.quadBanks q.toNat b })
  | .l2 c p => s.modClu c (fun k => { k with l2Banks := Tab.set k.l2Banks p.toNat b })
  | .weight c q => s.modClu c (fun k =>
      { k with quarters := Tab.set k.quarters q.toNat { (Tab.get {} k.quarters q.toNat : Segment) with banks := b } })
  | .llc d => { s with module := { s.module with llc := Tab.set s.module.llc d.toNat b } }

/-! ## Regions and their banks -/

/-- The region in LOADED to DRAINED that holds a tile of a cluster (R388). -/
def State.holder (s : State) (c : BitVec 5) (t : BitVec 8) : Option (BitVec 9) :=
  match s.ownerOf c t with
  | some (n, _) => if holdsTiles (s.reg n).st then some n else none
  | none => none

/-- Does thread n's region hold a weight binding (R114)? -/
def Region.weightBound (r : Region) : Bool :=
  decide (3 ≤ r.st.toNat) && decide (r.st.toNat ≤ 8) && imgWslen r.image != 0 && r.placed

/-- The regions whose weight binding, which a SAVED region keeps, reaches a logical bank in a quarter (R114, R392). -/
def State.reaching (s : State) (c : BitVec 5) (q : BitVec 2) (bank : Nat) : List (BitVec 9) :=
  s.threads.filterMap (fun p =>
    let n : BitVec 9 := BitVec.ofNat 9 p.1
    let r := p.2.region
    if clusterOf n = c ∧ r.weightBound ∧ imgWslen r.image ≠ 0 ∧ bank * 2 ^ 18 < imgWsbase r.image + imgWslen r.image
        ∧ (imgTiles r.image).any (fun t => quarterOf (r.absTile t) == q) then some n else none)

/-- Is the unit's bank needed by a region (R388, R392): the footprint reaches the last live bank? -/
def State.footprintHolds (s : State) (u : BankUnit) (live : Nat) : Bool :=
  match u with
  | .scratch c t => (match s.holder c t with | some n => decide (live ≤ imgScrbanks (s.reg n).image) | none => false)
  | .treg c t => (match s.holder c t with | some n => decide (live ≤ imgTregs (s.reg n).image) | none => false)
  | .weight c q => !(s.reaching c q (live - 1)).isEmpty
  | _ => false

/-! ## Evacuation -/

/-- Is a physical bank free to take a logical bank's rows: in service, and no live logical bank's? -/
def BankSet.good (b : BankSet) (p : Nat) : Bool :=
  !(b.retired ++ b.waiting ++ b.held ++ b.map.take b.live).contains p
    && (match b.evac with | some e => e.main != p && e.dest != p && e.parts.all (fun x => x.1 != p) | none => true)

/-- The bank of logical bank k, which has vanished; when it is not free, that of the highest vanished one whose bank is (R390). -/
def BankSet.spare (b : BankSet) (k : Nat) : Nat :=
  if b.good (b.phys k) then b.phys k
  else match ((List.range b.map.length).reverse.filter (fun k => decide (b.live ≤ k))).find? (fun k => b.good (b.phys k)) with
    | some k => b.phys k
    | none => b.phys k

/-- A surviving physical bank for the logical banks of a retired LLC bank (R391), its own number when none survives. -/
def BankSet.survivor (b : BankSet) (p : Nat) : Nat :=
  let out : List Nat := p :: b.retired ++ b.waiting ++ (match b.evac with | some e => e.main :: e.dest :: e.parts.map (·.1) | none => [])
  ((List.range b.map.length).find? (fun x => !out.contains x)).getD p

/-- Begin the evacuation of a retired physical bank, the live count lowered already (R388): the bank of the logical bank
that vanished takes its place; a vanished bank itself needs no copy, but a cache's is emptied (R391). -/
def BankSet.start (b : BankSet) (u : BankUnit) (p : Nat) : BankSet :=
  match u, b.map.findIdx? (· == p) with
  | .llc _, some q => { b with evac := some { logical := q, dest := b.survivor p, main := p } }
  | _, some q =>
    if q < b.live then { b with evac := some { logical := q, dest := b.spare (b.live + b.waiting.length), main := p } }
    else if u.cache then { b with evac := some { logical := q, dest := p, main := p } }
    else { b with retired := b.retired ++ [p] }
  | _, none => { b with retired := b.retired ++ [p] }

/-- Retirements that wait begin in their order, up to the first that needs a copy (R390). -/
def BankSet.startNext (u : BankUnit) : List Nat → BankSet → BankSet
  | [], b => b
  | p :: rest, b =>
    let c := { b with waiting := rest }.start u p
    if c.evac.isSome then c else BankSet.startNext u rest c

/-- A bank retires while another is evacuated: the destination's own retirement restarts the copy toward the next bank,
reading rows below the cursor from the old destination (R390). -/
def BankSet.restart (b : BankSet) (u : BankUnit) (e : Evac) : BankSet :=
  { b with
    retired := b.retired ++ [e.dest]
    evac := some { e with
      dest := match u with | .llc _ => { b with retired := b.retired ++ [e.dest] }.survivor e.main | _ => b.spare b.live
      cursor := 0, parts := (e.dest, e.cursor) :: e.parts } }

/-- Banks of a unit that can be read and written: the live ones, and those that stay until their region is saved (R388). -/
def BankSet.reach (b : BankSet) : Nat := b.live + b.held.length

/-- The physical bank that serves a row of a logical bank (R389, R390). -/
def BankSet.rowBank (b : BankSet) (q row : Nat) : Nat :=
  match b.evac with
  | some e =>
    if e.logical ≠ q then b.phys q
    else if row < e.cursor then e.dest
    else (match e.parts.find? (fun p => decide (row < p.2)) with | some p => p.1 | none => e.main)
  | none => b.phys q

/-- The bank whose storage stands for a row of a physical bank while copies are in progress: the first source for a row the
bank serves, else one the last row's copy overwrites. -/
def BankSet.stored (b : BankSet) (p row : Nat) : Nat :=
  match b.evac with
  | some e => if b.rowBank e.logical row = p then e.main else if p = e.main then e.dest else p
  | none => p

/-- The live count falls and the retired bank is evacuated, or waits for the copy in progress. -/
def BankSet.retire (b : BankSet) (u : BankUnit) (p : Nat) : BankSet :=
  let b := { b with live := b.live - 1 }
  match b.evac with
  | some e => if e.dest = p then b.restart u e else { b with waiting := b.waiting ++ [p] }
  | none => b.start u p

/-- The live count falls and the bank stays readable until the region is saved (R388). -/
def BankSet.hold (b : BankSet) (p : Nat) : BankSet := { b with live := b.live - 1, held := b.held ++ [p] }

/-- Contents of a unit's physical bank move to another (the rows have been copied); a cache's bank is empty by then. -/
def State.moveBank (s : State) (u : BankUnit) (src dst : Nat) : State :=
  match u with
  | .scratch c t => s.modTile c t (fun m =>
      { m with
        scr := writeLE m.scr (8192 * dst) 8192 (readLE m.scr (8192 * src) 8192)
        scrPoison := (m.scrPoison.filterMap (fun w => if w / 1024 = src then some (1024 * dst + w % 1024) else none)).foldl insertNat
          (m.scrPoison.filter (fun w => w / 1024 != dst)) })
  | .treg c t => s.modTile c t (fun m =>
      { m with
        treg := Tab.set m.treg dst (Tab.get 0 m.treg src)
        tregPoison := (m.tregPoison.filterMap (fun w => if w / 512 = src then some (512 * dst + w % 512) else none)).foldl insertNat
          (m.tregPoison.filter (fun w => w / 512 != dst)) })
  | .weight c q => s.modClu c (fun k =>
      let g : Segment := Tab.get {} k.quarters q.toNat
      let g' : Segment := { g with
        bytes := writeLE g.bytes (2 ^ 18 * dst) (2 ^ 18) (readLE g.bytes (2 ^ 18 * src) (2 ^ 18))
        poison := (g.poison.filterMap (fun w => if w / 32768 = src then some (32768 * dst + w % 32768) else none)).foldl insertNat
          (g.poison.filter (fun w => w / 32768 != dst)) }
      { k with quarters := Tab.set k.quarters q.toNat g' })
  | _ => s

/-- The lines a cache's unit holds from a line on; the LLC's stand at their homes. -/
def State.linesFrom (s : State) (u : BankUnit) (line : Nat) : List Nat :=
  match u with
  | .quad c q => ((Tab.get [] (s.clu c).quad q.toNat).map (·.1)).filter (fun l => decide (line ≤ l))
  | .l2 c p => ((s.clu c).l2.map (·.1)).filter (fun l => decide (line ≤ l) && slicePage l == p.toNat)
  | _ => []

/-- A line leaves a cache: a quad cache invalidates it, a slice writes its dirty bytes to the home first (R391). -/
def State.emptyLine (s : State) (u : BankUnit) (line : Nat) : State :=
  match u with
  | .quad c q => s.modQuad c q (fun t => t.filter (fun p => p.1 != line))
  | .l2 c _ => (s.writeBack c line).dropClean c line
  | _ => s

/-- After the last row the map flips, and the next waiting retirement begins (R389, R390). -/
def State.flip (s : State) (u : BankUnit) (e : Evac) : State :=
  let gone : List Nat := e.main :: e.parts.map (·.1)
  (s.moveBank u e.main e.dest).modBanks u (fun b =>
    BankSet.startNext u b.waiting { b with
      map := match u with | .llc _ => b.map.map (fun x => if gone.contains x then e.dest else x) | _ => b.map.set e.logical e.dest
      evac := none
      retired := b.retired ++ gone.filter (fun p => !b.retired.contains p) })

/-- Banks kept readable begin their evacuation, one after the other (R388). -/
def BankSet.release (b : BankSet) (u : BankUnit) : BankSet :=
  let b := { b with held := [], waiting := b.waiting ++ b.held }
  if b.evac.isSome then b else BankSet.startNext u b.waiting b

/-- The regions a retirement stops. -/
def State.stopped (s : State) (u : BankUnit) (live : Nat) : List (BitVec 9) :=
  match u with
  | .scratch c t | .treg c t => (s.holder c t).toList
  | .weight c q => s.reaching c q (live - 1)
  | _ => []

/-! ## Errors (R373, R374) -/

/-- Poison a physical word of a unit of tile storage or a weight store. -/
def State.poisonUnit (s : State) (u : BankUnit) (word : Nat) : State :=
  match u with
  | .scratch c t => s.modTile c t (fun m => { m with scrPoison := insertNat m.scrPoison word })
  | .treg c t => s.modTile c t (fun m => { m with tregPoison := insertNat m.tregPoison word })
  | .weight c q => s.modClu c (fun k =>
      let g : Segment := Tab.get {} k.quarters q.toNat
      { k with quarters := Tab.set k.quarters q.toNat { g with poison := insertNat g.poison word } })
  | _ => s

/-- Poison word k of a line a cache's unit holds; the LLC's line stands at its home, in the bank that serves it (R17). -/
def State.poisonLine (s : State) (u : BankUnit) (bank line k : Nat) : State :=
  let mark (l : Line) : Line := { l with poison := l.poison ||| 1#8 <<< k }
  let put (t : Tab Line) : Tab Line := if Tab.has t line then Tab.set t line (mark (Tab.get {} t line)) else t
  match u with
  | .quad c q => s.modQuad c q put
  | .l2 c p => if slicePage line = p.toNat then s.modClu c (fun x => { x with l2 := put x.l2 }) else s
  | .llc d => if s.module.llcPlace (64 * line) = (d, some bank) then { s with poison := insertNat s.poison (8 * line + k) } else s
  | _ => s

/-- A bank that is not needed any more goes: the map changes as R388 and R392 say for one no region needs. -/
def State.retireFree (s : State) (u : BankUnit) (p : Nat) : State :=
  s.modBanks u (fun b => (if b.held.isEmpty then b else b.release u).retire u p)

/-- Is physical bank p in service and not on its way out? -/
def BankSet.retirable (b : BankSet) (p : Nat) : Bool :=
  !(b.live == 0 || (b.retired ++ b.waiting ++ b.held).contains p || b.evac.map (·.main) == some p
    || (match b.evac with | some e => e.parts.any (fun x => x.1 == p) | none => false))

/-- The retirement of physical bank p is logged (R374). -/
def State.logRetired (s : State) (u : BankUnit) (p : Nat) : State := s.logErr 2 (BitVec.ofNat 8 u.kind) (u.loc (u.words * p))

/-- A corrected error at a physical word of bank p: counted and logged; the threshold retires the bank (R374), as `ret` does. -/
def State.correctedBy (ret : State → BankUnit → Nat → State) (s : State) (u : BankUnit) (p word : Nat) : State :=
  let s := s.logErr 0 (BitVec.ofNat 8 u.kind) (u.loc word)
  let k := Tab.get 0 (s.bankSet u).errs p + 1
  let s := s.modBanks u (fun b => { b with errs := Tab.set b.errs p k })
  if s.module.thrNow ≠ 0 ∧ s.module.thrNow ≤ k then ret s u p else s

/-- An uncorrectable error at a physical word of bank p: the word, which `kept` stands for, is poisoned and the bank retires at
once (R374), as `ret` does. -/
def State.uncorrectableBy (ret : State → BankUnit → Nat → State) (s : State) (u : BankUnit) (p word kept : Nat) : State :=
  ret ((s.logErr 1 (BitVec.ofNat 8 u.kind) (u.loc word)).poisonUnit u kept) u p

/-! ## Injection (R398) -/

/-- The structure code of a unit an injection of TARGET 1 may name. -/
def BankUnit.injCode : BankUnit → Option Nat
  | .scratch _ _ => some 0 | .treg _ _ => some 1 | .weight _ _ => some 2 | _ => none

/-- Does an injection address name a unit? -/
def BankUnit.named (u : BankUnit) (a : Word) : Bool :=
  let t : BitVec 8 := fld a 37 4 ++ fld a 33 4
  u.injCode == some (fld a 31 2).toNat && fld a 41 5 == u.cluster
    && (match u with | .weight _ q => quarterOf t == q | _ => u.tile == t)

/-- Bits of a physical word number of a unit's kind (Table 13.9). -/
def BankUnit.injWord (u : BankUnit) (a : Word) : Nat := (fld a 3 20).toNat % (u.words * u.banks)

/-- A read of words [lo, hi) of a physical bank meets an armed TARGET 1 injection (R398); `main` is the bank whose storage
stands for it. -/
def State.injectBankBy (ret : State → BankUnit → Nat → State) (s : State) (u : BankUnit) (bank main lo hi : Nat) : State :=
  let m := s.module
  let w := u.injWord m.injaddr
  if m.armed 1 && u.named m.injaddr && w / u.words == bank && decide (lo ≤ w % u.words) && decide (w % u.words < hi) then
    let s := { s with module := m.fired }
    let kept := u.words * main + w % u.words
    match (fld m.injctl 58 2).toNat with
    | 0 => s.correctedBy ret u bank w
    | 1 => s.uncorrectableBy ret u bank w kept
    | _ => s.poisonUnit u kept
  else s

/-- A read of words [lo, hi) of logical bank q: the rows' own banks are met in turn. -/
def State.injectReadBy (ret : State → BankUnit → Nat → State) (s : State) (u : BankUnit) (q lo hi : Nat) : State :=
  let b := s.bankSet u
  if s.module.armed 1 && u.named s.module.injaddr then
    let w := u.injWord s.module.injaddr % u.words
    s.injectBankBy ret u (b.rowBank q (w / 4)) (b.phys q) lo hi
  else s

/-- Retirement of a bank of a tile whose region is being read out of it, so that no region holds it any more. -/
def State.retireLeft (s : State) (u : BankUnit) (p : Nat) : State :=
  if (s.bankSet u).retirable p then (s.logRetired u p).retireFree u p else s

/-! ## Saving and resuming a region (R356, R359, R365, R395) -/

/-- The units of a region's tiles and quarters. -/
def State.unitsOf (s : State) (n : BitVec 9) : List BankUnit :=
  let r := s.reg n
  let c := clusterOf n
  (imgTiles r.image).flatMap (fun t => [.scratch c (r.absTile t), .treg c (r.absTile t)])
    ++ ((imgTiles r.image).map (fun t => quarterOf (r.absTile t))).eraseDups.map (fun q => .weight c q)

/-- Do regions still run on banks a unit keeps readable (R388): those that reach the first of them? -/
def State.stillHeld (s : State) (u : BankUnit) : Bool := !(s.stopped u ((s.bankSet u).live + 1)).isEmpty

/-- Banks kept readable begin their evacuation, once every region they were kept for has stopped (R388, R392). -/
def State.letGo (s : State) (u : BankUnit) : State :=
  if (s.bankSet u).held.isEmpty || s.stillHeld u then s else s.modBanks u (·.release u)

/-- Banks kept readable for a region begin their evacuation (R388). -/
def State.releaseHeld (s : State) (n : BitVec 9) : State := (s.unitsOf n).foldl State.letGo s

/-- The registers and scratchpad banks of a region's footprint are read out, reads an injection may meet (R398). -/
def State.readTiles (s : State) (n : BitVec 9) : State :=
  let r := s.reg n
  let c := clusterOf n
  (imgTiles r.image).foldl (fun s t =>
    let all (u : BankUnit) (k : Nat) (s : State) : State := (List.range k).foldl (fun s q => s.injectReadBy State.retireLeft u q 0 u.words) s
    all (.treg c (r.absTile t)) (imgTregs r.image) (all (.scratch c (r.absTile t)) (imgScrbanks r.image) s)) s

/-- The region is SAVED: nothing is in progress, its storage is kept, its replay windows are empty, and the section is
written at `CTXBASE` when the saver writes one. -/
def State.save (s : State) (n : BitVec 9) (how : SavedHow) (write : Bool) : State :=
  let s := s.readTiles n
  let s := s.modReg n (fun r =>
    let k := r.scan (s.now n)
    { k with
      st := 8, prev := r.st, how := how, mark := none, sweep := none
      marker := match how, r.mark with | .marker, some m => m.num | _, _ => 0
      ports := k.ports.map (fun p => { p with buf := [], freed := p.next != 0 })
      kept := (imgTiles r.image).map (fun t => (t.toNat, (s.storeOf n t).normal r.image)) })
  ((if write then s.writeSection n else s.modReg n (fun r => { r with inArea := false })).dropCommandScore n).releaseHeld n

/-- The chains of a tile go on `PHASE` cycles from now (R359). -/
def RTile.rephase (r : RTile) (img : Nat) (t : TileNo) (now : Nat) : RTile :=
  { r with chain := r.chain.map (fun c =>
      (c.1, { c.2 with ready := if opCode (opWord img t c.1) = 0x53 then now + chPhase (chainRec img t c.1) else c.2.ready })) }

/-- A SAVED region goes on where it stands (R359): its storage is put into its tiles and it returns to PREV.  The quad caches of
its pages, which may be new ones, keep nothing from before (R283). -/
def State.resume (s : State) (n : BitVec 9) : State :=
  let r := s.reg n
  let s := r.kept.foldl (fun s p =>
    s.modTile (clusterOf n) (r.absTile (BitVec.ofNat 8 p.1)) (fun m => m.install p.2 r.image)) s
  (s.modRegionQuads n (fun _ => [])).modReg n (fun r =>
    { r with
      st := r.prev, kept := [], retry := false, mark := none, start := 0, active := (s.now n)
      tiles := r.tiles.map (fun t => (t.1, t.2.rephase r.image (BitVec.ofNat 8 t.1) (s.now n))) })

/-! ## Placement (R110, R396) -/

/-- Do the tiles of a W × H rectangle at an origin meet an image's footprint? -/
def State.meets (s : State) (c : BitVec 5) (img w h o : Nat) : Bool :=
  (List.range (16 * w * h)).all (fun k =>
    let m := (s.clu c).tile (tileAt (4 * (o % 4) + k % (4 * w)) (4 * (o / 4) + k / (4 * w)))
    decide (imgScrbanks img ≤ m.scrBanks.live) && decide (imgTregs img ≤ m.tregBanks.live))

/-- Pages of a cluster that regions other than thread n's hold. -/
def State.othersHold (s : State) (n : BitVec 9) : List Nat :=
  s.threads.flatMap (fun p =>
    if clusterOf (BitVec.ofNat 9 p.1) = clusterOf n ∧ p.1 ≠ n.toNat then p.2.region.pages else [])

/-- Would every tile of a region read the weight store it reads now, with the region at another origin?  DEDUCED, log 33: a move
changes no result (R110), and weights stay in their quarter (R392). -/
def Region.keepsQuarters (r : Region) (o : Nat) : Bool :=
  imgWslen r.image == 0
    || (imgTiles r.image).all (fun t => quarterOf (r.absTile t) == quarterOf (({ r with origin := BitVec.ofNat 4 o } : Region).absTile t))

/-- Can thread n's region go on at an origin: its tiles there meet the footprint (R110) and read the same weights? -/
def State.suits (s : State) (n : BitVec 9) (o : Nat) : Bool :=
  let r := s.reg n
  s.meets (clusterOf n) r.image (claimW r.claim) (claimH r.claim) o && r.keepsQuarters o

/-- Where thread n's region could stand with its footprint met, on pages that pass a test. -/
def State.fitFor (s : State) (n : BitVec 9) (ok : Nat → Bool) : Option Nat :=
  let r := s.reg n
  let w := claimW r.claim; let h := claimH r.claim
  (List.range 16).find? (fun o => (match rect w h o with | some ps => ps.all ok | none => false)
    && s.suits n o)

/-- May Nitinol move the region of a thread at once: LOADED, DONE or DRAINED (R110)? -/
def Region.movable (r : Region) : Bool := (r.st == 3 || r.st == 5 || r.st == 7) && r.placed && r.mark.isNone

/-- Move a region that is not running to an origin: storage moves with its tiles (R110), read as a save reads it (R398), and the quad
caches of its new pages keep nothing from before (R283). -/
def State.moveTo (s : State) (n : BitVec 9) (o : BitVec 4) : State :=
  let s := s.readTiles n
  let r := s.reg n
  let kept := (imgTiles r.image).map (fun t => (t.toNat, (s.storeOf n t).normal r.image))
  let s := s.modReg n (fun r => { r with origin := o })
  (kept.foldl (fun s p => s.modTile (clusterOf n) ((s.reg n).absTile (BitVec.ofNat 8 p.1)) (fun m => m.install p.2 r.image)) s).modRegionQuads n
    (fun _ => [])

/-- May Nitinol move a region at all (R110)? -/
def Region.canMove (r : Region) : Bool := r.movable || (r.st == 4 && r.placed && r.mark.isNone && !r.anyParked)

/-! ## Plans of moves (R110, R111, R396) -/

/-- A region that may be moved, as a plan sees it: its rectangle, the origins whose tiles meet its footprint, where it stands. -/
structure Mover where
  n : BitVec 9
  w : Nat
  h : Nat
  fits : List Nat
  o : Nat
  deriving DecidableEq, Repr

/-- A move: which region, and to which origin. -/
abbrev Shift := BitVec 9 × Nat

/-- The pages a mover stands on. -/
def Mover.pages (m : Mover) : List Nat := (rect m.w m.h m.o).getD []

/-- A number for a mover that is the same for all that are alike and stand at the same place. -/
def Mover.code (m : Mover) : Nat := ((m.fits.foldl (fun a o => a + 2 ^ o) 0 * 8 + m.w) * 8 + m.h) * 16 + m.o

/-- A layout but for which of like regions stands where. -/
def layoutKey (l : List Mover) : List Nat := l.foldl (fun k m => insertNat k m.code) []

/-- The moves a layout allows, with what they lead to: onto free pages or the region's own. -/
def layoutMoves (fixed : List Nat) (l : List Mover) : List (Shift × List Mover) :=
  l.zipIdx.flatMap (fun x =>
    let others := (l.eraseIdx x.2).flatMap Mover.pages ++ fixed
    (x.1.fits.filter (fun o => o != x.1.o && !((rect x.1.w x.1.h o).getD []).any others.contains)).map (fun o =>
      ((x.1.n, o), l.set x.2 { x.1 with o := o })))

/-- Search from a frontier of layouts, each with the first move that led to it, for one that leaves a goal's pages free: the
moves still made, and the first.  The fuel bounds the moves. -/
def planFrom (fixed : List Nat) (goals : List (List Nat)) : Nat → List (List Mover × Option Shift) → List (List Nat) → Option (Nat × Option Shift)
  | 0, _, _ => none
  | k + 1, front, seen =>
    match front.find? (fun x => goals.any (fun g => !g.any (x.1.flatMap Mover.pages ++ fixed).contains)) with
    | some x => some (0, x.2)
    | none =>
      let new := front.flatMap (fun x => (layoutMoves fixed x.1).map (fun y => (y.2, some (x.2.getD y.1))))
      let (next, seen) := new.foldl (fun (a : List (List Mover × Option Shift) × List (List Nat)) y =>
        if a.2.contains (layoutKey y.1) then a else (a.1 ++ [y], layoutKey y.1 :: a.2)) ([], seen)
      if next.isEmpty then none else (planFrom fixed goals k next seen).map (fun p => (p.1 + 1, p.2))

/-- Moves a plan may take: more than any layout of sixteen pages needs. -/
def planFuel : Nat := 4096

/-- The regions of a cluster that may be moved, but for one. -/
def State.movers (s : State) (c : BitVec 5) (but : Option (BitVec 9)) : List Mover :=
  s.threads.filterMap (fun p =>
    let n : BitVec 9 := BitVec.ofNat 9 p.1
    let r := p.2.region
    if clusterOf n = c ∧ but ≠ some n ∧ r.canMove then
      let w := claimW r.claim; let h := claimH r.claim
      some { n := n, w := w, h := h, o := r.origin.toNat
             fits := (List.range 16).filter (fun o => (rect w h o).isSome && s.suits n o) }
    else none)

/-- Pages of a cluster held by regions that are not moved, but for one's. -/
def State.fixedPages (s : State) (c : BitVec 5) (but : Option (BitVec 9)) : List Nat :=
  s.threads.flatMap (fun p =>
    let n : BitVec 9 := BitVec.ofNat 9 p.1
    if clusterOf n = c ∧ but ≠ some n ∧ !p.2.region.canMove then p.2.region.pages else [])

/-- What pages are wanted for: a region that keeps its own meanwhile, and the rectangles that would do. -/
structure Errand where
  own : Option (BitVec 9)
  goals : List (List Nat)

/-- The shortest plan that leaves an errand a rectangle (R111): the number of its moves and the first, after a move made
first if one is given. -/
def State.plan (s : State) (c : BitVec 5) (e : Errand) (first : Option Shift) : Option (Nat × Option Shift) :=
  let ms := (s.movers c e.own).map (fun m => match first with
    | some (n, o) => if m.n = n then { m with o := o } else m
    | none => m)
  planFrom (s.fixedPages c e.own) e.goals planFuel [(ms, none)] [layoutKey ms]

/-- The errand of a SAVED region that must be placed again: a rectangle that meets its footprint (R396). -/
def State.placeErrand (s : State) (n : BitVec 9) : Errand :=
  let r := s.reg n
  let w := claimW r.claim; let h := claimH r.claim
  { own := some n, goals := (List.range 16).filterMap (fun o => if s.suits n o then rect w h o else none) }

/-- Does a region of a cluster move already? -/
def State.moving (s : State) (c : BitVec 5) : Bool :=
  s.threads.any (fun p => clusterOf (BitVec.ofNat 9 p.1) == c && (match p.2.region.mark with | some m => (match m.why with | .move _ => true | _ => false) | none => false))

/-- Does a WLOAD run in a quarter the image would bind (R309)? -/
def State.wloadRuns (s : State) (n : BitVec 9) (img : Nat) : Bool :=
  imgWslen img != 0 && (imgTiles img).any (fun t =>
    let q := quarterOf ((s.reg n).absTile t)
    s.threads.any (fun p => p.2.chains.any (fun c => !c.2.halted && c.2.jobs.any (fun j => j.loads (clusterOf n) q))
      || p.2.region.cmds.any (fun j => j.loads (clusterOf n) q)))

/-- The relaunch of a SAVED region (R396, R397): where it stands when its own tiles meet its footprint, else on free and own pages at
the lowest origin; else it waits while moves can clear a rectangle for it, or one is under way (DESIGN CHOICE, log 32), or its section's
write still waits for the host, or a WLOAD still writes a quarter it would bind (R272); an Invar region waits while there is a rectangle
at all. -/
def State.relaunch (s : State) (n : BitVec 9) : State :=
  let wait (s : State) : State := s.modReg n (fun r => { r with retry := true })
  let place : Option Nat := if s.suits n (s.reg n).origin.toNat then some (s.reg n).origin.toNat
    else s.fitFor n (fun p => !(s.othersHold n).contains p)
  if (s.reg n).areaOwed then wait s
  else
    match place with
    | some o =>
      let s' := s.modReg n (fun r => { r with origin := BitVec.ofNat 4 o })
      if s'.wloadRuns n (s.reg n).image then wait s else s'.resume n
    | none =>
      if s.moving (clusterOf n) || (s.plan (clusterOf n) (s.placeErrand n) none).isSome then wait s
      else if imgInvar (s.reg n).image ∧ (s.fitFor n (fun _ => true)).isSome then wait s
      else s.endRegion n cOVERCAP

/-- What a marker in passage is for once the region's banks or weights have gone as well: a region that would only have moved
is placed again, and one that loses its weights ends, whatever the marker was for (R388, R392, R395). -/
def MarkFor.worse (old new : MarkFor) : MarkFor :=
  match old, new with
  | _, .weights => .weights
  | .move _, .overcap => .overcap
  | old, _ => old

/-- The over-capacity fault (R395), or the loss of a weight window (R392): a running region is stopped by a marker in passage,
numbered 0; one that does not run is saved at once and placed again, or ends. -/
def State.overcap (s : State) (n : BitVec 9) (why : MarkFor) : State :=
  let r := s.reg n
  match r.mark with
  | some m => s.modReg n (fun r => { r with mark := some { m with why := m.why.worse why } })
  | none =>
    if r.st = 4 ∨ r.st = 6 then s.modReg n (fun r => { r with mark := some { num := 0, start := (s.now n), why := why } })
    else if why = .weights then (s.endRegion n cOVERCAP).releaseHeld n
    else (s.save n .marker true).relaunch n

/-- INVAR_RELAUNCH_RETRY (R396, R397): thread `n`'s region that waits for a rectangle seeks it again. -/
def execInvarRelaunchRetry (s : State) : Out :=
  let r := s.reg s.ev.n
  if r.st = 8 ∧ r.retry then .next (s.relaunch s.ev.n) else .next s

/-! ## Retirement (R374, R388, R392) -/

/-- Physical bank p of a unit is retired: logged, and the map changes as R388 and R392 judge it.  A bank already retired,
or on its way out, is not retired again. -/
def State.retire (s : State) (u : BankUnit) (p : Nat) : State :=
  let b := s.bankSet u
  if !b.retirable p then s
  else
    let s := s.logRetired u p
    if s.footprintHolds u b.live then
      let ns := s.stopped u b.live
      ns.foldl (fun s n => s.overcap n (if u.kind = 4 then .weights else .overcap)) (s.modBanks u (·.hold p))
    else s.retireFree u p

/-- A corrected error counts against its bank (R374). -/
def State.corrected (s : State) (u : BankUnit) (p word : Nat) : State := s.correctedBy State.retire u p word

/-- An uncorrectable error retires its bank (R374). -/
def State.uncorrectable (s : State) (u : BankUnit) (p word kept : Nat) : State := s.uncorrectableBy State.retire u p word kept

/-- A read of a physical bank meets an armed injection (R398). -/
def State.injectBank (s : State) (u : BankUnit) (bank main lo hi : Nat) : State := s.injectBankBy State.retire u bank main lo hi

/-- A read of a logical bank meets an armed injection (R398). -/
def State.injectRead (s : State) (u : BankUnit) (q lo hi : Nat) : State := s.injectReadBy State.retire u q lo hi

/-- EVACUATION_ROW_COPY (R389, R391): unit `u` copies its next row, a read an injection may meet (R398); a refresh window pauses a
weight store.  A cache loses its next line from the cursor on (DESIGN CHOICE, log 31).  After the last the map flips.  Banks kept
readable for a region that has gone begin their evacuation (R388). -/
def execEvacuationRowCopy (s : State) : Out :=
  let u := s.ev.u
  let b := s.bankSet u
  let at_ (c : Nat) (e : Evac) (s : State) : State := s.modBanks u (fun b => { b with evac := some { e with cursor := c } })
  if u.kind = 4 ∧ b.evac.isSome ∧ (s.clu u.cluster).inWin then .next s
  else match b.evac with
  | none =>
    .next (s.letGo u)
  | some e =>
    if u.cache then
      .next (match s.linesFrom u e.cursor with
        | l :: _ => at_ (l + 1) e (s.emptyLine u l)
        | [] => s.flip u e)
    else
      let s := s.injectBank u (b.rowBank e.logical e.cursor) e.main (4 * e.cursor) (4 * e.cursor + 4)
      if e.cursor + 1 < u.rows then .next (at_ (e.cursor + 1) e s)
      else .next (s.flip u { e with cursor := e.cursor + 1 })

/-- A token on a switch link becomes POISON (R372); an sd record becomes one POISON, with the tokens of it that are on their way to the
same place or have come there already. -/
def Region.spoilFlight (r : Region) (k : Nat) : Region :=
  match r.flight[k]? with
  | none => r
  | some f =>
    let same (g : Flight) : Bool := g.dest == f.dest && g.idx == f.idx && g.tok.kind == kDATA
    if !(f.tok.isRecord || f.tok.kind == kORDER || f.tok.kind == kCMD) then r
    else if f.tok.kind ≠ kDATA then { r with flight := r.flight.set k { f with tok := poisonTok } }
    else
      match r.flight.dropWhile (fun g => !same g) with
      | h :: rest =>
        { r with
          flight := r.flight.takeWhile (fun g => !same g) ++ { h with tok := poisonTok } :: rest.filter (fun g => !same g)
          tiles := match f.dest with
            | .queue t q => r.tiles.map (fun x => if x.1 = t.toNat then (x.1, { x.2 with queues := x.2.queues.map (fun y =>
                if y.1 = q.toNat ∧ y.2.buf.map (·.idx) = some f.idx then (y.1, { y.2 with buf := none }) else y) }) else x)
            | .port _ => r.tiles }
      | [] => r

/-- An uncorrectable error in storage that has no bank map (R373, R374), poisoned: what Event.f says: 1 a word of device memory at
address `x`, 2 a token store's record at entry `k` of queue `w` of tile `t` of thread `n`'s region, 3 a bridge's buffer `w`, 4 cell `k` of
a tile's acc, 5 and 6 word `w` of line `k` of a core's data and instruction caches (`t` the core), 7 word `k` of a tile's operation words
and constants, two slots in a word, 8 word `k` of its node state, eight words in a slot, 9 the token of flight `k`.  A cache's tag has no
consumer the manual names (UNVERIFIED, log 31). -/
def State.poisonOther (s : State) : State :=
  let e := s.ev
  let mark (t : Tab Line) : Tab Line :=
    if Tab.has t e.k then (let l : Line := Tab.get {} t e.k; Tab.set t e.k { l with poison := l.poison ||| 1#8 <<< (e.w.toNat % 8) }) else t
  match e.f.toNat with
  | 1 => { s with poison := insertNat s.poison (e.x.toNat % 2 ^ 42 / 8) }
  | 2 => s.modRt e.n e.t (fun r => { r with queues := r.queues.map (fun q => if q.1 = e.w.toNat then (q.1, q.2.spoil e.k) else q) })
  | 3 => { s with bridges := s.bridges.map (fun b => if b.1 = e.w.toNat then (b.1, { b.2 with buffer := b.2.buffer.spoil e.k }) else b) }
  | 4 => s.modTile (clusterOf e.n) ((s.reg e.n).absTile e.t) (fun m => { m with accPoison := insertNat m.accPoison (e.k % 1024) })
  | 5 => s.modL1 (fld e.t 0 7) mark
  | 6 => s.modInst (fld e.t 0 7) mark
  | 7 => s.modRt e.n e.t (fun r => { r with illWords := insertNat r.illWords (e.k % 8) })
  | 8 => s.modRt e.n e.t (fun r => { r with illState := insertNat r.illState (e.k % 64) })
  | 9 => s.modReg e.n (fun r => r.spoilFlight e.k)
  | _ => s

/-- An error the scrub or a read finds in such storage is logged, and retires nothing (R374): device memory under STRUCT 6 by its
address; the others have no code in Table 14.4, and STRUCT and LOC are free values. -/
def State.otherError (s : State) (kind : BitVec 8) : State :=
  if s.ev.f = 1 then s.logErr kind 6 (BitVec.ofNat 64 (s.ev.x.toNat % 2 ^ 42 / 8 * 8))
  else { s with tick := s.tick + 1 }.logErr kind (Config.logStruct s.tick) (Config.logLoc s.tick)

/-- SCRUB_ROW (R373): unit `u` reads row `k` of physical bank `t`; `v` says what the read found: 1 a correctable error, 2 an
uncorrectable one, in word `w` of the row, else nothing.  In a cache the row's line is line `x`.  With `f` not 0 it is storage
without a bank map. -/
def execScrubRow (s : State) : Out :=
  let u := s.ev.u
  let p := s.ev.t.toNat
  let word := u.words * p + 4 * s.ev.k + s.ev.w.toNat % 4
  if s.ev.f ≠ 0 then
    .next (if s.ev.v = 1 then s.otherError 0 else if s.ev.v = 2 then s.poisonOther.otherError 1 else s)
  else if u.banks ≤ p ∨ u.words ≤ 4 * s.ev.k ∨ (s.bankSet u).retired.contains p then .next s
  else
    let kept (s : State) : Nat := (s.bankSet u).stored p s.ev.k
    let s := s.injectBank u p (kept s) (4 * s.ev.k) (4 * s.ev.k + 4)
    if s.ev.v = 1 then .next (s.corrected u p word)
    else if s.ev.v = 2 then
      .next (if u.cache then (s.poisonLine u p s.ev.x.toNat (s.ev.w.toNat % 8)).uncorrectable u p word word
        else s.uncorrectable u p word (u.words * kept s + 4 * s.ev.k + s.ev.w.toNat % 4))
    else .next s

/-- ERROR_WINDOW_BOUNDARY (R374): when the window's microseconds have passed, every counter returns to zero and the written
values take effect. -/
def execErrorWindowBoundary (s : State) : Out :=
  let m := s.module
  let us := s.time / 1000
  if us / m.winNow * m.winNow ≤ m.winStart then .next s
  else
    let zero (b : BankSet) : BankSet := { b with errs := [] }
    let zt (t : Tab BankSet) : Tab BankSet := t.map (fun p => (p.1, zero p.2))
    .next { s with
      module := { m with
        winStart := us / m.winNow * m.winNow, winNow := Nat.max 1 (fld m.errwindow 0 32).toNat
        thrNow := (fld m.errthresh 0 8).toNat, laneErrs := [], llc := zt m.llc }
      clusters := s.clusters.map (fun p => (p.1, { p.2 with
        l2Banks := zt p.2.l2Banks, quadBanks := zt p.2.quadBanks
        quarters := p.2.quarters.map (fun q => (q.1, { q.2 with banks := zero q.2.banks }))
        tiles := p.2.tiles.map (fun t => (t.1, { t.2 with scrBanks := zero t.2.scrBanks, tregBanks := zero t.2.tregBanks })) })) }

/-! ## Reads of tile storage -/

/-- Read n bytes of logical scratchpad bank q of a tile of a cluster, and whether a word touched is poisoned. -/
def State.scrRead (s : State) (c : BitVec 5) (t : BitVec 8) (addr n : Nat) : State × Nat × Bool :=
  let q := addr / 8192
  let off := addr % 8192
  let s := s.injectRead (.scratch c t) q (off / 8) ((off + n - 1) / 8 + 1)
  let m := (s.clu c).tile t
  let a := 8192 * m.scrBanks.phys q + off
  (s, readLE m.scr a n, poisonIn m.scrPoison a n)

/-- Write n bytes of logical scratchpad, all in one bank. -/
def State.scrWrite (s : State) (c : BitVec 5) (t : BitVec 8) (addr n v : Nat) (bad : Bool) : State :=
  s.modTile c t (fun m =>
    let a := 8192 * m.scrBanks.phys (addr / 8192) + addr % 8192
    { m with scr := writeLE m.scr a n v, scrPoison := poisonWrite m.scrPoison a n bad })

/-- Read n bytes of a weight-store segment. -/
def State.wsRead (s : State) (c : BitVec 5) (q : BitVec 2) (addr n : Nat) : State × Nat × Bool :=
  let k := addr / 2 ^ 18
  let off := addr % 2 ^ 18
  let s := s.injectRead (.weight c q) k (off / 8) ((off + n - 1) / 8 + 1)
  let g : Segment := Tab.get {} (s.clu c).quarters q.toNat
  let a := 2 ^ 18 * g.banks.phys k + off
  (s, readLE g.bytes a n, poisonIn g.poison a n)

/-- Write n bytes of a weight-store segment. -/
def State.wsWrite (s : State) (c : BitVec 5) (q : BitVec 2) (addr n v : Nat) : State :=
  s.modClu c (fun k =>
    let g : Segment := Tab.get {} k.quarters q.toNat
    let a := 2 ^ 18 * g.banks.phys (addr / 2 ^ 18) + addr % 2 ^ 18
    let g' : Segment := { g with bytes := writeLE g.bytes a n v, poison := poisonWrite g.poison a n false }
    { k with quarters := Tab.set k.quarters q.toNat g' })

/-- A read of logical tile register q meets an injection. -/
def State.tregRead (s : State) (c : BitVec 5) (t : BitVec 8) (q : Nat) : State := s.injectRead (.treg c t) q 0 512

end Sys2Proof.Machine
end

