-- ==== Sys2Proof/Machine/Branch.lean ====
section
/-! DEFINITION. Branches, jumps and calls (R73 to R75), and a word that is unassigned (R26). -/

namespace Sys2Proof.Machine

/-- Set the running thread's program counter. -/
def State.goto (s : State) (p : Word) : State := s.modMe (fun t => { t with pc := p })

/-- A branch target, PC + 4·sext(off, 64), from the word's own address (R73, R74). -/
def State.rel (s : State) {n : Nat} (o : BitVec n) : Word := s.pc + sext o 64 <<< 2

/-- BR (R73); conditions 6 and 7 raise ILLEGAL. -/
def execBr (a b : BitVec 5) (c : BitVec 3) (o : BitVec 13) (s : State) : Out :=
  match brHolds c (s.rd a) (s.rd b) with
  | none => .next (s.illegal (.br a b c o))
  | some true => .next (s.goto (s.rel o))
  | some false => .next s.advance

/-- JMP (R74). -/
def execJmp (o : BitVec 26) (s : State) : Out := .next (s.goto (s.rel o))

/-- CALL (R74): `g1` takes the return address. -/
def execCall (o : BitVec 26) (s : State) : Out :=
  .next (s.modMe (fun t => { t.wr 1 (t.pc + 4) with pc := s.rel o }))

/-- JR (R75): the target is read before d is written; a misaligned target changes neither. -/
def execJr (d a : BitVec 5) (s : State) : Out :=
  let target := s.rd a
  if fld target 0 2 ≠ 0 then .next (s.trap cALIGN target)
  else .next (s.modMe (fun t => { t.wr d (t.pc + 4) with pc := target }))

/-- ILLEGAL_WORD (R26, R27, R28, R32): ILLEGAL with the word in TRAPINFO. -/
def execIllegalWord (w : BitVec 32) (s : State) : Out := .next (s.trap cILLEGAL (zext w 64))

end Sys2Proof.Machine
end

