-- ==== Sys2Proof/Machine/Flow.lean ====
section
/-! DEFINITION. The flow operations of Table 5.2: STEER, MERGE, GATE, CHAIN, REPL, SINK, SOURCE, JOIN, WIN, GAPC, HASHK
and DROPM, and the weighted reducers WSUM and WCNT. -/

namespace Sys2Proof.Machine

/-! ## Forwarding one record -/

/-- The condition at slot C stays until the last token of a multi-token sd record has gone (R131, R147). -/
def condSlots (ty : BitVec 4) (k : Nat) (a : Token) : List Nat := if ty = 13 ∧ !a.last then [k] else [k, 2]

/-- The record forwarded: its own VALID, FIRST, LAST and NARROW (R131). -/
def forwarded (d : Nd) (hs : List Taken) (a : Token) : Token × Fl :=
  let (x, f) := sideOf d false hs
  (a.withSide x.wexp x.mcount a.narrow a.first a.last a.valid, f)

/-- STEER (R154). -/
def execSteer (t : BitVec 4) (s : State) : Out :=
  let d := s.nd
  .next (s.node
    { slots := [0, 2], outs := [0, 1]
      fire := fun s hs =>
        match hs with
        | [a, c] =>
          let (tok, f) := forwarded d hs a.2.1
          let o := if c.2.1.cond then 0 else 1
          (((s.popAll d (condSlots t 0 a.2.1)).addFl d.n f).emit d o tok a.2.2).skip d (1 - o) a.2.2
        | _ => s
      gap := fun s m n c => s.emitGap d [0, 1] m n c
      sick := fun hs =>
        match hs with
        | [a, c] => if c.2.1.kind = kPOISON then [(0, a.2.2), (1, a.2.2)] else [(if c.2.1.cond then 0 else 1, a.2.2)]
        | _ => [] })

/-- GATE (R156): a record gated off advances the output's position and makes no gap. -/
def execGate (t : BitVec 4) (v : BitVec 1) (s : State) : Out :=
  let d := s.nd
  .next (s.node
    { slots := [0, 2]
      fire := fun s hs =>
        match hs with
        | [a, c] =>
          let s := s.popAll d (condSlots t 0 a.2.1)
          if c.2.1.cond != (v == 1) then
            let (tok, f) := forwarded d hs a.2.1
            (s.addFl d.n f).emit d 0 tok a.2.2
          else s.skip d 0 a.2.2
        | _ => s
      gap := fun s m n c => s.emitGap d [0] m n c
      sick := fun hs =>
        match hs with
        | [a, c] => if c.2.1.kind = kPOISON ∨ c.2.1.cond != (v == 1) then [(0, a.2.2)] else []
        | _ => [] })

/-- JOIN (R162): A's payload on output 0, B's on output 1, both with the sideband of R131. -/
def execJoin (t : BitVec 4) (u : BitVec 1) (s : State) : Out :=
  let d := s.nd
  let slots := if u = 1 then [0, 1, 2] else [0, 1]
  .next (s.node
    { slots := slots, outs := [0, 1]
      fire := fun s hs =>
        match hs with
        | a :: b :: _ =>
          let (x, f) := sideOf d (t == 13) hs
          let pop := if u = 1 then 1 :: condSlots t 0 a.2.1 else [0, 1]
          let s := (s.popAll d pop).addFl d.n f
          (s.emit d 0 (x.tok (maskLanes a.2.1.pay x.valid)) a.2.2).emit d 1 (x.tok (maskLanes b.2.1.pay x.valid)) a.2.2
        | _ => s
      gap := fun s m n c => s.emitGap d [0, 1] m n c })

/-! ## MERGE (R155) -/

/-- A record of A or B below the slot-C index is discarded with no GAP; a GAP gives up its indices below it. -/
def State.dropBelow (s : State) (d : Nd) (i : Nat) : Option State :=
  [0, 1].findSome? (fun k =>
    match s.headAt d k with
    | none => none
    | some (t, j) =>
      if t.kind = kGAP then
        (if t.gapFirst < i then
          some (s.modQueue d.n d.t (4 * d.slot + k) (fun q => q.eatGap (d.qrec k) (Nat.min t.gapCount (i - t.gapFirst))))
        else none)
      else if t.kind = kPOISON ∧ j < i then some (s.popAt d k)
      else if t.kind = kDATA ∧ j < i then some (s.modQueue d.n d.t (4 * d.slot + k) (fun q => q.discard (d.qrec k) j))
      else none)

/-- MERGE with a condition: the slot-C record selects A or B. -/
def State.mergeCtl (s : State) (d : Nd) (ty : BitVec 4) : Went :=
  if (s.rt d.n d.t).ended.contains d.slot then
    -- after slot C's END everything at A and B is consumed, END included
    match [0, 1].find? (fun k => match s.headAt d k with
        | some (t, _) => t.kind == kDATA || t.kind == kGAP || t.kind == kEND || t.kind == kPOISON | none => false) with
    | some k => .did (s.popAt d k) true
    | none => .wait
  else
    match s.headAt d 2 with
    | none => .wait
    | some (c, i) =>
      if c.kind = kEND then .did (s.endNode d [0] [(2, c, i)]) false
      else if c.kind = kGAP then .did ((s.popAt d 2).emitGap d [0] c.gapFirst c.gapCount c.gapComp) true
      else if c.kind = kPOISON then .did ((s.popAt d 2).emitPoison d [(0, i)]) true
      else if c.kind ≠ kDATA ∧ c.kind ≠ kCTRL then .wait
      else
        match s.dropBelow d i with
        | some s' => .did s' false
        | none =>
          let k := if c.cond then 0 else 1
          match s.headAt d k with
          | none => .wait
          | some (a, j) =>
            if a.kind = kMARK then .wait
            else if a.kind = kPOISON ∧ j = i then .did ((s.popAll d [k, 2]).emitPoison d [(0, i)]) true
            else if a.kind = kDATA ∧ j = i then
              let (tok, f) := forwarded d [(k, a, j), (2, c, i)] a
              .did (((s.popAll d (condSlots ty k a)).addFl d.n f).emit d 0 tok i) true
            else if a.kind = kGAP ∧ a.gapFirst = i then
              .did (((s.popAt d 2).modQueue d.n d.t (4 * d.slot + k) (fun q => q.eatGap (d.qrec k) 1)).emitGap d [0] i 1 a.gapComp) true
            else .did (((s.popAt d 2).sawGap d.n).emitGap d [0] i 1 false) true

/-- MERGE without one: A before B, the output renumbered by its own count (R133). -/
def State.mergeFree (s : State) (d : Nd) (ty : BitVec 4) : Went :=
  let cnt := (s.nstate d).toNat
  let lock := s.prog d
  let take (k : Nat) : Option Went :=
    match s.headAt d k with
    | none => none
    | some (t, j) =>
      if t.kind = kGAP then
        some (.did (((s.modQueue d.n d.t (4 * d.slot + k) (fun q => q.eatGap (d.qrec k) t.gapCount)).emitGap d [0] cnt t.gapCount t.gapComp).setNstate d
          (BitVec.ofNat 512 (cnt + t.gapCount))) true)
      else if t.kind = kDATA then
        let (tok, f) := forwarded d [(k, t, j)] t
        let whole := !(ty == 13 && !t.last)
        let s := (((s.popAt d k).addFl d.n f).emit d 0 tok (ix cnt)).setNstate d (BitVec.ofNat 512 (if whole then cnt + 1 else cnt))
        some (.did (s.setProg d (if whole then 0 else k + 1)) true)
      else if t.kind = kPOISON then
        some (.did (((s.popAt d k).emitPoison d [(0, cnt)]).setNstate d (BitVec.ofNat 512 (cnt + 1))) true)
      else none
  if lock ≠ 0 then (take (lock - 1)).getD .wait
  else
    match take 0 with
    | some w => w
    | none =>
      match take 1 with
      | some w => w
      | none =>
        match s.headAt d 0, s.headAt d 1 with
        | some (a, i), some (b, j) =>
          if a.kind = kEND ∧ b.kind = kEND then .did (s.endNode d [0] [(0, a, i), (1, b, j)]) false else .wait
        | _, _ => .wait

/-- MERGE (R155). -/
def execMerge (t : BitVec 4) (c : BitVec 1) (s : State) : Out :=
  let d := s.nd
  .next (if c = 1 then s.nodeStep d [0, 1, 2] [0] false (fun s => s.mergeCtl d t) (fun s go => go s) (fun s => s.spoilHeads d [2])
    else s.nodeStep d [0, 1] [0] false (fun s => s.mergeFree d t) (fun s go => go s)
      (fun s => match [0, 1].find? (fun k => match s.headAt d k with | some h => h.1.kind == kDATA | none => false) with
        | some k => s.spoilHeads d [k]
        | none => s))

/-! ## REPL, SINK, SOURCE, CHAIN -/

/-- REPL (R159): one copy per firing; a record of several sd tokens goes one token per firing (DEDUCED, log 16). -/
def execRepl (t : BitVec 4) (r : BitVec 6) (s : State) : Out :=
  let d := s.nd
  let n := r.toNat + 1
  .next (s.node
    { slots := [0]
      fire := fun s hs =>
        match hs with
        | (_, a, i) :: _ =>
          let recd := if t = 13 then ((s.rt d.n d.t).queue (4 * d.slot)).headRec else [a]
          let p := s.prog d
          let m := p % recd.length
          let j := p / recd.length
          let tok := recd.getD m a
          let tok := if t = 13 then tok else tok.marked (j == 0) (j + 1 == n)
          let s := if p + 1 = n * recd.length then
              (s.modQueue d.n d.t (4 * d.slot) (fun q => if t = 13 then q.discard (d.qrec 0) i else q.pop (d.qrec 0))).setProg d 0
            else s.setProg d (p + 1)
          s.emit d 0 tok (ix (i * n + j))
        | _ => s
      gap := fun s m g c => s.emitGap d [0] (m * n) (g * n) c
      sick := fun hs => match hs with | (_, _, i) :: _ => (List.range n).map (fun j => (0, i * n + j)) | [] => [] })

/-- A sink's report (R120, R160): one END and one sink. -/
def State.sinkReport (s : State) (n : BitVec 9) : State :=
  s.modReg n (fun r => { r with ends := r.ends + 1, left := r.left - 1 })

/-- SINK (R160). -/
def execSink (_t : BitVec 4) (v : BitVec 1) (e : BitVec 4) (s : State) : Out :=
  let d := s.nd
  .next (s.node
    { slots := [0], outs := []
      fire := fun s _ => s.popAt d 0
      gap := fun s _ _ _ => s
      fin := fun s =>
        let s := ((s.popAt d 0).modRt d.n d.t (fun r => { r with ended := insertNat r.ended d.slot })).sinkReport d.n
        some (if v = 1 then s.event d.n e else s) })

/-- The position of a CHAIN or SOURCE. -/
def State.chainPos (s : State) (d : Nd) : ChainPos := Tab.get {} (s.rt d.n d.t).chain d.slot

/-- Write it. -/
def State.setChain (s : State) (d : Nd) (c : ChainPos) : State :=
  s.modRt d.n d.t (fun r => { r with chain := Tab.set r.chain d.slot c })

/-- A node that reads no input emits its DRAIN after its END once a drain has been asked for (R121). -/
def State.sourceDrain (s : State) (d : Nd) : State :=
  if (s.reg d.n).drainAsked ∧ !(s.rt d.n d.t).drained.contains d.slot then
    (s.emit d 0 (drainTok (imgConfig d.img)) 0).modRt d.n d.t (fun r => { r with drained := insertNat r.drained d.slot })
  else s

/-- The END of a CHAIN or SOURCE. -/
def State.chainEnd (s : State) (d : Nd) (c : ChainPos) : State :=
  ((s.emit d 0 (endTok false) 0).setChain d { c with ended := true }).modRt d.n d.t
    (fun r => { r with ended := insertNat r.ended d.slot })

/-- What counter logic does when a word of its own tile is poisoned: outside an Electrum copy an act is the fault UNCORR (R373). -/
def State.counterStep (s : State) (d : Nd) (act : State → State) : State :=
  if s.illAt d ∧ !inCopy d.img d.t d.slot ∧ act s ≠ s then s.nodeFault d cUNCORR else act s

/-- SOURCE (R161): token n in cycle n of the period, END in cycle N; POISON where it reads a poisoned word in an Electrum copy (R377).
A TERM into its slot O holds nothing back (DESIGN CHOICE, log 91). -/
def execSource (t : BitVec 4) (a : BitVec 2) (n : BitVec 8) (s : State) : Out :=
  let d := s.nd
  let c := s.chainPos d
  let last := n.toNat + 1
  .next (s.counterStep d (fun s => if !s.nodeLive d then s
    else if c.ended then s.sourceDrain d
    else if c.stopped ∨ (s.now d.n) < (s.reg d.n).start + c.iter then s
    else if c.iter = last then s.chainEnd d c
    else
      let tok := (s.operand d t a).marked (t == 13 || c.iter == 0) (t == 13 || c.iter + 1 == last)
      (s.emit d 0 (if s.illAt d then poisonTok else tok) c.iter).setChain d { c with iter := c.iter + 1 }))

/-- The i32 token of iteration j (R158). -/
def chainTok (cr : Word) (j : Nat) (w m : Nat) : Token :=
  let v : BitVec 32 := sext (chStart cr) 32 + BitVec.ofNat 32 j * sext (chStep cr) 32
  { pay := zext v 256, side := mkSide kDATA w m 0 (j == 0) (j + 1 == chCount cr) 1 }

/-- A CHAIN emits its next iteration; POISON in its place in an Electrum copy that has met an uncorrectable error (R377). -/
def State.chainEmit (s : State) (d : Nd) (cr : Word) (c : ChainPos) : State :=
  let side : Token := { pay := 0, side := c.side }
  let arm := chRearm cr
  let i := if arm then ix (c.base * chCount cr + c.iter) else ix ((sext (chStart cr) 48).toNat + c.iter)
  let done := c.iter + 1 = chCount cr
  let tok := if 0 < c.ill ∨ s.illAt d then poisonTok else chainTok cr c.iter (if arm then side.wexp else 0) (if arm then side.mcount else 0)
  (s.emit d 0 tok i).setChain d
    { c with
      iter := c.iter + 1
      ill := c.ill - 1
      run := if arm ∧ done ∧ !chLc cr then false else c.run
      owed := chLc cr
      ready := (if chLc cr then (s.now d.n) else c.ready) + chIi cr }

/-- A CHAIN takes the token at slot B for the iteration it waits for (R158); the DRAIN, END and MARK that come back
round the loop end there.  POISON, in an Electrum copy, is that token and makes the next iteration POISON (R377).  DESIGN CHOICE,
log 87: a token that no iteration awaits is taken and stands for none. -/
def State.chainB (s : State) (d : Nd) (cr : Word) (c : ChainPos) : Option State :=
  if !chLc cr then none
  else
    match s.headAt d 1 with
    | none => none
    | some (t, _) =>
      let s := s.popAt d 1
      if t.kind = kDATA ∨ t.kind = kGAP ∨ t.kind = kPOISON then
        some (s.setChain d { c with
          owed := false, run := if chRearm cr ∧ c.iter = chCount cr then false else c.run
          ill := if t.kind = kPOISON ∧ c.owed ∧ c.iter < chCount cr then Nat.max 1 c.ill else c.ill })
      else if t.kind = kDRAIN ∨ t.kind = kEND ∨ t.kind = kMARK then some s
      else none

/-- CHAIN (R158): counter logic, not a firing.  POISON at slot A of one in an Electrum copy arms a run of POISON (R377).  A TERM into
its slot O holds nothing back (DESIGN CHOICE, log 91). -/
def execChain (_a _b : BitVec 2) (s : State) : Out :=
  let d := s.nd
  let cr := chainRec d.img d.t d.slot
  let c := s.chainPos d
  let here : Bool := inCopy d.img d.t d.slot
  .next (s.counterStep d (fun s =>
    if !actsIn (s.reg d.n).st then s
    else
      match [0, 1].findSome? (fun k =>
          if (if k = 0 then chRearm cr else chLc cr) then
            (s.headAt d k).bind (fun h => if here && h.1.kind == kPOISON then none else badHead false k h.1) else none) with
      | some f => s.nodeFault d f
      | none =>
        match s.chainB d cr c with
        | some s' => s'
        | none =>
          if (s.rt d.n d.t).marked.contains d.slot then s
          else if chRearm cr then
            if c.run then
              (if c.iter < chCount cr ∧ !c.owed ∧ c.ready ≤ (s.now d.n) then s.chainEmit d cr c else s)
            else
              match s.headAt d 0 with
              | none => s
              | some (a, i) =>
                if a.kind = kDATA ∨ a.kind = kPOISON then
                  (s.popAt d 0).setChain d { c with
                    iter := 0, run := true, base := i, side := a.side, ready := s.now d.n + chPhase cr, owed := false
                    ill := if a.kind = kPOISON then chCount cr else 0 }
                else if a.kind = kGAP then
                  (s.popAt d 0).emitGap d [0] (a.gapFirst * chCount cr) (a.gapCount * chCount cr) a.gapComp
                else if a.kind = kEND ∧ c.ready ≤ (s.now d.n) then
                  ((s.popAt d 0).emit d 0 a 0).modRt d.n d.t (fun r => { r with ended := insertNat r.ended d.slot })
                else if a.kind = kDRAIN then
                  ((s.popAt d 0).emit d 0 a 0).modRt d.n d.t (fun r => { r with drained := insertNat r.drained d.slot })
                else s
          else if c.ended then s.sourceDrain d
          else if c.stopped ∨ c.owed ∨ (s.now d.n) < c.ready then s
          else if c.iter = chCount cr then s.chainEnd d c
          else s.chainEmit d cr c))

/-! ## Sums kept in the node state -/

/-- The type of a 64-bit lane of sums: f32 sums in the low half, integer sums in 64 bits. -/
def sumType (ty : BitVec 4) : BitVec 4 := if ty = 6 then 6 else 14

/-- Add an element, times 2^e, to a 64-bit lane of the node state: integers exactly in 64 bits, saturating with `AOVF`;
f32 RNE, with the infinities taken in at bits 32 and 33 (R163, R167, R204, R257).  WSUM and ACCUM bound only their
result. -/
def addLane (ty : BitVec 4) (lane : BitVec 64) (x e : Nat) : BitVec 64 × Fl :=
  if ty = 6 then
    let f := Fmt.f32
    let (c, g, q) := addSeen f (f.decode (lane.toNat % 2 ^ 32)) ((f.decode x).scale e) (lane.toNat / 2 ^ 32 % 4)
    (BitVec.ofNat 64 (c + q * 2 ^ 32), g)
  else
    let (v, f) := satTo (intRange true 64) (lane.toInt + intOf ty x * 2 ^ e)
    (BitVec.ofInt 64 v, f)

/-- Add a token's present elements to the lanes of the node state. -/
def addLanes (ty : BitVec 4) (st : BitVec 512) (t : Token) (e : Nat) : BitVec 512 × Fl :=
  (t.elems ty).zipIdx.foldl (fun (st, f) x =>
    match x.1 with
    | none => (st, f)
    | some v =>
      let (l, g) := addLane ty (fld st (64 * x.2) 64) v e
      (st &&& ~~~((0xFFFFFFFFFFFFFFFF : BitVec 512) <<< (64 * x.2)) ||| (zext l 512 <<< (64 * x.2)), f.or g)) (st, {})

/-- The sums as a token of the type under a lane mask, bounded with `AOVF`. -/
def sumsTok (ty : BitVec 4) (st : BitVec 512) (v : BitVec 8) : BitVec 256 × Fl :=
  let els := (List.range (elemCount ty)).map (fun k =>
    if !elemValid ty v k then (none, ({} : Fl))
    else if ty = 6 then (some (fld st (64 * k) 32).toNat, {})
    else (let (x, f) := satInt ty (fld st (64 * k) 64).toInt; (some x, f)))
  ((packElems ty (els.map (·.1))).1, els.foldl (fun f e => f.or e.2) {})

/-- The negative zero an f32 sum starts from: a sum is −0 only when every addend is (R201). -/
def sumStart (ty : BitVec 4) : BitVec 512 :=
  if ty = 6 then BitVec.ofNat 512 ((List.range 8).foldl (fun v k => v + 0x80000000 * 2 ^ (64 * k)) 0) else 0

/-- Counts of an open sum: VALID so far, the index of the last record. -/
def openSum (l : List Nat) : Bool := !l.isEmpty

/-- The exact integer sums of a WSUM or ACCUM node: kept beside the lanes, or the lanes themselves after a save. -/
def State.exactSums (s : State) (d : Nd) : List Int :=
  match Tab.get [] (s.rt d.n d.t).sums d.slot with
  | [] => (List.range 8).map (fun k => (fld (s.nstate d) (64 * k) 64).toInt)
  | l => l

/-- Write them; the node state's lanes are the sums bounded to 64 bits. -/
def State.setSums (s : State) (d : Nd) (l : List Int) : State :=
  let lanes := l.zipIdx.foldl (fun v x => v + (BitVec.ofInt 64 (satTo (intRange true 64) x.1).1).toNat * 2 ^ (64 * x.2)) 0
  (s.modRt d.n d.t (fun r => { r with sums := if l.isEmpty then Tab.del r.sums d.slot else Tab.set r.sums d.slot l })).setNstate d
    (BitVec.ofNat 512 lanes)

/-- The exact sums as a token of the type under a lane mask, bounded with `AOVF`. -/
def intSumsTok (ty : BitVec 4) (l : List Int) (v : BitVec 8) : BitVec 256 × Fl :=
  let els := (List.range (elemCount ty)).map (fun k =>
    if !elemValid ty v k then (none, ({} : Fl)) else (let (x, f) := satInt ty (l.getD k 0); (some x, f)))
  ((packElems ty (els.map (·.1))).1, els.foldl (fun f e => f.or e.2) {})

/-- Add a token's present elements, times 2^e, to exact sums. -/
def addExact (ty : BitVec 4) (l : List Int) (t : Token) (e : Nat) : List Int :=
  (t.elems ty).zipIdx.foldl (fun l x => match x.1 with | none => l | some v => l.set x.2 (l.getD x.2 0 + intOf ty v * 2 ^ e)) l

/-- WSUM and ACCUM emit their result and reset.  DESIGN CHOICE, log 86: with no record since the last result its index is 0. -/
def State.sumEmit (s : State) (d : Nd) (ty : BitVec 4) : State :=
  let l := s.counts d
  let v : BitVec 8 := BitVec.ofNat 8 (l.getD 0 0)
  let (pay, f) := if ty = 6 then sumsTok ty (if l.isEmpty then sumStart ty else s.nstate d) v
    else intSumsTok ty (if l.isEmpty then [] else s.exactSums d) v
  (((s.addFl d.n f).emit d 0 (dataTok pay v) (l.getD 1 0)).setSums d []).setCounts d []

/-- A record is added to the sums of a WSUM or ACCUM node, times 2^e. -/
def State.addRecord (s : State) (d : Nd) (ty : BitVec 4) (a : Token) (e : Nat) : State :=
  let l := s.counts d
  if ty = 6 then
    let (st, f) := addLanes ty (if l.isEmpty then sumStart ty else s.nstate d) a e
    (s.addFl d.n f).setNstate d st
  else s.setSums d (addExact ty (if l.isEmpty then List.replicate 8 0 else s.exactSums d) a e)

/-- WSUM (R167) and ACCUM (R257): `weighted` says whether WEXP counts. -/
def State.sumNode (s : State) (ty : BitVec 4) (el : Bool) (weighted : Bool) : State :=
  let d := s.nd
  s.node
    { slots := [0]
      fire := fun s hs =>
        match hs with
        | (_, a, i) :: _ =>
          let l := s.counts d
          let s := ((s.popAt d 0).addRecord d ty a (if weighted then a.wexp else 0)).setCounts d
            [(BitVec.ofNat 8 (l.getD 0 0) ||| a.valid).toNat, i]
          if el ∧ a.last then s.sumEmit d ty else s
        | _ => s
      gap := fun s _ _ _ => s
      fin := fun s =>
        -- prog 1: the result of this END has gone
        if s.prog d = 1 then none
        else if el ∧ (s.counts d).isEmpty then none
        else some ((s.sumEmit d ty).setProg d 1)
      sick := fun _ => [] }

/-- WSUM (R167). -/
def execWsum (t : BitVec 4) (e : BitVec 1) (s : State) : Out := .next (s.sumNode t (e == 1) true)

/-- ACCUM (R257). -/
def execAccum (t : BitVec 4) (e : BitVec 1) (s : State) : Out := .next (s.sumNode t (e == 1) false)

/-- The four counters of WCNT as n32 lanes, saturating with `AOVF` (R168). -/
def wcntTok (l : List Nat) : BitVec 256 × Fl :=
  let v (k : Nat) : Nat := l.getD k 0
  (BitVec.ofNat 256 ((List.range 4).foldl (fun p k => p + Nat.min (v k) (2 ^ 32 - 1) * 2 ^ (32 * k)) 0),
   { aovf := (List.range 4).any (fun k => decide (2 ^ 32 ≤ v k)) })

/-- The counters of WCNT in the node state: 64-bit fields. -/
def wcntOf (st : BitVec 512) : List Nat := (List.range 4).map (fun k => (fld st (64 * k) 64).toNat)

/-- Counters as a node state. -/
def wcntPack (l : List Nat) : BitVec 512 := BitVec.ofNat 512 ((List.range 4).foldl (fun p k => p + l.getD k 0 % 2 ^ 64 * 2 ^ (64 * k)) 0)

/-- WCNT emits and resets.  DESIGN CHOICE, log 86: with no record since the last result its index is 0. -/
def State.wcntEmit (s : State) (d : Nd) : State :=
  let (pay, f) := wcntTok (wcntOf (s.nstate d))
  (((s.addFl d.n f).emit d 0 (dataTok pay 0x0F) ((s.counts d).getD 1 0)).setNstate d 0).setCounts d []

/-- WCNT (R168). -/
def execWcnt (e : BitVec 1) (s : State) : Out :=
  let d := s.nd
  .next (s.node
    { slots := [0]
      fire := fun s hs =>
        match hs with
        | (_, a, i) :: _ =>
          let l := wcntOf (s.nstate d)
          let l := [l.getD 0 0 + 2 ^ a.wexp * (1 + a.mcount), l.getD 1 0, l.getD 2 0, l.getD 3 0 + 1]
          let s := ((s.popAt d 0).setNstate d (wcntPack l)).setCounts d [1, i]
          if e = 1 ∧ a.last then s.wcntEmit d else s
        | _ => s
      gap := fun s _ n c =>
        let l := wcntOf (s.nstate d)
        s.setNstate d (wcntPack [l.getD 0 0, l.getD 1 0 + (if c then n else 0), l.getD 2 0 + (if c then 0 else n), l.getD 3 0])
      fin := fun s =>
        if s.prog d = 1 then none
        else if e = 1 ∧ (s.counts d).isEmpty then none
        else some ((s.wcntEmit d).setProg d 1)
      sick := fun _ => [] })

/-! ## WIN, GAPC, HASHK, DROPM -/

/-- An exact quotient with a sticky bit. -/
def ratio (n m : Nat) : Num := sticky false (n * 2 ^ 96 / m) (-96) (n * 2 ^ 96 % m != 0)

/-- WIN closes its window: lane sums on output 0, counts on output 1 (R163).  Counts: the window, weighted, lost,
VALID.  A count beyond 32 bits has no stated lane value: DESIGN CHOICE, log 17, a free value.  R163 gives the two tokens an index and
VALID; their WEXP and MCOUNT are 0 and FIRST and LAST clear (DESIGN CHOICE, log 97). -/
def State.winClose (s : State) (d : Nd) (ty : BitVec 4) (l : List Nat) : State :=
  let k := l.getD 0 0
  let w := l.getD 1 0
  let lost := l.getD 2 0
  let v : BitVec 8 := BitVec.ofNat 8 (l.getD 3 0)
  let lane (x j : Nat) : Nat := if x < 2 ^ 32 then x else (Config.freeLane (2 * s.tick + j)).toNat
  let (c, g) := Fmt.f32.round .rne (ratio w d.const.toNat)
  let (pay, f) := sumsTok ty (s.nstate d) v
  let raw := BitVec.ofNat 256 (lane w 0 + lane lost 1 * 2 ^ 32 + c * 2 ^ 64 + k % 2 ^ 32 * 2 ^ 96)
  (((((s.addFl d.n (f.or g)).emit d 0 (dataTok pay v) (ix k)).emit d 1 (dataTok raw 0x0F) (ix k)).setNstate d 0).setCounts d [])

/-- WIN (R163): what lies beyond the open window closes it first. -/
def execWin (t : BitVec 4) (s : State) : Out :=
  let d := s.nd
  let len := d.const.toNat
  .next (s.nodeStep d [0] [0, 1] false (fun s =>
    let l := s.counts d
    let near (i : Nat) : Option State :=
      if openSum l ∧ l.getD 0 0 ≠ i / len then some (s.winClose d t l) else none
    match s.headAt d 0 with
    | none => .wait
    | some (a, i) =>
      if a.kind = kDATA then
        (match near i with
         | some s' => .did s' false
         | none =>
           let l := if l.isEmpty then [i / len, 0, 0, 0] else l
           let (st, f) := addLanes t (if openSum (s.counts d) then s.nstate d else sumStart t) a a.wexp
           .did ((((s.popAt d 0).addFl d.n f).setNstate d st).setCounts d
             [l.getD 0 0, l.getD 1 0 + 2 ^ a.wexp * (1 + a.mcount), l.getD 2 0, (BitVec.ofNat 8 (l.getD 3 0) ||| a.valid).toNat]) true)
      else if a.kind = kGAP then
        (match near a.gapFirst with
         | some s' => .did s' false
         | none =>
           let k := a.gapFirst / len
           let n := Nat.min a.gapCount ((k + 1) * len - a.gapFirst)
           let s' := s.modQueue d.n d.t (4 * d.slot) (fun q => q.eatGap (d.qrec 0) n)
           let s' := if openSum l then s' else s'.setNstate d (sumStart t)
           .did (s'.setCounts d [k, l.getD 1 0, l.getD 2 0 + (if a.gapComp then 0 else n), l.getD 3 0]) (n = a.gapCount))
      else if a.kind = kEND then
        (if openSum l then .did (s.winClose d t l) false else .did (s.endNode d [0, 1] [(0, a, i)]) false)
      else if a.kind = kPOISON then
        (match near i with
         | some s' => .did s' false
         | none =>
           let s' := if openSum l then s else (s.setNstate d (sumStart t)).setCounts d [i / len, 0, 0, 0]
           .did (s'.popAt d 0) true)
      else .wait) (fun s go => go s))

/-- An event on a trigger entry, k times; PEND holds at most 255 (R100). -/
def State.eventTimes (s : State) (n : BitVec 9) (e : BitVec 4) : Nat → State
  | 0 => s
  | k + 1 => (s.event n e).eventTimes n e k

/-- GAPC (R164): counts in 64-bit fields of the node state: running, compensated, uncompensated. -/
def execGapc (_t : BitVec 4) (v : BitVec 1) (e : BitVec 4) (s : State) : Out :=
  let d := s.nd
  .next (s.node
    { slots := [0]
      fire := fun s hs =>
        match hs with
        | (_, a, i) :: _ => (s.popAt d 0).emit d 0 a i
        | _ => s
      gap := fun s m n c =>
        let st := s.nstate d
        let run := (fld st 0 64).toNat + n
        let thr := d.const.toNat
        let hits := if v = 1 ∧ thr ≠ 0 then run / thr else 0
        let run := if v = 1 ∧ thr ≠ 0 then run % thr else run
        let st' : BitVec 512 := BitVec.ofNat 512 (run % 2 ^ 64
          + ((fld st 64 64).toNat + (if c then n else 0)) % 2 ^ 64 * 2 ^ 64
          + ((fld st 128 64).toNat + (if c then 0 else n)) % 2 ^ 64 * 2 ^ 128)
        ((s.setNstate d st').eventTimes d.n e (Nat.min hits 256)).emitGap d [0] m n c })

/-- HASHK (R165). -/
def execHashk (c : BitVec 8) (s : State) : Out :=
  .next (s.elementNode [0] false (fun s hs =>
    match hs with
    | (_, a, _) :: _ =>
      let (p, v) := packElems 14 ((a.elems 14).map (fun x => x.map (fun n => (hashH (s.reg s.focus.owner).seed c.toNat n).toNat)))
      (p, v, {})
    | _ => (0, 0, {})))

/-- The ORIGIN a node reads: the table entry's snapshot (R166). -/
def State.origin (s : State) (n : BitVec 9) (i : BitVec 6) : Nat := (Tab.get 0 (s.reg n).origs i.toNat).toNat

/-- DROPM (R166). -/
def execDropm (t : BitVec 4) (i : BitVec 6) (c : BitVec 8) (s : State) : Out :=
  .next (s.elementNode [0] false (fun s hs =>
    match hs with
    | (_, a, n) :: _ =>
      let base := s.origin s.focus.owner i + n * elemCount t
      let keep (j : Nat) : Bool := decide (s.nd.const.toNat ≤ (fld (hashH (s.reg s.focus.owner).seed c.toNat (base + j)) 32 32).toNat)
      let (p, v) := packElems t ((a.elems t).zipIdx.map (fun x => x.1.map (fun e => if keep x.2 then e else 0)))
      (p, v, {})
    | _ => (0, 0, {})))

end Sys2Proof.Machine
end

