-- ==== Sys2Proof/Machine/Vector.lean ====
section
/-! DEFINITION. The element operations over integers and floating point (R246 to R249), the rearrangements of lanes
(R254, R255) and the fixed-order reductions (R256, R258). -/

namespace Sys2Proof.Machine

/-! ## Elementwise -/

/-- The slots an element operation reads: A, B when its mode is the queue, C when named. -/
def ewSlots (b : BitVec 2) (c : Bool) : List Nat := [0] ++ (if b = 0 then [1] else []) ++ (if c then [2] else [])

/-- The token of a slot among those taken. -/
def tokOf (hs : List Taken) (k : Nat) : Option Token := (hs.find? (fun h => h.1 == k)).map (fun h => h.2.1)

/-- The elements of operand B: its queue, the node constant or the node state (R34). -/
def State.opB (s : State) (d : Nd) (ty : BitVec 4) (b : BitVec 2) (hs : List Taken) : List (Option Nat) :=
  if b = 0 then ((tokOf hs 1).map (Token.elems ty)).getD [] else (s.operand d ty b).elems ty

/-- Pack results and collect their flags. -/
def packFl (ty : BitVec 4) (l : List (Option (Nat × Fl))) : BitVec 256 × BitVec 8 × Fl :=
  let (p, v) := packElems ty (l.map (fun x => x.map (·.1)))
  (p, v, l.foldl (fun f x => match x with | some y => f.or y.2 | none => f) {})

/-- One operand, elementwise. -/
def State.ew1 (s : State) (ty : BitVec 4) (f : Nat → Nat × Fl) : State :=
  s.elementNode [0] (ty == 13) (fun _ hs =>
    packFl ty ((((tokOf hs 0).map (Token.elems ty)).getD []).map (fun x => x.map f)))

/-- Two operands, elementwise: an absent element on either side gives an absent one (R242). -/
def State.ew2 (s : State) (ty : BitVec 4) (b : BitVec 2) (f : Nat → Nat → Nat × Fl) : State :=
  s.elementNode (ewSlots b false) (ty == 13) (fun s hs =>
    let a := ((tokOf hs 0).map (Token.elems ty)).getD []
    packFl ty ((a.zip (s.opB s.nd ty b hs)).map (fun x =>
      match x with | (some x, some y) => some (f x y) | _ => none)))

/-- Three operands, the third at slot C. -/
def State.ew3 (s : State) (ty : BitVec 4) (b : BitVec 2) (f : Nat → Nat → Nat → Nat × Fl) : State :=
  s.elementNode (ewSlots b true) (ty == 13) (fun s hs =>
    let a := ((tokOf hs 0).map (Token.elems ty)).getD []
    let c := ((tokOf hs 2).map (Token.elems ty)).getD []
    packFl ty ((a.zip ((s.opB s.nd ty b hs).zip c)).map (fun x =>
      match x with | (some x, some y, some z) => some (f x y z) | _ => none)))

/-- Wrap or saturate (R246). -/
def wrapSat (ty : BitVec 4) (x : BitVec 1) (v : Int) : Nat × Fl := if x = 1 then satInt ty v else (patOf ty v, {})

/-- IADD (R246). -/
def execIadd (t : BitVec 4) (b : BitVec 2) (sf : BitVec 1) (s : State) : Out :=
  .next (s.ew2 t b (fun x y => wrapSat t sf (intOf t x + intOf t y)))
/-- ISUB (R246). -/
def execIsub (t : BitVec 4) (b : BitVec 2) (sf : BitVec 1) (s : State) : Out :=
  .next (s.ew2 t b (fun x y => wrapSat t sf (intOf t x - intOf t y)))
/-- IMUL (R246). -/
def execImul (t : BitVec 4) (b : BitVec 2) (sf : BitVec 1) (s : State) : Out :=
  .next (s.ew2 t b (fun x y => wrapSat t sf (intOf t x * intOf t y)))
/-- IMULH (R246): floor(a·b / 2^w). -/
def execImulh (t : BitVec 4) (b : BitVec 2) (s : State) : Out :=
  .next (s.ew2 t b (fun x y => (patOf t (Int.fdiv (intOf t x * intOf t y) (2 ^ elemBits t)), {})))
/-- IMAD (R246): c + a·b, exact before the bound. -/
def execImad (t : BitVec 4) (b : BitVec 2) (sf : BitVec 1) (s : State) : Out :=
  .next (s.ew3 t b (fun x y z => wrapSat t sf (intOf t z + intOf t x * intOf t y)))
/-- IMIN (R246). -/
def execImin (t : BitVec 4) (b : BitVec 2) (s : State) : Out := .next (s.ew2 t b (fun x y => combineElem 2 t x y))
/-- IMAX (R246). -/
def execImax (t : BitVec 4) (b : BitVec 2) (s : State) : Out := .next (s.ew2 t b (fun x y => combineElem 1 t x y))
/-- IABS (R246). -/
def execIabs (t : BitVec 4) (sf : BitVec 1) (s : State) : Out :=
  .next (s.ew1 t (fun x => wrapSat t sf (if intOf t x < 0 then -intOf t x else intOf t x)))
/-- INEG (R246). -/
def execIneg (t : BitVec 4) (sf : BitVec 1) (s : State) : Out := .next (s.ew1 t (fun x => wrapSat t sf (-intOf t x)))
/-- IAND (R246). -/
def execIand (t : BitVec 4) (b : BitVec 2) (s : State) : Out := .next (s.ew2 t b (fun x y => (x &&& y, {})))
/-- IOR (R246). -/
def execIor (t : BitVec 4) (b : BitVec 2) (s : State) : Out := .next (s.ew2 t b (fun x y => (x ||| y, {})))
/-- IXOR (R246). -/
def execIxor (t : BitVec 4) (b : BitVec 2) (s : State) : Out := .next (s.ew2 t b (fun x y => (x ^^^ y, {})))
/-- INOT (R246). -/
def execInot (t : BitVec 4) (s : State) : Out := .next (s.ew1 t (fun x => (2 ^ elemBits t - 1 - x, {})))
/-- ISHL (R246). -/
def execIshl (t : BitVec 4) (b : BitVec 2) (s : State) : Out :=
  .next (s.ew2 t b (fun x y => (x * 2 ^ (y % elemBits t) % 2 ^ elemBits t, {})))
/-- ISHR (R246). -/
def execIshr (t : BitVec 4) (b : BitVec 2) (s : State) : Out :=
  .next (s.ew2 t b (fun x y => (x / 2 ^ (y % elemBits t), {})))
/-- A pattern shifted right with copies of its top bit. -/
def shiftCopies (w x k : Nat) : Nat := x / 2 ^ k + (if 2 ^ (w - 1) ≤ x then 2 ^ w - 2 ^ (w - k) else 0)
/-- ISHA (R246): copies of the top bit, for every type. -/
def execIsha (t : BitVec 4) (b : BitVec 2) (s : State) : Out :=
  .next (s.ew2 t b (fun x y => (shiftCopies (elemBits t) x (y % elemBits t), {})))
/-- ICMPEQ (R246). -/
def execIcmpeq (t : BitVec 4) (b : BitVec 2) (s : State) : Out :=
  .next (s.ew2 t b (fun x y => (if x = y then 1 else 0, {})))
/-- ICMPNE (R246). -/
def execIcmpne (t : BitVec 4) (b : BitVec 2) (s : State) : Out :=
  .next (s.ew2 t b (fun x y => (if x = y then 0 else 1, {})))
/-- ICMPLT (R246). -/
def execIcmplt (t : BitVec 4) (b : BitVec 2) (s : State) : Out :=
  .next (s.ew2 t b (fun x y => (if intOf t x < intOf t y then 1 else 0, {})))
/-- ICMPLE (R246). -/
def execIcmple (t : BitVec 4) (b : BitVec 2) (s : State) : Out :=
  .next (s.ew2 t b (fun x y => (if intOf t x ≤ intOf t y then 1 else 0, {})))

/-- SEL (R246, R247): a CTRL token's condition holds for every element. -/
def execSel (t : BitVec 4) (b : BitVec 2) (s : State) : Out :=
  .next (s.elementNode (ewSlots b true) (t == 13) (fun s hs =>
    let a := ((tokOf hs 0).map (Token.elems t)).getD []
    let c := match tokOf hs 2 with
      | some k => if k.kind = kCTRL then a.map (fun _ => some (if k.pay.getLsbD 0 then 1 else 0)) else k.elems t
      | none => []
    packFl t ((a.zip ((s.opB s.nd t b hs).zip c)).map (fun x =>
      match x with | (some x, some y, some z) => some (if z ≠ 0 then x else y, ({} : Fl)) | _ => none))))

/-- CLZ (R246). -/
def execClzNode (t : BitVec 4) (s : State) : Out :=
  .next (s.ew1 t (fun x => (if x = 0 then elemBits t else elemBits t - 1 - Nat.log2 x, {})))
/-- POPC (R246). -/
def execPopcNode (t : BitVec 4) (s : State) : Out :=
  .next (s.ew1 t (fun x => (((List.range (elemBits t)).filter (fun k => x / 2 ^ k % 2 == 1)).length, {})))
/-- ISAT (R246): bounded to n bits. -/
def execIsat (t : BitVec 4) (n : BitVec 6) (s : State) : Out :=
  .next (s.ew1 t (fun x =>
    let (v, f) := satTo (intRange (isSigned t) n.toNat) (intOf t x)
    (patOf t v, f)))
/-- ICLAMP (R246): min(max(a, b), c). -/
def execIclamp (t : BitVec 4) (b : BitVec 2) (s : State) : Out :=
  .next (s.ew3 t b (fun x y z => (patOf t (min (max (intOf t x) (intOf t y)) (intOf t z)), {})))

/-! ## Floating point (R248, R249) -/

/-- A rounded result of an exact operation on decoded elements. -/
def fpElem (t : BitVec 4) (m : BitVec 2) (x : Num × Fl) : Nat × Fl :=
  let (c, f) := (fmtOf t).round (Mode.ofCode m) x.1
  (c, x.2.or f)

/-- The value of an element's pattern. -/
def dec (t : BitVec 4) (x : Nat) : Num := (fmtOf t).decode x

/-- FADD (R248). -/
def execFaddNode (t : BitVec 4) (b : BitVec 2) (m : BitVec 2) (s : State) : Out :=
  .next (s.ew2 t b (fun x y => fpElem t m ((dec t x).add (dec t y))))
/-- FSUB (R248). -/
def execFsubNode (t : BitVec 4) (b : BitVec 2) (m : BitVec 2) (s : State) : Out :=
  .next (s.ew2 t b (fun x y => fpElem t m ((dec t x).add (dec t y).negate)))
/-- FMUL (R248). -/
def execFmulNode (t : BitVec 4) (b : BitVec 2) (m : BitVec 2) (s : State) : Out :=
  .next (s.ew2 t b (fun x y => fpElem t m ((dec t x).mul (dec t y))))
/-- FFMA (R248): c + a·b, one rounding. -/
def execFfmaNode (t : BitVec 4) (b : BitVec 2) (m : BitVec 2) (s : State) : Out :=
  .next (s.ew3 t b (fun x y z => fpElem t m ((dec t z).fma (dec t x) (dec t y))))
/-- FMIN (R248). -/
def execFminNode (t : BitVec 4) (b : BitVec 2) (s : State) : Out := .next (s.ew2 t b (fun x y => combineElem 2 t x y))
/-- FMAX (R248). -/
def execFmaxNode (t : BitVec 4) (b : BitVec 2) (s : State) : Out := .next (s.ew2 t b (fun x y => combineElem 1 t x y))
/-- FABS (R248). -/
def execFabsNode (t : BitVec 4) (s : State) : Out := .next (s.ew1 t (fun x => (((fmtOf t).round .rne (dec t x).abs).1, {})))
/-- FNEG (R248). -/
def execFnegNode (t : BitVec 4) (s : State) : Out := .next (s.ew1 t (fun x => (((fmtOf t).round .rne (dec t x).negate).1, {})))
/-- FCMPEQ (R247, R248). -/
def execFcmpeqNode (t : BitVec 4) (b : BitVec 2) (s : State) : Out :=
  .next (s.ew2 t b (fun x y => (if (dec t x).eqv (dec t y) then 1 else 0, {})))
/-- FCMPLT (R247, R248). -/
def execFcmpltNode (t : BitVec 4) (b : BitVec 2) (s : State) : Out :=
  .next (s.ew2 t b (fun x y => (if (dec t x).lt (dec t y) then 1 else 0, {})))
/-- FCMPLE (R247, R248). -/
def execFcmpleNode (t : BitVec 4) (b : BitVec 2) (s : State) : Out :=
  .next (s.ew2 t b (fun x y => (if (dec t x).le (dec t y) then 1 else 0, {})))
/-- FRCP (R248). -/
def execFrcpNode (t : BitVec 4) (m : BitVec 2) (s : State) : Out := .next (s.ew1 t (fun x => fpElem t m (dec t x).rcp))
/-- FRSQ (R248). -/
def execFrsqNode (t : BitVec 4) (m : BitVec 2) (s : State) : Out := .next (s.ew1 t (fun x => fpElem t m (dec t x).rsq))
/-- FSQRT (R248). -/
def execFsqrtNode (t : BitVec 4) (m : BitVec 2) (s : State) : Out := .next (s.ew1 t (fun x => fpElem t m (dec t x).sqrt))

/-- ln 2 in units of 2^−200, rounded down. -/
def ln2Fix : Nat := 1113844574712631719546256151097547306333272293549090750737802

/-- e^t for t in [0, 1), both in units of 2^−200, by its series. -/
def expFix (t : Nat) : Nat :=
  ((List.range 60).foldl (fun (acc : Nat × Nat) n =>
    let term := acc.2 * t / 2 ^ 200 / (n + 1)
    (acc.1 + term, term)) (2 ^ 200, 2 ^ 200)).1

/-- ln x for x in [1, 2), x = n / 2^k, in units of 2^−200: twice the artanh series of (x − 1) / (x + 1). -/
def lnFix (n k : Nat) : Nat :=
  let z := (n - 2 ^ k) * 2 ^ 200 / (n + 2 ^ k)
  let z2 := z * z / 2 ^ 200
  2 * ((List.range 90).foldl (fun (acc : Nat × Nat) i => (acc.1 + acc.2 / (2 * i + 1), acc.2 * z2 / 2 ^ 200)) (0, z)).1

/-- 2^a (R249): exact for an integer a; otherwise an approximation to 2^−150 of its value with a sticky bit, since the
exact value is irrational (log 18). -/
def Num.exp2 : Num → Num × Fl
  | .nan => (.nan, {})
  | .inf n => (if n then .fin false 0 0 else .inf false, {})
  | .fin n m e =>
    if m = 0 then (.fin false 1 0, {})
    else
      let big := 12 < leadExp m e
      let a : Int := if big then 0 else (if 0 ≤ e then (m : Int) * 2 ^ e.toNat * 2 ^ 200 else (m : Int) * 2 ^ (200 - (-e).toNat))
      let a := if n then -a else a
      let k : Int := if big then (if n then -8192 else 8192) else Int.fdiv a (2 ^ 200)
      let f := if big then 0 else (Int.fmod a (2 ^ 200)).toNat
      if f = 0 then (.fin false 1 k, {})
      else (sticky false (expFix (f * ln2Fix / 2 ^ 200)) (k - 200) true, {})

/-- log2 a (R249): exact at powers of 2. -/
def Num.log2 : Num → Num × Fl
  | .nan => (.nan, {})
  | .inf n => if n then (.nan, Fl.invalid) else (.inf false, {})
  | .fin n m e =>
    if m = 0 then (.inf true, {})
    else if n then (.nan, Fl.invalid)
    else
      let k := Nat.log2 m
      let top : Int := e + k
      if m = 2 ^ k then (Num.ofInt top, {})
      else
        let v : Int := top * 2 ^ 200 + (lnFix m k * 2 ^ 200 / ln2Fix : Nat)
        (sticky (decide (v < 0)) v.natAbs (-200) true, {})

/-- FEXP2 (R249). -/
def execFexp2 (t : BitVec 4) (m : BitVec 2) (s : State) : Out := .next (s.ew1 t (fun x => fpElem t m (dec t x).exp2))
/-- FLOG2 (R249). -/
def execFlog2 (t : BitVec 4) (m : BitVec 2) (s : State) : Out := .next (s.ew1 t (fun x => fpElem t m (dec t x).log2))

/-! ## Rearranging lanes (R254, R255) -/

/-- PACK (R254). -/
def execPack (t : BitVec 4) (s : State) : Out :=
  .next (s.elementNode [0, 1] (t == 13) (fun _ hs =>
    match tokOf hs 0, tokOf hs 1 with
    | some a, some b => (maskLanes a.pay a.valid ||| maskLanes b.pay (b.valid &&& ~~~a.valid), a.valid ||| b.valid, {})
    | _, _ => (0, 0, {})))

/-- UNPACK (R254). -/
def execUnpack (t : BitVec 4) (m : BitVec 8) (s : State) : Out :=
  let d := s.nd
  .next (s.node
    { slots := [0], outs := [0, 1]
      fire := fun s hs =>
        match hs with
        | (_, a, i) :: _ =>
          let (x, f) := sideOf d (t == 13) hs
          let v0 := a.valid &&& m
          let v1 := a.valid &&& ~~~m
          (((s.popAt d 0).addFl d.n f).emit d 0 (({ x with valid := v0 } : Side).tok (maskLanes a.pay v0)) i).emit d 1
            (({ x with valid := v1 } : Side).tok (maskLanes a.pay v1)) i
        | _ => s
      gap := fun s m n c => s.emitGap d [0, 1] m n c })

/-- SHUF (R255): the lane map stands in the node constant. -/
def execShuf (t : BitVec 4) (s : State) : Out :=
  .next (s.elementNode [0] (t == 13) (fun s hs =>
    match tokOf hs 0 with
    | some a =>
      let lane (j : Nat) : Option Nat :=
        let c := s.nd.const.toNat / 2 ^ (4 * j) % 16
        if 8 ≤ c ∨ !a.valid.getLsbD c then none else some (a.lane c).toNat
      let (p, v) := packElems 15 ((List.range 8).map lane)
      (p, v, {})
    | none => (0, 0, {})))

/-- BCAST (R255). -/
def execBcast (t : BitVec 4) (e : BitVec 6) (s : State) : Out :=
  .next (s.elementNode [0] (t == 13) (fun _ hs =>
    match tokOf hs 0 with
    | some a =>
      let x := (a.elems t).getD e.toNat none
      let (p, v) := packElems t (List.replicate (elemCount t) x)
      (p, v, {})
    | none => (0, 0, {})))

/-! ## Reductions (R256, R258) -/

/-- A value in the tree: the element or absent, the flags so far, the infinities taken in (R204). -/
structure Part where
  v : Option Nat := none
  fl : Fl := {}
  seen : Nat := 0

/-- Combine two values, an absent one giving the other. -/
def combineOpt (op : Nat) (ty : BitVec 4) (x y : Part) : Part :=
  match x.v, y.v with
  | some a, some b =>
    if op = 0 ∧ isFloat ty then
      let (c, f, q) := addSeen (fmtOf ty) (dec ty a) (dec ty b) (x.seen ||| y.seen)
      ⟨some c, (x.fl.or y.fl).or f, q⟩
    else
      let (c, f) := combineElem op ty a b
      ⟨some c, (x.fl.or y.fl).or f, 0⟩
  | some a, none => ⟨some a, x.fl.or y.fl, x.seen⟩
  | none, b => ⟨b, x.fl.or y.fl, y.seen⟩

/-- One level of the pairwise tree. -/
def pairUp (f : Part → Part → Part) : List Part → List Part
  | a :: b :: r => f a b :: pairUp f r
  | l => l

/-- The pairwise tree over element index (R256): six levels reduce sixty-four. -/
def treeOf (f : Part → Part → Part) (l : List Part) : Part :=
  ((List.range 6).foldl (fun l _ => pairUp f l) l).headD {}

/-- The type a reduction of a type is made in: f32, or 64-bit integers of the type's signedness. -/
def wideType (t : BitVec 4) : BitVec 4 := if isInt t then 14 else 6

/-- An element widened exactly, squared with SQ (R256). -/
def widen (t : BitVec 4) (sq : Bool) (x : Nat) : Nat × Fl :=
  if isInt t then
    let v := intOf t x
    (if sq then satInt 14 (v * v) else (patOf 14 v, {}))
  else
    let v := dec t x
    if sq then (let (p, f) := v.mul v; let (c, g) := Fmt.f32.round .rne p; (c, f.or g))
    else ((Fmt.f32.round .rne v).1, {})

/-- RSUM, RMAX and RMIN (R256). -/
def State.reduce (s : State) (t : BitVec 4) (op : Nat) (sq : Bool) : State :=
  s.elementNode [0] false (fun _ hs =>
    match tokOf hs 0 with
    | some a =>
      let wt := wideType t
      let els : List Part := (a.elems t).map (fun x => match x with
        | some v => (let (y, f) := widen t sq v; { v := some y, fl := f }) | none => {})
      let r := treeOf (combineOpt op wt) els
      let (p, v) := packElems wt [r.v]
      (p, v, r.fl)
    | none => (0, 0, {}))

/-- RSUM (R256). -/
def execRsum (t : BitVec 4) (q : BitVec 1) (s : State) : Out := .next (s.reduce t 0 (q == 1))
/-- RMAX (R256). -/
def execRmax (t : BitVec 4) (s : State) : Out := .next (s.reduce t 1 false)
/-- RMIN (R256). -/
def execRmin (t : BitVec 4) (s : State) : Out := .next (s.reduce t 2 false)

/-- XRED (R258): 0 SUM, 1 MAX, 2 MIN. -/
def execXred (t : BitVec 4) (o : BitVec 2) (s : State) : Out :=
  .next (s.ew2 t 0 (fun x y => combineElem o.toNat t x y))

end Sys2Proof.Machine
end

