-- ==== Sys2Proof/Machine/Convert.lean ====
section
/-! DEFINITION. Conversions under the part rule (R245, R250 to R253), quantisation (R262 to R265) and the ingest operations
CSC, NORM and PERM (R267 to R269). -/

namespace Sys2Proof.Machine

/-! ## The part rule (Table 8.2) -/

/-- The output index and destination elements that source elements give: none for a token consumed with no output.
`p` counts the firings of the fourth row. -/
def partOut {α : Type} (es ed : Nat) (all : Bool) (part i p : Nat) (els : List (Option α)) : Option (Nat × List (Option α)) :=
  if ed = es then some (i, els)
  else if es < ed then
    let r := ed / es
    if i % r = part then some (i / r, List.replicate (part * es) none ++ els ++ List.replicate (ed - (part + 1) * es) none)
    else none
  else
    let q := if all then p else part
    some (if all then i * (es / ed) + p else i, (els.drop (q * ed)).take ed)

/-- Firings a source token takes. -/
def partFirings (es ed : Nat) (all : Bool) : Nat := if all then es / ed else 1

/-- The output indices of a GAP: first and count, none when it covers none. -/
def partGap (es ed : Nat) (all : Bool) (part f g : Nat) : Option (Nat × Nat) :=
  if ed = es then some (f, g)
  else if es < ed then
    let r := ed / es
    let lo := if f ≤ part then 0 else (f - part + r - 1) / r
    if f + g ≤ part then none
    else
      let hi := (f + g - 1 - part) / r
      if lo ≤ hi then some (lo, hi + 1 - lo) else none
  else if all then some (f * (es / ed), g * (es / ed))
  else some (f, g)

/-- A conversion node: the source elements of the head, converted one by one, mapped by the part rule.  `whole` takes
the whole sd record at the head. -/
def State.partNode (s : State) (ty : BitVec 4) (es ed : Nat) (all : Bool) (part : Nat) (whole : Bool)
    (conv : State → Token → Nat → List (Option (Nat × Fl))) : State :=
  let d := s.nd
  s.node
    { slots := [0]
      fire := fun s hs =>
        match hs with
        | (_, a, i) :: _ =>
          let p := s.prog d
          let (x, fl) := sideOf d (ty == 13) hs
          let x := if whole then { x with first := false, last := false } else x
          let out := partOut es ed all part i p (conv s a i)
          let eat (s : State) : State :=
            if whole then s.modQueue d.n d.t (4 * d.slot) (fun q => q.discard (d.qrec 0) i) else s.popAt d 0
          let s := if p + 1 = partFirings es ed all then (eat s).setProg d 0 else s.setProg d (p + 1)
          match out with
          | some (k, els) =>
            let (pay, v, g) := packFl ty els
            (s.addFl d.n (fl.or g)).emit d 0 (({ x with valid := v } : Side).tok pay) (ix k)
          | none => if part ≤ i then s.skip d 0 ((i - part) / (ed / es)) else s
        | _ => s
      gap := fun s m n c =>
        match partGap es ed all part m n with
        | some (f, g) => s.emitGap d [0] f g c
        | none => s
      sick := fun hs =>
        match hs with
        | (_, _, i) :: _ => (List.range (partFirings es ed all)).filterMap (fun p => (partOut es ed all part i p ([] : List (Option Nat))).map (fun x => (0, x.1)))
        | [] => [] }

/-! ## CVT, CVTSR, CSC -/

/-- Convert one element (R250). -/
def cvtElem (src dst : BitVec 4) (sat : BitVec 1) (m : BitVec 2) (x : Nat) : Nat × Fl :=
  if isInt src then
    let v := intOf src x
    if isInt dst then wrapSat dst sat v
    else fpElem dst m (Num.ofInt v, {})
  else if isInt dst then
    let r := intRange (isSigned dst) (elemBits dst)
    let (v, f) := (dec src x).toInt (Mode.ofCode m) r.1 r.2
    (patOf dst v, f)
  else fpElem dst m (dec src x, {})

/-- Elements of a token under a type, each converted. -/
def convTok (src : BitVec 4) (f : Nat → Nat × Fl) (a : Token) : List (Option (Nat × Fl)) :=
  (a.elems src).map (fun x => x.map f)

/-- CVT (R250). -/
def execCvt (t sf : BitVec 4) (l : BitVec 1) (p : BitVec 3) (x : BitVec 1) (m : BitVec 2) (s : State) : Out :=
  .next (s.partNode t (elemCount sf) (elemCount t) (l == 1) p.toNat false (fun _ a _ => convTok sf (cvtElem sf t x m) a))

/-- Keyed stochastic rounding (R199): r is the 24-bit draw; overflow, zeros and specials follow RNE. -/
def Fmt.roundKeyed (f : Fmt) (r : Nat) (x : Num) : Nat × Fl :=
  match x with
  | .fin neg m e =>
    if m = 0 then f.round .rne x
    else
      let q := f.quantum m e
      if q ≤ e then f.round .rne x
      else
        let k := (q - e).toNat
        let rem := m % 2 ^ k
        if rem = 0 then f.round .rne x
        else f.finish .rne neg (m / 2 ^ k + if r * 2 ^ k < rem * 2 ^ 24 then 1 else 0) q true
  | _ => f.round .rne x

/-- CVTSR (R251): PART and the source type stand in the node constant. -/
def execCvtsr (t : BitVec 4) (i : BitVec 6) (c : BitVec 8) (s : State) : Out :=
  let k := s.nd.const
  let src : BitVec 4 := fld k 0 4
  let es := elemCount src
  .next (s.partNode t es (elemCount t) false (fld k 4 3).toNat false (fun s a n =>
    let base := s.origin s.focus.owner i + n * es
    let seed := (s.reg s.focus.owner).seed
    (a.elems src).zipIdx.map (fun x => x.1.map (fun v =>
      (fmtOf t).roundKeyed (fld (hashH seed c.toNat (base + x.2)) 40 24).toNat (dec src v)))))

/-- The value of an element as an exact number, integer or floating point. -/
def numOf (t : BitVec 4) (x : Nat) : Num := if isInt t then Num.ofInt (intOf t x) else dec t x

/-- CSC (R267): (x − c)·s, rounded once. -/
def execCsc (t sf : BitVec 4) (l : BitVec 1) (p : BitVec 3) (m : BitVec 2) (s : State) : Out :=
  let k := s.nd.const
  let c := Fmt.bf16.decode (fld k 0 16).toNat
  let g := Fmt.bf16.decode (fld k 16 16).toNat
  .next (s.partNode t (elemCount sf) (elemCount t) (l == 1) p.toNat false (fun _ a _ =>
    convTok sf (fun x =>
      let (y, f) := (numOf sf x).add c.negate
      let (z, h) := y.mul g
      fpElem t m (z, f.or h)) a))

/-! ## Signed digits (R252, R253) -/

/-- Tokens of a record of width wd (R187). -/
def sdTokens (wd : Nat) : Nat := (wd + 15) / 16

/-- The token m of the record that integers give: canonical digits at width wd, a value out of range bounded with `AOVF`
(R252). -/
def sdencTok (wd : Nat) (els : List (Option Int)) (m : Nat) : BitVec 256 × BitVec 8 × Fl :=
  let top : Int := 2 ^ wd - 1
  let enc := els.map (fun x => x.map (fun v => (satTo (-top, top) v)))
  let (p, v) := recPay (enc.map (fun x => x.map (fun y => sdCanon wd (16 * sdTokens wd) y.1))) m
  (p, v, if m = 0 then enc.foldl (fun f x => match x with | some y => f.or y.2 | none => f) {} else {})

/-- The integers of an SDENC's source token for record p, by the part rule. -/
def sdencRec (sf : BitVec 4) (all : Bool) (part i p : Nat) (a : Token) : Option (Nat × List (Option Int)) :=
  partOut (elemCount sf) 8 all part i p ((a.elems sf).map (fun x => x.map (intOf sf)))

/-- SDENC emits token k of the records of the source token it holds: payload in the node state, sideband and index in
its counts. -/
def State.sdencEmit (s : State) (d : Nd) (sf : BitVec 4) (all : Bool) (part wd k : Nat) (a : Token) (i : Nat) : State :=
  let n := sdTokens wd
  let total := n * partFirings (elemCount sf) 8 all
  match sdencRec sf all part i (k / n) a with
  | none => s
  | some (j, els) =>
    let (pay, v, f) := sdencTok wd els (k % n)
    let tok : Token := { pay := pay, side := mkSide kDATA a.wexp a.mcount 0 (k % n == 0) (k % n + 1 == n) v }
    let s := (s.addFl d.n f).emit d 0 tok (ix j)
    if k + 1 = total then ((s.setProg d 0).setCounts d []).setNstate d 0
    else ((s.setProg d (k + 1)).setCounts d [a.side.toNat, i]).setNstate d (zext a.pay 512)

/-- SDENC (R252): the input goes at its first firing, the tokens in that firing and the next. -/
def execSdenc (sf : BitVec 4) (l : BitVec 1) (p : BitVec 3) (w : BitVec 6) (s : State) : Out :=
  let d := s.nd
  let wd := w.toNat + 1
  let go (s : State) := s.node
    { slots := [0]
      fire := fun s hs =>
        match hs with
        | (_, a, i) :: _ =>
          let (x, f) := sideOf d false hs
          let a' : Token := a.withSide x.wexp x.mcount 0 x.first x.last a.valid
          let s := (s.popAt d 0).addFl d.n f
          (match sdencRec sf (l == 1) p.toNat i 0 a with
           | some _ => s.sdencEmit d sf (l == 1) p.toNat wd 0 a' i
           | none => if p.toNat ≤ i then s.skip d 0 ((i - p.toNat) / (8 / elemCount sf)) else s)
        | _ => s
      gap := fun s m n c =>
        match partGap (elemCount sf) 8 (l == 1) p.toNat m n with
        | some (f, g) => s.emitGap d [0] f g c
        | none => s
      sick := fun hs =>
        match hs with
        | (_, a, i) :: _ => (List.range (partFirings (elemCount sf) 8 (l == 1))).filterMap (fun k =>
            (sdencRec sf (l == 1) p.toNat i k a).map (fun x => (0, x.1)))
        | [] => [] }
  .next (
    if s.prog d = 0 then go s
    else if !s.nodeLive d then s
    else
      let c := s.counts d
      s.sdencEmit d sf (l == 1) p.toNat wd (s.prog d) { pay := fld (s.nstate d) 0 256, side := BitVec.ofNat 32 (c.getD 0 0) } (c.getD 1 0))

/-- SDDEC (R253): a whole record, FIRST and LAST clear; too many tokens raise IMAGE. -/
def execSddec (t : BitVec 4) (l : BitVec 1) (p : BitVec 3) (w : BitVec 6) (s : State) : Out :=
  let d := s.nd
  let wd := w.toNat + 1
  let toks := ((s.rt d.n d.t).queue (4 * d.slot)).headRec
  let head := s.headAt d 0
  let long : Bool := match head with | some (a, _) => a.kind == kDATA && decide (sdTokens wd < toks.length) | none => false
  .next (
    if long ∧ s.nodeLive d then s.nodeFault d cIMAGE
    else s.partNode t 8 (elemCount t) (l == 1) p.toNat true (fun _ _ _ =>
      (List.range 8).map (fun k =>
        if recValid toks k then some (satInt t (sdValue wd (recDigits toks k))) else none)))

/-! ## Quantisation (R196, R197, R262 to R265) -/

/-- emax_elem of R196. -/
def emaxOf (e : BitVec 4) : Int :=
  match e.toNat with | 9 => 8 | 10 => 15 | 11 => 2 | 12 => 13 | _ => 0

/-- The scale of a block (R196): special when it holds a NaN or infinity, the largest exponent when it holds a nonzero. -/
def scaleOf (e : BitVec 4) (special : Bool) (top : Option Int) : Nat :=
  if special then 255
  else match top with
    | none => 127
    | some x => (x - emaxOf e + 127).toNat

/-- Convert one element under a block's scale (R197). -/
def quantElem (e : BitVec 4) (scale : Nat) (x : Num) : Nat × Fl :=
  if scale = 255 then (0, if x.isInf then Fl.invalid else {})
  else
    let y := x.scale (127 - (scale : Int))
    if e = 4 then
      match y.scale 6 with
      | .fin neg m k =>
        let (v, inx) := toInteger .rne neg m k
        let c := max (-128) (min 127 v)
        (patOf 4 c, if c = v then { inx := inx } else { ovf := true, inx := true })
      | .inf neg => (if neg then 128 else 127, Fl.invalid)
      | .nan => (0, Fl.invalid)
    else
      let r := (fmtOf e).round .rne y
      -- E5M2 has infinities, and R197 saturates it at ±57344
      match (fmtOf e).decode r.1 with
      | .inf neg => (if neg then 0xFB else 0x7B, if y.isInf then Fl.invalid else r.2)
      | _ => r

/-- Decode one element under a block's scale (R195, R265). -/
def dequantElem (e t : BitVec 4) (scale x : Nat) : Nat × Fl :=
  if scale = 255 then ((fmtOf t).qnan, {})
  else
    let v := if e = 4 then (Num.ofInt (intOf 4 x)).scale (-6) else dec e x
    (fmtOf t).round .rne (v.scale ((scale : Int) - 127))

/-- 64-bit fields of a node state. -/
def fields (st : BitVec 512) : List Nat := (List.range 8).map (fun k => (fld st (64 * k) 64).toNat)

/-- A node state of 64-bit fields. -/
def ofFields (l : List Nat) : BitVec 512 := BitVec.ofNat 512 ((List.range 8).foldl (fun p k => p + l.getD k 0 % 2 ^ 64 * 2 ^ (64 * k)) 0)

/-- QMAX's fields: block + 1, a DATA token came, special, largest exponent + 4096 (0 none), a GAP was uncompensated,
WEXP, MCOUNT. -/
def qmaxTok (e : BitVec 4) (l : List Nat) : Token :=
  let top : Option Int := if l.getD 3 0 = 0 then none else some ((l.getD 3 0 : Int) - 4096)
  let side := mkSide kDATA (l.getD 5 0) (l.getD 6 0) 0 false false 1
  { pay := BitVec.ofNat 256 (scaleOf e (l.getD 2 0 = 1) top), side := side }

/-- QMAX ends its block: the scale, or a GAP when only GAPs covered it. -/
def State.qmaxEmit (s : State) (d : Nd) (e : BitVec 4) (l : List Nat) : State :=
  let b := l.getD 0 0 - 1
  let s := s.setNstate d 0
  if l.getD 1 0 = 1 then s.emit d 0 (qmaxTok e l) (ix b) else s.emitGap d [0] b 1 (l.getD 4 0 = 0)

/-- QMAX (R262). -/
def execQmax (t : BitVec 4) (e : BitVec 4) (s : State) : Out :=
  let d := s.nd
  let k := 128 / elemCount t
  .next (s.nodeStep d [0] [0] false (fun s =>
    let l := fields (s.nstate d)
    let block := l.getD 0 0
    match s.headAt d 0 with
    | none => .wait
    | some (a, i) =>
      let f := if a.kind = kGAP then a.gapFirst else i
      if (a.kind = kDATA ∨ a.kind = kGAP) ∧ block ≠ 0 ∧ block ≠ f / k + 1 then .did (s.qmaxEmit d e l) false
      else if a.kind = kDATA then
        let (x, fl) := sideOf d false [(0, a, i)]
        let vs := (a.elems t).filterMap (fun v => v.map (dec t))
        let special := vs.any (fun v => v.isNan || v.isInf)
        let top := vs.foldl (fun m v => match v with
          | .fin _ mm ee => if mm = 0 then m else Nat.max m (leadExp mm ee + 4096).toNat
          | _ => m) (l.getD 3 0)
        let l' := [f / k + 1, 1, if special ∨ l.getD 2 0 = 1 then 1 else 0, top, l.getD 4 0, Nat.max (l.getD 5 0) x.wexp, Nat.max (l.getD 6 0) x.mcount]
        let s := (s.popAt d 0).addFl d.n fl
        .did (if i % k = k - 1 then s.qmaxEmit d e l' else s.setNstate d (ofFields l')) true
      else if a.kind = kGAP then
        let n := Nat.min a.gapCount ((f / k + 1) * k - f)
        let l' := [f / k + 1, l.getD 1 0, l.getD 2 0, l.getD 3 0, if a.gapComp ∧ l.getD 4 0 = 0 then 0 else 1, l.getD 5 0, l.getD 6 0]
        let s := s.modQueue d.n d.t (4 * d.slot) (fun q => q.eatGap (d.qrec 0) n)
        .did (if (f + n) % k = 0 then s.qmaxEmit d e l' else s.setNstate d (ofFields l')) (n = a.gapCount)
      else if a.kind = kEND then
        (if block ≠ 0 then .did (s.qmaxEmit d e l) false else .did (s.endNode d [0] [(0, a, i)]) false)
      else if a.kind = kPOISON then
        (if block ≠ 0 ∧ block ≠ i / k + 1 then .did (s.qmaxEmit d e l) false
         else if i % k = k - 1 then .did (((s.popAt d 0).setNstate d 0).emitPoison d [(0, i / k)]) true
         else .did ((s.popAt d 0).setNstate d (ofFields (if block ≠ 0 then l else [i / k + 1, 1, 0, 0, 0, 0, 0]))) true)
      else .wait) (fun s go => go s))

/-- How a data stream at A meets its scales at B, one per block of K tokens (R263). -/
inductive Blocked where
  | wait
  | drop (s : State)                          -- a scale no longer needed leaves B
  | gap (first n : Nat) (comp : Bool)         -- indices of A that are lost: a GAP at A
  | lost (i : Nat) (comp : Bool)              -- the head of A has no scale
  | pair (a : Token) (i : Nat) (b : Token)
  | fin (hs : List Taken)                     -- END at both

/-- The heads of A and B. -/
def State.blocked (s : State) (d : Nd) (k : Nat) : Blocked :=
  match s.headAt d 0, s.headAt d 1 with
  | some (a, i), some (b, j) =>
    if a.kind = kEND then
      (if b.kind = kEND then .fin [(0, a, i), (1, b, j)]
       else if b.kind = kDATA ∨ b.kind = kGAP ∨ b.kind = kPOISON then .drop (s.popAt d 1) else .wait)
    else if a.kind = kGAP then .gap a.gapFirst a.gapCount a.gapComp
    else if a.kind ≠ kDATA ∧ a.kind ≠ kPOISON then .wait
    else
      let blk := i / k
      if b.kind = kDATA ∨ b.kind = kPOISON then
        (if j < blk then .drop (s.popAt d 1) else if j = blk then .pair a i b else .lost i false)
      else if b.kind = kGAP then
        (if b.gapFirst + b.gapCount ≤ blk then .drop (s.popAt d 1)
         else if b.gapFirst ≤ blk then .lost i b.gapComp else .lost i false)
      else if b.kind = kEND ∨ b.kind = kDRAIN then .lost i false
      else .wait
  | _, _ => .wait

/-- The scale record goes with the last token of its block (R263). -/
def State.popScale (s : State) (d : Nd) (k i : Nat) (isData : Bool) : State :=
  if i % k = k - 1 ∧ isData then s.popAt d 1 else s

/-- QCONV's counts: output position + 1, a token came, filled elements, a GAP was uncompensated, WEXP, MCOUNT; the
elements stand in the node state. -/
def State.qconvFlush (s : State) (d : Nd) (ty : BitVec 4) : State :=
  let l := s.counts d
  let pos := l.getD 0 0 - 1
  let filled := l.getD 2 0
  let s' := (s.setCounts d []).setNstate d 0
  if l.getD 1 0 = 1 then
    let els := (List.range (elemCount ty)).map (fun j =>
      if filled / 2 ^ j % 2 = 1 then some (elemAt ty (fld (s.nstate d) 0 256) j) else none)
    let (p, v) := packElems ty els
    s'.emit d 0 { pay := p, side := mkSide kDATA (l.getD 4 0) (l.getD 5 0) 0 false false v } (ix pos)
  else s'.emitGap d [0] pos 1 (l.getD 3 0 = 0)

/-- QCONV takes index i into its output position: elements, or a loss. -/
def State.qconvTake (s : State) (d : Nd) (ty : BitVec 4) (es i : Nat) (els : Option (List (Option Nat))) (w m : Nat) (comp : Bool) : State :=
  let r := elemCount ty / es
  let l := s.counts d
  let base := (i % r) * es
  let wd := elemBits ty
  let (st, filled) := match els with
    | none => ((s.nstate d).toNat, l.getD 2 0)
    | some es' => es'.zipIdx.foldl (fun (acc : Nat × Nat) x =>
        match x.1 with
        | some v => (acc.1 + v * 2 ^ (wd * (base + x.2)), acc.2 + 2 ^ (base + x.2))
        | none => acc) ((s.nstate d).toNat, l.getD 2 0)
  let s := (s.setCounts d [i / r + 1, if els.isSome then 1 else l.getD 1 0, filled,
    if els.isSome ∨ comp then l.getD 3 0 else 1, Nat.max (l.getD 4 0) w, Nat.max (l.getD 5 0) m]).setNstate d (BitVec.ofNat 512 st)
  if i % r = r - 1 then s.qconvFlush d ty else s

/-- QCONV (R263). -/
def execQconv (t : BitVec 4) (sf : BitVec 4) (s : State) : Out :=
  let d := s.nd
  let es := elemCount sf
  let k := 128 / es
  let r := elemCount t / es
  .next (s.nodeStep d [0, 1] [0] false (fun s =>
    let pos := (s.counts d).getD 0 0
    let stale (i : Nat) : Bool := pos != 0 && pos != i / r + 1
    match s.blocked d k with
    | .wait => .wait
    | .drop s' => .did s' false
    | .fin hs => if pos ≠ 0 then .did (s.qconvFlush d t) false else .did (s.endNode d [0] hs) false
    | .gap f n c =>
      if stale f then .did (s.qconvFlush d t) false
      else if f % r = 0 ∧ r ≤ n then
        let m := n / r * r
        .did ((s.modQueue d.n d.t (4 * d.slot) (fun q => q.eatGap (d.qrec 0) m)).emitGap d [0] (f / r) (n / r) c) (m = n)
      else .did ((s.modQueue d.n d.t (4 * d.slot) (fun q => q.eatGap (d.qrec 0) 1)).qconvTake d t es f none 0 0 c) (n = 1)
    | .lost i c =>
      if stale i then .did (s.qconvFlush d t) false
      else .did (((s.popAt d 0).sawGap d.n).qconvTake d t es i none 0 0 c) true
    | .pair a i b =>
      if stale i then .did (s.qconvFlush d t) false
      else if a.kind = kPOISON ∨ b.kind = kPOISON then
        let s := (s.popAt d 0).popScale d k i true
        if i % r = r - 1 then .did (((s.setCounts d []).setNstate d 0).emitPoison d [(0, i / r)]) true
        else .did (s.qconvTake d t es i (some []) 0 0 true) true
      else
        let (x, fl) := sideOf d false [(0, a, i), (1, b, i / k)]
        let scale := (fld b.pay 0 8).toNat
        let els := convTok sf (fun v => quantElem t scale (dec sf v)) a
        let fl := els.foldl (fun f e => match e with | some y => f.or y.2 | none => f) fl
        .did ((((s.popAt d 0).popScale d k i true).addFl d.n fl).qconvTake d t es i
          (some (els.map (fun e => e.map (·.1)))) x.wexp x.mcount true) true) (fun s go => go s))

/-- QDEQ (R265): s output tokens for each input token. -/
def execQdeq (t : BitVec 4) (e : BitVec 4) (s : State) : Out :=
  let d := s.nd
  let es := elemCount e
  let ed := elemCount t
  let k := 128 / es
  let n := es / ed
  .next (s.nodeStep d [0, 1] [0] false (fun s =>
    match s.blocked d k with
    | .wait => .wait
    | .drop s' => .did s' false
    | .fin hs => .did (s.endNode d [0] hs) false
    | .gap f g c => .did ((s.popAt d 0).emitGap d [0] (f * n) (g * n) c) true
    | .lost i c => .did (((s.popAt d 0).sawGap d.n).emitGap d [0] (i * n) n c) true
    | .pair a i b =>
      if a.kind = kPOISON ∨ b.kind = kPOISON then
        .did (((s.popAt d 0).popScale d k i true).emitPoison d ((List.range n).map (fun j => (0, i * n + j)))) true
      else
      let (x, fl) := sideOf d false [(0, a, i), (1, b, i / k)]
      let p := s.prog d
      let scale := (fld b.pay 0 8).toNat
      let els := ((convTok e (dequantElem e t scale) a).drop (p * ed)).take ed
      let (pay, v, g) := packFl t els
      let s := if p + 1 = n then ((s.popAt d 0).popScale d k i true).setProg d 0 else s.setProg d (p + 1)
      .did ((s.addFl d.n (fl.or g)).emit d 0 (({ x with valid := v } : Side).tok pay) (ix (i * n + p))) true) (fun s go => go s))

/-! ## NORM and PERM -/

/-- Round an exact quotient of a value by a count to f32, RNE. -/
def divRound (x : Num) (n : Nat) : Num × Fl :=
  match x with
  | .fin neg m e => if m = 0 then (x, {}) else Fmt.f32.roundNum .rne (sticky neg (m * 2 ^ 80 / n) (e - 80) (m * 2 ^ 80 % n != 0))
  | x => (x, {})

/-- The RSUM tree over f32 patterns. -/
def sumTree (l : List (Option Nat)) : Num × Fl :=
  let r := treeOf (combineOpt 0 6) (l.map (fun x => { v := x }))
  (Fmt.f32.decode (r.v.getD 0), r.fl)

/-- NORM (R268) of a token's elements. -/
def normElems (t : BitVec 4) (m : BitVec 2) (eps : Nat) (els : List (Option Nat)) : List (Option (Nat × Fl)) :=
  let f32 (x : Num × Fl) : Nat × Fl := let (c, g) := Fmt.f32.round .rne x.1; (c, x.2.or g)
  let n := (els.filter Option.isSome).length
  let xs := els.map (fun x => x.map (fun v => (Fmt.f32.round .rne (dec t v)).1))
  let (sum, f0) := sumTree xs
  let (mean, f1) := divRound sum n
  let ds := xs.map (fun x => x.map (fun v => f32 ((Fmt.f32.decode v).add mean.negate)))
  let sq := ds.map (fun x => x.map (fun v => f32 ((Fmt.f32.decode v.1).mul (Fmt.f32.decode v.1))))
  let (q, f2) := sumTree (sq.map (fun x => x.map (·.1)))
  let (v0, f3) := divRound q n
  let (v, f4) := f32 (v0.add (Fmt.f32.decode eps))
  let (k, f5) := f32 (Fmt.f32.decode v).rsq
  let all := (ds ++ sq).foldl (fun f x => match x with | some y => f.or y.2 | none => f) (((((f0.or f1).or f2).or f3).or f4).or f5)
  ds.map (fun x => x.map (fun y => let (c, g) := fpElem t m ((Fmt.f32.decode y.1).mul (Fmt.f32.decode k)); (c, all.or g)))

/-- NORM (R268). -/
def execNorm (t : BitVec 4) (m : BitVec 2) (s : State) : Out :=
  .next (s.elementNode [0] false (fun s hs =>
    match tokOf hs 0 with
    | some a =>
      let els := a.elems t
      if els.all Option.isNone then (0, 0, {}) else packFl t (normElems t m s.nd.const.toNat els)
    | none => (0, 0, {})))

/-- One pass of the Feistel rounds (R269). -/
def feistel (seed : Word) (epoch h y : Nat) : Nat :=
  let (hi, lo) := (List.range 4).foldl (fun (p : Nat × Nat) q =>
    let k := hashH seed epoch q
    (p.2, p.1 ^^^ ((hashH k 0 p.2).toNat % 2 ^ h))) (y / 2 ^ h, y % 2 ^ h)
  hi * 2 ^ h + lo

/-- Passes until the value lies below n; the cycle that holds i has at most `fuel` members. -/
def cycleWalk (seed : Word) (epoch h n : Nat) : Nat → Nat → Nat
  | 0, y => y
  | fuel + 1, y =>
    let y' := feistel seed epoch h y
    if y' < n then y' else cycleWalk seed epoch h n fuel y'

/-- The half width h of R269: b is at least ⌈log2 N⌉, at least 2 and even. -/
def permHalf (n : Nat) : Nat :=
  let b := Nat.max 2 (if n ≤ 1 then 0 else Nat.log2 (n - 1) + 1)
  (b + b % 2) / 2

/-- PERM (R269). -/
def execPerm (s : State) : Out :=
  .next (s.elementNode [0] false (fun s hs =>
    match tokOf hs 0 with
    | some a =>
      let n := s.nd.const.toNat
      let h := permHalf n
      let r := s.reg s.focus.owner
      let els := (a.elems 1).map (fun x => match x with
        | none => (none, ({} : Fl))
        | some i => if n ≤ i then (none, { aovf := true }) else (some (cycleWalk r.seed r.epoch.toNat h n (2 ^ (2 * h)) i), {}))
      let (p, v) := packElems 1 (els.map (·.1))
      (p, v, els.foldl (fun f e => f.or e.2) {})
    | none => (0, 0, {})))

end Sys2Proof.Machine
end

