-- ==== Sys2Proof/Machine/Electrum.lean ====
section
/-! DEFINITION. VOTE (R378, R379), the checksum operations CKSUM and CKCHK (R380 to R382), and CAPQ (R394). -/

namespace Sys2Proof.Machine

/-! ## VOTE -/

/-- One bit of a CRC-32 (IEEE, reflected). -/
def crcBit (c : Nat) : Nat := if c % 2 = 1 then (c / 2) ^^^ 0xEDB88320 else c / 2

/-- CRC-32 over n bytes of a little-endian number. -/
def crcBytes : Nat → Nat → Nat → Nat
  | 0, _, c => c
  | n + 1, v, c => crcBytes n (v / 256) ((List.range 8).foldl (fun c _ => crcBit c) (c ^^^ v % 256))

/-- The CRC-32 of a record: payload, then sideband. -/
def Token.crc (t : Token) : Nat := crcBytes 36 (t.pay.toNat + t.side.toNat * 2 ^ 256) 0xFFFFFFFF ^^^ 0xFFFFFFFF

/-- The counts of a VOTE: three counts of disagreements, a spare, then pairs of an index and a CRC with the copy above
it. -/
def votePad (l : List Nat) : List Nat := (List.range 4).map (fun k => l.getD k 0)

/-- Pending entries: index, CRC, copy. -/
def votePend (l : List Nat) : List (Nat × Nat × Nat) :=
  (List.range ((l.length - 4) / 2)).map (fun k => (l.getD (4 + 2 * k) 0, l.getD (5 + 2 * k) 0 % 2 ^ 32, l.getD (5 + 2 * k) 0 / 2 ^ 32))

/-- Write the pending entries. -/
def State.setPend (s : State) (d : Nd) (ps : List (Nat × Nat × Nat)) : State :=
  s.setCounts d (votePad (s.counts d) ++ ps.flatMap (fun p => [p.1, p.2.1 + p.2.2 * 2 ^ 32]))

/-- A disagreement of a copy: its count, and a report on output 1 (R379). -/
def State.disagree (s : State) (d : Nd) (copy i : Nat) : State :=
  let l := s.counts d
  let pad := (votePad l).set copy ((votePad l).getD copy 0 + 1)
  (s.setCounts d (pad ++ l.drop 4)).emit d 1 (dataTok (BitVec.ofNat 256 (i % 2 ^ 32 + copy * 2 ^ 32)) 3) i

/-- The index a head stands at: END beyond every index. -/
def voteIndex (t : Token) (i : Nat) : Nat := if t.kind = kEND then 2 ^ 48 else if t.kind = kGAP then t.gapFirst else i

/-- Two records agree: equal, and not POISON. -/
def agree (x y : Token) : Bool := x == y && x.kind != kPOISON

/-- The heads VOTE sees: copy, token, index; MARK and DRAIN stand for none. -/
def State.voteHeads (s : State) (d : Nd) : List (Nat × Token × Nat) :=
  (List.range 3).filterMap (fun k =>
    match s.headAt d k with
    | some (t, i) => if t.kind = kMARK ∨ t.kind = kDRAIN then none else some (k, t, voteIndex t i)
    | none => none)

/-- A copy that is behind delivers its record of a pending index, or shows that it has lost it; a record of an index below, which the
two other copies have passed without it, is a disagreement of each of them and is dropped (R378). -/
def State.voteLate (s : State) (d : Nd) (hs : List (Nat × Token × Nat)) : Option State :=
  let ps := votePend (s.counts d)
  hs.findSome? (fun (k, t, i) =>
    match ps.find? (fun p => p.2.2 == k) with
    | none => none
    | some p =>
      let s' := s.setPend d (ps.erase p)
      if i = p.1 then
        let s' := s'.popAt d k
        some (if t.kind ≠ kPOISON ∧ t.crc = p.2.1 then s' else s'.disagree d k p.1)
      else if p.1 < i then some (s'.disagree d k p.1)
      else some ((((List.range 3).filter (· != k)).foldl (fun s j => s.disagree d j i) (s.popAt d k)).skip d 0 i))

/-- Emit the agreed record; END goes on both outputs. -/
def State.voteEmit (s : State) (d : Nd) (t : Token) (i : Nat) : State :=
  if t.kind = kEND then (s.emitAll d [0, 1] t 0).modRt d.n d.t (fun r => { r with ended := insertNat r.ended d.slot })
  else s.emit d 0 t i

/-- VOTE where no two heads at the lowest index m agree (R378): three records there, or two POISONs, fault; two ENDs are
emitted as END; a record two copies have lost is a disagreement of each, and is dropped.  Two records that differ where the
third copy has lost its own fault too (DESIGN CHOICE, log 63). -/
def State.voteAlone (s : State) (d : Nd) (cur now : List (Nat × Token × Nat)) (m : Nat) : Went :=
  if now.length = 3 ∨ 2 ≤ (now.filter (fun h => h.2.1.kind == kPOISON)).length then .did (s.nodeFault d cUNCORR) false
  else
    match cur.filter (fun h => h.2.1.kind == kEND), now with
    | x :: y :: _, _ => .did ((s.popAll d [x.1, y.1]).voteEmit d (endTok (x.2.1.pay.getLsbD 0 || y.2.1.pay.getLsbD 0)) 0) true
    | _, [z] =>
      if cur.length = 3 then
        .did ((((cur.map (·.1)).filter (· != z.1)).foldl (fun s k => s.disagree d k m) (s.popAt d z.1)).skip d 0 m) true
      else .wait
    | _, _ => if cur.length = 3 then .did (s.nodeFault d cUNCORR) false else .wait

/-- VOTE acts once (R378). -/
def State.voteAct (s : State) (d : Nd) : Went :=
  let hs := s.voteHeads d
  match s.voteLate d hs with
  | some s' => .did s' false
  | none =>
    let ps := votePend (s.counts d)
    let cur := hs.filter (fun h => !ps.any (fun p => p.2.2 == h.1))
    if (s.rt d.n d.t).ended.contains d.slot then
      (match cur with
       | (k, t, i) :: _ => .did (if t.kind = kEND then s.popAt d k else (s.popAt d k).disagree d k i) false
       | [] => .wait)
    else
      let m := cur.foldl (fun m h => Nat.min m h.2.2) (2 ^ 48)
      let now := cur.filter (fun h => h.2.2 == m)
      let pair := now.findSome? (fun x => (now.find? (fun y => x.1 < y.1 && agree x.2.1 y.2.1)).map (fun y => (x, y)))
      match pair with
      | some (x, y) =>
        let third := 3 - x.1 - y.1
        let s1 := (s.popAll d [x.1, y.1]).voteEmit d x.2.1 m
        (match cur.find? (fun h => h.1 == third) with
         | some z =>
           if z.2.2 = m then
             .did (let s2 := s1.popAt d third
                   if z.2.1.kind ≠ kPOISON ∧ z.2.1.crc = x.2.1.crc then s2 else s2.disagree d third m) true
           else .did (s1.disagree d third m) true
         | none =>
           if x.2.1.kind = kEND then .did s1 true
           else if 16 ≤ ps.length then .wait
           else .did (s1.setPend d (ps ++ [(m, x.2.1.crc, third)])) true)
      | none => s.voteAlone d cur now m

/-- VOTE (R378). -/
def execVote (_t : BitVec 4) (s : State) : Out :=
  let d := s.nd
  .next (
    if !s.nodeLive d then s
    else
      match ([0, 1, 2] ++ (if d.ordered then [3] else [])).findSome? (fun k => (s.headAt d k).bind (fun h =>
          match badHead false k h.1 with | some c => if c = cUNCORR ∧ k ≠ 3 then none else some c | none => none)) with
      | some c => s.nodeFault d c
      | none =>
        if [0, 1, 2].all (fun k => match s.headAt d k with | some h => h.1.kind == kDRAIN | none => false) then
          s.drainNode d [0, 1, 2] [0, 1]
        else
          let o : Option Nat := if d.ordered then (s.headAt d 3).map (fun h => h.1.kind) else some kEND
          if o = some kORDER ∨ o = some kEND then
            match s.voteAct d with
            | .wait => s
            | .did s' firing =>
              if s.illAt d then s.nodeFault d cUNCORR
              else if firing ∧ d.ordered ∧ o = some kORDER ∧ actsIn (s'.reg d.n).st then s'.popAt d 3 else s'
          else s)

/-! ## Checksums (R380) -/

/-- A checksum: the sum or X, then 0 or Y, K and n. -/
structure Cksum where
  x : Nat := 0
  y : Nat := 0
  k : Nat := 0
  n : Nat := 1
  deriving DecidableEq, Repr

/-- The sum of two FP64 patterns, RNE. -/
def add64 (a b : Nat) : Nat := (Fmt.f64.round .rne ((Fmt.f64.decode a).add (Fmt.f64.decode b)).1).1

/-- Add an element of a type. -/
def Cksum.add (ty : BitVec 4) (c : Cksum) (e : Nat) : Cksum :=
  if ty = 6 then
    let v := Fmt.f32.decode e
    let p := (Fmt.f64.round .rne v).1
    let q := (Fmt.f64.round .rne v.abs).1
    { c with x := if c.k = 0 then p else add64 c.x p, y := if c.k = 0 then q else add64 c.y q, k := c.k + 1 }
  else { c with x := (((c.x : Int) + intOf ty e) % 2 ^ 64).toNat, k := c.k + 1 }

/-- The combination of two checksums (R381). -/
def Cksum.comb (ty : BitVec 4) (a b : Cksum) : Cksum :=
  { x := if ty = 6 then add64 a.x b.x else (a.x + b.x) % 2 ^ 64
    y := if ty = 6 then add64 a.y b.y else 0
    k := (a.k + b.k) % 2 ^ 64, n := (a.n + b.n) % 2 ^ 64 }

/-- A number scaled by 2^1200 as an integer, when it is finite. -/
def fixed : Num → Option Int
  | .fin neg m e => some ((if neg then -1 else 1) * ((m * 2 ^ (e + 1200).toNat : Nat) : Int))
  | _ => none

/-- Do X values meet the bound of R380, or are both NaN, or the same infinity (R382)? -/
def boundOk (xa xb y k n : Nat) : Bool :=
  let a := Fmt.f64.decode xa; let b := Fmt.f64.decode xb
  match fixed a, fixed b with
  | some p, some q =>
    (match fixed (Fmt.f64.decode y) with
     | some z => decide ((((p - q).natAbs : Nat) : Int) * 2 ^ 52 ≤ ((k + n : Nat) : Int) * z + ((n - 1 : Nat) : Int) * 2 ^ 28 * z)
     | none => (Fmt.f64.decode y).isInf)
  | _, _ => (a.isNan && b.isNan) || (a.isInf && b.isInf && a.neg == b.neg)

/-- Does a result's checksum match the combined one (R382)? -/
def Cksum.matches (ty : BitVec 4) (a b : Cksum) : Bool :=
  a.k == b.k && (if ty = 6 then boundOk a.x b.x b.y b.k b.n else a.x == b.x)

/-- The i64 token of a checksum. -/
def Cksum.tok (c : Cksum) : Token :=
  dataTok (BitVec.ofNat 256 (c.x % 2 ^ 64 + c.y % 2 ^ 64 * 2 ^ 64 + c.k % 2 ^ 64 * 2 ^ 128 + c.n % 2 ^ 64 * 2 ^ 192)) 0xFF

/-- A checksum from a token. -/
def ckOf (t : Token) : Cksum :=
  { x := (fld t.pay 0 64).toNat, y := (fld t.pay 64 64).toNat, k := (fld t.pay 128 64).toNat, n := (fld t.pay 192 64).toNat }

/-- The checksum in the node state. -/
def State.ckState (s : State) (d : Nd) : Cksum :=
  let v := s.nstate d
  { x := (fld v 0 64).toNat, y := (fld v 64 64).toNat, k := (fld v 128 64).toNat }

/-- CKSUM emits its checksum on output 1 and resets. -/
def State.ckEmit (s : State) (d : Nd) : State :=
  ((s.emit d 1 (s.ckState d).tok ((s.counts d).getD 1 0)).setNstate d 0).setCounts d []

/-- CKSUM (R381). -/
def execCksum (t : BitVec 4) (_b : BitVec 2) (c : BitVec 1) (e : BitVec 1) (s : State) : Out :=
  let d := s.nd
  if c = 1 then
    .next (s.node
      { slots := [0, 1]
        fire := fun s hs =>
          match hs with
          | a :: b :: _ => (s.popAll d [0, 1]).emit d 0 (((ckOf a.2.1).comb t (ckOf b.2.1)).tok) a.2.2
          | _ => s
        gap := fun s m n g => s.emitGap d [0] m n g })
  else
    .next (s.node
      { slots := [0], outs := [0, 1]
        fire := fun s hs =>
          match hs with
          | (_, a, i) :: _ =>
            let k := (a.elems t).foldl (fun k x => match x with | some v => k.add t v | none => k) (s.ckState d)
            let s := (((s.popAt d 0).emit d 0 a i).setNstate d (zext k.tok.pay 512)).setCounts d [1, i]
            if e = 1 ∧ a.last then s.ckEmit d else s
          | _ => s
        gap := fun s m n g => s.emitGap d [0] m n g
        fin := fun s =>
          if s.prog d = 1 then none
          else if e = 1 ∧ (s.counts d).isEmpty then none
          else some ((s.ckEmit d).setProg d 1)
        sick := fun hs => match hs with | (_, _, i) :: _ => [(0, i)] | [] => [] })

/-- CKCHK (R382): a CTRL token with condition 1, or the region fault UNCORR. -/
def execCkchk (t : BitVec 4) (s : State) : Out :=
  let d := s.nd
  .next (s.node
    { slots := [0, 1]
      fire := fun s hs =>
        match hs with
        | a :: b :: _ =>
          if (ckOf a.2.1).matches t (ckOf b.2.1) then (s.popAll d [0, 1]).emit d 0 (ctrlTok true) a.2.2
          else s.nodeFault d cUNCORR
        | _ => s
      gap := fun s m n g => s.emitGap d [0] m n g })

/-! ## CAPQ -/

/-- The six live counts CAPQ reports for a node's tile (R394). -/
def State.capCounts (s : State) (d : Nd) : List Nat :=
  let c := clusterOf d.n
  let t := (s.reg d.n).absTile d.t
  [(s.bankSet (.scratch c t)).live, (s.bankSet (.treg c t)).live, (s.bankSet (.quad c (quadOf t))).live,
   (s.bankSet (.l2 c (pageOf t))).live, (s.bankSet (.weight c (quarterOf t))).live, (s.bankSet (.llc (fld c 3 2))).live]

/-- CAPQ (R394). -/
def execCapq (s : State) : Out :=
  let d := s.nd
  .next (s.node
    { slots := [0]
      fire := fun s hs =>
        match hs with
        | (_, a, i) :: _ =>
          let (x, f) := sideOf d false [(0, a, i)]
          let pay := (s.capCounts d).zipIdx.foldl (fun v p => v + p.1 * 2 ^ (32 * p.2)) 0
          ((s.popAt d 0).addFl d.n f).emit d 0 (({ x with valid := 0x3F } : Side).tok (BitVec.ofNat 256 pay)) i
        | _ => s
      gap := fun s m n g => s.emitGap d [0] m n g })

end Sys2Proof.Machine
end

