-- ==== Sys2Proof/Machine/Matrix.lean ====
section
/-! DEFINITION. The serial matrix unit (chapter 7): shapes, tile registers, the accumulator, precision, products, and the
matrix operations that touch no memory beyond the tile. -/

namespace Sys2Proof.Machine

/-! ## Shape words (Table 7.1, Table 7.2) -/

/-- ENC. -/
def shEnc (w : BitVec 32) : Nat := (fld w 28 4).toNat
/-- Rows. -/
def shRows (w : BitVec 32) : Nat := (fld w 22 6).toNat + 1
/-- Columns. -/
def shCols (w : BitVec 32) : Nat := (fld w 16 6).toNat + 1
/-- POINT. -/
def shPoint (w : BitVec 32) : Int := (fld w 10 6).toInt
/-- W. -/
def shW (w : BitVec 32) : Nat := (fld w 5 5).toNat + 1
/-- Is the encoding floating point? -/
def shFp (w : BitVec 32) : Bool := decide (2 ≤ shEnc w)
/-- The format of a floating-point encoding. -/
def shFmt (w : BitVec 32) : Fmt :=
  match shEnc w with | 3 => .f16 | 4 => .bf16 | 5 => .e4m3 | 6 => .e5m2 | 7 => .e2m1 | 8 => .tf8 | _ => .f32
/-- The element type of a floating-point encoding. -/
def shType (w : BitVec 32) : BitVec 4 :=
  match shEnc w with | 2 => 6 | 3 => 8 | 4 => 7 | 5 => 9 | 6 => 10 | 7 => 11 | 8 => 12 | 1 => 13 | _ => 0
/-- Storage width. -/
def shSb (w : BitVec 32) : Nat := if shEnc w = 1 then 2 * shW w else shW w
/-- Significand bits p (Table 7.2). -/
def shP (w : BitVec 32) : Nat :=
  match shEnc w with | 2 => 24 | 3 => 11 | 4 => 8 | 5 => 4 | 6 => 3 | 7 => 2 | _ => 6
/-- Elements. -/
def shCount (w : BitVec 32) : Nat := shRows w * shCols w

/-- Does a shape word keep the limits of Table 7.1 and R214? -/
def shapeOk (w : BitVec 32) : Bool :=
  decide (shEnc w ≤ 8) && fld w 0 5 == 0 && (!shFp w || (fld w 10 6 == 0 && shW w == (shFmt w).bits))
    && decide (shCount w * shSb w ≤ 32768)

/-- Does a TFILL type meet an encoding (Table 7.6)? -/
def fillType (w : BitVec 32) (t : BitVec 4) : Bool :=
  match shEnc w with
  | 0 => isInt t
  | 1 => t == 13
  | _ => t == shType w

/-- Does a TEMIT type meet an encoding (Table 7.6)? -/
def emitType (w : BitVec 32) (t : BitVec 4) : Bool :=
  match shEnc w with
  | 0 => t == 0 || t == 2 || t == 4 || t == 14
  | 1 => t == 13
  | _ => t == shType w

/-! ## Registers -/

/-- The storage of the node's tile. -/
def State.tmem (s : State) (n : BitVec 9) (t : TileNo) : TileMem := (s.clu (clusterOf n)).tile ((s.reg n).absTile t)

/-- Change it. -/
def State.modTmem (s : State) (n : BitVec 9) (t : TileNo) (f : TileMem → TileMem) : State :=
  s.modTile (clusterOf n) ((s.reg n).absTile t) f

/-- Shape, tag, cursor and NCUT of register q. -/
def State.tm (s : State) (d : Nd) (q : Nat) : TregMeta := Tab.get {} (s.rt d.n d.t).tmeta q

/-- Write them. -/
def State.setTm (s : State) (d : Nd) (q : Nat) (m : TregMeta) : State :=
  s.modRt d.n d.t (fun r => { r with tmeta := Tab.set r.tmeta q m })

/-- Does register q hold a poisoned word? -/
def State.tregBad (s : State) (d : Nd) (q : Nat) : Bool :=
  let m := s.tmem d.n d.t
  m.tregPoison.any (fun w => w / 512 == m.tregBanks.phys q)

/-- Write register q whole. -/
def State.setTreg (s : State) (d : Nd) (q : Nat) (v : BitVec 32768) : State :=
  s.modTmem d.n d.t (fun m =>
    let p := m.tregBanks.phys q
    { m with treg := Tab.set m.treg p v, tregPoison := m.tregPoison.filter (fun w => w / 512 != p) })

/-- Bits [lo, lo + len) of a register replaced; a word loses its poison when replaced whole. -/
def State.patchTreg (s : State) (d : Nd) (q lo len v : Nat) : State :=
  s.modTmem d.n d.t (fun m =>
    let p := m.tregBanks.phys q
    let old := Tab.get (0 : BitVec 32768) m.treg p
    let mask : BitVec 32768 := BitVec.ofNat 32768 ((2 ^ len - 1) * 2 ^ lo)
    { m with
      treg := Tab.set m.treg p (old &&& ~~~mask ||| (BitVec.ofNat 32768 (v * 2 ^ lo) &&& mask))
      tregPoison := m.tregPoison.filter (fun w =>
        !(w / 512 == p && decide (lo ≤ 64 * (w % 512)) && decide (64 * (w % 512) + 64 ≤ lo + len))) })

/-- The words of bits [lo, lo + len) of a register are poisoned. -/
def State.spoilTreg (s : State) (d : Nd) (q lo len : Nat) : State :=
  s.modTmem d.n d.t (fun m =>
    { m with tregPoison := (List.range 512).foldl (fun l k =>
        if 64 * k < lo + len ∧ lo < 64 * k + 64 then insertNat l (512 * m.tregBanks.phys q + k) else l) m.tregPoison })

/-- The pattern of element e. -/
def regElem (w : BitVec 32) (v : BitVec 32768) (e : Nat) : Nat := (v >>> (e * shSb w)).toNat % 2 ^ shSb w

/-- The patterns of a register's elements, row-major. -/
def regElems (w : BitVec 32) (v : BitVec 32768) : List Nat := (List.range (shCount w)).map (regElem w v)

/-- A register of element patterns. -/
def regPack (w : BitVec 32) (l : List Nat) : BitVec 32768 :=
  BitVec.ofNat 32768 (l.zipIdx.foldl (fun v x => v + x.1 % 2 ^ shSb w * 2 ^ (x.2 * shSb w)) 0)

/-- The digits of an SD element of W digits (R215): digit 0 in the highest bits. -/
def sdElem (w : BitVec 32) (x : Nat) : List (Option Int) :=
  prefixOnly ((List.range (shW w)).map (fun p =>
    match x / 2 ^ (2 * (shW w - 1 - p)) % 4 with | 0 => some 0 | 1 => some 1 | 3 => some (-1) | _ => none))

/-- The pattern of W digits. -/
def sdPat (ds : List (Option Int)) : Nat := lanePack ds

/-- ew of R217. -/
def ewOf (m : TregMeta) : Nat :=
  let w := shW m.shape
  Nat.max 1 (Nat.min w (4 * ((w + 3) / 4 - m.ncut)))

/-- A register as it is read: of an SD register every digit at or beyond position ew is absent (R217). -/
def TregMeta.view (m : TregMeta) (v : BitVec 32768) : BitVec 32768 :=
  let k := shCount m.shape * shSb m.shape
  if shEnc m.shape = 1 ∧ ewOf m < shW m.shape then
    (v >>> k <<< k) ||| regPack m.shape ((regElems m.shape v).map (fun x => sdPat (sdCut (ewOf m) (sdElem m.shape x))))
  else v

/-- The bits of register q as an operation reads them. -/
def State.treg (s : State) (d : Nd) (q : Nat) : BitVec 32768 :=
  let m := s.tmem d.n d.t
  (s.tm d q).view (Tab.get 0 m.treg (m.tregBanks.phys q))

/-- The signed integer of an INT element. -/
def intElem (w : BitVec 32) (x : Nat) : Int := if 2 ^ (shW w - 1) ≤ x then (x : Int) - 2 ^ shW w else x

/-- The integer significand of an INT or SD element used at width u (R222). -/
def sigAt (w : BitVec 32) (u : Nat) (x : Nat) : Int :=
  if shEnc w = 0 then
    let k := shW w - u
    Int.fdiv (intElem w x) (2 ^ k) * 2 ^ k
  else sdValue (shW w) (sdCut u (sdElem w x))

/-- The exact value of an element (R215). -/
def elemNum (w : BitVec 32) (x : Nat) : Num :=
  if shFp w then (shFmt w).decode x else (Num.ofInt (sigAt w (shW w) x)).scale (-shPoint w)

/-! ## The accumulator (R218, R219) -/

/-- Is the accumulator in FP32 mode? -/
def RTile.accFp (r : RTile) : Bool := r.accRec.getLsbD 8
/-- Its point. -/
def RTile.accPoint (r : RTile) : Int := (fld r.accRec 0 7).toInt
/-- Is an accumulator record legal (Table 7.3)? -/
def accRecOk (w : BitVec 32) : Bool := fld w 9 23 == 0 && fld w 7 1 == 0 && (!w.getLsbD 8 || fld w 0 7 == 0)

/-- The cells, row by row. -/
def cellsOf (a : BitVec 65536) : List Nat := (List.range 1024).map (fun k => (a >>> (64 * k)).toNat % 2 ^ 64)
/-- An accumulator of cells. -/
def ofCells (l : List Nat) : BitVec 65536 := BitVec.ofNat 65536 (l.zipIdx.foldl (fun v x => v + x.1 % 2 ^ 64 * 2 ^ (64 * x.2)) 0)
/-- A cell as a signed integer. -/
def cellInt (x : Nat) : Int := if 2 ^ 63 ≤ x then (x : Int) - 2 ^ 64 else x

/-- acc is read out: empty and zero, unless KEEP (R219). -/
def State.releaseAcc (s : State) (d : Nd) (keep : Bool) : State :=
  if keep then s
  else (s.modTmem d.n d.t (fun m => { m with acc := 0, accPoison := [] })).modRt d.n d.t (fun r => { r with accFull := false, accSeen := 0 })

/-- A source register is read out: empty unless KEEP. -/
def State.releaseReg (s : State) (d : Nd) (q : Nat) (keep : Bool) : State :=
  if keep then s else s.setTm d q { s.tm d q with full := false }

/-! ## Holding (R225) -/

/-- Are these registers, and acc if named, held by no operation in progress? -/
def RTile.free (r : RTile) (regs : List Nat) (acc : Bool) : Bool :=
  !r.mops.any (fun m => m.regs.any regs.contains || (m.acc && acc))

/-- Is an operation of the node in progress? -/
def RTile.busy (r : RTile) (slot : Nat) : Bool := r.mops.any (fun m => m.slot.toNat == slot)

/-- What a matrix operation needs before it fires: registers empty, registers full, acc, and whether the shapes and
encodings meet its row (R233). -/
structure MatNeed where
  empty : List Nat := []
  full : List Nat := []
  acc : Option Bool := none        -- acc must be full (true) or empty
  useAcc : Bool := false
  readsAcc : Bool := false         -- cells of acc enter what the operation does
  also : List Nat := []            -- named, any tag
  reads : List Nat := []           -- registers a later firing of an emission reads
  ok : Bool := true

/-- Are the tags as required and nothing held? -/
def State.matReady (s : State) (d : Nd) (m : MatNeed) : Bool :=
  let r := s.rt d.n d.t
  m.empty.all (fun q => !(s.tm d q).full) && m.full.all (fun q => (s.tm d q).full)
    && (match m.acc with | some f => r.accFull == f | none => true)
    && r.free (m.empty ++ m.full ++ m.also) (m.useAcc || m.acc.isSome)

/-- A matrix node at slot A: it waits for its last operation to complete, forwards GAPs, and fires when its tags allow; a
mismatch raises IMAGE (R233), poison in a register it reads UNCORR.  In an Electrum copy a poisoned go record, or a poisoned
register, leaves the operation its effects on tags and storage, and POISON takes the place of its output records (R377). -/
def State.matNode (s : State) (need : State → Token → MatNeed) (fire : State → Token → Nat → State)
    (gap : State → Nat → Nat → Bool → State) (fin : State → Option State := fun _ => none) (own : Bool := true)
    (gapHold : State → Bool := fun _ => false) : State :=
  let d := s.nd
  s.nodeStep d [0] [0] false (fun s =>
    if (s.rt d.n d.t).busy d.slot ∧ own then .wait
    else s.align d
      { slots := [0]
        hold := fun s hs => match hs with | (_, a, _) :: _ => !s.matReady d (need s a) | _ => true
        fire := fun s hs =>
          match hs with
          | (_, a, i) :: _ =>
            let m := need s a
            if !m.ok then s.nodeFault d cIMAGE
            else
              let qs := m.full ++ m.reads
              let s := qs.foldl (fun s q => s.tregRead (clusterOf d.n) ((s.reg d.n).absTile d.t) q) s
              if qs.any (s.tregBad d) || (m.readsAcc && !(s.tmem d.n d.t).accPoison.isEmpty) then (if inCopy d.img d.t d.slot then fire s poisonTok i else s.nodeFault d cUNCORR)
              else fire s a i
          | _ => s
        gap := gap, fin := fin, gapHold := gapHold }) (fun s go => go s)

/-- GAPs go through unchanged (R226). -/
def State.matGap (s : State) (m n : Nat) (c : Bool) : State := s.emitGap s.nd [0] m n c

/-- POISON in place of an output record of a poisoned firing (R377). -/
def standIn (go t : Token) : Token := if go.kind = kPOISON then poisonTok else t

/-- The completion token of R226. -/
def State.matDone (s : State) (d : Nd) (go : Token) (i lane : Nat) : State :=
  let (x, f) := sideOf d false [(0, go, i)]
  (s.addFl d.n f).emit d 0 (standIn go (({ x with valid := 1 } : Side).tok (BitVec.ofNat 256 lane))) i

/-- The node fires an operation that completes after `cycles` cycles, this one counted. -/
def State.begin (s : State) (d : Nd) (i : Instr) (go : Token) (idx cycles : Nat) (regs : List Nat) (acc : Bool)
    (wa wb : Nat := 0) (capped : Bool := false) : State :=
  (s.popAt d 0).modRt d.n d.t (fun r => { r with mops := r.mops ++ [{
    slot := BitVec.ofNat 3 d.slot, op := i, go := go, idx := idx, due := s.now d.n + cycles - 1, regs := regs, acc := acc
    wa := wa, wb := wb, capped := capped }] })

/-! ## TSHAPE, TPREC, TZERO, TFILL, TACC -/

/-- TSHAPE (Table 7.7). -/
def execTshape (r : BitVec 4) (s : State) : Out :=
  let d := s.nd
  .next (s.matNode (fun _ _ => { empty := [r.toNat], ok := shapeOk d.const })
    (fun s a i => (((s.popAt d 0).setTreg d r.toNat 0).setTm d r.toNat { shape := d.const }).matDone d a i 0)
    (fun s m n c => s.matGap m n c))

/-- TPREC (Table 7.7). -/
def execTprec (s : State) : Out :=
  let d := s.nd
  .next (s.matNode (fun _ _ => {})
    (fun s a i => ((s.popAt d 0).modRt d.n d.t (fun r => { r with prec := d.const })).matDone d a i 0)
    (fun s m n c => s.matGap m n c))

/-- TZERO (Table 7.7): two cycles. -/
def execTzero (b : BitVec 2) (r : BitVec 4) (f : BitVec 1) (c : BitVec 1) (s : State) : Out :=
  let d := s.nd
  .next (s.matNode (fun _ _ => if c = 1 then { useAcc := true, ok := accRecOk d.const } else { also := [r.toNat] })
    (fun s a i => s.begin d (.tzero b r f c) a i 2 (if c = 1 then [] else [r.toNat]) (c == 1))
    (fun s m n k => s.matGap m n k))

/-- The element patterns a TFILL writes for a record, and flags (R234). -/
def fillElems (w : BitVec 32) (t : BitVec 4) (toks : List Token) : List (Nat × Fl) :=
  match shEnc w with
  | 1 => (List.range 8).map (fun k =>
      (if recValid toks k then sdPat (((recDigits toks k).take (shW w)) ++ List.replicate (shW w - 16 * toks.length) none) else 0, {}))
  | e => ((toks.head?.map (Token.elems t)).getD []).map (fun x =>
      match x with
      | none => (0, {})
      | some v =>
        if e = 0 then
          let (y, f) := satTo (intRange true (shW w)) (intOf t v)
          ((y % 2 ^ shW w).toNat, f)
        else (v, {}))

/-- Elements a record of a type brings. -/
def fillCount (t : BitVec 4) : Nat := elemCount t

/-- The fill is complete: cursor 0, tag full, the completion token (R234). -/
def State.fillDone (s : State) (d : Nd) (q : Nat) (m : TregMeta) (go : Token) (i : Nat) : State :=
  (s.setTm d q { m with cursor := 0, full := true }).matDone d go i (if shEnc m.shape = 1 then ewOf m else 0)

/-- The register's state as this firing of TFILL begins. -/
def State.fillStart (s : State) (d : Nd) (b : BitVec 2) (q : Nat) (narrow : Nat) : TregMeta :=
  let m := s.tm d q
  if m.cursor = 0 then { m with shape := if b = 1 then d.const else m.shape, ncut := narrow } else m

/-- TFILL takes a record. -/
def State.fillTake (s : State) (d : Nd) (t : BitVec 4) (b : BitVec 2) (q : Nat) (toks : List Token) (go : Token) (i : Nat) : State :=
  let m := s.fillStart d b q go.narrow
  let m := if t = 13 then { m with ncut := Nat.min m.ncut go.narrow } else m
  let n := shCount m.shape
  let sb := shSb m.shape
  let els := (fillElems m.shape t toks).take (n - m.cursor)
  let v := els.zipIdx.foldl (fun v x => v + x.1.1 % 2 ^ sb * 2 ^ (x.2 * sb)) 0
  let f := els.foldl (fun f x => f.or x.2) ({} : Fl)
  let s := (s.addFl d.n f).patchTreg d q (m.cursor * sb) (els.length * sb) v
  let s := if go.kind = kPOISON then s.spoilTreg d q (m.cursor * sb) (els.length * sb) else s
  let s := if t = 13 ∧ go.kind ≠ kPOISON then s.modQueue d.n d.t (4 * d.slot) (fun k => k.discard (d.qrec 0) i) else s.popAt d 0
  let cur := m.cursor + fillCount t
  let go := if t = 13 then go.marked false false else go
  if n ≤ cur then s.fillDone d q m go i else s.setTm d q { m with cursor := cur }

/-- TFILL's elements from the cursor on are zeroed, `count` of them (R234). -/
def State.fillZero (s : State) (d : Nd) (b : BitVec 2) (q count i : Nat) (go : Token) : State :=
  let m := s.fillStart d b q 0
  let n := shCount m.shape
  let sb := shSb m.shape
  let s := s.patchTreg d q (m.cursor * sb) (Nat.min count (n - m.cursor) * sb) 0
  let cur := m.cursor + count
  if n ≤ cur then s.fillDone d q m go i else s.setTm d q { m with cursor := cur }

/-- TFILL (R234): a GAP fills as a record does, so it waits for the tag and faults on a mismatch alike. -/
def execTfill (t : BitVec 4) (b : BitVec 2) (r : BitVec 4) (s : State) : Out :=
  let d := s.nd
  let q := r.toNat
  let go0 : Token := dataTok 0 0
  let shape (s : State) : BitVec 32 := if b = 1 then d.const else (s.tm d q).shape
  let ok (s : State) : Bool := fillType (shape s) t && shapeOk (shape s)
  .next (s.matNode
    (fun s _ => { empty := [q], ok := ok s })
    (fun s a i => s.fillTake d t b q (if t = 13 ∧ a.kind ≠ kPOISON then ((s.rt d.n d.t).queue (4 * d.slot)).headRec else [a]) a i)
    (fun s m n _ =>
      if ok s then (s.fillZero d b q (n * fillCount t) (ix (m + n - 1)) go0).sawGap d.n else s.nodeFault d cIMAGE)
    (fun s =>
      let m := s.tm d q
      if m.cursor = 0 ∨ m.full then none else some (s.fillZero d b q (shCount m.shape) 0 go0))
    (gapHold := fun s => !s.matReady d { empty := [q] }))

/-- TACC adds the elements of a record to the cells from the cursor on (R240). -/
def State.accTake (s : State) (d : Nd) (t : BitVec 4) (a : Token) : State :=
  let r := s.rt d.n d.t
  let cells := cellsOf (s.tmem d.n d.t).acc
  let (cells, cur, f, seen) := (a.elems t).foldl (fun (x : List Nat × Nat × Fl × Nat) e =>
    let (cells, cur, f, seen) := x
    match e with
    | none => (cells, (cur + 1) % 1024, f, seen)
    | some v =>
      let old := cells.getD cur 0
      let (y, g, q) :=
        if r.accFp then addSeen .f32 (dec 6 (old % 2 ^ 32)) (dec 6 v) (seenAt 1024 seen cur)
        else (let (z, h) := satTo (intRange true 64) (cellInt old + intOf t v); ((z % 2 ^ 64).toNat, h, 0))
      (cells.set cur y, (cur + 1) % 1024, f.or g, seenPut 1024 seen cur q)) (cells, r.taccCur, ({} : Fl), r.accSeen)
  ((s.addFl d.n f).modTmem d.n d.t (fun m => { m with acc := ofCells cells })).modRt d.n d.t
    (fun r => { r with taccCur := cur, accSeen := seen })

/-- TACC (R240). -/
def execTacc (t : BitVec 4) (c : BitVec 1) (s : State) : Out :=
  let d := s.nd
  let close (s : State) (wrapped : Bool) : State :=
    if wrapped ∧ c = 1 then s.modRt d.n d.t (fun r => { r with accFull := true }) else s
  let ok (s : State) : Bool := if (s.rt d.n d.t).accFp then t == 6 else t != 6
  .next (s.matNode
    (fun s _ => { acc := some false, readsAcc := true, ok := ok s })
    (fun s a _ =>
      let cur := (s.rt d.n d.t).taccCur
      close ((s.popAt d 0).accTake d t a) (decide (1024 ≤ cur + elemCount t)))
    (fun s _ n _ =>
      let cur := (s.rt d.n d.t).taccCur
      if ok s then
        close (s.modRt d.n d.t (fun r => { r with taccCur := (cur + n * elemCount t) % 1024 })) (decide (1024 ≤ cur + n * elemCount t))
      else s.nodeFault d cIMAGE)
    (gapHold := fun s => !s.matReady d { acc := some false }))

/-! ## TMMA -/

/-- Natural width (R221). -/
def naturalWidth (m : TregMeta) (guard : Nat) : Nat :=
  match shEnc m.shape with
  | 0 => shW m.shape
  | 1 => ewOf m
  | _ => shP m.shape + guard

/-- The wider width loses one, A on a tie, until the product is within the cap (R221).  The fuel is the widths' sum. -/
def capWidths (cap : Nat) : Nat → Nat → Nat → Nat × Nat
  | 0, a, b => (a, b)
  | k + 1, a, b => if a * b ≤ cap then (a, b) else if b ≤ a then capWidths cap k (a - 1) b else capWidths cap k a (b - 1)

/-- wa, wb and whether they were capped (R221). -/
def State.widths (s : State) (d : Nd) (a b : TregMeta) : Nat × Nat × Bool :=
  let p := (s.rt d.n d.t).prec
  let guard := (fld p 15 3).toNat
  let pin (m : TregMeta) (k : Nat) : Nat := if shFp m.shape ∨ k = 0 then naturalWidth m guard else k
  let wa := pin a (fld p 6 6).toNat
  let wb := pin b (fld p 0 6).toNat
  let cap := (s.clu (clusterOf d.n)).cap.toNat
  if imgCapok d.img ∧ !imgInvar d.img ∧ cap ≠ 0 ∧ cap < wa * wb then
    let (x, y) := capWidths cap (wa + wb) wa wb
    (x, y, true)
  else (wa, wb, false)

/-- Entry (i, j) of a row-major list. -/
def at2 {α : Type} (z : α) (l : List α) (cols i j : Nat) : α := l.getD (i * cols + j) z

/-- One integer cell (R227). -/
def cellAdd (p pa pb : Int) (old : Nat) (sum : Int) : Nat × Fl :=
  let k := p - pa - pb
  let v := if 0 ≤ k then sum * 2 ^ k.toNat else Int.fdiv sum (2 ^ (-k).toNat)
  let (c, f) := satTo (intRange true 64) (cellInt old + v)
  ((c % 2 ^ 64).toNat, f)

/-- R227 over the cells. -/
def mmaInt (p : Int) (sa sb : BitVec 32) (wa wb : Nat) (a b cells : List Nat) : List Nat × Fl :=
  let m := shRows sa; let n := shCols sb; let k := shCols sa
  let ma := a.map (sigAt sa wa)
  let mb := b.map (sigAt sb wb)
  (List.range m).foldl (fun acc i =>
    (List.range n).foldl (fun (acc : List Nat × Fl) j =>
      let sum := (List.range k).foldl (fun (t : Int) q => t + at2 0 ma k i q * at2 0 mb n q j) 0
      let (c, f) := cellAdd p (shPoint sa) (shPoint sb) (acc.1.getD (32 * i + j) 0) sum
      (acc.1.set (32 * i + j) c, acc.2.or f)) acc) (cells, {})

/-- The exponent of a nonzero element: 1 − bias for a subnormal (R230, R231). -/
def fpExp (f : Fmt) (x : Num) : Option Int :=
  match x with
  | .fin _ m e => if m = 0 then none else
      let top := leadExp m e
      some (if f = .tf8 then top else max top (1 - (f.bias : Int)))
  | _ => none

/-- Sign · trunc(|x| / 2^q). -/
def alignSig (x : Num) (q : Int) : Int :=
  match x with
  | .fin n m e => let v : Int := ((floorTo m e q).1 : Nat); if n then -v else v
  | _ => 0

/-- One chunk of R230 added to a cell, with the infinities the cell's sum has taken in (R204). -/
def chunkAdd (fa fb : Fmt) (wa wb : Nat) (xs ys : List Num) (cell seen : Nat) : Nat × Fl × Nat :=
  let bad := xs ++ ys
  if bad.any (fun x => x.isNan || x.isInf) then
    (0x7FC00000, if bad.any Num.isInf then Fl.invalid else {}, seen ||| infBit (dec 6 (cell % 2 ^ 32)))
  else
    let top (f : Fmt) (l : List Num) : Int := (l.filterMap (fpExp f)).foldl max (-100000)
    let ea := top fa xs; let eb := top fb ys
    let qa := ea - wa + 1; let qb := eb - wb + 1
    let sum := (xs.zip ys).foldl (fun (t : Int) p => t + alignSig p.1 qa * alignSig p.2 qb) 0
    let x : Num :=
      if sum = 0 then
        .fin (xs.length == 16 && (xs.zip ys).all (fun p => (p.1.isZero || p.2.isZero) && p.1.neg != p.2.neg)) 0 0
      else .fin (decide (sum < 0)) sum.natAbs (qa + qb)
    let (r, f) := Fmt.f32.round .rne x
    let (c, g, q) := addSeen .f32 (dec 6 (cell % 2 ^ 32)) (dec 6 r) seen
    (c, f.or g, q)

/-- R230 over the cells. -/
def mmaFp (sa sb : BitVec 32) (wa wb : Nat) (a b cells : List Nat) (seen : Nat) : List Nat × Fl × Nat :=
  let m := shRows sa; let n := shCols sb; let k := shCols sa
  let na := a.map (shFmt sa).decode
  let nb := b.map (shFmt sb).decode
  (List.range m).foldl (fun acc i =>
    (List.range n).foldl (fun acc j =>
      (List.range ((k + 15) / 16)).foldl (fun (acc : List Nat × Fl × Nat) g =>
        let qs := (List.range 16).filterMap (fun q => if 16 * g + q < k then some (16 * g + q) else none)
        let e := 32 * i + j
        let (c, f, q) := chunkAdd (shFmt sa) (shFmt sb) wa wb (qs.map (at2 .nan na k i)) (qs.map (fun q => at2 .nan nb n q j))
          (acc.1.getD e 0) (seenAt 1024 acc.2.2 e)
        (acc.1.set e c, acc.2.1.or f, seenPut 1024 acc.2.2 e q)) acc) acc) (cells, {}, seen)

/-- Do the registers of a TMMA meet its row (Table 7.7)? -/
def mmaOk (r : RTile) (a b : BitVec 32) : Bool :=
  decide (shRows a ≤ 32) && decide (shCols b ≤ 32) && shCols a == shRows b && shFp a == shFp b && shFp a == r.accFp

/-- TMMA (R221, R224, R225): it fires, fixing its widths. -/
def execTmma (r : BitVec 4) (q : BitVec 4) (l : BitVec 1) (k : BitVec 1) (j : BitVec 1) (s : State) : Out :=
  let d := s.nd
  .next (s.matNode
    (fun s _ =>
      let t := s.rt d.n d.t
      -- one TMMA at a time (R224): its hold on acc keeps the next waiting
      { full := [r.toNat, q.toNat], acc := some false, readsAcc := true, ok := mmaOk t (s.tm d r.toNat).shape (s.tm d q.toNat).shape })
    (fun s a i =>
      let (wa, wb, cap) := s.widths d (s.tm d r.toNat) (s.tm d q.toNat)
      let s := if cap then s.raiseFlag d.n 4 else s
      let cycles := (shCols (s.tm d r.toNat).shape + 15) / 16 * wa * wb + 6
      s.begin d (.tmma r q l k j) a i cycles [r.toNat, q.toNat] true wa wb cap)
    (fun s m n c => s.matGap m n c))

/-- A TMMA completes (R227, R230, R226): cells, tags, the completion token. -/
def State.mmaDone (s : State) (d : Nd) (m : MatOp) (r q : Nat) (close keepB keepA : Bool) : State :=
  let a := s.tm d r
  let b := s.tm d q
  let cells := cellsOf (s.tmem d.n d.t).acc
  let t := s.rt d.n d.t
  let as := regElems a.shape (s.treg d r)
  let bs := regElems b.shape (s.treg d q)
  let (out, f, seen) :=
    if shFp a.shape then mmaFp a.shape b.shape m.wa m.wb as bs cells t.accSeen
    else (let o := mmaInt t.accPoint a.shape b.shape m.wa m.wb as bs cells; (o.1, o.2, t.accSeen))
  let s := ((s.addFl d.n f).modTmem d.n d.t (fun x => { x with acc := ofCells out })).modRt d.n d.t (fun x => { x with accSeen := seen })
  let s := (s.releaseReg d r keepA).releaseReg d q keepB
  let s := if close then s.modRt d.n d.t (fun x => { x with accFull := true }) else s
  s.matDone d m.go m.idx (m.wa + m.wb * 256 + if m.capped then 65536 else 0)

/-! ## TMOV, TCVT, TQUANT -/

/-- ⌈rows·cols·sb / 4096⌉ + 2. -/
def moveCycles (w : BitVec 32) (sb : Nat) : Nat := (shCount w * sb + 4095) / 4096 + 2

/-- TMOV (Table 7.7). -/
def execTmov (r : BitVec 4) (q : BitVec 4) (x : BitVec 1) (k : BitVec 1) (s : State) : Out :=
  let d := s.nd
  .next (s.matNode (fun _ _ => { full := [r.toNat], empty := [q.toNat] })
    (fun s a i =>
      let w := (s.tm d r.toNat).shape
      s.begin d (.tmov r q x k) a i (moveCycles w (shSb w)) [r.toNat, q.toNat] false)
    (fun s m n c => s.matGap m n c))

/-- A shape with rows and columns exchanged. -/
def shTrans (w : BitVec 32) : BitVec 32 := fld w 28 4 ++ fld w 16 6 ++ fld w 22 6 ++ fld w 0 16

/-- A TMOV completes. -/
def State.movDone (s : State) (d : Nd) (m : MatOp) (r q : Nat) (trans keep : Bool) : State :=
  let a := s.tm d r
  let els := regElems a.shape (s.treg d r)
  let rows := shRows a.shape; let cols := shCols a.shape
  let out := if trans then (List.range (rows * cols)).map (fun e => at2 0 els cols (e % rows) (e / rows)) else els
  let shape := if trans then shTrans a.shape else a.shape
  let s := (s.setTreg d q (regPack shape out)).setTm d q { shape := shape, full := true, cursor := 0, ncut := a.ncut }
  (s.releaseReg d r keep).matDone d m.go m.idx 0

/-- TCVT (R236). -/
def execTcvt (r : BitVec 4) (q : BitVec 4) (k : BitVec 1) (m : BitVec 2) (s : State) : Out :=
  let d := s.nd
  .next (s.matNode
    (fun s _ =>
      let a := (s.tm d r.toNat).shape; let b := (s.tm d q.toNat).shape
      { full := [r.toNat], empty := [q.toNat], ok := shRows a == shRows b && shCols a == shCols b })
    (fun s t i =>
      let a := (s.tm d r.toNat).shape; let b := (s.tm d q.toNat).shape
      s.begin d (.tcvt r q k m) t i (moveCycles a (Nat.max (shSb a) (shSb b))) [r.toNat, q.toNat] false)
    (fun s m n c => s.matGap m n c))

/-- Convert an element of encoding a into encoding b (R236). -/
def tcvtElem (a b : BitVec 32) (m : BitVec 2) (x : Nat) : Nat × Fl :=
  let v := elemNum a x
  if shFp b then (shFmt b).round (Mode.ofCode m) v
  else
    let r : Int × Int := if shEnc b = 0 then intRange true (shW b) else (-(2 ^ shW b - 1 : Int), 2 ^ shW b - 1)
    let overFl : Fl := if shFp a then Fl.invalid else { aovf := true }
    let (y, f) : Int × Fl := match v with
      | .nan => (0, Fl.invalid)
      | .inf n => (if n then r.1 else r.2, Fl.invalid)
      | .fin n mm e =>
        let (z, inx) := toInteger (Mode.ofCode m) n mm (e + shPoint b)
        let g : Fl := { inx := inx }
        if z < r.1 then (r.1, overFl) else if r.2 < z then (r.2, overFl) else (z, g)
    if shEnc b = 0 then ((y % 2 ^ shW b).toNat, f) else (sdPat (sdCanon (shW b) (shW b) y), f)

/-- A TCVT completes. -/
def State.cvtDone (s : State) (d : Nd) (m : MatOp) (r q : Nat) (keep : Bool) (mode : BitVec 2) : State :=
  let a := (s.tm d r).shape
  let b := (s.tm d q).shape
  let out := (regElems a (s.treg d r)).map (tcvtElem a b mode)
  let f := out.foldl (fun f x => f.or x.2) ({} : Fl)
  let s := ((s.addFl d.n f).setTreg d q (regPack b (out.map (·.1)))).setTm d q { shape := b, full := true }
  (s.releaseReg d r keep).matDone d m.go m.idx 0

/-- The MX element type an encoding names for TQUANT (R239). -/
def mxOf (w : BitVec 32) : Option (BitVec 4) :=
  match shEnc w with
  | 0 => if shW w = 8 ∧ shPoint w = 6 then some 4 else none
  | 5 => some 9 | 6 => some 10 | 7 => some 11 | 8 => some 12 | _ => none

/-- TQUANT (R239). -/
def execTquant (r : BitVec 4) (q : BitVec 4) (k : BitVec 1) (s : State) : Out :=
  let d := s.nd
  .next (s.matNode
    (fun s _ =>
      let a := (s.tm d r.toNat).shape; let b := (s.tm d q.toNat).shape
      { full := [r.toNat], empty := [q.toNat]
        ok := shFp a && (mxOf b).isSome && shRows a == shRows b && shCols a == shCols b && shCount a % 128 == 0 })
    (fun s t i => s.begin d (.tquant r q k) t i (shCount (s.tm d r.toNat).shape / 128 + 4) [r.toNat, q.toNat] false)
    (fun s m n c => s.matGap m n c))

/-- The scale of a block of exact values (R196). -/
def blockScale (e : BitVec 4) (l : List Num) : Nat :=
  scaleOf e (l.any (fun x => x.isNan || x.isInf))
    (l.foldl (fun t x => match x with
      | .fin _ m ee => if m = 0 then t else some (match t with | some y => max y (leadExp m ee) | none => leadExp m ee)
      | _ => t) none)

/-- A TQUANT completes: B's elements, the scale token (R239). -/
def State.quantDone (s : State) (d : Nd) (m : MatOp) (r q : Nat) (keep : Bool) : State :=
  let a := (s.tm d r).shape
  let b := (s.tm d q).shape
  let e := (mxOf b).getD 9
  let xs := (regElems a (s.treg d r)).map (shFmt a).decode
  let blocks := shCount a / 128
  let scales := (List.range blocks).map (fun k => blockScale e ((xs.drop (128 * k)).take 128))
  let out := xs.zipIdx.map (fun x => quantElem e (scales.getD (x.2 / 128) 0) x.1)
  let f := out.foldl (fun f x => f.or x.2) ({} : Fl)
  let s := ((s.addFl d.n f).setTreg d q (regPack b (out.map (·.1)))).setTm d q { shape := b, full := true }
  let s := s.releaseReg d r keep
  let pay := scales.zipIdx.foldl (fun v x => v + x.1 * 2 ^ (8 * x.2)) 0
  let (x, g) := sideOf d false [(0, m.go, m.idx)]
  (s.addFl d.n g).emit d 0
    (standIn m.go (({ x with valid := BitVec.ofNat 8 (2 ^ ((blocks + 3) / 4) - 1) } : Side).tok (BitVec.ofNat 256 pay))) m.idx

/-! ## TEMIT and TEPI (R235, R238) -/

/-- The tokens of an emission from element patterns of a type: payload and VALID; the last token's lanes beyond the
elements are invalid. -/
def emitToks (t : BitVec 4) (els : List Nat) : List (BitVec 256 × BitVec 8) :=
  let n := elemCount t
  let per := 32 / elemBits t
  let pad := if per = 0 then 0 else (per - els.length % per) % per
  let els := els ++ List.replicate pad 0
  (List.range ((els.length + n - 1) / n)).map (fun k => packElems t (((els.drop (n * k)).take n).map some))

/-- The sd tokens of an emission: records of ⌈W/16⌉ tokens for eight elements each. -/
def emitSd (w : BitVec 32) (els : List Nat) : List (BitVec 256 × BitVec 8) :=
  let t := sdTokens (shW w)
  (List.range ((els.length + 7) / 8)).flatMap (fun k =>
    let e := (List.range 8).map (fun j => ((els.drop (8 * k + j)).head?).map (fun x => sdElem w x ++ List.replicate (16 * t - shW w) none))
    (List.range t).map (recPay e))

/-- An integer of the source bounded to the type. -/
def emitInt (t : BitVec 4) (v : Int) : Nat × Fl := satInt t v

/-- All tokens of a TEMIT, the tokens of one record, and flags. -/
def State.temitAll (s : State) (d : Nd) (t : BitVec 4) (q : Nat) (acc : Bool) : List (BitVec 256 × BitVec 8) × Nat × Fl :=
  if acc then
    let cells := cellsOf (s.tmem d.n d.t).acc
    if (s.rt d.n d.t).accFp then (emitToks t (cells.map (· % 2 ^ 32)), 1, {})
    else
      let xs := cells.map (fun c => emitInt t (cellInt c))
      (emitToks t (xs.map (·.1)), 1, xs.foldl (fun f x => f.or x.2) {})
  else
    let w := (s.tm d q).shape
    let els := regElems w (s.treg d q)
    match shEnc w with
    | 0 =>
      let xs := els.map (fun x => emitInt t (intElem w x))
      (emitToks t (xs.map (·.1)), 1, xs.foldl (fun f x => f.or x.2) {})
    | 1 => (emitSd w els, sdTokens (shW w), {})
    | _ => (emitToks t els, 1, {})

/-- Output indices one emission takes, for the GAPs that pass (R226, R235). -/
def State.temitWidth (s : State) (d : Nd) (t : BitVec 4) (q : Nat) (acc : Bool) : Nat :=
  if acc then 1024 / elemCount t
  else
    let n := shCount (s.tm d q).shape
    if t = 13 then (n + 7) / 8 else (n + elemCount t - 1) / elemCount t

/-- An emission in successive firings: the go record stays at the head until the last token. -/
def State.emission (s : State) (d : Nd) (op : Instr) (t : BitVec 4) (toks : List (BitVec 256 × BitVec 8)) (per : Nat) (f : Fl)
    (go : Token) (i : Nat) (regs : List Nat) (acc : Bool) (release : State → State) : State :=
  let p := s.prog d
  let m := toks.length / per
  let (x, g) := sideOf d false [(0, go, i)]
  let (pay, v) := toks.getD p (0, 0)
  let x := if t = 13 then { x with first := p % per == 0, last := p % per + 1 == per } else x
  let s := if p = 0 then (s.addFl d.n (f.or g)).modRt d.n d.t (fun r => { r with mops := r.mops ++ [{
    slot := BitVec.ofNat 3 d.slot, op := op, go := go, idx := i, due := 0, regs := regs, acc := acc }] }) else s
  let s := if go.kind = kPOISON ∧ p % per ≠ 0 then s
    else s.emit d 0 (standIn go (({ x with valid := v } : Side).tok pay)) (ix (i * m + p / per))
  if p + 1 = toks.length then
    release (((s.popAt d 0).setProg d 0).modRt d.n d.t (fun r => { r with mops := r.mops.filter (fun k => k.slot.toNat != d.slot) }))
  else s.setProg d (p + 1)

/-- TEMIT (R235). -/
def execTemit (t : BitVec 4) (r : BitVec 4) (k : BitVec 1) (c : BitVec 1) (s : State) : Out :=
  let d := s.nd
  let q := r.toNat
  let acc := c == 1
  .next (s.matNode
    (fun s _ =>
      if s.prog d ≠ 0 then { reads := if acc then [] else [q], readsAcc := acc }
      else if acc then { acc := some true, readsAcc := true, ok := if (s.rt d.n d.t).accFp then t == 6 else t == 0 || t == 14 }
      else { full := [q], ok := emitType (s.tm d q).shape t })
    (fun s a i =>
      let (toks, per, f) := s.temitAll d t q acc
      s.emission d (.temit t r k c) t toks per f a i (if acc then [] else [q]) acc
        (fun s => if acc then s.releaseAcc d (k == 1) else s.releaseReg d q (k == 1)))
    (fun s m n g => (let w := s.temitWidth d t q acc; s.emitGap d [0] (m * w) (n * w) g))
    (own := false))

/-- One cell through TEPI (R238). -/
def tepiCell (t : BitVec 4) (fp : Bool) (point : Int) (scale : Num) (relu : Bool) (m : BitVec 2) (c : Nat) : Nat × Fl :=
  let x := if fp then Fmt.f32.decode (c % 2 ^ 32) else (Num.ofInt (cellInt c)).scale (-point)
  let (y, f) := x.mul scale
  let y := if relu ∧ y.neg ∧ !y.isZero then .fin false 0 0 else y
  if isInt t then
    let r := intRange (isSigned t) (elemBits t)
    let (v, g) := y.toInt (Mode.ofCode m) r.1 r.2
    (patOf t v, f.or g)
  else fpElem t m (y, f)

/-- TEPI (R238). -/
def execTepi (t : BitVec 4) (k : BitVec 1) (l : BitVec 1) (m : BitVec 2) (s : State) : Out :=
  let d := s.nd
  .next (s.matNode
    (fun s _ => if s.prog d ≠ 0 then { readsAcc := true } else { acc := some true, readsAcc := true })
    (fun s a i =>
      let r := s.rt d.n d.t
      let xs := (cellsOf (s.tmem d.n d.t).acc).map (tepiCell t r.accFp r.accPoint (Fmt.f32.decode d.const.toNat) (l == 1) m)
      s.emission d (.tepi t k l m) t (emitToks t (xs.map (·.1))) 1 (xs.foldl (fun f x => f.or x.2) {}) a i [] true
        (fun s => s.releaseAcc d (k == 1)))
    (fun s a n g => (let w := 1024 / elemCount t; s.emitGap d [0] (a * w) (n * w) g))
    (own := false))

/-! ## Completion -/

/-- The operation in progress at a node completes, when its time has come. -/
def State.mopDone (s : State) (d : Nd) (m : MatOp) : State :=
  let s := s.modRt d.n d.t (fun r => { r with mops := r.mops.filter (fun k => k.slot != m.slot) })
  let s := s.modReg d.n (fun r => { r with active := (s.now d.n) })
  match m.op with
  | .tmma r q l k j => s.mmaDone d m r.toNat q.toNat (l == 1) (k == 1) (j == 1)
  | .tmov r q x k => s.movDone d m r.toNat q.toNat (x == 1) (k == 1)
  | .tcvt r q k md => s.cvtDone d m r.toNat q.toNat (k == 1) md
  | .tquant r q k => s.quantDone d m r.toNat q.toNat (k == 1)
  | .tzero _ r f c =>
    (if c = 1 then
      (s.modTmem d.n d.t (fun x => { x with acc := 0, accPoison := [] })).modRt d.n d.t (fun x => { x with accRec := d.const, accFull := false, accSeen := 0 })
     else (s.setTreg d r.toNat 0).setTm d r.toNat { (s.tm d r.toNat) with cursor := 0, ncut := 0, full := f == 1 }).matDone d m.go m.idx 0
  | _ => s

/-- Is the operation one that completes by time? -/
def timedOp : Instr → Bool
  | .tmma _ _ _ _ _ | .tmov _ _ _ _ | .tcvt _ _ _ _ | .tquant _ _ _ | .tzero _ _ _ _ => true
  | _ => false

/-- Is it a TMMA? -/
def isTmma : Instr → Bool | .tmma _ _ _ _ _ => true | _ => false

/-- Complete the operation of node `s` on tile `t` of thread `n`'s region, when it is due. -/
def State.mopEvent (s : State) (tmma : Bool) : State :=
  let e := s.ev
  let d : Nd := { n := e.n, t := e.t, slot := e.s.toNat, img := (s.reg e.n).image }
  if !actsIn (s.reg e.n).st then s
  else
    match (s.rt e.n e.t).mops.find? (fun m => m.slot == e.s && timedOp m.op && isTmma m.op == tmma && decide (m.due ≤ (s.now e.n))) with
    | some m => s.mopDone d m
    | none => s

/-- TMMA_COMPLETION (R224, R226). -/
def execTmmaCompletion (s : State) : Out := .next (s.mopEvent true)

/-- MATRIX_OP_COMPLETION (R226, Table 7.7). -/
def execMatrixOpCompletion (s : State) : Out := .next (s.mopEvent false)

end Sys2Proof.Machine
end

