-- ==== Sys2Proof/Machine/MemAcc.lean ====
section
/-! DEFINITION. The accesses of memory nodes in flight (R276 to R279, R356): how one performs, and how the tokens of the
performed ones leave in firing order. -/

namespace Sys2Proof.Machine

/-- The bit mask of the bytes a store's lanes write, at an offset of a line. -/
def laneMask (lanes : BitVec 8) (off : Nat) : BitVec 64 :=
  (List.range 8).foldl (fun m j => if lanes.getLsbD j then m ||| byteMask (off + 4 * j) 4 else m) 0

/-- The runs a store's lanes write, as first lane and count: two lanes of one 64-bit word together, which overwrite it whole
(R372). -/
def laneRuns (lanes : BitVec 8) : List (Nat × Nat) :=
  (List.range 4).flatMap (fun k =>
    match lanes.getLsbD (2 * k), lanes.getLsbD (2 * k + 1) with
    | true, true => [(2 * k, 2)]
    | true, false => [(2 * k, 1)]
    | false, true => [(2 * k + 1, 1)]
    | false, false => [])

/-- Store 32 bytes of lanes at a memory key for a region's node; at die scope and wider the bytes reach the home (R278). -/
def State.fabricStore (s : State) (n : BitVec 9) (key : Nat) (data : BitVec 256) (lanes : BitVec 8) (scope : BitVec 3) : State :=
  let c := clusterOf n
  let m := laneMask lanes (key % 64)
  let new : BitVec 512 := zext data 512 <<< (8 * (key % 64))
  let s := s.l2Store c (key / 64) new m false ((s.reg n).capt.marks key)
  if 3 ≤ scope.toNat then s.writeBackMask c (key / 64) m else s

/-- The memory key of a target. -/
def Target.key : Target → Nat
  | .device pa => pa
  | .host fn pasid ha => hostKey fn pasid ha

/-- The point a width code reads at. -/
def pointOf (w : BitVec 2) : ReadPoint := if w = 0 then .quad else if w = 1 then .slice else .home

/-- Perform an access: a store's bytes reach their point, a load's value is fixed (R278). -/
def State.performAcc (s : State) (n : BitVec 9) (t : TileNo) (a : MemAcc) : State × MemAcc :=
  let c := clusterOf n
  if a.none then (s, { a with done := true })
  else if a.where_ = 0 then
    (if a.store then (s.fabricStore n a.target.key a.data a.lanes a.scope, { a with done := true })
     else
       match s.fabricLoad c (quadOf ((s.reg n).absTile t)) (pointOf a.wide) a.target.key 32 with
       | (s, v, bad) => (s, { a with done := true, data := BitVec.ofNat 256 v, poison := bad }))
  else if a.where_ = 1 then
    let tile := (s.reg n).absTile (BitVec.ofNat 8 a.tile)
    (if a.store then
      ((laneRuns a.lanes).foldl (fun s r =>
        s.scrWrite c tile (a.addr + 4 * r.1) (4 * r.2) (bytesOf a.data.toNat (4 * r.1) (4 * r.2)) false) s,
       { a with done := true })
     else
       match s.scrRead c tile a.addr 32 with
       | (s, v, bad) => (s, { a with done := true, data := BitVec.ofNat 256 v, poison := bad }))
  else
    match s.wsRead c (quarterOf ((s.reg n).absTile t)) a.addr 32 with
    | (s, v, bad) => (s, { a with done := true, data := BitVec.ofNat 256 v, poison := bad })

/-- The outputs of an access that has performed: a load's token on output 0, POISON in its place where it read poison
(R372), then the ORDER token owed (R277). -/
def State.emitAcc (s : State) (d : Nd) (a : MemAcc) : State :=
  let s :=
    if a.store then s
    else if a.gapTok then s.emit d 0 a.out a.idx
    else if a.poison then s.emit d 0 poisonTok a.idx
    else if a.none then s.emit d 0 a.out a.idx
    else s.emit d 0 { a.out with pay := a.data } a.idx
  if a.order then s.emit d 1 (orderTok a.scope) a.idx else s

/-- The tokens of a node's performed accesses leave in firing order; the fuel is the accesses of the tile. -/
def State.flushAccs (d : Nd) : Nat → State → State
  | 0, s => s
  | k + 1, s =>
    match (s.rt d.n d.t).accs.find? (fun a => a.slot.toNat == d.slot) with
    | none => s
    | some a =>
      if a.done then
        State.flushAccs d k ((s.modRt d.n d.t (fun r => { r with accs := r.accs.erase a })).emitAcc d a)
      else s

/-- Perform access k of a tile of thread n's region and flush its node's tokens. -/
def State.perform (s : State) (n : BitVec 9) (t : TileNo) (k : Nat) : State :=
  match (s.rt n t).accs[k]? with
  | none => s
  | some a =>
    if a.done then s
    else
      let (s, a) := s.performAcc n t a
      let s := s.modRt n t (fun r => { r with accs := r.accs.set k a })
      let s := s.modReg n (fun r => { r with active := (s.now n) })
      State.flushAccs { n := n, t := t, slot := a.slot.toNat, img := (s.reg n).image } (s.rt n t).accs.length s

/-- Every access in flight of a region performs (R344, R356); the fuel bounds the accesses of one tile. -/
def State.finishAccs (s : State) (n : BitVec 9) : State :=
  (s.reg n).tiles.foldl (fun s p =>
    (List.range p.2.accs.length).foldl (fun s _ =>
      match (s.rt n (BitVec.ofNat 8 p.1)).accs.findIdx? (fun a => !a.done) with
      | some k => s.perform n (BitVec.ofNat 8 p.1) k
      | none => s) s) s

/-! ## The end of a passage (R110, R355, R395) -/

/-- A region whose passage is over is saved, or evicted where it stands: accesses in flight perform, tokens due arrive.  One that
was to move and finds its new pages taken, or short of its footprint, is placed as a relaunched one is (R110, R396). -/
def State.endPassage (s : State) (n : BitVec 9) (how : SavedHow) : State :=
  let why := match (s.reg n).mark with | some m => m.why | none => .rmark
  let s := if how = .eviction then s.finishAccs n else s
  if !(actsIn (s.reg n).st) then s
  else
    match why with
    | .rmark => s.save n how true
    | .ctxsave => s.save n how false
    | .overcap => (s.save n how true).relaunch n
    | .weights => (s.endRegion n cOVERCAP).releaseHeld n
    | .move o =>
      let s := s.save n how false
      let free := match rect (claimW (s.reg n).claim) (claimH (s.reg n).claim) o.toNat with
        | some ps => !ps.any (s.othersHold n).contains && s.suits n o.toNat
        | none => false
      if free then (s.modReg n (fun r => { r with origin := o })).resume n else s.relaunch n

/-- A region is evicted (R344). -/
def State.evict (s : State) (n : BitVec 9) (num : BitVec 16) (why : MarkFor) : State :=
  let s := if (s.reg n).mark.isSome then s else s.modReg n (fun r => { r with mark := some { num := num, start := (s.now n), why := why } })
  s.endPassage n .eviction

end Sys2Proof.Machine
end

