-- ==== Sys2Proof/Machine/MemNode.lean ====
section
/-! DEFINITION. The memory nodes (R274 to R283): GLD, GST, SLD, SST and WLD, the row operations TLD, TST, TLDS and TSTS
(R237), DONE and ECMD (R318), and parking (R340). -/

namespace Sys2Proof.Machine

/-! ## Parking (R340) -/

/-- A node parks: its record, the parked-port flag, and the end of a marker passage as an eviction (R344).  `flags` are
FLAGS of Table 11.13 but PARKED.  UNCORR parks no node and kills the region instead. -/
def State.park (s : State) (d : Nd) (cause : BitVec 8) (va : Word) (done : Nat) (flags : BitVec 8) (detail : BitVec 16 := 0) : State :=
  if cause = cUNCORR then s.nodeFault d cUNCORR va
  else
  let s := s.modRt d.n d.t (fun r =>
    { r with parked := r.parked ++ [{ slot := BitVec.ofNat 3 d.slot, addr := va, done := done }] })
  let s := (s.raiseFlag d.n 5).faultRecord d.n
    { addr := va, place := zext (s.nodeCoord d.n d.t d.slot) 64, done := BitVec.ofNat 64 done, cause := cause
      flags := flags ||| 8, space := s.spaceField (s.reg d.n).capt, detail := detail, keep := true }
  if (s.reg d.n).mark.isSome then s.endPassage d.n .eviction else s

/-! ## Addresses (R275) -/

/-- What the address a firing brings leads to. -/
inductive Spot where
  | none                                             -- lanes not valid: no access
  | mem (x : Target)
  | scr (tile addr : Nat)                            -- a tile of the region
  | ws (addr : Nat)
  | bad (cause : BitVec 8) (va : Word)
  | wait

/-- The 64-bit address in lanes 1:0. -/
def Token.va (t : Token) : Word := fld t.pay 0 64

/-- GLD and GST: a virtual address, a multiple of 32. -/
def State.spotG (s : State) (d : Nd) (t : Token) (write : Bool) : State × Spot :=
  if fld t.valid 0 2 ≠ 3 then (s, .none)
  else if t.va.toNat % 32 ≠ 0 then (s, .bad cALIGN t.va)
  else
    match s.resolve (s.reg d.n).capt (if write then .write else .read) false t.va (.node ⟨d.n, d.t, BitVec.ofNat 3 d.slot⟩) with
    | (s, .fault c) => (s, .bad c t.va)
    | (s, .wait) => (s, .wait)
    | (s, .ok _ x) => (s, .mem x.target)

/-- A scratchpad address of the region's form: the tile of the region and the offset, for n bytes of one bank. -/
def scrSpot (img a : Nat) : Option (TileNo × Nat) :=
  let x := a / 2 ^ 17 % 16; let y := a / 2 ^ 21 % 16
  if 2 ^ 25 ≤ a ∨ 4 * imgW img ≤ x ∨ 4 * imgH img ≤ y ∨ imgScrbanks img ≤ a % 2 ^ 17 / 8192 then none
  else some (tileAt x y, a % 2 ^ 17)

/-- The same with the tile of the cluster. -/
def State.scrAddr (s : State) (d : Nd) (a : Nat) : Option (BitVec 8 × Nat) :=
  (scrSpot d.img a).map (fun p => ((s.reg d.n).absTile p.1, p.2))

/-- Is a range of a tile's scratchpad held in the scoreboard (R313)? -/
def State.scoreHolds (s : State) (c : BitVec 5) (t : BitVec 8) (lo hi : Nat) : Bool :=
  (s.clu c).score.any (fun e => e.tile == t && decide (e.lo < hi) && decide (lo < e.hi))

/-- SLD and SST: a scratchpad address, a multiple of 32. -/
def State.spotS (s : State) (d : Nd) (t : Token) : Spot :=
  let a := (t.lane 0).toNat
  if !t.valid.getLsbD 0 then .none
  else if a % 32 ≠ 0 then .bad cALIGN (BitVec.ofNat 64 a)
  else
    match scrSpot d.img a with
    | none => .bad cACCESS (BitVec.ofNat 64 a)
    | some (tile, off) =>
      if s.scoreHolds (clusterOf d.n) ((s.reg d.n).absTile tile) off (off + 32) then .wait else .scr tile.toNat off

/-- WLD: an offset in the region's window; a read inside a refresh window waits (R273). -/
def State.spotW (s : State) (d : Nd) (t : Token) : Spot :=
  let a := (t.lane 0).toNat
  if !t.valid.getLsbD 0 then .none
  else if a % 32 ≠ 0 then .bad cALIGN (BitVec.ofNat 64 a)
  else if imgWslen d.img ≤ a then .bad cACCESS (BitVec.ofNat 64 a)
  else if (s.clu (clusterOf d.n)).inWin then .wait
  else .ws (imgWsbase d.img + a)

/-! ## Issue -/

/-- Does the node wait for its last access (INORD, R278)? -/
def RTile.inordHeld (r : RTile) (slot : Nat) (inord : Bool) : Bool :=
  inord && r.accs.any (fun a => a.slot.toNat == slot && !a.done)

/-- Is an access of the node in flight or its token not yet sent? -/
def RTile.accBusy (r : RTile) (slot : Nat) : Bool := r.accs.any (fun a => a.slot.toNat == slot)

/-- The widest ORDER scope the node has consumed, plus one (R278, R279). -/
def State.orderSeen (s : State) (d : Nd) : Nat := (s.counts d).getD 0 0

/-- The scope of the ORDER token at slot O, plus one; 0 with none. -/
def State.orderHead (s : State) (d : Nd) : Nat :=
  if d.ordered then (match s.headAt d 3 with | some (t, _) => if t.kind = kORDER then (fld t.pay 0 3).toNat + 1 else 0 | none => 0) else 0

/-- Where a load reads: scopes page and cluster from the slice, die and wider from the home, none from the quad cache. -/
def widthOf (scope1 : Nat) : BitVec 2 := if scope1 = 0 then 0 else if scope1 ≤ 3 then 1 else 2

/-- An access joins the node's accesses in flight, and finished ones leave. -/
def State.issueAcc (s : State) (d : Nd) (a : MemAcc) : State :=
  let seen := Nat.max (s.orderSeen d) (s.orderHead d)
  let own := if a.wide != 0 then a.scope.toNat + 1 else 0
  let a := { a with slot := BitVec.ofNat 3 d.slot, stamp := s.tick, wide := widthOf (Nat.max own seen) }
  let s := s.modRt d.n d.t (fun r => { r with accs := r.accs ++ [a] })
  let s := if seen = 0 then s else s.setCounts d [seen]
  State.flushAccs d ((s.rt d.n d.t).accs.length) s

/-- The own scope of a node with EMIT or INORD; a scope of tile counts as no wider than the slice. -/
def ownAcc (op : Instr) (inord emit : Bool) (scope : BitVec 3) (i : Nat) : MemAcc :=
  { slot := 0, op := op, store := false, scope := scope, order := emit, idx := i, wide := if emit || inord then 1 else 0 }

/-- A GAP the node handled. -/
def gapAcc (a : MemAcc) (m n : Nat) (c : Bool) : MemAcc :=
  { a with none := true, gapTok := true, done := true, out := gapTok (ix m) n c, idx := ix m }

/-- A spot as an access. -/
def Spot.acc (x : Spot) (a : MemAcc) : MemAcc :=
  match x with
  | .mem t => { a with where_ := 0, target := t }
  | .scr t o => { a with where_ := 1, tile := t, addr := o }
  | .ws o => { a with where_ := 2, addr := o }
  | _ => { a with none := true, done := true }

/-- FLAGS of an access: WRITE. -/
def wflag (write : Bool) : BitVec 8 := if write then 1 else 0

/-- FLAGS of an access of the region's nodes to an address: WRITE, and HOSTT where it lies in the host tier (R347). -/
def State.nodeFlags (s : State) (d : Nd) (write virt : Bool) (va : Word) : BitVec 8 :=
  wflag write ||| (if virt && s.hostTier (s.reg d.n).capt va then 4 else 0)

/-- Does a memory node address memory by virtual address? -/
def isVirtual : Instr → Bool
  | .gld _ _ _ _ | .gst _ _ _ _ => true
  | _ => false

/-- The record marks of a loaded token: of type sd a record of its own, else those of the address (R47). -/
def loadMarks (op : Instr) (x : Side) : Side :=
  match op with
  | .gld t _ _ _ | .sld t _ _ _ | .wld t _ _ _ => if t = 13 then { x with first := true, last := true } else x
  | _ => x

/-- A load node: `spot` reads its address. -/
def State.loadNode (s : State) (op : Instr) (inord emit : Bool) (scope : BitVec 3) (spot : State → Nd → Token → State × Spot) : State :=
  let d := s.nd
  let outs := if emit then [0, 1] else [0]
  s.nodeStep d [0] outs false (fun s =>
    let base (i : Nat) : MemAcc := ownAcc op inord emit scope i
    match s.headAt d 0 with
    | none => .wait
    | some (a, i) =>
      if a.kind = kDATA then
        if (s.rt d.n d.t).inordHeld d.slot inord then .wait
        else
          let (x, f) := sideOf d false [(0, a, i)]
          let x := loadMarks op x
          match spot s d a with
          | (s, .bad c va) => .did (s.park d c va 0 (s.nodeFlags d false (isVirtual op) va)) false
          | (s, .wait) => .did s false
          | (s, .none) =>
            .did (((s.popAt d 0).addFl d.n f).issueAcc d { base i with none := true, done := true, out := ({ x with valid := 0 } : Side).tok 0 }) true
          | (s, p) => .did (((s.popAt d 0).addFl d.n f).issueAcc d (p.acc { base i with out := ({ x with valid := 0xFF } : Side).tok 0 })) true
      else if a.kind = kEND ∧ (s.rt d.n d.t).accBusy d.slot then .wait
      else s.align d
        { slots := [0], outs := outs, fire := fun s _ => s
          gap := fun s m n c => s.issueAcc d (gapAcc (base 0) m n c) })
    (fun s go =>
      match s.headAt d 0 with
      | some (a, i) =>
        if a.kind = kPOISON then
          .did ((s.popAt d 0).issueAcc d { ownAcc op inord emit scope i with none := true, poison := true, done := true }) true
        else go s
      | none => .wait)

/-- A store node (R276): A the address, B the lanes. -/
def State.storeNode (s : State) (op : Instr) (inord emit : Bool) (scope : BitVec 3) (spot : State → Nd → Token → State × Spot) : State :=
  let d := s.nd
  let outs := if emit then [1] else []
  s.nodeStep d [0, 1] outs false (fun s =>
    let base (i : Nat) : MemAcc := { ownAcc op inord emit scope i with store := true }
    let other : State → Went := fun s => s.align d
      { slots := [0, 1], outs := outs, fire := fun s _ => s
        gap := fun s m n c => s.issueAcc d (gapAcc (base 0) m n c) }
    match s.headAt d 0, s.headAt d 1 with
    | some (a, i), some (b, j) =>
      if a.kind = kDATA ∧ b.kind = kDATA ∧ i = j then
        if (s.rt d.n d.t).inordHeld d.slot inord then .wait
        else
          match spot s d a with
          | (s, .bad c va) => .did (s.park d c va 0 (s.nodeFlags d true (isVirtual op) va)) false
          | (s, .wait) => .did s false
          | (s, p) =>
            .did ((s.popAll d [0, 1]).issueAcc d (p.acc { base i with data := b.pay, lanes := b.valid })) true
      else if a.kind = kEND ∧ b.kind = kEND ∧ (s.rt d.n d.t).accBusy d.slot then .wait
      else other s
    | _, _ => .wait)

/-- GLD (R276). -/
def execGld (t : BitVec 4) (n : BitVec 1) (e : BitVec 1) (sc : BitVec 3) (s : State) : Out :=
  .next (s.loadNode (.gld t n e sc) (n == 1) (e == 1) sc (fun s d a => s.spotG d a false))

/-- GST (R276). -/
def execGst (t : BitVec 4) (n : BitVec 1) (e : BitVec 1) (sc : BitVec 3) (s : State) : Out :=
  .next (s.storeNode (.gst t n e sc) (n == 1) (e == 1) sc (fun s d a => s.spotG d a true))

/-- SLD (R276). -/
def execSld (t : BitVec 4) (n : BitVec 1) (e : BitVec 1) (sc : BitVec 3) (s : State) : Out :=
  .next (s.loadNode (.sld t n e sc) (n == 1) (e == 1) sc (fun s d a => (s, s.spotS d a)))

/-- SST (R276). -/
def execSst (t : BitVec 4) (n : BitVec 1) (e : BitVec 1) (sc : BitVec 3) (s : State) : Out :=
  .next (s.storeNode (.sst t n e sc) (n == 1) (e == 1) sc (fun s d a => (s, s.spotS d a)))

/-- WLD (R276). -/
def execWld (t : BitVec 4) (n : BitVec 1) (e : BitVec 1) (sc : BitVec 3) (s : State) : Out :=
  .next (s.loadNode (.wld t n e sc) (n == 1) (e == 1) sc (fun s d a => (s, s.spotW d a)))

/-! ## Rows: TLD, TST, TLDS, TSTS (R237) -/

/-- A row operation: its register or acc, whether it stores, whether memory is scratchpad, its scope, what it keeps. -/
structure RowOp where
  instr : Instr
  reg : Nat
  acc : Bool := false
  keep : Bool := false
  store : Bool
  scr : Bool
  scope : BitVec 3
  setShape : Bool := false

/-- The row operation of an instruction, if it is one. -/
def rowOp (i : Instr) : Option RowOp :=
  match i with
  | .tld b r _ sc => some { instr := i, reg := r.toNat, store := false, scr := false, scope := sc, setShape := b == 1 }
  | .tst r _ sc k c => some { instr := i, reg := r.toNat, acc := c == 1, keep := k == 1, store := true, scr := false, scope := sc }
  | .tlds b r sc => some { instr := i, reg := r.toNat, store := false, scr := true, scope := sc, setShape := b == 1 }
  | .tsts r sc k c => some { instr := i, reg := r.toNat, acc := c == 1, keep := k == 1, store := true, scr := true, scope := sc }
  | _ => none

/-- The shape a row operation's register has while it runs: the constant where the operation sets it. -/
def State.rowShape (s : State) (d : Nd) (o : RowOp) : BitVec 32 := if o.setShape then d.const else (s.tm d o.reg).shape

/-- Rows and bits of a row. -/
def State.rowDims (s : State) (d : Nd) (o : RowOp) : Nat × Nat :=
  if o.acc then (32, 2048) else (let w := s.rowShape d o; (shRows w, shCols w * shSb w))

/-- Stride of a go record: lane 1, or lane 2 of a memory form. -/
def RowOp.stride (o : RowOp) (t : Token) : Nat := (t.lane (if o.scr then 1 else 2)).toNat

/-- Base address of a go record. -/
def RowOp.base (o : RowOp) (t : Token) : Nat := if o.scr then (t.lane 0).toNat else t.va.toNat

/-- Pieces of a row of `len` bytes at an address: at most 8 bytes each, none across a boundary of 8. -/
def rowPieces (addr len : Nat) : List (Nat × Nat) :=
  (List.range ((len + 7) / 8)).map (fun k => (addr + 8 * k, Nat.min 8 (len - 8 * k)))

/-- The faults of a row operation before its first row (R237). -/
def State.rowFault (s : State) (d : Nd) (o : RowOp) (t : Token) : Option (BitVec 8) :=
  let (rows, bits) := s.rowDims d o
  let len := (bits + 7) / 8
  if o.base t % 8 ≠ 0 ∨ o.stride t % 8 ≠ 0 then some cALIGN
  else if o.store ∧ o.stride t < len then some cACCESS
  else if o.scr ∧ (List.range rows).any (fun r =>
      (rowPieces (o.base t + r * o.stride t) len).any (fun p => (s.scrAddr d p.1).isNone)) then some cACCESS
  else none

/-- Does a row operation's scratchpad range meet the scoreboard? -/
def State.rowHeld (s : State) (d : Nd) (o : RowOp) (t : Token) : Bool :=
  let (rows, bits) := s.rowDims d o
  o.scr && (List.range rows).any (fun r =>
    (rowPieces (o.base t + r * o.stride t) ((bits + 7) / 8)).any (fun p =>
      match s.scrAddr d p.1 with | some (tile, off) => s.scoreHolds (clusterOf d.n) tile off (off + p.2) | none => false))

/-- What a row operation needs (R233). -/
def State.rowNeed (s : State) (d : Nd) (o : RowOp) : MatNeed :=
  let w := s.rowShape d o
  if o.acc then { acc := some true }
  else if o.store then { full := [o.reg], ok := shapeOk w }
  else { empty := [o.reg], ok := shapeOk w }

/-- A row operation completes: tags, then the ORDER token in place of the completion token, POISON where a row was read
poisoned; the go record and its ORDER token leave (R237, R340). -/
def State.rowDone (s : State) (d : Nd) (o : RowOp) (m : MatOp) (bad : Bool) : State :=
  let s := s.modRt d.n d.t (fun r => { r with mops := r.mops.filter (fun k => k.slot != m.slot) })
  let s := s.setProg d 0
  let s := if o.acc then s.releaseAcc d o.keep
    else if o.store then s.releaseReg d o.reg o.keep
    else s.setTm d o.reg { s.tm d o.reg with full := true, cursor := 0, ncut := 0 }
  let seen := Nat.max (s.orderSeen d) (s.orderHead d)
  let s := if s.orderHead d = 0 then s else (s.popAt d 3).setCounts d [seen]
  (s.popAt d 0).emit d 0 (if bad then poisonTok else orderTok o.scope) m.idx

/-- The node of a row operation: it starts the operation on its go record, which stays at its head until it completes.  A register
with a shape no record may have parks it, as a fault that R52 names for a memory node does (R233, R340). -/
def State.rowNode (s : State) (o : RowOp) : State :=
  let d := s.nd
  let lanes : BitVec 8 := if o.scr then 3 else 7
  s.nodeStep d [0] [0] false (fun s =>
    if (s.rt d.n d.t).busy d.slot then .wait
    else
      match s.headAt d 0 with
      | none => .wait
      | some (a, i) =>
        if a.kind = kDATA then
          let m := s.rowNeed d o
          if !s.matReady d m then .wait
          else if a.valid &&& lanes ≠ lanes then .did ((s.popAt d 0).emit d 0 (orderTok o.scope) i) true
          else if !m.ok then .did (s.park d cIMAGE 0 0 0) false
          else
              match s.rowFault d o a with
              | some c =>
                let va := BitVec.ofNat 64 (o.base a)
                .did (s.park d c va 0 (s.nodeFlags d o.store (!o.scr) va)) false
              | none =>
                if s.rowHeld d o a then .wait
                else .did (s.modRt d.n d.t (fun r => { r with mops := r.mops ++ [{
                  slot := BitVec.ofNat 3 d.slot, op := o.instr, go := a, idx := i, due := s.now d.n + 1
                  regs := if o.acc then [] else [o.reg], acc := o.acc, rows := s.prog d }] })) false
        else s.align d { slots := [0], fire := fun s _ => s, gap := fun s m n c => s.emitGap d [0] m n c })

/-- Resolve every piece of a memory row first; a row is never half written (R343). -/
def State.resolveRow (cr : Capt) (k : Access) (who : Waiter) : List (Nat × Nat) → State → State × Except (Option (BitVec 8 × Word)) (List (Nat × Nat))
  | [], s => (s, .ok [])
  | (a, n) :: r, s =>
    match s.resolve cr k false (BitVec.ofNat 64 a) who with
    | (s, .fault c) => (s, .error (some (c, BitVec.ofNat 64 a)))
    | (s, .wait) => (s, .error none)
    | (s, .ok key _) =>
      match State.resolveRow cr k who r s with
      | (s, .ok l) => (s, .ok ((key, n) :: l))
      | x => x

/-- The read of row r of a stored register meets an armed injection (R398). -/
def State.rowRead (s : State) (d : Nd) (o : RowOp) (r bits : Nat) : State :=
  if o.acc then s
  else s.injectRead (.treg (clusterOf d.n) ((s.reg d.n).absTile d.t)) o.reg (bits * r / 64) ((bits * (r + 1) - 1) / 64 + 1)

/-- The bits of row r of a stored register or acc, and whether a word of it is poisoned. -/
def State.rowBits (s : State) (d : Nd) (o : RowOp) (r bits : Nat) : Nat × Bool :=
  if o.acc then
    (((s.tmem d.n d.t).acc >>> (2048 * r)).toNat % 2 ^ 2048, (s.tmem d.n d.t).accPoison.any (fun k => k / 32 == r))
  else
    let m := s.tmem d.n d.t
    let p := m.tregBanks.phys o.reg
    (((s.treg d o.reg) >>> (bits * r)).toNat % 2 ^ bits,
     m.tregPoison.any (fun w => w / 512 == p && decide (bits * r / 64 ≤ w % 512) && decide (w % 512 ≤ (bits * (r + 1) - 1) / 64)))

/-- A loaded row goes into the register; a poisoned row marks the words it touches (R372). -/
def State.rowIn (s : State) (d : Nd) (o : RowOp) (r bits v : Nat) (bad : Bool) : State :=
  let s := s.patchTreg d o.reg (bits * r) bits (v % 2 ^ bits)
  if bad then s.modTmem d.n d.t (fun m =>
    let p := m.tregBanks.phys o.reg
    { m with tregPoison := (List.range (bits / 64 + 1)).foldl (fun l k => insertNat l (512 * p + bits * r / 64 + k)) m.tregPoison })
  else s

/-- The register of a row operation takes the shape the operation sets, when its first row has been performed: a fault before leaves
nothing changed (R52). -/
def State.rowShaped (s : State) (d : Nd) (o : RowOp) (r : Nat) : State :=
  if o.setShape ∧ r = 0 then s.setTm d o.reg { s.tm d o.reg with shape := d.const } else s

/-- One row of a row operation in progress is performed. -/
def State.rowStep (s : State) (d : Nd) (o : RowOp) (m : MatOp) : State :=
  let (rows, bits) := s.rowDims d o
  let len := (bits + 7) / 8
  let r := m.rows
  let addr := o.base m.go + r * o.stride m.go
  let pieces := rowPieces addr len
  let c := clusterOf d.n
  let next (s : State) (bad : Bool) : State :=
    let m' : MatOp := { m with rows := r + 1, capped := m.capped || bad }
    let s := (s.rowShaped d o r).modReg d.n (fun r => { r with active := (s.now d.n) })
    if r + 1 = rows then s.rowDone d o m' m'.capped
    else s.modRt d.n d.t (fun t => { t with mops := t.mops.map (fun k => if k.slot == m.slot then m' else k) })
  let gather (s : State) (ps : List (Nat × Nat)) (rd : State → Nat → Nat → State × Nat × Bool) : State × Nat × Bool :=
    ps.zipIdx.foldl (fun (x : State × Nat × Bool) p =>
      match rd x.1 p.1.1 p.1.2 with
      | (s, v, b) => (s, x.2.1 + v * 2 ^ (64 * p.2), x.2.2 || b)) (s, 0, false)
  if o.scr then
    let at1 (s : State) (a : Nat) : BitVec 8 × Nat := (s.scrAddr d a).getD (0, 0)
    if o.store then
      let s := s.rowRead d o r bits
      let (v, bad) := s.rowBits d o r bits
      next (pieces.zipIdx.foldl (fun s p =>
        s.scrWrite c (at1 s p.1.1).1 (at1 s p.1.1).2 p.1.2 (bytesOf v (8 * p.2) p.1.2) bad) s) false
    else
      match gather s pieces (fun s a n => s.scrRead c (at1 s a).1 (at1 s a).2 n) with
      | (s, v, bad) => next (s.rowIn d o r bits v bad) bad
  else
    let cr := (s.reg d.n).capt
    match State.resolveRow cr (if o.store then .write else .read) (.node ⟨d.n, d.t, BitVec.ofNat 3 d.slot⟩) pieces s with
    | (s, .error none) => s
    | (s, .error (some (cs, va))) => s.park d cs va (r * len) (s.nodeFlags d o.store true va)
    | (s, .ok keys) =>
      if o.store then
        let s := s.rowRead d o r bits
        let (v, bad) := s.rowBits d o r bits
        next (keys.zipIdx.foldl (fun s p =>
          let key := p.1.1
          let mask := byteMask (key % 64) p.1.2
          let s := s.l2Store c (key / 64) (BitVec.ofNat 512 (bytesOf v (8 * p.2) p.1.2 * 2 ^ (8 * (key % 64)))) mask bad (cr.marks key)
          if 3 ≤ o.scope.toNat then s.writeBackMask c (key / 64) mask else s) s) false
      else
        let w := pointOf (widthOf (Nat.max (o.scope.toNat + 1) (Nat.max (s.orderSeen d) (s.orderHead d))))
        match gather s keys (fun s a n => s.fabricLoad c (quadOf ((s.reg d.n).absTile d.t)) w a n) with
        | (s, v, bad) => next (s.rowIn d o r bits v bad) bad

/-- TLD (R276). -/
def execTld (b : BitVec 2) (r : BitVec 4) (n : BitVec 1) (sc : BitVec 3) (s : State) : Out :=
  .next (match rowOp (.tld b r n sc) with | some o => s.rowNode o | none => s)
/-- TST (R276). -/
def execTst (r : BitVec 4) (n : BitVec 1) (sc : BitVec 3) (k : BitVec 1) (c : BitVec 1) (s : State) : Out :=
  .next (match rowOp (.tst r n sc k c) with | some o => s.rowNode o | none => s)
/-- TLDS (R237). -/
def execTlds (b : BitVec 2) (r : BitVec 4) (sc : BitVec 3) (s : State) : Out :=
  .next (match rowOp (.tlds b r sc) with | some o => s.rowNode o | none => s)
/-- TSTS (R237). -/
def execTsts (r : BitVec 4) (sc : BitVec 3) (k : BitVec 1) (c : BitVec 1) (s : State) : Out :=
  .next (match rowOp (.tsts r sc k c) with | some o => s.rowNode o | none => s)

/-- MEMORY_ACCESS_PERFORMED (R276 to R278): with `w` 0, access `k` of tile `t` of thread `n`'s region, which waits where its weight
read falls inside a refresh window (R273); else the next row of the row operation of node `s`. -/
def execMemoryAccessPerformed (s : State) : Out :=
  let e := s.ev
  let d : Nd := { n := e.n, t := e.t, slot := e.s.toNat, img := (s.reg e.n).image }
  if !actsIn (s.reg e.n).st then .next s
  else if e.w = 0 then
    .next (match (s.rt e.n e.t).accs[e.k]? with
      | some a => if a.where_ = 2 ∧ (s.clu (clusterOf e.n)).inWin then s else s.perform e.n e.t e.k
      | none => s)
  else if (s.rt e.n e.t).parked.any (fun p => p.slot == e.s) then .next s
  else
    match (s.rt e.n e.t).mops.find? (fun m => m.slot == e.s && decide (m.due ≤ (s.now e.n))) with
    | some m => (match rowOp m.op with | some o => .next (s.rowStep d o m) | none => .next s)
    | none => .next s

/-! ## DONE and ECMD -/

/-- DONE (R282): the smallest scope among its inputs. -/
def execDone (h : BitVec 1) (s : State) : Out :=
  let d := s.nd
  let slots := if h = 1 then [0, 1, 2] else [0, 1]
  .next (s.nodeStep d slots [0] true (fun s => s.align d
    { slots := slots
      fire := fun s hs =>
        let sc := hs.foldl (fun m h => Nat.min m (fld h.2.1.pay 0 3).toNat) 7
        let i := match hs with | h :: _ => h.2.2 | [] => 0
        (s.popAll d slots).emit d 0 (orderTok (BitVec.ofNat 3 sc)) i
      gap := fun s m n c => s.emitGap d [0] m n c }))

/-- A CMD token: half of a chain entry. -/
def cmdTok (pay : BitVec 256) (first : Bool) : Token := { pay := pay, side := mkSide kCMD 0 0 0 first (!first) 0 }

/-- ECMD (R318).  Its count holds the commands whose ORDER token has not left; a GAP or END waits for those. -/
def execEcmd (s : State) : Out :=
  let d := s.nd
  .next (s.nodeStep d [0, 1] [0, 1] false (fun s =>
    let owed := (s.counts d).getD 0 0
    match s.headAt d 0, s.headAt d 1 with
    | some (a, i), some (b, j) =>
      if owed ≠ 0 ∧ !(a.kind = kDATA ∧ b.kind = kDATA ∧ i = j) then .wait
      else s.align d
        { slots := [0, 1], outs := [0, 1]
          fire := fun s _ =>
            (((s.popAll d [0, 1]).emit d 0 (cmdTok a.pay true) i).emit d 0 (cmdTok b.pay false) i).setCounts d [owed + 1]
          gap := fun s m n c => s.emitGap d [0, 1] m n c }
    | _, _ => .wait))

end Sys2Proof.Machine
end

