-- ==== Sys2Proof/Machine/Nodes.lean ====
section
/-! DEFINITION. The effect of an operation word at the node in focus, for the sweeps and passages that ask whether a node
can act. -/

namespace Sys2Proof.Machine

/-- What the node in focus does with an operation word; other words do nothing here. -/
def runNode (i : Instr) (s : State) : Out :=
  match i with
  | .iadd t b sf => execIadd t b sf s
  | .isub t b sf => execIsub t b sf s
  | .imul t b sf => execImul t b sf s
  | .imulh t b => execImulh t b s
  | .imad t b sf => execImad t b sf s
  | .imin t b => execImin t b s
  | .imax t b => execImax t b s
  | .iabs t sf => execIabs t sf s
  | .ineg t sf => execIneg t sf s
  | .iand t b => execIand t b s
  | .ior t b => execIor t b s
  | .ixor t b => execIxor t b s
  | .inot t => execInot t s
  | .ishl t b => execIshl t b s
  | .ishr t b => execIshr t b s
  | .isha t b => execIsha t b s
  | .icmpeq t b => execIcmpeq t b s
  | .icmpne t b => execIcmpne t b s
  | .icmplt t b => execIcmplt t b s
  | .icmple t b => execIcmple t b s
  | .sel t b => execSel t b s
  | .clzNode t => execClzNode t s
  | .popcNode t => execPopcNode t s
  | .isat t n => execIsat t n s
  | .iclamp t b => execIclamp t b s
  | .faddNode t b m => execFaddNode t b m s
  | .fsubNode t b m => execFsubNode t b m s
  | .fmulNode t b m => execFmulNode t b m s
  | .ffmaNode t b m => execFfmaNode t b m s
  | .fminNode t b => execFminNode t b s
  | .fmaxNode t b => execFmaxNode t b s
  | .fabsNode t => execFabsNode t s
  | .fnegNode t => execFnegNode t s
  | .fcmpeqNode t b => execFcmpeqNode t b s
  | .fcmpltNode t b => execFcmpltNode t b s
  | .fcmpleNode t b => execFcmpleNode t b s
  | .frcpNode t m => execFrcpNode t m s
  | .frsqNode t m => execFrsqNode t m s
  | .fsqrtNode t m => execFsqrtNode t m s
  | .fexp2 t m => execFexp2 t m s
  | .flog2 t m => execFlog2 t m s
  | .cvt t sf l p x m => execCvt t sf l p x m s
  | .cvtsr t i c => execCvtsr t i c s
  | .sdenc sf l p w => execSdenc sf l p w s
  | .sddec t l p w => execSddec t l p w s
  | .qmax t e => execQmax t e s
  | .qconv t sf => execQconv t sf s
  | .qdeq t e => execQdeq t e s
  | .pack t => execPack t s
  | .unpack t m => execUnpack t m s
  | .shuf t => execShuf t s
  | .bcast t e => execBcast t e s
  | .rsum t q => execRsum t q s
  | .rmax t => execRmax t s
  | .rmin t => execRmin t s
  | .accum t e => execAccum t e s
  | .wsum t e => execWsum t e s
  | .wcnt e => execWcnt e s
  | .xred t o => execXred t o s
  | .steer t => execSteer t s
  | .merge t c => execMerge t c s
  | .gate t v => execGate t v s
  | .chain a b => execChain a b s
  | .repl t r => execRepl t r s
  | .sink t v e => execSink t v e s
  | .source t a n => execSource t a n s
  | .join t u => execJoin t u s
  | .win t => execWin t s
  | .gapc t v e => execGapc t v e s
  | .hashk c => execHashk c s
  | .dropm t i c => execDropm t i c s
  | .gld t n e sf => execGld t n e sf s
  | .gst t n e sf => execGst t n e sf s
  | .sld t n e sf => execSld t n e sf s
  | .sst t n e sf => execSst t n e sf s
  | .wld t n e sf => execWld t n e sf s
  | .tld b r n sf => execTld b r n sf s
  | .tst r n sf k c => execTst r n sf k c s
  | .done h => execDone h s
  | .ecmd => execEcmd s
  | .tshape r => execTshape r s
  | .tprec => execTprec s
  | .tfill t b r => execTfill t b r s
  | .temit t r k c => execTemit t r k c s
  | .tlds b r sf => execTlds b r sf s
  | .tsts r sf k c => execTsts r sf k c s
  | .tzero b r f c => execTzero b r f c s
  | .tmma r q l k j => execTmma r q l k j s
  | .tmov r q x k => execTmov r q x k s
  | .tcvt r q k m => execTcvt r q k m s
  | .tepi t k l m => execTepi t k l m s
  | .tquant r q k => execTquant r q k s
  | .tacc t c => execTacc t c s
  | .csc t sf l p m => execCsc t sf l p m s
  | .norm t m => execNorm t m s
  | .perm => execPerm s
  | .vote t => execVote t s
  | .cksum t b c e => execCksum t b c e s
  | .ckchk t => execCkchk t s
  | .capq => execCapq s
  | _ => .next s

end Sys2Proof.Machine
end

