-- ==== Sys2Proof/Machine/Maint.lean ====
section
/-! DEFINITION. TLBINVS, TLBINVA and SPGEN (R352), PUB (R316), the wait for accesses that used a translation, the evictions
and drops a cache may make at any time (R271, R325), and the invalidations of the host (R339). -/

namespace Sys2Proof.Machine

/-- Is a memory access issued before a tick still in flight? -/
def State.oldAccess (s : State) (upto : Nat) : Bool :=
  s.threads.any (fun p => p.2.region.tiles.any (fun t =>
    t.2.accs.any (fun a => !a.done && a.where_ == 0 && decide (a.stamp < upto))))

/-- The word has had its effect and waits until every access issued before now has performed; then `fin` ends it. -/
def State.drain (s : State) (detail : BitVec 32) (fin : State → BitVec 32 → State) : State :=
  if s.oldAccess s.tick then s.stay (.drain s.tick detail) else fin s detail

/-- A word that is looked at again while it drains. -/
def State.drains (s : State) (fin : State → BitVec 32 → State) (first : State → State) : State :=
  match s.me.wait with
  | .drain t x => if s.oldAccess t then s else fin (s.modMe (fun m => { m with wait := .none })) x
  | _ => first s

/-- The checks TLBINVS, TLBINVA and SPGEN share (R352): the space number, or the trap. -/
def State.spaceCheck (s : State) (a : BitVec 5) (f : Nat → State) : State :=
  let v := s.rd a
  let t := s.me
  if t.pl = 0 then s.trap cPRIV 0
  else if fld v 12 52 ≠ 0 then s.trap cACCESS v
  else if t.pl = 1 ∧ t.cred.fn ≠ 0 ∧ !spaceInRange t.cred.fn v.toNat then s.trap cACCESS v
  else f v.toNat

/-- TLBINVS (R352). -/
def execTlbinvs (a : BitVec 5) (s : State) : Out :=
  .next (s.drains (fun s _ => s.advance) (fun s => s.spaceCheck a (fun n =>
    ({ s with
      tlb := s.tlb.filter (fun e => e.space.toNat != n)
      spaces := Tab.set s.spaces n ({ s.gen n with count := 0 } : SpaceGen) }).drain 0 (fun s _ => s.advance))))

/-- TLBINVA (R352). -/
def execTlbinva (a b : BitVec 5) (s : State) : Out :=
  .next (s.drains (fun s _ => s.advance) (fun s => s.spaceCheck a (fun n =>
    let va := s.rd b
    if fld va 52 12 ≠ 0 then s.trap cACCESS va
    else
      ({ s with tlb := s.tlb.filter (fun e =>
          !(e.space.toNat == n && decide (e.base ≤ va.toNat) && decide (va.toNat < e.base + e.size))) }).drain 0 (fun s _ => s.advance))))

/-- SPGEN (R352): a new generation of the space, at most 15 times before a TLBINVS. -/
def execSpgen (d a : BitVec 5) (s : State) : Out :=
  let fin (s : State) (g : BitVec 32) : State := s.put d (zext g 64)
  .next (s.drains fin (fun s => s.spaceCheck a (fun n =>
    let g := s.gen n
    if g.count = 15 then s.trap cACCESS (s.rd a)
    else
      let g' : SpaceGen := { gen := g.gen + 1, count := g.count + 1 }
      ({ s with spaces := Tab.set s.spaces n g' }).drain (zext g'.gen 32) fin)))

/-- PUB (R316). -/
def execPub (d a : BitVec 5) (s : State) : Out :=
  let fin (s : State) (x : BitVec 32) : State := s.status d stOK x.toNat
  .next (s.drains fin (fun s =>
    let b := s.rd a
    if b = 0 ∨ 2 ^ 32 ≤ b.toNat then s.status d stBADARG
    else
      let va : Word := b <<< 6
      let cr := s.me.cred
      match s.translate cr .read false va with
      | (s, .error c) => s.trap c va
      | (s, .ok x) =>
        match x.target with
        | .host _ _ _ => s.trap cACCESS va
        | .device pa =>
          match s.homeRead pa 64 with
          | (s, v, bad) =>
            if bad then s.trap cUNCORR va
            else if bytesOf v 0x21 1 % 2 = 0 then s.status d stBADARG
            else if !cr.marksOk pa then s.trap cACCESS va
            else
              (s.publish pa (fun s => s.markAll pa (cr.marks pa))).drain (BitVec.ofNat 32 (bytesOf v 0x28 8 + 1)) fin))

/-! ## What caches may do at any time -/

/-- L2_EVICTION (R271): a cluster's slice writes back line `k` and keeps it clean, or drops it when `w` is 1. -/
def execL2Eviction (s : State) : Out :=
  let s' := s.writeBack s.ev.c s.ev.k
  .next (if s.ev.w = 1 then s'.dropClean s.ev.c s.ev.k else s')

/-- TRANSLATION_ENTRY_DROP (R325): entry `k` of the translation cache goes. -/
def execTranslationEntryDrop (s : State) : Out := .next { s with tlb := s.tlb.eraseIdx s.ev.k }

end Sys2Proof.Machine
end

