-- ==== Sys2Proof/Machine/Loader.lean ====
section
/-! DEFINITION. The checks of the loader (R113), in order: the header, operation words and constants, switch words,
queue and counter-chain records, Invar legality, the in-flight proof (R170 to R172), sinks and capacity. -/

namespace Sys2Proof.Machine

/-- The outcome of a check: none, or the status and the offset in the image. -/
abbrev Chk := Option (BitVec 8 × Nat)

/-- IMAGE at an offset, unless a condition holds. -/
def need (ok : Bool) (off : Nat) : Chk := if ok then none else some (cIMAGE, off)

/-- The first failure of a list of checks. -/
def firstBad (l : List Chk) : Chk := l.findSome? id

/-- The first failure over the elements of a list. -/
def checkAll {α : Type} (l : List α) (f : α → Chk) : Chk := l.findSome? f

/-! ## Steps 1 and 2: the header -/

/-- Step 1 of R113. -/
def headerCheck (img : Nat) : Chk :=
  firstBad [
    need (imgAt img 0 4 == 0x30344541) 0,
    need (imgAt img 4 2 == 1) 4,
    need (imgAt img 0x28 8 == imgLength (imgW img) (imgH img)) 0x28,
    need (imgAt img 6 1 < 16) 6,
    need (imgAt img 7 1 < 16) 7,
    need (imgAt img 8 4 < 8) 8,
    need (imgAt img 0x22 6 == 0) 0x22,
    need (imgAt img 0x30 16 == 0) 0x30]

/-- Step 2 of R113, against the claim word. -/
def claimCheck (img : Nat) (claim : Word) : Chk :=
  firstBad [
    need (imgW img == claimW claim && imgH img == claimH claim) 6,
    need (imgInvar img == claimInvar claim && imgCapok img == claimCapok claim) 8,
    need (imgAt img 7 1 % 16 ≤ claimClass claim) 7]

/-! ## Operation words (R35, R36, R38, R153, R216, R220, R232 to R234, R243, R274, R318) -/

/-- The offset of an operation word. -/
def opOff (img : Nat) (t : TileNo) (slot : Nat) : Nat := tileOff (imgW img) t + 4 * slot
/-- The offset of a node constant. -/
def constOff (img : Nat) (t : TileNo) (slot : Nat) : Nat := opOff img t slot + 0x20
/-- The offset of a queue record. -/
def queueOff (img : Nat) (t : TileNo) (q : Nat) : Nat := tileOff (imgW img) t + 0x40 + 8 * q
/-- The offset of switch word k. -/
def swOff (img : Nat) (t : TileNo) (k : Nat) : Nat := tileOff (imgW img) t + 0x188 + 2 * k

/-- May the node constant of an operation hold this value? -/
def constOk (i : Instr) (w c : BitVec 32) (capok : Bool) : Bool :=
  match i with
  | .win _ => c != 0
  | .gapc _ v _ => (v == 0) == (c == 0)
  | .dropm _ _ _ | .shuf _ | .csc _ _ _ _ _ | .norm _ _ | .tepi _ _ _ _ => true
  | .perm => c != 0
  | .cvtsr t _ _ =>
    let src := fld c 0 4
    isFloat src && fld c 7 25 == 0 && decide (elemBits t ≤ elemBits src)
      && partRule (elemCount src) (elemCount t) false (fld c 4 3).toNat
  | .tshape _ => shapeOk c
  | .tprec => fld c 19 13 == 0 && fld c 12 3 == 0 && c.getLsbD 18 == capok && decide ((fld c 6 6).toNat ≤ 32)
      && decide ((fld c 0 6).toNat ≤ 32)
  | .tfill _ b _ | .tlds b _ _ | .tld b _ _ _ => if b = 1 then shapeOk c else c == 0
  | .tzero _ _ _ a => if a = 1 then accRecOk c else c == 0
  | .source _ a _ => a == 1 || c == 0
  | _ => (opB w == 1) || c == 0

/-- The tile registers an operation names. -/
def regsOf (i : Instr) : List Nat :=
  match i with
  | .tshape r | .tfill _ _ r | .tlds _ r _ | .tld _ r _ _ => [r.toNat]
  | .temit _ r _ c | .tsts r _ _ c | .tst r _ _ _ c | .tzero _ r _ c => if c = 1 then [] else [r.toNat]
  | .tmma r q _ _ _ | .tmov r q _ _ | .tcvt r q _ _ | .tquant r q _ => [r.toNat, q.toNat]
  | _ => []

/-- The tile register an operation writes as R234 counts writers. -/
def writesReg (i : Instr) : Option Nat :=
  match i with
  | .tfill _ _ r | .tlds _ r _ | .tld _ r _ _ => some r.toNat
  | .tzero _ r _ c => if c = 1 then none else some r.toNat
  | .tmov _ q _ _ | .tcvt _ q _ _ | .tquant _ q _ => some q.toNat
  | _ => none

/-- The element types a matrix operation takes, where the image settles them (Table 7.6). -/
def matTypeOk (i : Instr) (c : BitVec 32) : Bool :=
  match i with
  | .tfill t b _ => b != 1 || fillType c t
  | .temit t _ _ a => a == 0 || t == 0 || t == 14 || t == 6
  | _ => true

/-- Output 0 of an ECMD reaches one egress port and nothing else (R318). -/
def ecmdOk (img : Nat) (t : TileNo) (slot : Nat) : Bool :=
  match outDests img t slot 0 with
  | [d] => (match d.1 with | .port _ => true | .queue _ _ => false)
  | _ => false

/-- The offset of the TERM word that delivers into queue q. -/
def termOff (img : Nat) (t : TileNo) (q : Nat) : Nat :=
  swOff img t ((switchWords img t).findIdx (fun w => match swForm w with | .term n s _ => 4 * n + s == q | _ => false))

/-- The check of one operation word and its constant. -/
def opCheck (img : Nat) (t : TileNo) (slot : Nat) : Chk :=
  let w := opWord img t slot
  let off := opOff img t slot
  let fed (k : Nat) : Bool := termFeeds img t (4 * slot + k)
  if opCode w = 0xFF then need (w == nopn && !(fed 0 || fed 1 || fed 2 || fed 3)) off
  else
    match decodeOperation w with
    | none => some (cIMAGE, off)
    | some i =>
      let c := nodeConst img t slot
      firstBad [
        need (!(opA w == 0 && !fed 0) && !(opB w == 0 && !fed 1) && !(readsC w && !fed 2)) off,
        need (!(fed 2 && !readsC w)) (termOff img t (4 * slot + 2)),
        need ((regsOf i).all (fun r => decide (r < imgTregs img))) off,
        need (matTypeOk i c) off,
        need (match writesReg i with
          | some r => !(List.range slot).any (fun k => (opAt img t k).bind writesReg == some r)
          | none => true) off,
        need (opCode w != 0x83 || imgElectrum img) off,
        need (opCode w != 0x68 || ecmdOk img t slot) off,
        need (constOk i w c (imgCapok img)) (constOff img t slot)]

/-! ## Switch words (R40 to R44) -/

/-- The offset of the first word of a channel in a tile that meets a condition. -/
def chanOff (img : Nat) (t : TileNo) (c : Nat) (f : SwForm → Bool) : Nat :=
  swOff img t ((switchWords img t).findIdx (fun w => swChan w == c && f (swForm w)))

/-- The checks of R43 that switch word k of a tile fails by itself or against the words before it. -/
def swCheck (img : Nat) (t : TileNo) (k : Nat) : Chk :=
  let w := switchWord img t k
  let c := swChan w
  let prior := ((List.range k).map (switchWord img t))
  let same := (prior.filter (fun v => swChan v == c)).map swForm
  let off := swOff img t k
  let srcOk (s : Nat) : Bool := s != 7
    && same.all (fun f => match f.src with | some s' => s' == s | none => true)
  match swForm w with
  | .route s d =>
    need (srcOk s && d != s && decide (d < 8) && d != 6
      && !same.any (fun f => match f with | .fork _ _ => true | _ => false)) off
  | .fork s m =>
    let terms := (chanForms img t c).any (fun f => match f with | .term _ _ _ => true | _ => false)
    need (srcOk s && !(decide (s < 4) && m / 2 ^ s % 2 == 1)
      && (m != 0 || ((s == 6 || decide (8 ≤ s)) && terms))
      && !same.any (fun f => match f with | .route _ _ => true | _ => false)) off
  | .term n s low =>
    need (low == 0 && !prior.any (fun v => match swForm v with | .term n' s' _ => n' == n && s' == s | _ => false)) off
  | .conf a =>
    need (a / 4 % 4 == 0 && !same.any (fun f => match f with | .conf _ => true | _ => false)) off

/-- The channels a tile's words name. -/
def tileChans (img : Nat) (t : TileNo) : List Nat := ((switchWords img t).map swChan).eraseDups

/-- The directions a channel leaves a tile in. -/
def leaves (img : Nat) (t : TileNo) (c : Nat) : List Nat := (chanForms img t c).flatMap SwForm.dirs

/-- Does a channel leave toward a neighbour that takes it from that side (R43)? -/
def leaveOk (img : Nat) (t : TileNo) (c d : Nat) : Bool :=
  match neighbour (imgW img) (imgH img) t d with
  | none => false
  | some t' =>
    let fs := chanForms img t' c
    !fs.isEmpty && fs.all (fun f => match f.src with | some s => s == (d + 2) % 4 | none => true)

/-- The neighbours that send a channel into a tile. -/
def senders (img : Nat) (t : TileNo) (c : Nat) : List Nat :=
  (List.range 4).filter (fun d => match neighbour (imgW img) (imgH img) t d with
    | some t' => (leaves img t' c).contains ((d + 2) % 4)
    | none => false)

/-- The channel checks of a tile: where it leaves to, its entry port and producer, where it ends, its key class.  A CONF word's
key class binds the queues its channel reaches from that switch on (R44: "its channel in that switch"), not those on branches
that left the channel before it (DESIGN CHOICE, log 77). -/
def chanCheck (img : Nat) (t : TileNo) (c : Nat) : Chk :=
  let off := chanOff img t c (fun _ => true)
  let fs := chanForms img t c
  let hasSrc := fs.any (fun f => f.src.isSome)
  let key := confOf img t c / 16 % 16
  firstBad [
    checkAll (leaves img t c) (fun d => need (leaveOk img t c d) (chanOff img t c (fun f => f.dirs.contains d))),
    need ((hasSrc && (senders img t c).length ≤ 1) || (!hasSrc && (senders img t c).length == 1)) off,
    need (traceWay img c 257 t 0).isSome off,
    need (!(route img c 257 t 0).isEmpty) off,
    if key = 0 then none else
      checkAll (route img c 257 t 0) (fun d => match d.1 with
        | .queue t' q => need (qKey (queueRec img t' q.toNat) / 16 == key) (queueOff img t' q.toNat)
        | .port _ => none)]

/-- Reserved bytes, the word count and the words beyond it of a tile block (R113). -/
def blockCheck (img : Nat) (t : TileNo) : Chk :=
  let o := tileOff (imgW img) t
  firstBad [
    need (nsw img t ≤ 256) (o + 0x180),
    checkAll (List.range 6) (fun k => need (imgAt img (o + 0x182 + k) 1 == 0) (o + 0x182 + k)),
    checkAll ((List.range 256).drop (nsw img t)) (fun k =>
      need (switchWord img t k == 0) (swOff img t k + (if switchWord img t k &&& 0xFF = 0 then 1 else 0))),
    checkAll (List.range 120) (fun k => need (imgAt img (o + 0x388 + k) 1 == 0) (o + 0x388 + k))]

/-! ## Queue and counter-chain records (R140, R141, R149, R157, R282) -/

/-- Is a queue record legal for a consumer of the given type (R140)? -/
def queueRecOk (r : Word) (sd faultOnly : Bool) : Bool :=
  let p := qPolicy r
  let g := qTrig r
  let uses (b : Bool) (lo len : Nat) : Bool := b || (r.toNat / 2 ^ lo % 2 ^ len == 0)
  let occ := p != 0 && g == 0
  let idx := p != 0 && g == 1
  decide ((fld r 0 3).toNat ≤ 6) && decide (p ≤ 5) && g != 3 && decide (qMop r ≤ 4) && !r.getLsbD 41
    && uses (p != 0) 6 2 && uses occ 8 7 && uses occ 15 7 && uses idx 22 4 && uses idx 26 15
    && uses (p == 3) 42 4 && uses (p == 3) 53 1 && uses (p == 4) 50 3 && uses (p == 4 && qMop r == 0) 55 1
    && uses (p == 5) 46 4
    && (!occ || (decide (1 ≤ qThresh r) && decide (qThresh r ≤ qDepth r) && decide (qRelease r < qThresh r)))
    && (!idx || decide (qIoff r < 2 ^ qIper r))
    && (p != 3 || qShift r != 0) && (p != 5 || (qKeep r != 0 && sd)) && (!faultOnly || p == 0)

/-- The checks of a tile's queue records. -/
def queueCheck (img : Nat) (t : TileNo) : Chk :=
  let fed := (List.range 32).filter (termFeeds img t)
  firstBad [
    checkAll (List.range 32) (fun q =>
      let r := queueRec img t q
      let w := opWord img t (q / 4)
      need (if fed.contains q then queueRecOk r (opType w == 13) (q % 4 == 3 || opCode w == 0x67) else r == 0)
        (queueOff img t q)),
    need ((fed.map (fun q => qDepth (queueRec img t q))).foldl (· + ·) 0 ≤ 512) (queueOff img t 0)]

/-- Is a counter-chain record legal for the slot (R157)? -/
def chainOk (w : BitVec 32) (c : Word) : Bool :=
  if opCode w = 0x53 then
    fld c 54 10 == 0 && chRearm c == (opA w == 0) && chLc c == (opB w == 0) && chIi c != 0 && chStep c != 0 && chCount c != 0
  else c == 0

/-- The checks of a tile's counter-chain records. -/
def chainCheck (img : Nat) (t : TileNo) : Chk :=
  checkAll (List.range 8) (fun k => need (chainOk (opWord img t k) (chainRec img t k)) (tileOff (imgW img) t + 0x140 + 8 * k))

/-! ## The graph of nodes -/

/-- A node: tile and slot. -/
abbrev Vtx := TileNo × Nat

/-- The queues an output of a node feeds. -/
def outQueues (img : Nat) (v : Vtx) (o : Nat) : List (TileNo × Nat) :=
  (outDests img v.1 v.2 o).filterMap (fun d => match d.1 with | .queue t q => some (t, q.toNat) | .port _ => none)

/-- The queues an ingress port feeds. -/
def portQueues (img : Nat) (p : BitVec 14) : List (TileNo × Nat) :=
  (route img (portChan p) 257 (portTile p) 0).filterMap
    (fun d => match d.1 with | .queue t q => some (t, q.toNat) | .port _ => none)

/-- Is a queue slot B of a loop-carried CHAIN? -/
def isLoopB (img : Nat) (t : TileNo) (q : Nat) : Bool := q % 4 == 1 && opCode (opWord img t (q / 4)) == 0x53

/-- Nodes reached from a frontier of nodes; `skip` leaves out the slot B of loop-carried CHAINs. -/
def reachFrom (img : Nat) (skip : Bool) : Nat → List Vtx → List Vtx → List Vtx
  | 0, _, seen => seen
  | _, [], seen => seen
  | fuel + 1, v :: rest, seen =>
    let next := ((outQueues img v 0 ++ outQueues img v 1).filter (fun q => !(skip && isLoopB img q.1 q.2))).map
      (fun q => (q.1, q.2 / 4))
    let fresh := (next.eraseDups).filter (fun u => !seen.contains u)
    reachFrom img skip fuel (rest ++ fresh) (seen ++ fresh)

/-- Nodes reached from a node by at least one channel. -/
def reach (img : Nat) (skip : Bool) (v : Vtx) : List Vtx := reachFrom img skip 4097 [v] []

/-- Does a channel that a node's output feeds lie on a cycle that avoids slot B of loop-carried CHAINs (R171)? -/
def onCycle (img : Nat) (v : Vtx) (c : Nat) : Bool :=
  (((route img c 257 v.1 0).filterMap (fun d => match d.1 with | .queue t q => some (t, q.toNat) | .port _ => none)).filter
    (fun q => !isLoopB img q.1 q.2)).any (fun q => (q.1, q.2 / 4) == v || (reach img true (q.1, q.2 / 4)).contains v)

/-! ## The bound B (R171) -/

/-- IW(p) of R170. -/
def window (img : Nat) (p : BitVec 14) : Nat :=
  let ds := (portQueues img p).filterMap (fun q =>
    if qPolicy (queueRec img q.1 q.2) = 0 then some (qDepth (queueRec img q.1 q.2)) else none)
  match ds with | [] => 64 | d :: r => r.foldl Nat.min d

/-- A bound: a number of tokens or none, and whether the channel derives from an ingress port. -/
abbrev Bnd := Option Nat × Bool

/-- The smaller of two bounds, `none` standing for unbounded. -/
def bMin (x y : Option Nat) : Option Nat :=
  match x, y with | none, y => y | x, none => x | some a, some b => some (Nat.min a b)

/-- The shape words a register can take from node constants of the tile, TMOV followed (R235). -/
def regShapes (img : Nat) (t : TileNo) : Nat → Nat → List (BitVec 32)
  | 0, _ => []
  | fuel + 1, r =>
    (List.range 8).flatMap (fun k =>
      match opAt img t k with
      | some (.tshape q) => if q.toNat = r then [nodeConst img t k] else []
      | some (.tfill _ b q) | some (.tlds b q _) | some (.tld b q _ _) =>
        if q.toNat = r ∧ b = 1 then [nodeConst img t k] else []
      | some (.tmov a q _ _) => if q.toNat = r then regShapes img t fuel a.toNat else []
      | _ => [])

/-- Tokens of one emission of a register of a shape. -/
def emissionLen (ty : BitVec 4) (w : BitVec 32) : Nat :=
  if ty = 13 then (shCount w + 7) / 8 * sdTokens (shW w) else (shCount w + elemCount ty - 1) / elemCount ty

/-- The factor r of an operation that counts as REPL for R171. -/
def replFactor (img : Nat) (v : Vtx) (i : Instr) : Nat :=
  match i with
  | .repl _ r => r.toNat + 1
  | .sdenc s l _ wd => sdTokens (wd.toNat + 1) * (if l = 1 then elemCount s / 8 else 1)
  | .cvt t s l _ _ _ | .csc t s l _ _ => if l = 1 then elemCount s / elemCount t else 1
  | .sddec t l _ _ => if l = 1 then 8 / elemCount t else 1
  | .qdeq t e => elemCount e / elemCount t
  | .tepi t _ _ _ => 1024 / elemCount t
  | .temit t r _ c =>
    if c = 1 then 1024 / elemCount t
    else (0#32 :: regShapes img v.1 9 r.toNat).foldl (fun m w => Nat.max m (emissionLen t w)) 0
  | _ => 1

/-- B of an output of a node, from the B of the channels at its slots (Table 5.4). -/
def nodeBound (img : Nat) (v : Vtx) (o : Nat) (at_ : Nat → Bnd) : Bnd :=
  let w := opWord img v.1 v.2
  let ins := (slotsRead img v.1 v.2).filter (· < 3)
  let ing := ins.any (fun k => (at_ k).2)
  let least := (ins.map (fun k => (at_ k).1)).foldl bMin none
  let times (r : Nat) (b : Option Nat) : Option Nat := b.map (· * r)
  match opAt img v.1 v.2 with
  | some (.chain _ _) =>
    let c := chainRec img v.1 v.2
    let m := if chLc c then 1 else chCount c
    if chRearm c then (times m (at_ 0).1, (at_ 0).2) else (some m, false)
  | some (.source _ _ n) => (some (n.toNat + 1), false)
  | some (.merge _ c) =>
    if c = 1 then ((at_ 2).1, ing)
    else if ing then (none, ing)
    else ((match (at_ 0).1, (at_ 1).1 with | some a, some b => some (a + b) | _, _ => none), ing)
  | some (.wsum _ e) | some (.wcnt e) | some (.accum _ e) => if e = 0 then (some 1, ing) else (least, ing)
  | some (.cksum _ _ c e) => if c = 0 ∧ o = 1 ∧ e = 0 then (some 1, ing) else (least, ing)
  | some (.qmax t _) => (least.map (fun b => (b + 128 / elemCount t - 1) / (128 / elemCount t)), ing)
  | some i => (if opCode w = 0xFF then none else times (replFactor img v i) least, ing)
  | none => (none, ing)

/-- Who feeds a queue, and whether that channel lies on a cycle (R171). -/
def cycFeeder (img : Nat) (t : TileNo) (q : Nat) : Option (ChanSrc × Bool) :=
  match feeder img t q, termChan img t q with
  | some (.node t' s o, _), some c => some (.node t' s o, onCycle img (t', s) c)
  | some (x, _), _ => some (x, false)
  | none, _ => none

/-- A node as the rounds see it: who feeds its slots A, B and C. -/
structure BNode where
  v : Vtx
  feeds : List (Option (ChanSrc × Bool))

/-- The nodes of an image as the rounds see them. -/
def boundNodes (img : Nat) : List BNode :=
  (imgNodes img).map (fun v => { v := v, feeds := (List.range 3).map (fun k => cycFeeder img v.1 (4 * v.2 + k)) })

/-- The key of an output in the table of bounds. -/
def outKey (t : TileNo) (slot o : Nat) : Nat := 16 * t.toNat + 2 * slot + o

/-- The bound of a channel from its source and the bounds of the outputs: none for a channel on a cycle. -/
def srcBound (img : Nat) (b : Tab Bnd) : Option (ChanSrc × Bool) → Bnd
  | some (.port p, _) => (some (window img p), true)
  | some (.node t s o, cyc) =>
    let x := Tab.get (none, false) b (outKey t s o)
    (if cyc then none else x.1, x.2)
  | none => (none, false)

/-- One round: the bound of every node's outputs from the last round's. -/
def boundRound (img : Nat) (vs : List BNode) (b : Tab Bnd) : Tab Bnd :=
  vs.flatMap (fun n =>
    let bs := n.feeds.map (srcBound img b)
    let at_ (k : Nat) : Bnd := bs.getD k (none, false)
    [(outKey n.v.1 n.v.2 0, nodeBound img n.v 0 at_), (outKey n.v.1 n.v.2 1, nodeBound img n.v 1 at_)])

/-- Rounds until the bounds stay, at most one per node: that many settle an acyclic graph. -/
def boundRounds (img : Nat) (vs : List BNode) : Nat → Tab Bnd → Tab Bnd
  | 0, b => b
  | k + 1, b =>
    let b' := boundRound img vs b
    if b' = b then b else boundRounds img vs k b'

/-- The bounds of all outputs. -/
def bounds (img : Nat) : Tab Bnd :=
  let vs := boundNodes img
  boundRounds img vs (vs.length + 1) []

/-- B of the channel that feeds a queue. -/
def queueBound (img : Nat) (b : Tab Bnd) (t : TileNo) (q : Nat) : Option Nat :=
  match cycFeeder img t q with
  | none => some 0
  | x => (srcBound img b x).1

/-- R172: every FAULT queue, in an Invar image every queue, is as deep as its channel's bound. -/
def depthCheck (img : Nat) : Chk :=
  let b := bounds img
  checkAll (imgTiles img) (fun t => checkAll ((List.range 32).filter (termFeeds img t)) (fun q =>
    let r := queueRec img t q
    need (!(imgInvar img || qPolicy r == 0) || (match queueBound img b t q with | some x => decide (x ≤ qDepth r) | none => false))
      (queueOff img t q)))

/-! ## Ports a channel derives from, and QCONV (R264) -/

/-- The ingress ports a queue's stream derives from; `skip` does not go back through the slot B of loop-carried CHAINs. -/
def portsOf (img : Nat) (skip : Bool) : Nat → List (TileNo × Nat) → List (TileNo × Nat) → List (BitVec 14) → List (BitVec 14)
  | 0, _, _, ps => ps
  | _, [], _, ps => ps
  | fuel + 1, q :: rest, seen, ps =>
    if seen.contains q then portsOf img skip fuel rest seen ps
    else
      match feeder img q.1 q.2 with
      | some (.port p, _) => portsOf img skip fuel rest (q :: seen) (p :: ps)
      | some (.node t s _, _) =>
        portsOf img skip fuel ((((slotsRead img t s).filter (· < 3)).map (fun k => (t, 4 * s + k))).filter (fun x => !(skip && isLoopB img x.1 x.2)) ++ rest)
          (q :: seen) ps
      | none => portsOf img skip fuel rest (q :: seen) ps

/-- R264 for a QCONV node. -/
def qconvOk (img : Nat) (v : Vtx) (src : BitVec 4) : Bool :=
  let k := 128 / elemCount src
  let a := queueRec img v.1 (4 * v.2)
  let b := queueRec img v.1 (4 * v.2 + 1)
  let sameChan : Bool :=
    match feeder img v.1 (4 * v.2 + 1) with
    | some (.node t s 0, _) =>
      (match opAt img t s with
       | some (.qmax _ _) =>
         (match feeder img t (4 * s), feeder img v.1 (4 * v.2) with
          | some (x, _), some (y, _) => x == y && termChan img t (4 * s) == termChan img v.1 (4 * v.2)
          | _, _ => false)
       | _ => false)
    | _ => false
  sameChan && qPolicy a == 0 && qDepth a == k && qPolicy b == 0
    && (portsOf img false 8192 [(v.1, 4 * v.2)] [] []).all (fun p => decide (k ≤ window img p))

/-- The checks of every QCONV. -/
def qconvCheck (img : Nat) : Chk :=
  checkAll (imgNodes img) (fun v =>
    match opAt img v.1 v.2 with
    | some (.qconv _ s) => need (qconvOk img v s) (opOff img v.1 v.2)
    | _ => none)

/-! ## Invar legality (R177, R241) -/

/-- Is a queue record Invar-legal? -/
def invarQueue (r : Word) : Bool := qPolicy r == 0 || (qTrig r != 0 && qPolicy r != 4 && qPolicy r != 2)

/-- Is an operation word Invar-legal by itself? -/
def invarOp (w : BitVec 32) : Bool := !(opCode w == 0x51 && !w.getLsbD 0)

/-- Does a path of channels lead from an output of a node to slot A of another node? -/
def leadsTo (img : Nat) (v u : Vtx) : Bool :=
  (v :: reach img false v).any (fun x => (outQueues img x 0 ++ outQueues img x 1).any (fun q => q == (u.1, 4 * u.2)))

/-- Two nodes of a tile that must be ordered in an Invar image (R241). -/
def mustOrder (i j : Instr) : Bool :=
  let acc (i : Instr) : Bool := match i with
    | .tmma _ _ _ _ _ | .tacc _ _ => true | .tzero _ _ _ c => c == 1 | _ => false
  let mma (i : Instr) : Bool := match i with | .tmma _ _ _ _ _ => true | _ => false
  let prec (i : Instr) : Bool := match i with | .tprec => true | _ => false
  (acc i && acc j) || (prec i && mma j) || (mma i && prec j)

/-- The Invar checks. -/
def invarCheck (img : Nat) : Chk :=
  if !imgInvar img then none
  else firstBad [
    checkAll (imgTiles img) (fun t => checkAll (List.range 32) (fun q => need (invarQueue (queueRec img t q)) (queueOff img t q))),
    checkAll (imgNodes img) (fun v => need (invarOp (opWord img v.1 v.2)) (opOff img v.1 v.2)),
    checkAll (imgNodes img) (fun v =>
      need ((List.range v.2).all (fun k =>
        match opAt img v.1 k, opAt img v.1 v.2 with
        | some i, some j => !mustOrder i j || leadsTo img (v.1, k) v || leadsTo img v (v.1, k)
        | _, _ => true)) (opOff img v.1 v.2))]

/-! ## Electrum (R376) -/

/-- What makes two nodes equal: word, constant, queue and chain records. -/
def sameNode (img : Nat) (u v : Vtx) : Bool :=
  opWord img u.1 u.2 == opWord img v.1 v.2 && nodeConst img u.1 u.2 == nodeConst img v.1 v.2
    && chainRec img u.1 u.2 == chainRec img v.1 v.2
    && (List.range 4).all (fun k => queueRec img u.1 (4 * u.2 + k) == queueRec img v.1 (4 * v.2 + k))

/-- The page of a tile in its region. -/
def regionPage (t : TileNo) : Nat := 4 * (ty t / 4) + tx t / 4

/-- A tile's place in its page. -/
def inPage (t : TileNo) : Nat := 4 * (ty t % 4) + tx t % 4

/-- What feeds a queue, as the same place in equal copies: nothing, a channel from outside the copy, or a node of the copy by its
place, slot and output. -/
def copyFeed (img : Nat) (t : TileNo) (q : Nat) : Option (Option (Nat × Nat × Nat)) :=
  match feeder img t q with
  | some (.node t' s o, a) => some (if a / 2 % 2 = 1 then some (inPage t', s, o) else none)
  | some _ => some none
  | none => none

/-- Where a node's inputs come from, slot O among them: the same in equal copies. -/
def inShape (img : Nat) (v : Vtx) : List (Option (Option (Nat × Nat × Nat))) :=
  (List.range 4).map (fun k => copyFeed img v.1 (4 * v.2 + k))

/-- The switch words of the channels inside a copy, by place in the page: those of channels that a node of the copy feeds and
that reach nothing outside it. -/
def copyWords (img : Nat) (x : List Vtx) : List (Nat × BitVec 16) :=
  match x with
  | [] => []
  | v :: _ =>
    ((imgTiles img).filter (fun t => regionPage t == regionPage v.1)).flatMap (fun t =>
      ((switchWords img t).filter (fun w =>
        (match traceBack img (swChan w) 257 t 0 with
         | some (.node t' s _, _) => x.contains (t', s)
             && (route img (swChan w) 257 t' 0).all (fun d => match d.1 with
               | .queue u q => x.contains (u, q.toNat / 4) | .port _ => false)
         | _ => false))).map (fun w => (inPage t, w)))

/-- Two copies are equal node for node, on places equal within their pages, and in the switch words between their nodes. -/
def copyEq (img : Nat) (x y : List Vtx) : Bool :=
  x.length == y.length && (x.zip y).all (fun p =>
    sameNode img p.1 p.2 && p.1.2 == p.2.2 && inPage p.1.1 == inPage p.2.1 && inShape img p.1 == inShape img p.2)
    && (copyWords img x).all (copyWords img y).contains && (copyWords img y).all (copyWords img x).contains

/-- Is a copy legal: FAULT queues, no store, command, SINK or egress port, Invar-legal? -/
def copyOk (img : Nat) (x : List Vtx) : Bool :=
  x.all (fun v =>
    let w := opWord img v.1 v.2
    !(([0x61, 0x63, 0x66, 0x75, 0x68, 0x55] : List Nat).contains (opCode w)) && invarOp w
      && (List.range 4).all (fun k => !termFeeds img v.1 (4 * v.2 + k) || qPolicy (queueRec img v.1 (4 * v.2 + k)) == 0)
      && !(outDests img v.1 v.2 0 ++ outDests img v.1 v.2 1).any (fun d => match d.1 with | .port _ => true | _ => false))

/-- R376 for a VOTE node. -/
def voteOk (img : Nat) (v : Vtx) : Bool :=
  let c (k : Nat) := voteCopy img v.1 v.2 k
  let pages (k : Nat) := ((c k).map (fun u => regionPage u.1)).eraseDups
  let root (k : Nat) := copyFeed img v.1 (4 * v.2 + k)
  copyEq img (c 0) (c 1) && copyEq img (c 0) (c 2) && root 0 == root 1 && root 0 == root 2 && (List.range 3).all (fun k => copyOk img (c k))
    && (List.range 3).all (fun k => decide ((pages k).length ≤ 1))
    && (pages 0 ++ pages 1 ++ pages 2).eraseDups.length == (pages 0).length + (pages 1).length + (pages 2).length

/-- The Electrum checks. -/
def electrumCheck (img : Nat) : Chk :=
  let votes := (imgNodes img).filter (fun v => opCode (opWord img v.1 v.2) == 0x83)
  if !imgElectrum img then none
  else firstBad [
    need (3 ≤ imgW img * imgH img) (match votes with | v :: _ => opOff img v.1 v.2 | [] => 8),
    checkAll votes (fun v => need (voteOk img v) (opOff img v.1 v.2))]

/-! ## All checks -/

/-- The number of sinks of an image. -/
def sinkCount (img : Nat) : Nat :=
  ((imgNodes img).filter (fun v => opCode (opWord img v.1 v.2) == 0x55)).length + (egressPorts img).length

/-- Steps 3 and 4 of R113.  Step 3 gives its own checks no order; the model makes them in the order below, so the offset an
image with several faults answers with is the model's choice (DESIGN CHOICE, log 78). -/
def bodyCheck (img : Nat) : Chk :=
  let ts := imgTiles img
  firstBad [
    checkAll ts (fun t => checkAll (List.range 8) (opCheck img t)),
    checkAll ts (blockCheck img),
    checkAll ts (fun t => checkAll (List.range (Nat.min (nsw img t) 256)) (swCheck img t)),
    checkAll ts (fun t => checkAll (tileChans img t) (chanCheck img t)),
    checkAll ts (queueCheck img),
    checkAll ts (chainCheck img),
    qconvCheck img,
    invarCheck img,
    electrumCheck img,
    depthCheck img,
    need (imgSinks img == sinkCount img && 1 ≤ imgSinks img && imgSinks img ≤ 4096) 0xE]

/-- The quarters a region's tiles lie in. -/
def State.regionQuarters (s : State) (n : BitVec 9) : List Nat :=
  ((imgTiles (s.reg n).image).map (fun t => (quarterOf ((s.reg n).absTile t)).toNat)).eraseDups

/-- Step 5 of R113: the footprint against the live capacity of a thread's claimed tiles. -/
def State.capacityCheck (s : State) (n : BitVec 9) (img : Nat) : Chk :=
  let c := s.clu (clusterOf n)
  let tiles := (imgTiles img).map (fun t => c.tile ((s.reg n).absTile t))
  let quarters := ((imgTiles img).map (fun t => (quarterOf ((s.reg n).absTile t)).toNat)).eraseDups
  let fits (ok : Bool) (off : Nat) : Chk := if ok then none else some (cOVERCAP, off)
  firstBad [
    fits (tiles.all (fun m => decide (imgScrbanks img ≤ m.scrBanks.live))) 0x20,
    fits (tiles.all (fun m => decide (imgTregs img ≤ m.tregBanks.live))) 0x21,
    fits (quarters.all (fun q => decide (imgWsbase img + imgWslen img ≤ c.weightLive q * 2 ^ 18))) 0x10]

/-- Every check of R113 for thread n's claim. -/
def State.loadCheck (s : State) (n : BitVec 9) (img : Nat) : Chk :=
  firstBad [headerCheck img, claimCheck img (s.reg n).claim, bodyCheck img, s.capacityCheck n img]

end Sys2Proof.Machine
end

