-- ==== Sys2Proof/Machine/Period.lean ====
section
/-! DEFINITION. Reading and loading images (R113, R114), the tensor table (R116, R126), port bindings (R115, R118, R119),
and the start of a configuration period (R119, R120, R122, R169, R283). -/

namespace Sys2Proof.Machine

/-! ## Reading an image -/

/-- What a read of several lines came to. -/
inductive LinesRead where
  | ok (v : Nat)
  | fault (cause : BitVec 8) (va : Word)
  | wait

/-- Read lines of 64 bytes at their homes for the running thread, the first line lowest.  DEDUCED, log 19. -/
def State.readHome : Nat → Word → State → State × LinesRead
  | 0, _, s => (s, .ok 0)
  | k + 1, va, s =>
    match s.resolve s.me.cred .read false va (.thread s.cur) with
    | (s, .fault c) => (s, .fault c va)
    | (s, .wait) => (s, .wait)
    | (s, .ok key _) =>
      match s.homeRead key 64 with
      | (s, _, true) => (s, .fault cUNCORR va)
      | (s, v, false) =>
        match State.readHome k (va + 64) s with
        | (s, .ok r) => (s, .ok (v + r * 2 ^ 512))
        | x => x

/-- Read the image at an address: its header gives the length. -/
def State.readImage (s : State) (va : Word) : State × LinesRead :=
  match s.readHome 1 va with
  | (s, .ok h) =>
    if (headerCheck h).isSome then (s, .ok h) else s.readHome (imgLength (imgW h) (imgH h) / 64) va
  | x => x

/-! ## Loading -/

/-- Is a port's channel a bridge channel: CONF bit 0 in its switch (R44)? -/
def isBridgeChan (img : Nat) (p : BitVec 14) : Bool := confOf img (portTile p) (portChan p) % 2 == 1

/-- Is a port of a new image of the same kind as in the old one: the same way, a bridge channel or none (R114)? -/
def portFits (old img : Nat) (p : Port) : Bool :=
  (match p.kind with
   | .ingress | .bridgeIn => (ingressPorts img).contains p.id
   | .egress | .bridgeOut | .command => (egressPorts img).contains p.id)
  && isBridgeChan old p.id == isBridgeChan img p.id

/-- The image is in place: words, tags, registers, banks (R114); bindings that fit are kept.  Flags and counts stand until the
next period begins (R120, R203). -/
def State.loadImage (s : State) (n : BitVec 9) (img : Nat) : State :=
  let s := s.modReg n (fun r =>
    { ({ r with image := img } : Region).fresh with
      st := 3, legal := true, newImage := none, ports := r.ports.filter (portFits r.image img) })
  s.zeroTiles n img true

/-- RLOAD and RSWAP: the checks, then the load. -/
def State.rload (s : State) (d a : BitVec 5) (states : List Nat) (act : State → Nat → State) : State :=
  s.inStates d states (fun s =>
    let va := s.rd a
    if va.toNat % 64 ≠ 0 then s.trap cALIGN va
    else
      match s.readImage va with
      | (s, .fault c v) => s.trap c v
      | (s, .wait) => s.stay .busy
      | (s, .ok img) =>
        match s.loadCheck s.cur img with
        | some (c, off) => s.status d c.toNat off
        | none => if s.wloadRuns s.cur img then s.stay .again else (act s img).status d stOK)

/-- RLOAD (R113, R114). -/
def execRload (d a : BitVec 5) (s : State) : Out :=
  .next (s.rload d a [2] (fun s img => s.loadImage s.cur img))

/-- RSWAP (R114). -/
def execRswap (d a : BitVec 5) (s : State) : Out :=
  .next (s.rload d a [3, 7] (fun s img => s.loadImage s.cur img))

/-- RSWAP.td (R122): BADSTATE in an Invar region, LATE after an ingress END.  R105's order of checks does not place LATE: it is
answered before the address is looked at (DESIGN CHOICE, log 96). -/
def execRswapTd (d a : BitVec 5) (s : State) : Out :=
  if s.my.st = 4 ∧ imgInvar s.my.image then .next (s.status d stBADSTATE)
  else if s.my.st = 4 ∧ s.my.ports.any (fun p => (p.kind == .ingress || p.kind == .bridgeIn) && p.endSent) then
    .next (s.status d stLATE)
  else .next (s.rload d a [4] (fun s img => s.modReg s.cur (fun r => { r with newImage := some img })))

/-! ## Descriptors (Table 4.10) -/

/-- A field of a descriptor. -/
def dscAt (v : BitVec 512) (off n : Nat) : Nat := bytesOf v.toNat off n
/-- BASE. -/
def dscBase (v : BitVec 512) : Word := fld v 0 64
/-- TYPE. -/
def dscType (v : BitVec 512) : BitVec 4 := fld v 64 4
/-- DIMS. -/
def dscDims (v : BitVec 512) : Nat := dscAt v 9 1
/-- READ. -/
def dscRead (v : BitVec 512) : Bool := v.getLsbD 80
/-- WRITE. -/
def dscWrite (v : BitVec 512) : Bool := v.getLsbD 81
/-- SHADOW. -/
def dscShadow (v : BitVec 512) : Bool := v.getLsbD 82
/-- BUFID. -/
def dscBufid (v : BitVec 512) : Nat := dscAt v 0xC 4
/-- SIZE k; 1 at or beyond DIMS. -/
def dscSize (v : BitVec 512) (k : Nat) : Nat := if k < dscDims v then dscAt v (0x10 + 4 * k) 4 else 1
/-- STRIDE k, signed; 0 at or beyond DIMS. -/
def dscStride (v : BitVec 512) (k : Nat) : Word := if k < dscDims v then sext (fld v (256 + 32 * k) 32) 64 else 0
/-- ORIGIN. -/
def dscOrigin (v : BitVec 512) : Word := fld v 384 64

/-- The checks of TDSET (R126). -/
def dscOk (v : BitVec 512) : Bool :=
  fld v 68 4 == 0 && fld v 83 13 == 0 && fld v 448 64 == 0 && decide (1 ≤ dscDims v) && decide (dscDims v ≤ 4)
    && (List.range 4).all (fun k => if k < dscDims v then dscAt v (0x10 + 4 * k) 4 != 0 else dscAt v (0x10 + 4 * k) 4 == 1)
    && !(dscType v == 15 && dscShadow v)

/-- TDSET (R126).  The spec gives no order of an index of 64 or more and a bad address: the index is looked at first (DESIGN
CHOICE, log 79). -/
def execTdset (d a b : BitVec 5) (s : State) : Out :=
  let i := s.rd a
  if 64 ≤ i.toNat then .next (s.status d stBADARG)
  else .next (s.memRead (s.rd b) 64 (fun s v =>
    let v : BitVec 512 := BitVec.ofNat 512 v
    if dscOk v then (s.modMe (fun t => { t with tensors := Tab.set t.tensors i.toNat v })).status d stOK
    else s.status d stBADARG))

/-- TDGET (R126); the index is looked at first, as in TDSET (DESIGN CHOICE, log 79). -/
def execTdget (d a b : BitVec 5) (s : State) : Out :=
  let i := s.rd a
  if 64 ≤ i.toNat then .next (s.status d stBADARG)
  else
    let v : BitVec 512 := Tab.get 0 s.me.tensors i.toNat
    .next (s.memWrite (s.rd b) 64 v.toNat (fun s => s.status d (if Tab.has s.me.tensors i.toNat then stOK else stUNBOUND)))

/-- TDCLR (R126). -/
def execTdclr (d a : BitVec 5) (s : State) : Out :=
  let i := s.rd a
  if 64 ≤ i.toNat then .next (s.status d stBADARG)
  else .next ((s.modMe (fun t => { t with tensors := Tab.del t.tensors i.toNat })).status d stOK)

/-! ## Bindings (R115, R118, R119, R319) -/

/-- Bind a port of the running thread's region. -/
def State.bindPort (s : State) (p : Port) : State :=
  s.modReg s.cur (fun r => { r with ports := r.ports.filter (fun q => !q.same p) ++ [p] })

/-- RFEED and RTAP to a table entry. -/
def State.bindTensor (s : State) (d a b : BitVec 5) (ports : Nat → List (BitVec 14)) (kind : PortKind)
    (flag : BitVec 512 → Bool) : State :=
  s.inStates d [3, 5, 7] (fun s =>
    let i := (s.rd b).toNat
    let id : BitVec 14 := fld (s.rd a) 0 14
    if fld (s.rd a) 14 50 ≠ 0 ∨ !(ports s.my.image).contains id ∨ 64 ≤ i then s.status d stBADARG
    else if Tab.has s.me.tensors i ∧ !flag (Tab.get 0 s.me.tensors i) then s.status d stBADARG
    else (s.bindPort { id := id, kind := kind, num := i }).status d stOK)

/-- RFEED (R118). -/
def execRfeed (d a b : BitVec 5) (s : State) : Out := .next (s.bindTensor d a b ingressPorts .ingress dscRead)

/-- RTAP (R118). -/
def execRtap (d a b : BitVec 5) (s : State) : Out := .next (s.bindTensor d a b egressPorts .egress dscWrite)

/-- Is the buffer of a bridge allocated (R320): its consumer has started a period with the port bound to it, and what consumes
from the port has not emitted END? -/
def State.bridgeLive (s : State) (num : Nat) : Bool :=
  let b : Bridge := Tab.get {} s.bridges num
  b.live && (match b.consumer with
    | some (n, id) =>
      let r := s.reg n
      !(r.st == 3 || (r.st == 8 && r.prev == 3)) && !r.edgeFreed id
        && r.ports.any (fun p => p.kind == .bridgeIn && p.id == id && p.num == num)
    | none => false)

/-- RFEED.bridge and RTAP.bridge with an ordinary bridge number: BADSTATE while its buffer is not freed (R320).  The spec does
not say what follows where the channel is no bridge channel, or a bridge channel is bound to a tensor (R44, R119): both
bindings are taken (DESIGN CHOICE, log 80). -/
def State.bindBridge (s : State) (d : BitVec 5) (id : BitVec 14) (num : Nat) (consume : Bool) : State :=
  let b := Tab.get {} s.bridges num
  if s.bridgeLive num then s.status d stBADSTATE
  else
    let b' : Bridge := if consume then { b with consumer := some (s.cur, id), buffer := {} } else { b with producer := some (s.cur, id) }
    ({ s with bridges := Tab.set s.bridges num b' }.bindPort
      { id := id, kind := if consume then .bridgeIn else .bridgeOut, num := num }).status d stOK

/-- RFEED.bridge (R119, R319). -/
def execRfeedBridge (d a b : BitVec 5) (s : State) : Out :=
  .next (s.inStates d [3, 5, 7] (fun s =>
    let num := (s.rd b).toNat
    let id : BitVec 14 := fld (s.rd a) 0 14
    if fld (s.rd a) 14 50 ≠ 0 ∨ !(ingressPorts s.my.image).contains id ∨ 0x10000 ≤ num
        ∨ (0xFF00 ≤ num ∧ num ≤ 0xFF1F) then s.status d stBADARG
    else s.bindBridge d id num true))

/-- The node whose output feeds a port, if a node does. -/
def portFeeder (img : Nat) (p : BitVec 14) : Option (TileNo × Nat × Nat) :=
  match traceBack img (portChan p) 257 (portTile p) 0 with
  | some (.node t s o, _) => some (t, s, o)
  | _ => none

/-- Is a port fed by output 0 of an ECMD node? -/
def ecmdFed (img : Nat) (p : BitVec 14) : Bool :=
  match portFeeder img p with
  | some (t, s, 0) => opCode (opWord img t s) == 0x68
  | _ => false

/-- RTAP.bridge: bridge numbers 0xFF00 to 0xFF1F name command ports (R319). -/
def execRtapBridge (d a b : BitVec 5) (s : State) : Out :=
  .next (s.inStates d [3, 5, 7] (fun s =>
    let num := (s.rd b).toNat
    let id : BitVec 14 := fld (s.rd a) 0 14
    if fld (s.rd a) 14 50 ≠ 0 ∨ !(egressPorts s.my.image).contains id ∨ 0x10000 ≤ num then s.status d stBADARG
    else if 0xFF00 ≤ num ∧ num ≤ 0xFF1F then
      (if num % 8 = 7 ∨ !ecmdFed s.my.image id then s.status d stBADARG
       else (s.bindPort { id := id, kind := .command, num := num - 0xFF00 }).status d stOK)
    else s.bindBridge d id num false))

/-! ## The start of a period -/

/-- The table indices DROPM and CVTSR nodes of an image name (R166, R251). -/
def originUses (img : Nat) : List Nat :=
  ((imgNodes img).filterMap (fun v =>
    match opAt img v.1 v.2 with
    | some (.dropm _ k _) | some (.cvtsr _ k _) => some k.toNat
    | _ => none)).eraseDups

/-- The bindings and snapshots of R119 and R118: UNBOUND, then BADARG. -/
def bindingCheck (t : Thread) (r : Region) : Nat :=
  let entry (p : Port) : Bool := match p.kind with | .ingress | .egress => true | _ => false
  if !(ingressPorts r.image).all (fun id => r.ports.any (fun p => p.id == id && p.kind.inward))
      ∨ !(egressPorts r.image).all (fun id => r.ports.any (fun p => p.id == id && !p.kind.inward))
      ∨ r.ports.any (fun p => entry p && !Tab.has t.tensors p.num)
      ∨ (originUses r.image).any (fun k => !Tab.has t.tensors k) then stUNBOUND
  else if r.ports.any (fun p =>
      (p.kind == .ingress && !dscRead (Tab.get 0 t.tensors p.num)) || (p.kind == .egress && !dscWrite (Tab.get 0 t.tensors p.num)))
    then stBADARG
  else stOK

/-- A port as the period starts. -/
def Port.opened (p : Port) (t : Thread) : Port :=
  { id := p.id, kind := p.kind, num := p.num
    snap := match p.kind with | .ingress | .egress => Tab.get 0 t.tensors p.num | _ => 0 }

/-- The bridge buffers a region consumes from are allocated (R320). -/
def State.openBridges (s : State) (n : BitVec 9) : State :=
  (s.reg n).ports.foldl (fun s p =>
    if p.kind = .bridgeIn then
      { s with bridges := Tab.set s.bridges p.num { Tab.get ({} : Bridge) s.bridges p.num with live := true, buffer := {} } }
    else s) s

/-- The period of thread n's region begins, with its completion address and what is captured (R120, R169, R326). -/
def State.beginPeriod (s : State) (n : BitVec 9) (comp : Word) (capt : Capt) : State :=
  let s := s.modRegionQuads n (fun _ => [])
  let s := s.modThr n (fun t =>
    let r := t.region
    { t with region := { r with
        st := 4, flags := 0, ends := 0, left := r.sinks, comp := comp, running := true, capt := capt
        seed := t.seed, epoch := t.epoch
        origs := (originUses r.image).map (fun k => (k, dscOrigin (Tab.get 0 t.tensors k)))
        ports := r.ports.map (fun p => p.opened t)
        tiles := openTiles r.image r.tiles ((s.now n) + 1), pos := [], shadow := [], newImage := none
        drainAsked := false, replays := 0, start := (s.now n) + 1, active := (s.now n) } })
  s.openBridges n

/-- RSTART (R119, R120, R121). -/
def execRstart (d a : BitVec 5) (s : State) : Out :=
  .next (s.inStates d (if imgInvar s.my.image then [3, 7] else [3, 5, 7]) (fun s =>
    let va := s.rd a
    if va.toNat % 8 ≠ 0 then s.trap cALIGN va
    else s.withVa .read va (fun s _ _ =>
      let c := bindingCheck s.me s.my
      if c ≠ stOK then s.status d c else (s.beginPeriod s.cur va s.me.cred).status d stOK)))

/-- Is nothing of a region on the way, in a queue or at work? -/
def Region.freed (r : Region) : Bool :=
  r.flight.isEmpty && r.tiles.all (fun t => t.2.queues.all (fun q => q.2.items.isEmpty && q.2.pgap.isNone && q.2.buf.isNone)
    && t.2.mops.isEmpty && t.2.accs.isEmpty)

/-- Is every slot freed for a teardown swap (R122): every ingress port has sent END, which has passed every node's inputs, and every
node has emitted its own? -/
def Region.tornDown (r : Region) : Bool :=
  r.freed && r.ports.all (fun p => !p.kind.inward || p.endSent)
    && (imgNodes r.image).all (fun v => (Tab.get ({} : RTile) r.tiles v.1.toNat).ended.contains v.2)

/-- TEARDOWN_PERIOD_START (R122): after the old period's completion, with every slot freed and no WLOAD running where the new
image takes a weight binding (R309), the new image is loaded and
its period begins with the same completion address; where its bindings are not complete it stays LOADED. -/
def execTeardownPeriodStart (s : State) : Out :=
  let n := s.ev.n
  let r := s.reg n
  match r.newImage with
  | none => .next s
  | some img =>
    if (r.st = 5 ∨ r.st = 7) ∧ r.tornDown ∧ !s.wloadRuns n img then
      let s := s.loadImage n img
      if bindingCheck (s.thr n) (s.reg n) = stOK then .next (s.beginPeriod n r.comp (s.thr n).cred) else .next s
    else .next s

end Sys2Proof.Machine
end

