-- ==== Sys2Proof/Machine/Engine.lean ====
section
/-! DEFINITION. The engines (R296 to R313): chains and their words ENQ, CWAIT and CSEQ, entries run sector by sector, the
collectives, batches, and the commands of regions (R318, R319). -/

namespace Sys2Proof.Machine

/-! ## The entry checks (R298, R301, R308, R309) -/

/-- Live scratchpad banks of an endpoint's tile. -/
def State.epLive (s : State) (a : Nat) : Nat := ((s.clu (epCluster a)).tile (epTile a)).scrBanks.live

/-- Has the scratchpad bank of an endpoint vanished (R301, R388)? -/
def State.epGone (s : State) (a : Nat) : Bool := decide (((s.clu (epCluster a)).tile (epTile a)).scrBanks.reach ≤ epOff a / 8192)

/-- Has the weight-store bank of an endpoint vanished? -/
def State.wsGone (s : State) (a : Nat) : Bool := decide ((s.bankSet (.weight (epCluster a) (wsQuarter a))).reach ≤ wsOff a / 2 ^ 18)

/-- The form of an entry: opcode, fields an opcode does not use, alignment, ranges. -/
def entryForm (e : BitVec 5) (r : BitVec 512) : Bool :=
  let op := enOp r
  let flags (m : Nat) : Bool := enFlags r &&& m == enFlags r
  let al (v : Nat) : Bool := v % 64 == 0
  let lenOk : Bool := al (enLen r) && decide (64 ≤ enLen r) && decide (enLen r ≤ 2 ^ 38)
  let esOk : Bool := al (enEsize r) && decide (64 ≤ enEsize r) && decide (enEsize r ≤ 65536)
  let buf : Bool := enShadow r || enBuf r == 0
  let sp (on : Bool) (a : Nat) : Bool := !on || (spFormOk a && decide (epOff a + enLen r ≤ 2 ^ 17))
  unitRuns e op && enAt r 0x2C 4 == 0
    && (match op with
      | 0 => flags 1 && enType r == 0 && enRop r == 0 && enBuf r == 0 && enSrc r == 0 && enDst r == 0 && enLen r == 0 && enAux r == 0
          && enEsize r == 0
      | 1 => flags 0xF && enType r == 0 && enRop r == 0 && buf && al (enSrc r) && al (enDst r) && lenOk && enAux r == 0 && enEsize r == 0
          && sp (enSrcsp r) (enSrc r) && sp (enDstsp r) (enDst r)
      | 2 => flags 1 && enType r == 0 && enRop r == 0 && enBuf r == 0 && al (enSrc r) && al (enDst r) && lenOk && enAux r == 0
          && enEsize r == 0 && wsFormOk (enDst r)
      | 0x10 => flags 0xD && (enType r == 1 || enType r == 14) && enRop r == 0 && buf && al (enSrc r) && al (enDst r) && lenOk && al (enAux r)
          && esOk && sp (enDstsp r) (enDst r)
      | _ => flags 0x19 && (enType r == 0 || enType r == 14 || enType r == 6) && (if op = 0x22 then enRop r == 0 else enRop r ≤ 2) && buf
          && al (enSrc r) && al (enDst r) && lenOk && al (enAux r) && esOk)

/-- The endpoints an entry names: clusters. -/
def entryClusters (e : BitVec 5) (r : BitVec 512) : List (BitVec 5) :=
  (if enSrcsp r && enOp r == 1 then [epCluster (enSrc r)] else []) ++ (if enDstsp r then [epCluster (enDst r)] else [])
    ++ (if enColl r then (List.range 8).map (fun k => fld e 3 2 ++ BitVec.ofNat 3 k) else [])

/-- Do the endpoints lie in the captured partition (R298)?  A link endpoint is the engine's die's: one cluster of it must be
in the partition (DESIGN CHOICE, log 33). -/
def endpointsOk (cr : Capt) (e : BitVec 5) (r : BitVec 512) : Bool :=
  !cr.checked || (if enColl r then (entryClusters e r).any (clIn cr.partition) else (entryClusters e r).all (clIn cr.partition))

/-- Does a scratchpad range reach a bank the tile has not (R301)? -/
def State.spOver (s : State) (a len : Nat) : Bool := decide (s.epLive a ≤ (epOff a + len - 1) / 8192)

/-- Does a valid buffer hold n bytes at a virtual address (R308, R314)? -/
def Desc.holds (x : Desc) (a n : Nat) : Bool :=
  let vb := bytesOf x.bytes 0 8
  bytesOf x.bytes 0x21 1 % 2 == 1 && decide (vb ≤ a) && decide (a + n ≤ vb + bytesOf x.bytes 8 8)

/-- The checks at the start of an entry that come after its form: a cause, and whether it came of a translation.  What a
REDSCAT or ALLGATH writes through a shadow depends on the ring, and is checked with it (`State.shareOk`). -/
def State.entryStart (s : State) (cr : Capt) (e : BitVec 5) (r : BitVec 512) : State × Option (BitVec 8 × Bool) :=
  if !entryForm e r then (s, some (cENGINE, false))
  else if enOp r = 2 then
    let c := epCluster (enDst r)
    let q := wsQuarter (enDst r)
    if s.threads.any (fun p => clusterOf (BitVec.ofNat 9 p.1) == c && p.2.region.weightBound
        && (imgTiles p.2.region.image).any (fun t => quarterOf (p.2.region.absTile t) == q)) then (s, some (cACCESS, false))
    else if (s.clu c).weightLive q.toNat * 2 ^ 18 < wsOff (enDst r) + enLen r then (s, some (cOVERCAP, false))
    else if cr.checked && !clIn cr.partition c then (s, some (cACCESS, false))
    else (s, none)
  else if !endpointsOk cr e r then (s, some (cACCESS, false))
  else if (enSrcsp r && enOp r == 1 && s.spOver (enSrc r) (enLen r)) || (enDstsp r && s.spOver (enDst r) (enLen r)) then
    (s, some (cOVERCAP, false))
  else if enShadow r && enDstsp r then (s, some (cACCESS, false))
  else if enShadow r then
    match s.descriptor cr (enBuf r) with
    | (s, .error c) => (s, some (c, enBuf r != 0))
    | (s, .ok x) =>
      (s, if x.holds (enDst r) (if enOp r = 0x21 ∨ enOp r = 0x22 then 0 else enLen r) then none else some (cACCESS, false))
  else (s, none)

/-! ## Jobs -/

/-- A job: entry `k` of thread n's chain on engine e, or command `k` of thread n's region. -/
structure JobRef where
  n : BitVec 9
  e : BitVec 5
  k : Nat
  cmd : Bool
  deriving DecidableEq, Repr

/-- Thread n's chain on engine e, if it has one. -/
def State.chainOf (s : State) (n : BitVec 9) (e : BitVec 5) : Option Chain :=
  if Tab.has (s.thr n).chains e.toNat then some (Tab.get { header := 0, cursor := 0 } (s.thr n).chains e.toNat) else none

/-- Change thread n's chain on engine e. -/
def State.modChain (s : State) (n : BitVec 9) (e : BitVec 5) (f : Chain → Chain) : State :=
  match s.chainOf n e with
  | some c => s.modThr n (fun t => { t with chains := Tab.set t.chains e.toNat (f c) })
  | none => s

/-- The entries of a chain's current batch (R302): through the first CLOSE, or the open batch. -/
def Chain.batch (c : Chain) : List Job :=
  let l := c.jobs.takeWhile (fun j => !enClose j.raw)
  l ++ (c.jobs.drop l.length).take 1

/-- The job, when the engine may act on it: its chain has not halted or stopped for a save and its batch is the current one, or
its region acts. -/
def State.jobAt (s : State) (r : JobRef) : Option Job :=
  if r.cmd then (if actsIn (s.reg r.n).st then (s.reg r.n).cmds[r.k]? else none)
  else
    match s.chainOf r.n r.e with
    | some c => if c.halted || (s.thr r.n).frozen then none else c.batch[r.k]?
    | none => none

/-- Change a job. -/
def State.modJob (s : State) (r : JobRef) (f : Job → Job) : State :=
  let upd (l : List Job) : List Job := match l[r.k]? with | some j => l.set r.k (f j) | none => l
  if r.cmd then s.modReg r.n (fun g => { g with cmds := upd g.cmds })
  else s.modChain r.n r.e (fun c => { c with jobs := upd c.jobs })

/-- The credentials a job acts with: those captured at the open, or the region's (R298, R319). -/
def State.jobCred (s : State) (r : JobRef) : Capt :=
  if r.cmd then (s.reg r.n).capt
  else (match s.chainOf r.n r.e with | some c => c.capt | none => {})

/-- The engine a job runs on. -/
def JobRef.engine (r : JobRef) (j : Job) : BitVec 5 := if r.cmd then j.engine else r.e

/-- Who waits for a host page when the job does. -/
def JobRef.waiter (r : JobRef) (j : Job) : Waiter := if r.cmd then .command r.n j.tile j.slot j.idx else .job r.n r.e j.addr

/-- The name of a job in the scoreboards; bit 63 marks a command. -/
def JobRef.scoreKey (r : JobRef) (j : Job) : Word :=
  if r.cmd then 1#64 <<< 63 ||| zext j.port 64 <<< 48 ||| BitVec.ofNat 64 (j.idx % 2 ^ 48) else j.addr

/-- The scoreboard entries of a job go. -/
def State.releaseScore (s : State) (r : JobRef) (j : Job) : State :=
  s.dropScore (fun x => x.owner == r.n && x.engine == r.engine j && x.entry == r.scoreKey j)

/-! ## Status writes (R306) -/

/-- A status write in the chain's space, at the home of a device address: its cause when it faults. -/
def State.engStore (s : State) (cr : Capt) (va : Word) (size v : Nat) : State × Option (BitVec 8) :=
  match s.translate cr .write false va with
  | (s, .error c) => (s, some c)
  | (s, .ok x) =>
    match x.target with
    | .device pa => if cr.marksOk pa then (s.homeStore cr pa size v, none) else (s, some cACCESS)
    | .host _ _ _ => (s, some cACCESS)

/-- The word HSTATE of a halted or restarted chain (Table 10.2). -/
def hstate (cause : BitVec 8) (halted : Bool) : Nat := cause.toNat + bit halted 8

/-- Offset of HSTATE in the header. -/
abbrev hstateAt : Word := 0x18

/-- A record of a chain: no event, and it waits for room (R348, R349). -/
def State.chainRecord (s : State) (n : BitVec 9) (cr : Capt) (place va : Word) (done : Nat) (cause flags : BitVec 8) (detail : BitVec 16 := 0) :
    State :=
  s.faultRecord n { addr := va, place := place, done := BitVec.ofNat 64 done, cause := cause, flags := flags ||| 2
                    space := s.spaceField cr, detail := detail, event := false, keep := true }

/-- Status writes of a chain, one after the other.  When one faults the chain halts with its cause, a record is written,
HSTATE if it can be, and this write and those after it are owed until the chain is restarted. -/
def State.statusWrites (s : State) (n : BitVec 9) (e : BitVec 5) (place : Word) (done : Nat) : List (Word × Nat × Nat) → State
  | [] => s
  | (va, size, v) :: r =>
    match s.chainOf n e with
    | none => s
    | some c =>
      match s.engStore c.capt va size v with
      | (s, none) => State.statusWrites s n e place done r
      | (s, some cause) =>
        let h := c.header + hstateAt
        let owed := (((va, size, v) :: r).filter (fun w => w.1 != h)).map (fun w => ({ addr := w.1, size := w.2.1, val := w.2.2, place := place, done := done } : Owed))
        let s := s.modChain n e (fun c => { c with halted := true, cause := cause, owed := c.owed ++ owed })
        let s := if va = h then s else (s.engStore c.capt h 4 (hstate cause true)).1
        s.chainRecord n c.capt place va done cause (if s.hostTier c.capt va then 5 else 1)

/-- The chain halts at a sector boundary of entry `r` (R306). -/
def State.haltChain (s : State) (r : JobRef) (j : Job) (cause : BitVec 8) (va : Word) (flags : BitVec 8) (detail : BitVec 16 := 0) : State :=
  match s.chainOf r.n r.e with
  | none => s
  | some c =>
    let s := s.modChain r.n r.e (fun c => { c with halted := true, cause := cause })
    let s := s.modJob r (fun j => { j with st := .faulted cause })
    let s := s.statusWrites r.n r.e j.addr (64 * j.prog)
      [(j.addr + 0x38, 4, j.prog), (j.addr + 0x3C, 4, cause.toNat + 2 ^ 9), (c.header + hstateAt, 4, hstate cause true)]
    s.chainRecord r.n c.capt j.addr va (64 * j.prog) cause flags detail

/-! ## Faults of a job -/

/-- The coordinate of the ECMD node that issued a command. -/
def State.cmdCoord (s : State) (n : BitVec 9) (j : Job) : BitVec 32 := s.nodeCoord n j.tile j.slot.toNat

/-- A command that faults on translation parks its port (R319, R340). -/
def State.parkCommand (s : State) (r : JobRef) (j : Job) (cause : BitVec 8) (va : Word) (flags : BitVec 8) (detail : BitVec 16 := 0) : State :=
  let s := (s.modJob r (fun j => { j with st := .faulted cause, met := va })).raiseFlag r.n 5
  let s := s.faultRecord r.n
    { addr := va, place := zext (s.cmdCoord r.n j) 64, done := BitVec.ofNat 64 (64 * j.prog), cause := cause, flags := flags ||| 8
      space := s.spaceField (s.reg r.n).capt, detail := detail, keep := true }
  if (s.reg r.n).mark.isSome then s.endPassage r.n .eviction else s

/-- A job faults: a chain halts (R306); a command parks on a translation fault, any other is a region fault (R319). -/
def State.jobFault (s : State) (r : JobRef) (cause : BitVec 8) (va : Word) (write xl : Bool) : State :=
  match s.jobAt r with
  | none => s
  | some j =>
    let w : BitVec 8 := (if write then 1 else 0) ||| (if xl && s.hostTier (s.jobCred r) va then 4 else 0)
    if r.cmd then (if xl ∧ cause ≠ cUNCORR then s.parkCommand r j cause va w else s.regionFault r.n (s.cmdCoord r.n j) cause va)
    else s.haltChain r j cause va w

/-! ## The accesses of an engine (R312): at the home, for host-tier lines at the host -/

/-- What an access of an engine came to; `xl` says that a fault came of translation. -/
inductive Got (α : Type) where
  | ok (v : α)
  | bad (cause : BitVec 8) (va : Word) (write xl : Bool)
  | wait

/-- Read a 64-byte sector of virtual memory; a poisoned one halts (R372). -/
def State.engRead (s : State) (cr : Capt) (who : Waiter) (a : Nat) : State × Got Nat :=
  let va : Word := BitVec.ofNat 64 a
  match s.resolve cr .read false va who with
  | (s, .fault c) => (s, .bad c va false true)
  | (s, .wait) => (s, .wait)
  | (s, .ok key _) =>
    match s.homeRead key 64 with
    | (s, v, bad) => (s, if bad then .bad cUNCORR va false false else .ok v)

/-- Read k sectors one after the other. -/
def State.engReads (cr : Capt) (who : Waiter) : Nat → Nat → State → State × Got Nat
  | 0, _, s => (s, .ok 0)
  | k + 1, a, s =>
    match s.engRead cr who a with
    | (s, .ok v) =>
      (match State.engReads cr who k (a + 64) s with
       | (s, .ok w) => (s, .ok (v + w * 2 ^ 512))
       | x => x)
    | x => x

/-- Read the sector of a scratchpad endpoint; a bank that has vanished stops it (R301). -/
def State.engReadSp (s : State) (a : Nat) : State × Got Nat :=
  if s.epGone a then (s, .bad cOVERCAP (BitVec.ofNat 64 a) false false)
  else
    match s.scrRead (epCluster a) (epTile a) (epOff a) 64 with
    | (s, v, bad) => (s, if bad then .bad cUNCORR (BitVec.ofNat 64 a) false false else .ok v)

/-- Where a sector of an entry's destination lies. -/
inductive Place where
  | mem (key : Nat) (desc : Option Nat)
  | scr (a : Nat)
  | weight (a : Nat)

/-- The place of the destination sector at an address. -/
def State.engPlace (s : State) (cr : Capt) (who : Waiter) (raw : BitVec 512) (a : Nat) : State × Got Place :=
  let va : Word := BitVec.ofNat 64 a
  if enOp raw = 2 then
    (if s.wsGone a then (s, .bad cOVERCAP va true false) else (s, .ok (.weight a)))
  else if enDstsp raw then
    (if s.epGone a then (s, .bad cOVERCAP va true false) else (s, .ok (.scr a)))
  else
    match s.resolve cr .write (enShadow raw) va who with
    | (s, .fault c) => (s, .bad c va true true)
    | (s, .wait) => (s, .wait)
    | (s, .ok key x) =>
      if !enShadow raw then (s, .ok (.mem key none))
      else
        match s.descriptor cr (enBuf raw) with
        | (s, .error c) => (s, .bad c va true true)
        | (s, .ok d) => (s, if x.desc = some d.pa then .ok (.mem key (some d.pa)) else .bad cACCESS va true false)

/-- The places of k sectors one after the other. -/
def State.engPlaces (cr : Capt) (who : Waiter) (raw : BitVec 512) : Nat → Nat → State → State × Got (List Place)
  | 0, _, s => (s, .ok [])
  | k + 1, a, s =>
    match s.engPlace cr who raw a with
    | (s, .ok p) =>
      (match State.engPlaces cr who raw k (a + 64) s with
       | (s, .ok ps) => (s, .ok (p :: ps))
       | (s, .bad c v w x) => (s, .bad c v w x)
       | (s, .wait) => (s, .wait))
    | (s, .bad c v w x) => (s, .bad c v w x)
    | (s, .wait) => (s, .wait)

/-- Write a sector at its place; a command's shadow write is published with its period (R317). -/
def State.engWrite (s : State) (r : JobRef) (p : Place) (v : Nat) : State :=
  match p with
  | .mem key desc =>
    let s := s.homeStore (s.jobCred r) key 64 v
    (match desc with
     | some d => if r.cmd then s.modReg r.n (fun g => { g with shadow := g.shadow ++ [(d, key, 64)] }) else s
     | none => s)
  | .scr a => s.scrWrite (epCluster a) (epTile a) (epOff a) 64 v false
  | .weight a => s.wsWrite (epCluster a) (wsQuarter a) (wsOff a) 64 v

/-! ## The range scoreboards (R313) -/

/-- The scratchpad ranges of a COPY or GATHER: address and length. -/
def scoreRanges (raw : BitVec 512) : List (Nat × Nat) :=
  (if enSrcsp raw && enOp raw == 1 then [(enSrc raw, enLen raw)] else []) ++ (if enDstsp raw then [(enDst raw, enLen raw)] else [])

/-- Is a fabric access of a scratchpad range of a cluster's tile in flight? -/
def State.scrBusy (s : State) (c : BitVec 5) (t : BitVec 8) (lo hi : Nat) : Bool :=
  s.threads.any (fun p =>
    let n : BitVec 9 := BitVec.ofNat 9 p.1
    clusterOf n == c && p.2.region.tiles.any (fun u =>
      u.2.accs.any (fun a => a.where_ == 1 && !a.done && p.2.region.absTile (BitVec.ofNat 8 a.tile) == t && decide (a.addr < hi) && decide (lo < a.addr + 32))
        || u.2.mops.any (fun m => match rowOp m.op with
          | some o => o.scr && (let d : Nd := { n := n, t := BitVec.ofNat 8 u.1, slot := m.slot.toNat, img := p.2.region.image }
              let (rows, bits) := s.rowDims d o
              (List.range rows).any (fun k => decide (m.rows ≤ k) && (rowPieces (o.base m.go + k * o.stride m.go) ((bits + 7) / 8)).any (fun q =>
                match s.scrAddr d q.1 with | some (tile, off) => tile == t && decide (off < hi) && decide (lo < off + q.2) | none => false)))
          | none => false)))

/-- A job takes its entries, when every page has room for them; `none` when it waits. -/
def State.takeScore (s : State) (r : JobRef) (j : Job) : Option State :=
  (scoreRanges j.raw).foldl (fun (o : Option State) x =>
    o.bind (fun s =>
      let c := epCluster x.1
      let p := pageOf (epTile x.1)
      if 16 ≤ ((s.clu c).score.filter (fun y => y.page == p)).length then none
      else some (s.modClu c (fun k => { k with score := k.score ++ [{
        page := p, tile := epTile x.1, lo := epOff x.1, hi := epOff x.1 + x.2, owner := r.n, engine := r.engine j, entry := r.scoreKey j }] })))) (some s)

/-- Does an older fabric access to a range of the job still have to perform? -/
def State.scoreHeld (s : State) (j : Job) : Bool :=
  (scoreRanges j.raw).any (fun x => s.scrBusy (epCluster x.1) (epTile x.1) (epOff x.1) (epOff x.1 + x.2))

/-! ## Completion of an entry or command -/

/-- Tokens of completed commands leave in order (R318): a node's oldest command, when it is done, sends its ORDER token and
is gone.  The fuel is the number of commands. -/
def State.flushCmds (n : BitVec 9) : Nat → State → State
  | 0, s => s
  | k + 1, s =>
    let l := (s.reg n).cmds
    let head (p : Job × Nat) : Bool := p.1.st == .done && !(l.take p.2).any (fun i => i.tile == p.1.tile && i.slot == p.1.slot)
    match l.zipIdx.find? head with
    | none => s
    | some (j, i) =>
      let s := s.modReg n (fun g => { g with cmds := g.cmds.eraseIdx i, active := s.now n })
      let d : Nd := { n := n, t := j.tile, slot := j.slot.toNat, img := (s.reg n).image }
      let owed := (s.counts d).getD 0 0 - 1
      State.flushCmds n k ((s.setCounts d (if owed = 0 then [] else [owed])).emit d 1 (orderTok 5) j.idx)

/-- An entry is complete: ESTATE DONE with PROGRESS LEN/64 (R302); a command is complete and its token may leave. -/
def State.jobDone (s : State) (r : JobRef) (j : Job) : State :=
  let len := enLen j.raw / 64
  let s := (s.releaseScore r j).modJob r (fun j => { j with st := .done, prog := len })
  if r.cmd then State.flushCmds r.n (s.reg r.n).cmds.length s
  else
    s.statusWrites r.n r.e j.addr (64 * len) [(j.addr + 0x38, 4, len), (j.addr + 0x3C, 4, 2 ^ 8)]

/-- Sectors have been done: the progress, and the end when it is reached. -/
def State.advanceJob (s : State) (r : JobRef) (prog last : Nat) : State :=
  let s := s.modJob r (fun j => { j with prog := prog })
  let s := if r.cmd then s.modReg r.n (fun g => { g with active := (s.now r.n) }) else s
  match s.jobAt r with
  | some j => if last ≤ prog then s.jobDone r j else s
  | none => s

/-! ## Start of an entry (R301) -/

/-- An entry as it stands at its home; entries lie in a device tier (R300). -/
def State.readEntry (s : State) (cr : Capt) (a : Word) : State × Except (BitVec 8) (BitVec 512) :=
  match s.translate cr .read false a with
  | (s, .error c) => (s, .error c)
  | (s, .ok x) =>
    match x.target with
    | .device pa =>
      (match s.homeRead pa 64 with
       | (s, v, bad) => (s, if bad then .error cUNCORR else .ok (BitVec.ofNat 512 v)))
    | .host _ _ _ => (s, .error cACCESS)

/-- The entry as the engine starts it: read afresh, with the CLOSE its batch was counted by; a restarted one goes on from
PROGRESS (R306).  A command was received whole. -/
def State.fetchEntry (s : State) (r : JobRef) (j : Job) : State × Except (BitVec 8) Job :=
  if r.cmd then (s, .ok j)
  else
    match s.readEntry (s.jobCred r) j.addr with
    | (s, .error c) => (s, .error c)
    | (s, .ok v) =>
      (s, .ok { j with
        raw := (v &&& ~~~(1#512 <<< 8)) ||| (j.raw &&& (1#512 <<< 8)), prog := if j.order then enAt v 0x38 4 else 0 })

/-- Sectors after which an entry ends; a GATHER ends with its last whole row (DEDUCED, log 34). -/
def lastSector (raw : BitVec 512) : Nat :=
  if enOp raw = 0x10 then enLen raw / enEsize raw * (enEsize raw / 64) else enLen raw / 64

/-- A job that is queued starts: it is checked, and takes its scoreboard entries; one that starts again gives up those it
holds first, so that it holds each range once (R313). -/
def State.startJob (s : State) (r : JobRef) : State :=
  match s.jobAt r with
  | none => s
  | some j =>
    if j.st ≠ .queued then s
    else
      match s.fetchEntry r j with
      | (s, .error c) => s.jobFault r c j.addr false true
      | (s, .ok j) =>
        let s := s.modJob r (fun _ => j)
        let s := if r.cmd ∧ enShadow j.raw then s.modReg r.n (fun g => { g with cmdBufs := insertNat g.cmdBufs (enBuf j.raw) }) else s
        match s.entryStart (s.jobCred r) (r.engine j) j.raw with
        | (s, some (c, xl)) => s.jobFault r c (if xl then BitVec.ofNat 64 (64 * enBuf j.raw) else j.addr) false xl
        | (s, none) =>
          match (s.releaseScore r j).takeScore r j with
          | none => s
          | some s =>
            let s := s.modJob r (fun j => { j with st := .running })
            if lastSector j.raw ≤ j.prog then s.jobDone r { j with st := .running } else s

/-! ## COPY, WLOAD, GATHER -/

/-- One sector of a COPY or WLOAD (R308, R309). -/
def State.copyStep (s : State) (r : JobRef) (j : Job) : State :=
  let cr := s.jobCred r
  let who := r.waiter j
  let src := enSrc j.raw + 64 * j.prog
  match (if enSrcsp j.raw then s.engReadSp src else s.engRead cr who src) with
  | (s, .bad c v w x) => s.jobFault r c v w x
  | (s, .wait) => s
  | (s, .ok v) =>
    match s.engPlace cr who j.raw (enDst j.raw + 64 * j.prog) with
    | (s, .bad c v w x) => s.jobFault r c v w x
    | (s, .wait) => s
    | (s, .ok p) => (s.engWrite r p v).advanceJob r (j.prog + 1) (lastSector j.raw)

/-- The index of row `k` of a GATHER, i64 as signed (R310). -/
def State.gatherIndex (s : State) (cr : Capt) (who : Waiter) (raw : BitVec 512) (k : Nat) : State × Got Int :=
  let n := if enType raw = 14 then 8 else 4
  let a := enAux raw + n * k
  match s.engRead cr who (a - a % 64) with
  | (s, .ok v) =>
    let i := bytesOf v (a % 64) n
    (s, .ok (if n = 8 then signedOf 8 i else (i : Int)))
  | (s, .bad c v w x) => (s, .bad c v w x)
  | (s, .wait) => (s, .wait)

/-- Write k sectors of a row: those before a write that faults or waits stand. -/
def State.rowWrites (r : JobRef) (last : Nat) : Nat → Nat → State → State
  | 0, _, s => s
  | k + 1, v, s =>
    match s.jobAt r with
    | none => s
    | some j =>
      match s.engPlace (s.jobCred r) (r.waiter j) j.raw (enDst j.raw + 64 * j.prog) with
      | (s, .bad c v w x) => s.jobFault r c v w x
      | (s, .wait) => s
      | (s, .ok p) => State.rowWrites r last k (v / 2 ^ 512) ((s.engWrite r p (v % 2 ^ 512)).advanceJob r (j.prog + 1) last)

/-- What is left of the row a GATHER stands in (R310): index and row are read before any sector of it is written. -/
def State.gatherStep (s : State) (r : JobRef) (j : Job) : State :=
  let cr := s.jobCred r
  let who := r.waiter j
  let per := enEsize j.raw / 64
  let row := j.prog / per
  match s.gatherIndex cr who j.raw row with
  | (s, .bad c v w x) => s.jobFault r c v w x
  | (s, .wait) => s
  | (s, .ok i) =>
    let src := (((enSrc j.raw : Int) + i * enEsize j.raw) % 2 ^ 64).toNat + 64 * (j.prog % per)
    match State.engReads cr who (per - j.prog % per) (src % 2 ^ 64) s with
    | (s, .bad c v w x) => s.jobFault r c v w x
    | (s, .wait) => s
    | (s, .ok v) => State.rowWrites r (lastSector j.raw) (per - j.prog % per) v s

/-! ## Collectives (R311, R380) -/

/-- A ring descriptor: the participant's rank and the entries of all ranks. -/
structure Ring where
  rank : Nat
  entries : List Word
  deriving DecidableEq, Repr

/-- Module number of an entry. -/
def ringModule (w : Word) : BitVec 16 := fld w 32 16
/-- Engine of an entry. -/
def ringEngine (w : Word) : BitVec 5 := fld w 0 5

/-- Read the ring descriptor of a job; one that is not legal halts with ENGINE. -/
def State.ringOf (s : State) (r : JobRef) (j : Job) : State × Got Ring :=
  let cr := s.jobCred r
  let a := enAux j.raw
  let bad : Got Ring := .bad cENGINE (BitVec.ofNat 64 a) false false
  match s.engRead cr (r.waiter j) a with
  | (s, .bad c v w x) => (s, .bad c v w x)
  | (s, .wait) => (s, .wait)
  | (s, .ok h) =>
    let n := bytesOf h 0 2
    if n = 0 ∨ 64 < n then (s, bad)
    else
      match State.engReads cr (r.waiter j) ((8 + 8 * n + 63) / 64) a s with
      | (s, .bad c v w x) => (s, .bad c v w x)
      | (s, .wait) => (s, .wait)
      | (s, .ok v) =>
        let es := (List.range n).map (fun k => (BitVec.ofNat 64 (bytesOf v (8 + 8 * k) 8) : Word))
        let rank := bytesOf v 2 2
        if bytesOf v 4 4 ≠ 0 ∨ n ≤ rank ∨ es.any (fun w => fld w 48 16 != 0 || fld w 5 27 != 0 || ringModule w == 0xFFFF)
            ∨ s.module.modNo = 0xFFFF ∨ ringModule (es.getD rank 0) ≠ s.module.modNo ∨ ringEngine (es.getD rank 0) ≠ r.engine j then (s, bad)
        else (s, .ok { rank := rank, entries := es })

/-- The running collectives of an engine. -/
def State.collectives (s : State) (e : BitVec 5) : List JobRef :=
  s.threads.flatMap (fun p =>
    let n : BitVec 9 := BitVec.ofNat 9 p.1
    let mine (x : Job × Nat) : Bool := x.1.st == .running && enColl x.1.raw
    let own : List Job := match s.chainOf n e with | some c => if c.halted || p.2.frozen then [] else c.batch | none => []
    (own.zipIdx.filter mine).map (fun x => (⟨n, e, x.2, false⟩ : JobRef))
    ++ ((p.2.region.cmds.zipIdx.filter (fun x => mine x && x.1.engine == e)).map (fun x => (⟨n, e, x.2, true⟩ : JobRef))))

/-- Do two entries agree in the fields participants share? -/
def sameColl (a b : BitVec 512) : Bool :=
  enOp a == enOp b && enType a == enType b && enRop a == enRop b && enLen a == enLen b && enEsize a == enEsize b

/-- What a search for a participant found. -/
inductive Partner where
  | found (r : JobRef)
  | differs (r : JobRef)
  | none

/-- The participant of rank k among the running collectives of its engine: one that agrees, else one whose ring descriptor
names this job's engine of this module and that does not (DEDUCED, log 34). -/
def State.partner (s : State) (j : Job) (g : Ring) (k : Nat) : State × Partner :=
  let me : Word := g.entries.getD g.rank 0
  (s.collectives (ringEngine (g.entries.getD k 0))).foldl (fun (x : State × Partner) q =>
    match x.2 with
    | .found _ => x
    | _ =>
      match x.1.jobAt q with
      | none => x
      | some i =>
        match x.1.ringOf q i with
        | (s, .ok h) =>
          if sameColl j.raw i.raw ∧ h.entries = g.entries ∧ h.rank = k then (s, .found q)
          else (match x.2 with | .none => (s, if h.entries.contains me then .differs q else .none) | _ => (s, x.2))
        | (s, _) => (s, x.2)) (s, .none)

/-- The bytes of a peer's source that have come over Solwen Link: k sectors from an offset. -/
def pieceBytes (ps : List Piece) (m : BitVec 16) (e : BitVec 5) : Nat → Nat → Option Nat
  | 0, _ => some 0
  | k + 1, off =>
    match ps.find? (fun p => !p.sum && !p.entry && p.modNo == m && p.engine == e && decide (p.offset ≤ off) && decide (off + 64 ≤ p.offset + 256)) with
    | some p => (pieceBytes ps m e k (off + 64)).map (fun v => bytesOf p.data.toNat (off - p.offset) 64 + v * 2 ^ 512)
    | none => none

/-- Does what a peer runs agree with a job (R311): the entry in the shared fields, the ring descriptor in all but the rank, which is its
own?  `none` while it has not come whole. -/
def peerAgrees (ps : List Piece) (raw : BitVec 512) (g : Ring) (k : Nat) : Option Bool :=
  let w := g.entries.getD k 0
  let n := g.entries.length
  let part (off : Nat) : Option Nat :=
    (ps.find? (fun p => p.entry && p.modNo == ringModule w && p.engine == ringEngine w && p.offset == off)).map (fun p => p.data.toNat)
  ((List.range ((72 + 8 * n + 255) / 256)).mapM (fun j => part (256 * j))).map (fun l =>
    let v := l.zipIdx.foldl (fun v p => v + p.1 * 2 ^ (2048 * p.2)) 0
    sameColl raw (BitVec.ofNat 512 v) && bytesOf v 64 2 == n && bytesOf v 66 2 == k
      && (List.range n).all (fun j => bytesOf v (72 + 8 * j) 8 == (g.entries.getD j 0).toNat))

/-- The peers of a ring on other modules: none that disagrees, `none` while what one runs has not come. -/
def peersAgree (ps : List Piece) (mine : BitVec 16) (raw : BitVec 512) (g : Ring) : Option Bool :=
  (((List.range g.entries.length).filter (fun k => ringModule (g.entries.getD k 0) != mine)).mapM (fun k => peerAgrees ps raw g k)).map
    (fun l => l.all id)

/-- Element type of a collective as a type code. -/
def collType (raw : BitVec 512) : BitVec 4 := BitVec.ofNat 4 (enType raw)

/-- One element of a reduction: a wrapping or rounded sum, or the greater or less (R260, R311). -/
def collElem (raw : BitVec 512) (x y : Nat) : Nat :=
  let ty := collType raw
  if enRop raw = 0 ∧ ty ≠ 6 then patOf ty (intOf ty x + intOf ty y) else (combineElem (enRop raw) ty x y).1

/-- Combine two chunks of n elements. -/
def collChunk (raw : BitVec 512) (n x y : Nat) : Nat :=
  let w := elemBits (collType raw)
  (List.range n).foldl (fun v k => v + collElem raw (x / 2 ^ (w * k) % 2 ^ w) (y / 2 ^ (w * k) % 2 ^ w) * 2 ^ (w * k)) 0

/-- The checksum of a chunk (R380). -/
def chunkSum (raw : BitVec 512) (n x : Nat) : Cksum :=
  let w := elemBits (collType raw)
  (List.range n).foldl (fun c k => c.add (collType raw) (x / 2 ^ (w * k) % 2 ^ w)) {}

/-- The ranks in the order of R260, from the chunk's first; in eager mode in an order that is open. -/
def collOrder (raw : BitVec 512) (n c tick : Nat) : List Nat :=
  let l := (List.range n).map (fun k => (c + k) % n)
  if !enEager raw then l
  else
    ((List.range n).foldl (fun (x : List Nat × List Nat) (k : Nat) =>
      let i := Config.eagerPick tick k % Nat.max 1 x.2.length
      (x.1 ++ (x.2[i]?).toList, x.2.eraseIdx i)) ([], l)).1

/-- The reduced chunk, and whether the checksum reduced alongside it holds (R380): `xs` the sources of the ranks with their
senders' checksums. -/
def reduceChunk (raw : BitVec 512) (len c tick : Nat) (xs : List (Nat × Cksum)) : Nat × Bool :=
  let n := 8 * len / elemBits (collType raw)
  match (collOrder raw xs.length c tick).map (fun k => xs.getD k (0, {})) with
  | [] => (0, true)
  | x :: rest =>
    let v := (rest.map (·.1)).foldl (collChunk raw n) x.1
    let sum := (rest.map (·.2)).foldl (Cksum.comb (collType raw)) x.2
    let own := chunkSum raw n v
    (v, enRop raw != 0 || (if collType raw = 6 then boundOk own.x sum.x sum.y n xs.length
        else own.x % 2 ^ elemBits (collType raw) == sum.x % 2 ^ elemBits (collType raw)))

/-- A gathered chunk is right when each piece's checksum equals its sender's (R380). -/
def gatherSums (raw : BitVec 512) (len : Nat) (xs : List (Nat × Cksum)) : Bool :=
  xs.all (fun x => let own := chunkSum raw (8 * len / elemBits (collType raw)) x.1; own.x == x.2.x && own.y == x.2.y)

/-- Does an entry carry checksums (R380): a sum, or a concatenation? -/
def enSums (raw : BitVec 512) : Bool := enOp raw == 0x22 || enRop raw == 0

/-- A participant of this module: its job and its rank. -/
abbrev Local := JobRef × Nat

/-- The sources of the ranks for the chunk of `k` sectors at an offset: values, or what stops the step. -/
def State.sources (g : Ring) (locals : List Local) (raw : BitVec 512) (off k : Nat) : List Nat → State → State × Except (Option (JobRef × BitVec 8 × Word × Bool)) (List Nat)
  | [], s => (s, .ok [])
  | i :: rest, s =>
    let more (s : State) (v : Nat) : State × Except (Option (JobRef × BitVec 8 × Word × Bool)) (List Nat) :=
      match State.sources g locals raw off k rest s with
      | (s, .ok l) => (s, .ok (v :: l))
      | x => x
    match locals.find? (fun l => l.2 == i) with
    | some (r, _) =>
      (match s.jobAt r with
       | none => (s, .error none)
       | some j =>
         match State.engReads (s.jobCred r) (r.waiter j) k (enSrc j.raw + off) s with
         | (s, .ok v) => more s v
         | (s, .bad c v _ x) => (s, .error (some (r, c, v, x)))
         | (s, .wait) => (s, .error none))
    | none =>
      match pieceBytes s.module.pieces (ringModule (g.entries.getD i 0)) (ringEngine (g.entries.getD i 0)) k off with
      | some v => more s v
      | none => (s, .error none)

/-- The sources with their senders' checksums, none while one has not come: a participant of this module forms its own. -/
def State.summed (s : State) (g : Ring) (locals : List Local) (raw : BitVec 512) (off len : Nat) (xs : List Nat) : Option (List (Nat × Cksum)) :=
  let n := 8 * len / elemBits (collType raw)
  xs.zipIdx.mapM (fun x =>
    if !enSums raw then some (x.1, {})
    else if locals.any (fun l => l.2 == x.2) then some (x.1, chunkSum raw n x.1)
    else
      let w := g.entries.getD x.2 0
      (s.module.pieces.find? (fun p => p.sum && p.modNo == ringModule w && p.engine == ringEngine w && p.offset == off)).map
        (fun p => (x.1, { x := bytesOf p.data.toNat 0 8, y := bytesOf p.data.toNat 8 8, k := n })))

/-- What a participant of rank `rank` writes of chunk c: address and bytes, in sectors. -/
def collWrites (raw : BitVec 512) (n rank c len : Nat) (xs : List Nat) (v : Nat) : List (Nat × Nat) :=
  let es := enEsize raw
  match enOp raw with
  | 0x20 => [(enDst raw + c * es, v)]
  | 0x21 => if c % n = rank then [(enDst raw + c / n * es, v)] else []
  | _ => xs.zipIdx.map (fun p => (enDst raw + p.2 * enLen raw + c * es, p.1 % 2 ^ (8 * len)))

/-- Bytes a participant writes from DST on over the whole entry. -/
def collShare (raw : BitVec 512) (n rank : Nat) : Nat :=
  let es := enEsize raw
  match enOp raw with
  | 0x20 => enLen raw
  | 0x21 => ((List.range ((enLen raw + es - 1) / es)).map (fun c => if c % n = rank then Nat.min es (enLen raw - c * es) else 0)).foldl (· + ·) 0
  | _ => n * enLen raw

/-- Does what a participant writes through a shadow lie inside its buffer (R308)?  A cause where it does not. -/
def State.shareOk (s : State) (r : JobRef) (j : Job) (n rank : Nat) : State × Option (BitVec 8 × Bool) :=
  if !enShadow j.raw then (s, none)
  else
    match s.descriptor (s.jobCred r) (enBuf j.raw) with
    | (s, .error c) => (s, some (c, true))
    | (s, .ok x) => (s, if x.holds (enDst j.raw) (collShare j.raw n rank) then none else some (cACCESS, false))

/-- The places of several writes of k sectors each. -/
def State.placesOf (cr : Capt) (who : Waiter) (raw : BitVec 512) (k : Nat) : List (Nat × Nat) → State → State × Got (List (Place × Nat))
  | [], s => (s, .ok [])
  | (a, v) :: rest, s =>
    match State.engPlaces cr who raw k a s with
    | (s, .bad c v w x) => (s, .bad c v w x)
    | (s, .wait) => (s, .wait)
    | (s, .ok ps) =>
      match State.placesOf cr who raw k rest s with
      | (s, .ok l) => (s, .ok (ps.zipIdx.map (fun p => (p.1, v / 2 ^ (512 * p.2) % 2 ^ 512)) ++ l))
      | x => x

/-- The writes of every participant that stands at the chunk, all placed before any is made. -/
def State.collPlaces (n c len k : Nat) (xs : List Nat) (v : Nat) : List Local → State → State × Except (Option (JobRef × BitVec 8 × Word × Bool)) (List (JobRef × Place × Nat))
  | [], s => (s, .ok [])
  | (r, rank) :: rest, s =>
    match s.jobAt r with
    | none => (s, .error none)
    | some j =>
      match State.placesOf (s.jobCred r) (r.waiter j) j.raw k (collWrites j.raw n rank c len xs v) s with
      | (s, .bad cs va _ x) => (s, .error (some (r, cs, va, x)))
      | (s, .wait) => (s, .error none)
      | (s, .ok ps) =>
        match State.collPlaces n c len k xs v rest s with
        | (s, .ok l) => (s, .ok (ps.map (fun p => (r, p.1, p.2)) ++ l))
        | x => x

/-- Every participant's progress moves past the chunk, then those at their end complete. -/
def State.collAdvance (s : State) (ls : List Local) (prog last : Nat) : State :=
  let s := ls.foldl (fun s l => s.modJob l.1 (fun j => { j with prog := prog })) s
  if prog < last then s
  else
    let s := ls.foldl (fun s l => s.modJob l.1 (fun j => { j with st := .done })) s
    ls.foldl (fun s l =>
      if l.1.cmd then State.flushCmds l.1.n (s.reg l.1.n).cmds.length s
      else (match s.jobAt l.1 with | some j => s.jobDone l.1 j | none => s)) s

/-- Is a port down (R375): a Solwen Link port, or from 16 on a link of the ring, with no lane left? -/
def Module.portDown (m : Module) (link : Nat) : Bool := (List.range 8).all (fun l => m.laneDead.contains (8 * link + l))

/-- The die an engine's number names. -/
def engineDie (e : BitVec 5) : Nat := (fld e 3 2).toNat

/-- Is a port down that a participant needs (R375)?  One of a ring that leaves the module needs each Solwen Link port of its
die; one whose next rank lies on another die needs the ring's links from its die up to that one (DEDUCED, log 34). -/
def State.collDown (s : State) (g : Ring) (e : BitVec 5) : Bool :=
  let next := g.entries.getD ((g.rank + 1) % g.entries.length) 0
  (g.entries.any (fun w => ringModule w != s.module.modNo) && (List.range 4).any (fun p => s.module.portDown (4 * engineDie e + p)))
    || (ringModule next == s.module.modNo
      && (List.range ((engineDie (ringEngine next) + 4 - engineDie e) % 4)).any (fun k => s.module.portDown (16 + (engineDie e + k) % 4)))

/-- The participants of this module, each with whether it agrees; none while one has not come. -/
def State.gatherLocals (j : Job) (g : Ring) (self : JobRef) : List Nat → State → State × Option (List (Local × Bool))
  | [], s => (s, some [])
  | k :: rest, s =>
    let more (s : State) (l : List (Local × Bool)) : State × Option (List (Local × Bool)) :=
      match State.gatherLocals j g self rest s with
      | (s, some m) => (s, some (l ++ m))
      | x => x
    if k = g.rank then more s [((self, k), true)]
    else if ringModule (g.entries.getD k 0) ≠ s.module.modNo then more s []
    else
      match s.partner j g k with
      | (s, .found q) => more s [((q, k), true)]
      | (s, .differs q) => more s [((q, k), false)]
      | (s, .none) => (s, none)

/-- The first participant whose shadow writes do not fit faults, and the step ends. -/
def State.sharesFit (n : Nat) : List Local → State → State × Bool
  | [], s => (s, true)
  | (r, rank) :: rest, s =>
    match s.jobAt r with
    | none => (s, false)
    | some j =>
      match s.shareOk r j n rank with
      | (s, some (c, xl)) => (s.jobFault r c (if xl then BitVec.ofNat 64 (64 * enBuf j.raw) else BitVec.ofNat 64 (enDst j.raw)) false xl, false)
      | (s, none) => State.sharesFit n rest s

/-- Does a piece come from a participant of a ring? -/
def Piece.of (p : Piece) (g : Ring) : Bool := g.entries.any (fun w => ringModule w == p.modNo && ringEngine w == p.engine)

/-- Byte of a source behind a piece; a checksum counts with the first byte of its chunk. -/
def Piece.upto (p : Piece) : Nat := p.offset + (if p.sum then 1 else 256)

/-- Is a piece used up when the bytes [lo, done) of sources of `last` bytes have been taken?  What the peers run is when all have. -/
def Piece.spent (p : Piece) (g : Ring) (last lo done : Nat) : Bool :=
  p.of g && (if p.entry then done == last else decide (lo < p.upto) && (decide (p.upto ≤ done) || (done == last && decide (p.offset < last))))

/-- The pieces left when used ones go: of two alike, which are of two collectives, the older. -/
def spendPieces (gone : Piece → Bool) : List Piece → List Piece → List Piece
  | _, [] => []
  | seen, p :: ps =>
    let key : Piece := { p with data := 0 }
    if gone p && !seen.contains key then spendPieces gone (key :: seen) ps else p :: spendPieces gone seen ps

/-- After a failed comparison of the chunk at an offset what has come of it and of those behind is not used again: the sources are read
afresh (R380). -/
def State.dropPieces (s : State) (g : Ring) (off : Nat) : State :=
  { s with module := { s.module with pieces := s.module.pieces.filter (fun p => !(p.of g && !p.entry && decide (off < p.upto))) } }

/-- One chunk of a collective, for all its participants of this module at once (R311). -/
def State.collStep (s : State) (r : JobRef) (j : Job) : State :=
  match s.ringOf r j with
  | (s, .bad c v w x) => s.jobFault r c v w x
  | (s, .wait) => s
  | (s, .ok g) =>
    let n := g.entries.length
    let engineHalt (s : State) (rs : List JobRef) : State := rs.foldl (fun s q => s.jobFault q cENGINE (BitVec.ofNat 64 (enAux j.raw)) false false) s
    if s.collDown g (r.engine j) then engineHalt s [r]
    else
      match State.gatherLocals j g r (List.range n) s with
      | (s, none) => s
      | (s, some all) =>
        let down := (all.filter (fun l => s.collDown { g with rank := l.1.2 } (ringEngine (g.entries.getD l.1.2 0)))).map (·.1.1)
        if all.any (fun l => !l.2) then engineHalt s (all.map (·.1.1))
        else if !down.isEmpty then engineHalt s down
        else
        match peersAgree s.module.pieces s.module.modNo j.raw g with
        | none => s
        | some false => engineHalt s (all.map (·.1.1))
        | some true =>
        match State.sharesFit n (all.map (·.1)) s with
        | (s, false) => s
        | (s, true) =>
        let ls := all.map (·.1)
        let prog := ls.foldl (fun m l => match s.jobAt l.1 with | some i => Nat.min m i.prog | none => m) j.prog
        let es := enEsize j.raw
        let c := 64 * prog / es
        let len := Nat.min es (enLen j.raw - c * es)
        let k := len / 64
        let fault (s : State) (x : Option (JobRef × BitVec 8 × Word × Bool)) (write : Bool) : State :=
          match x with | some (q, cs, va, xl) => s.jobFault q cs va write xl | none => s
        match State.sources g ls j.raw (c * es) k (List.range n) s with
        | (s, .error x) => fault s x false
        | (s, .ok xs) =>
          match s.summed g ls j.raw (c * es) len xs with
          | none => s
          | some ys =>
          let (v, good) := if enOp j.raw = 0x22 then (0, gatherSums j.raw len ys) else reduceChunk j.raw len c s.tick ys
          if !good then (ls.foldl (fun s l => s.jobFault l.1 cUNCORR (BitVec.ofNat 64 (enSrc j.raw)) false false) s).dropPieces g (c * es)
          else
            let here := ls.filter (fun l => match s.jobAt l.1 with | some i => i.prog == prog | none => false)
            match State.collPlaces n c len k xs v here s with
            | (s, .error x) => fault s x true
            | (s, .ok ps) =>
              let s := ps.foldl (fun s p => s.engWrite p.1 p.2.1 p.2.2) s
              let s := { s with module := { s.module with
                pieces := spendPieces (fun p => p.spent g (enLen j.raw) (c * es) (c * es + len)) [] s.module.pieces } }
              s.collAdvance here ((c * es + len) / 64) (enLen j.raw / 64)

/-! ## The steps of an engine -/

/-- One step of a running job. -/
def State.runJob (s : State) (r : JobRef) : State :=
  match s.jobAt r with
  | none => s
  | some j =>
    if j.st ≠ .running ∨ s.scoreHeld j then s
    else
      match enOp j.raw with
      | 0x10 => s.gatherStep r j
      | 1 => s.copyStep r j
      | 2 => s.copyStep r j
      | _ => s.collStep r j

/-- A job starts if it is queued, then takes its first step; a running one takes its next. -/
def State.engineStep (s : State) (r : JobRef) : State := (s.startJob r).runJob r

/-- The job an engine's event names: thread `n`, engine `c`, position `k`; a command when `w` is 1. -/
def Event.job (e : Event) : JobRef := ⟨e.n, e.c, e.k, e.w == 1⟩

/-- The step of an entry of an opcode: none when the entry, as it would start or runs, has another. -/
def State.opStep (s : State) (op : Nat) : State :=
  let r := s.ev.job
  match s.jobAt r with
  | none => s
  | some j =>
    let now : Option Nat :=
      if j.st = .queued then (match (s.fetchEntry r j).2 with | .ok i => some (enOp i.raw) | .error _ => none)
      else some (enOp j.raw)
    if now = some op then s.engineStep r else s

/-- NOP (R301). -/
def execNop (s : State) : Out := .next (s.opStep 0)
/-- COPY (R308). -/
def execCopy (s : State) : Out := .next (s.opStep 1)
/-- WLOAD (R309). -/
def execWload (s : State) : Out := .next (s.opStep 2)
/-- GATHER (R310). -/
def execGather (s : State) : Out := .next (s.opStep 0x10)
/-- ALLRED (R311). -/
def execAllred (s : State) : Out := .next (s.opStep 0x20)
/-- REDSCAT (R311). -/
def execRedscat (s : State) : Out := .next (s.opStep 0x21)
/-- ALLGATH (R311). -/
def execAllgath (s : State) : Out := .next (s.opStep 0x22)

/-- ENGINE_SECTOR (R306): a job of any opcode takes a step. -/
def execEngineSector (s : State) : Out := .next (s.engineStep s.ev.job)

/-- BATCH_COMPLETION (R302): the current batch of thread `n`'s chain on engine `c` is complete.  The engine's counts move
whatever becomes of its status writes; where one of the batch's is still owed, DONEPTR and SEQ are owed behind it (R306). -/
def execBatchCompletion (s : State) : Out :=
  let n := s.ev.n
  let e := s.ev.c
  match s.chainOf n e with
  | none => .next s
  | some c =>
    let b := c.batch
    match b.getLast? with
    | none => .next s
    | some j =>
      if !b.all (fun j => j.st == .done) ∨ !enClose j.raw ∨ (s.thr n).frozen then .next s
      else
        let done := 64 * j.prog
        let seq := (c.seq + 1) % 2 ^ 64
        let s := s.modChain n e (fun c => { c with seq := c.seq + 1, jobs := c.jobs.drop b.length, cursor := BitVec.ofNat 64 (enNext j.raw) })
        let ws : List (Word × Nat × Nat) := [(c.header + 0x10, 8, j.addr.toNat), (c.header + 8, 8, seq)]
        if c.owed.isEmpty then .next (s.statusWrites n e c.header done ws)
        else .next (s.modChain n e (fun c => { c with
          owed := c.owed ++ ws.map (fun w => { addr := w.1, size := w.2.1, val := w.2.2, place := c.header, done := done }) }))

/-! ## ENQ, CWAIT, CSEQ -/

/-- Outstanding batches of a chain (R302). -/
def Chain.outstanding (c : Chain) : Nat := (c.enq - c.seq) + (if c.openb then 1 else 0)

/-- Thread n's outstanding count on an engine, 0 without a chain. -/
def State.outstandingOf (s : State) (n : BitVec 9) (e : BitVec 5) : Nat := match s.chainOf n e with | some c => c.outstanding | none => 0

/-- The running thread's outstanding count on an engine. -/
def State.outstanding (s : State) (e : BitVec 5) : Nat := s.outstandingOf s.cur e

/-- A status of ENQ with the outstanding count after it. -/
def State.enqStatus (s : State) (d : BitVec 5) (e : BitVec 5) (code : Nat) : State := s.status d code (s.outstanding e)

/-- Open chains on an engine. -/
def State.openChains (s : State) (e : BitVec 5) : Nat := (s.threads.filter (fun p => Tab.has p.2.chains e.toNat)).length

/-- The engine named by g[a], or BADARG (R297). -/
def State.withEngine (s : State) (d a : BitVec 5) (f : BitVec 5 → State) : State :=
  match engineOf (s.rd a) with
  | some e => f e
  | none => s.status d stBADARG

/-- ENQ.open (R303): the header is read as LD reads. -/
def execEnqOpen (d a b : BitVec 5) (s : State) : Out :=
  .next (s.withEngine d a (fun e =>
    if (s.chainOf s.cur e).isSome then s.enqStatus d e stBADSTATE
    else if 32 ≤ s.openChains e then s.status d stNOSLOT
    else
      let h := s.rd b
      if h.toNat % 64 ≠ 0 then s.trap cALIGN h
      else s.withVa .read h (fun s key x =>
        match x.target with
        | .host _ _ _ => s.trap cACCESS h
        | .device _ =>
          match s.l1Load (coreOf s.cur) key 64 with
          | (s, v, bad) =>
            if bad then s.trap cUNCORR h
            else
              let c : Chain := {
                header := h, cursor := BitVec.ofNat 64 (bytesOf v 0 8), enq := bytesOf v 8 8, seq := bytesOf v 8 8, capt := s.me.cred }
              (s.modMe (fun t => { t with chains := Tab.set t.chains e.toNat c })).enqStatus d e stOK)))

/-- Thread n's chain on an engine is gone, with its entries and their scoreboard entries. -/
def State.dropChain (s : State) (n : BitVec 9) (e : BitVec 5) : State :=
  (s.dropScore (fun x => x.owner == n && x.engine == e && !x.entry.getLsbD 63)).modThr n (fun t => { t with chains := Tab.del t.chains e.toNat })

/-- ENQ.shut (R303). -/
def execEnqShut (d a : BitVec 5) (s : State) : Out :=
  .next (s.withEngine d a (fun e =>
    match s.chainOf s.cur e with
    | none => s.status d stNOCHAIN
    | some c => if c.outstanding ≠ 0 ∧ !c.halted then s.enqStatus d e stBADSTATE else (s.dropChain s.cur e).status d stOK))

/-- Bytes the entry a chain halted at has done: DONE of a record of the writes its restart makes (R306, R348). -/
def Chain.haltedAt (c : Chain) : Nat :=
  match c.jobs.find? (fun j => match j.st with | .faulted _ => true | _ => false) with
  | some j => 64 * j.prog
  | none => match c.owed with | w :: _ => w.done | [] => 0

/-- A halted chain is restarted (R303, R306): the owed writes are made again, HALTED clears, and the entry that faulted
starts again from the PROGRESS its memory holds. -/
def State.restart (s : State) (n : BitVec 9) (e : BitVec 5) : State :=
  match s.chainOf n e with
  | none => s
  | some c =>
    let s := s.modChain n e (fun c => { c with
      halted := false, owed := []
      jobs := c.jobs.map (fun j => match j.st with | .faulted _ => { j with st := .queued, order := true } | _ => j) })
    let clear : Owed := {
      addr := c.header + hstateAt, size := 4, val := hstate c.cause false, place := c.header, done := c.haltedAt }
    (c.owed.filter (fun w => w.addr != clear.addr) ++ [clear]).foldl (fun s w =>
      match s.chainOf n e with
      | some c' =>
        if c'.halted then (if w.addr = clear.addr then s else s.modChain n e (fun c => { c with owed := c.owed ++ [w] }))
        else s.statusWrites n e w.place w.done [(w.addr, w.size, w.val)]
      | none => s) s

/-- ENQ.resume (R303): the count of its status is that of the chain it acts on. -/
def execEnqResume (d a b : BitVec 5) (s : State) : Out :=
  .next (s.withEngine d a (fun e =>
    if s.me.pl = 0 then s.trap cPRIV 0
    else
      let n : BitVec 9 := fld (s.rd b) 0 9
      match s.chainOf n e with
      | none => s.status d stNOCHAIN
      | some c =>
        if c.halted then (s.restart n e).status d stOK ((s.restart n e).outstandingOf n e) else s.status d stBADSTATE c.outstanding))

/-- The walk of ENQ from an address to t (R303): the entries met, or the trap, or `none` where t is not reached. -/
def State.walkChain (cr : Capt) (t : Word) : Nat → Word → State → State × Except (Option (BitVec 8 × Word)) (List Job)
  | 0, _, s => (s, .error none)
  | k + 1, a, s =>
    if a.toNat % 64 ≠ 0 then (s, .error none)
    else
      match s.readEntry cr a with
      | (s, .error c) => (s, .error (some (c, a)))
      | (s, .ok v) =>
        let j : Job := { addr := a, raw := v }
        if a = t then (s, .ok [j])
        else if enNext v = 0 then (s, .error none)
        else
          match State.walkChain cr t k (BitVec.ofNat 64 (enNext v)) s with
          | (s, .ok l) => (s, .ok (j :: l))
          | x => x

/-- Where the walk begins: the entry after the last one enqueued, or the cursor. -/
def State.walkStart (s : State) (c : Chain) : State × Except (Option (BitVec 8 × Word)) Word :=
  if c.last = 0 then (s, .ok c.cursor)
  else
    match s.readEntry c.capt c.last with
    | (s, .error x) => (s, .error (some (x, c.last)))
    | (s, .ok v) => (s, if enNext v = 0 then .error none else .ok (BitVec.ofNat 64 (enNext v)))

/-- ENQ (R303). -/
def execEnq (d a b : BitVec 5) (s : State) : Out :=
  .next (s.withEngine d a (fun e =>
    match s.chainOf s.cur e with
    | none => s.status d stNOCHAIN
    | some c =>
      let t := s.rd b
      if t.toNat % 64 ≠ 0 then s.trap cALIGN t
      else
        let stop (s : State) (x : Option (BitVec 8 × Word)) : State :=
          match x with | some (cause, va) => s.trap cause va | none => s.enqStatus d e stBADARG
        match (s.writeBackAll (clusterOf s.cur)).walkStart c with
        | (s, .error x) => stop s x
        | (s, .ok from_) =>
          match State.walkChain c.capt t 4096 from_ s with
          | (s, .error x) => stop s x
          | (s, .ok js) =>
            let closes := (js.filter (fun j => enClose j.raw)).length
            let openb := match js.getLast? with | some j => !enClose j.raw | none => c.openb
            (s.modChain s.cur e (fun c => { c with last := t, enq := c.enq + closes, openb := openb, jobs := c.jobs ++ js })).enqStatus d e stOK))

/-- CWAIT (R304). -/
def execCwait (d a : BitVec 5) (n : BitVec 6) (s : State) : Out :=
  .next (s.withEngine d a (fun e =>
    match s.chainOf s.cur e with
    | none => s.status d stNOCHAIN
    | some c =>
      if n = 0 ∧ c.openb then s.status d stOPENBATCH
      else if c.halted then s.acquire.status d stHALTED c.outstanding
      else if c.outstanding ≤ n.toNat then s.acquire.status d stOK c.outstanding
      else s.stay .reissue))

/-- CSEQ (R305). -/
def execCseq (d a : BitVec 5) (s : State) : Out :=
  let seq : Nat := match engineOf (s.rd a) with
    | some e => (match s.chainOf s.cur e with | some c => c.seq | none => 0)
    | none => 0
  .next (s.acquire.put d (BitVec.ofNat 64 seq))

/-! ## Commands of a region (R318, R319) -/

/-- The node whose output feeds a command port: its tile and slot. -/
def cmdNode (img : Nat) (p : BitVec 14) : TileNo × BitVec 3 :=
  match portFeeder img p with | some (t, s, _) => (t, BitVec.ofNat 3 s) | none => (0, 0)

/-- COMMAND_PORT_RECEIVE (R319): flight `k` of thread `n`'s region reaches the command port it goes to.  The first half
waits in the port; the second makes the command, which starts. -/
def execCommandPortReceive (s : State) : Out :=
  let n := s.ev.n
  let r := s.reg n
  match r.flight[s.ev.k]? with
  | none => .next s
  | some f =>
    match f.dest with
    | .queue _ _ => .next s
    | .port p =>
      match r.ports.find? (fun q => q.id == p && q.kind == .command) with
      | none => .next s
      | some q =>
        if !actsIn r.st || (s.now n) < f.due || f.tok.kind != kCMD || (r.flight.take s.ev.k).any (fun g => g.dest == f.dest)
            || r.cmds.any (fun j => j.port == p && (match j.st with | .faulted _ => true | _ => false)) then .next s
        else
          let (t, slot) := cmdNode r.image p
          let setHalf (s : State) (h : Option (Token × Nat)) : State := s.modReg n (fun r =>
            { r with flight := r.flight.eraseIdx s.ev.k, active := (s.now n)
                     ports := r.ports.map (fun x => if x.id == p ∧ x.kind = .command then { x with half := h } else x) })
          match q.half with
          | none => .next (setHalf s (some (f.tok, f.idx)))
          | some h =>
            if 16 ≤ (r.cmds.filter (fun j => j.port == p && j.st != .done)).length then
              .next (s.regionFault n (s.nodeCoord n t slot.toNat) cOVERRUN 0)
            else
              let j : Job := {
                raw := zext h.1.pay 512 ||| zext (fld f.tok.pay 0 128) 512 <<< 256
                engine := BitVec.ofNat 5 q.num, port := p, tile := t, slot := slot, idx := f.idx }
              let s := (setHalf s none).modReg n (fun r => { r with cmds := r.cmds ++ [j] })
              .next (s.startJob ⟨n, j.engine, (s.reg n).cmds.length - 1, true⟩)

/-! ## Peers -/

/-- A CRC failure on a lane is counted and logged; the threshold retires the lane (R374, R375). -/
def State.laneError (s : State) (link lane : Nat) : State :=
  let key := 8 * link + lane
  let loc : Word := BitVec.ofNat 64 (link % 16 + 16 * lane)
  let k := Tab.get 0 s.module.laneErrs key + 1
  let s := s.logErr 0 7 loc
  let s := { s with module := { s.module with laneErrs := Tab.set s.module.laneErrs key k } }
  if s.module.thrNow ≠ 0 ∧ s.module.thrNow ≤ k ∧ !s.module.laneDead.contains key then
    { s.logErr 2 7 loc with module := { (s.logErr 2 7 loc).module with laneDead := insertNat s.module.laneDead key } }
  else s

/-- What a flit meets on its lane: no injection, one that is delayed, or one that corrupts or drops it (R398). -/
inductive LaneHit where
  | none
  | late
  | lost
  deriving DecidableEq, Repr

/-- A flit passes lane `lane` of link `link`: an armed TARGET 2 or 3 injection counts it, and the COUNT-th is hit (R398). -/
def State.injectLane (s : State) (link lane : Nat) : State × LaneHit :=
  let m := s.module
  if m.armed (if link < 16 then 2 else 3) && (fld m.injaddr 0 4).toNat == link % 16 && (fld m.injaddr 4 3).toNat == lane then
    if m.injSeen + 1 < Nat.max 1 (fld m.injctl 16 32).toNat then ({ s with module := { m with injSeen := m.injSeen + 1 } }, .none)
    else ({ s with module := m.fired }, if fld m.injctl 58 2 = 2 then .late else .lost)
  else (s, .none)

/-- A flit on a lane that no other error hits: corrupted or dropped by an injection it is sent again, delayed it keeps its order
(R375, R398). -/
def State.injectLink (s : State) (link lane : Nat) : State :=
  match s.injectLane link lane with
  | (s, .lost) => s.laneError link lane
  | (s, _) => s

/-- SOLWEN_LINK_FLIT (R311, R380): a flit of a peer arrives intact: module `w`, engine `c`, offset `k`, by port and lane `t`: 256 bytes of
its source; with bit 16 of `w`, the checksum of the chunk at the offset; with bit 17, 256 bytes of what it runs: the entry, then its
ring descriptor.  Every flit comes once and in order (R375), so that one like an earlier one is of the peer's next collective.  A port that
is down brings none. -/
def execSolwenLinkFlit (s : State) : Out :=
  let port := s.ev.t.toNat / 8 % 16
  if s.module.portDown port then .next s
  else
    let s := s.injectLink port (s.ev.t.toNat % 8)
    let kind : Bool := s.ev.w.getLsbD 17
    let p : Piece := {
      modNo := fld s.ev.w 0 16, engine := s.ev.c, offset := s.ev.k, data := s.ev.x, sum := s.ev.w.getLsbD 16 && !kind, entry := kind }
    .next { s with module := { s.module with pieces := s.module.pieces ++ [p] } }

end Sys2Proof.Machine
end

