-- ==== Sys2Proof/Machine/Trapg.lean ====
section
/-! DEFINITION. TRAP, SYSRET, HALT and WFE (R93 to R97), the delivery of triggers (R101), and the arrival of
flits at mailboxes, those of threads and those of doorbells (R89, R368, R408). -/

namespace Sys2Proof.Machine

/-- TRAP (R93): TRAPINSN with the code; the return address is the next word. -/
def execTrap (c : BitVec 5) (s : State) : Out :=
  .next (s.modMe (fun t => t.trapTo cTRAPINSN (zext c 64) (t.pc + 4)))

/-- SYSRET (R94). -/
def execSysret (s : State) : Out := .next s.sysret

/-- HALT (R95). -/
def execHalt (s : State) : Out := .next (s.advance.modMe (fun t => { t with run := .halted }))

/-- WFE (R96): the thread waits until it is woken. -/
def execWfe (s : State) : Out := .next (s.stay .wfe)

/-- WFE_SPURIOUS_END (R96): the wait of thread `n` ends with none of its events. -/
def execWfeSpuriousEnd (s : State) : Out := .next (s.modThr s.ev.n Thread.wake)

/-- The lowest entry of a trigger table with V set and events pending (R101). -/
def Thread.dueTrigger (t : Thread) : Option (Fin 16) :=
  (List.finRange 16).find? (fun i => trigV t.trig[i] && trigPend t.trig[i] != 0)

/-- May a trigger be delivered to the thread (R97, R101)?  A pre-emption comes first (R103). -/
def Thread.deliverable (t : Thread) : Bool :=
  t.run == .ready && t.ie == 1 && t.pl == 0 && t.saver.isNone
    && (match t.wait with | .none | .reissue | .wfe | .claim _ => true | _ => false)
    && t.dueTrigger.isSome

/-- The delivery of R101 for one entry; TRAPPC is the word not yet executed, after a WFE the next (R97). -/
def Thread.deliver (t : Thread) (i : Fin 16) : Thread :=
  let e := t.trig[i]
  { t with
    wait := .none
    trig := t.trig.set i.val (trigWithPend e (trigPend e - 1))
    trappc := if t.wait = .wfe then t.pc + 4 else t.pc
    trapcause := zext cTRIGGER 64
    trapinfo := (zext (trigPend e - 1) 64 <<< 16) ||| (zext (fld e 56 8) 64 <<< 8) ||| BitVec.ofNat 64 i.val
    status := mkStatus 1 0 0 t.pl
    pc := zext (fld e 0 46) 64 <<< 2 }

/-- TRIGGER_DELIVERY (R101) to thread `n`, when one is deliverable. -/
def execTriggerDelivery (s : State) : Out :=
  let t := s.thr s.ev.n
  match t.dueTrigger with
  | some i => .next (if t.deliverable then s.setThr s.ev.n (t.deliver i) else s)
  | none => .next s

/-- A count one higher, at most 255. -/
def sat8 (x : BitVec 8) : BitVec 8 := if x = 255 then x else x + 1

/-- A flit reaches a mailbox (R89): appended, which is an event on entry 10 + box and ends a WFE, or discarded
and counted when the mailbox holds 16 or is closed: its context is empty, or its area is being written (R366, R368). -/
def State.mboxArrive (s : State) (n : BitVec 9) (b : BitVec 2) (v : Word) : State :=
  let t := s.thr n
  if t.run = .empty ∨ t.frozen ∨ 16 ≤ (t.mbox[b.toNat]).length then
    s.setThr n { t with lost := t.lost.set b.toNat (sat8 t.lost[b.toNat]) }
  else
    ((s.setThr n { t with mbox := t.mbox.set b.toNat (t.mbox[b.toNat] ++ [v]) }).event n (10 + zext b 4)).modThr n
      Thread.wake

/-- MBOX_FLIT_ARRIVAL (R89): flit `k` in flight arrives, unless an older one of the same sender and mailbox is
still in flight. -/
def execMboxFlitArrival (s : State) : Out :=
  match s.flits[s.ev.k]? with
  | none => .next s
  | some f =>
    if (s.flits.take s.ev.k).any (fun g => g.src == f.src && g.dest == f.dest && g.box == f.box) then .next s
    else .next ({ s with flits := s.flits.eraseIdx s.ev.k }.mboxArrive f.dest f.box f.val)

/-- The CLMASK that binds a virtual function: that of a thread whose `PARTITION` names it.  DEDUCED, log 10. -/
def State.fnMask (s : State) (fn : BitVec 6) (c : BitVec 5) : Bool :=
  s.threads.any (fun p => p.2.cred.fn == fn && clIn p.2.partition c)

/-- A write of k bytes to the FLIT of function f's doorbell (R408): a write narrower than 64 bits is discarded, uncounted; a
virtual function's flit to a cluster outside its partition is discarded and counted. -/
def State.doorbellFlit (s : State) (f : BitVec 6) (k : Nat) (v : Word) : State :=
  let d := Tab.get {} s.doorbells f.toNat
  let n := fld d.dest 0 9
  if k ≠ 8 ∨ 33 ≤ f.toNat then s
  else if f ≠ 0 ∧ !s.fnMask f (clusterOf n) then
    let d' : Doorbell := { d with discards := if d.discards = -1 then d.discards else d.discards + 1 }
    { s with doorbells := Tab.set s.doorbells f.toNat d' }
  else { s with flits := s.flits ++ [⟨512 + f.toNat, n, fld d.dest 9 2, v⟩] }

/-- A write to the DISCARDS of function f's doorbell (R408). -/
def State.clearDiscards (s : State) (f : BitVec 6) : State :=
  let d := Tab.get {} s.doorbells f.toNat
  if 33 ≤ f.toNat then s else { s with doorbells := Tab.set s.doorbells f.toNat ({ d with discards := 0 } : Doorbell) }

/-- DOORBELL_FLIT (R408): a write of `k` bytes, value `v`, to the FLIT of function `f`'s doorbell. -/
def execDoorbellFlit (s : State) : Out := .next (s.doorbellFlit s.ev.f s.ev.k s.ev.v)

/-- DISCARDS_WRITE (R408). -/
def execDiscardsWrite (s : State) : Out := .next (s.clearDiscards s.ev.f)

end Sys2Proof.Machine
end

