-- ==== Sys2Proof/Machine/HostIf.lean ====
section
/-! DEFINITION. The host interface (R336 to R339): translation completions and Page Requests, invalidations, and the accesses of
the host through BAR0 (R406, R408). -/

namespace Sys2Proof.Machine

/-! ## What an answer does to those who wait -/

/-- FLAGS of a record of a host page: HOSTT, and WRITE for a write. -/
def hostFlags (w : HostWaiter) : BitVec 8 := if w.write then 5 else 4

/-- Does the node still wait with the access: its head's address, or a row operation in progress? -/
def State.stillWaits (s : State) (d : Nd) (w : HostWaiter) : Bool :=
  s.nodeLive d && ((match s.headAt d 0 with | some (t, _) => t.kind == kDATA && t.va == w.va | none => false)
    || (s.rt d.n d.t).mops.any (fun m => m.slot.toNat == d.slot))

/-- Bytes a node has done when it parks: the rows before, for a row operation. -/
def State.nodeDone (s : State) (d : Nd) : Nat :=
  match (s.rt d.n d.t).mops.find? (fun m => m.slot.toNat == d.slot) with
  | some m => (match rowOp m.op with | some o => m.rows * (((s.rowDims d o).2 + 7) / 8) | none => 0)
  | none => 0

/-- The job of a chain that waits, if it still runs. -/
def State.waitingJob (s : State) (n : BitVec 9) (e : BitVec 5) (a : Word) : Option (JobRef × Job) :=
  match s.chainOf n e with
  | some c =>
    if c.halted then none
    else (c.batch.zipIdx.find? (fun p => p.1.addr == a && p.1.st == .running)).map (fun p => (⟨n, e, p.2, false⟩, p.1))
  | none => none

/-- The command that waits, if it still runs. -/
def State.waitingCommand (s : State) (n : BitVec 9) (t : BitVec 8) (k : BitVec 3) (i : Nat) : Option (JobRef × Job) :=
  if actsIn (s.reg n).st then
    ((s.reg n).cmds.zipIdx.find? (fun p => p.1.tile == t && p.1.slot == k && p.1.idx == i && p.1.st == .running)).map (fun p => (⟨n, p.1.engine, p.2, true⟩, p.1))
  else none

/-- The thread's word goes on, or the thread fetches again: no boundary lies between (R351). -/
def Thread.goOn (t : Thread) : Thread :=
  match t.wait with
  | .busy => { t with wait := .again }
  | .fetch => { t with wait := .none }
  | _ => t

/-- A thread's access ends in ATS, with its address (R351). -/
def Thread.ats (t : Thread) (va : Word) : Thread :=
  if t.wait = .busy ∨ t.wait = .fetch then { t.trapTo cATS va t.pc with wait := .none } else t

/-- The coordinate of a port: its tile in stage 0. -/
def State.portCoord (s : State) (n : BitVec 9) (p : BitVec 14) : BitVec 32 :=
  fabricCoord 0 (clusterOf n) ((s.reg n).absTile (portTile p)) 0

/-- A port's access is refused by the host: a region fault, for a port has no other handling (R175; DEDUCED, log 35). -/
def State.portRefused (s : State) (n : BitVec 9) (p : BitVec 14) (inward : Bool) (va : Word) (flags : BitVec 8) : State :=
  if actsIn (s.reg n).st && (s.reg n).ports.any (fun q => q.id == p && q.kind.inward == inward) then s.regionFault n (s.portCoord n p) cATS va flags
  else s

/-- The host refuses the page of thread n's oldest waiting record: its write has faulted, and it is dropped (R349). -/
def State.refuseRecord (s : State) (n : BitVec 9) : State :=
  match (s.thr n).records with
  | [] => s
  | _ :: rest =>
    let s := (s.modThr n (fun t => { t with records := rest })).loseRecord n true
    s.flushRecords rest.length n

/-- One waiter's access is refused: a node parks, a job halts or parks, each with a record; a thread traps, or with a Page
Request sent goes on waiting; cache maintenance goes on (R291, R338). -/
def State.refuse (s : State) (w : HostWaiter) (cause : BitVec 8) (flags : BitVec 8) (detail : BitVec 16) (asked : Bool) : State :=
  let f := hostFlags w ||| flags
  match w.who with
  | .maint n => s.modThr n Thread.goOn
  | .record n => s.refuseRecord n
  | .word n => s.refuseWord n w.va
  | .area n => if asked then s else s.dropOwed n
  | .thread n => if asked then s else s.modThr n (fun t => t.ats w.va)
  | .node r =>
    let d : Nd := { n := r.owner, t := r.tile, slot := r.slot.toNat, img := (s.reg r.owner).image }
    if s.stillWaits d w then s.park d cause w.va (s.nodeDone d) f detail else s
  | .job n e a => (match s.waitingJob n e a with | some (r, j) => s.haltChain r j cause w.va f detail | none => s)
  | .command n t k i => (match s.waitingCommand n t k i with | some (r, j) => s.parkCommand r j cause w.va f detail | none => s)
  | .port n p i => if asked then s else s.portRefused n p i w.va (hostFlags w)

/-- The response record of a waiter, or the end of its wait (R338). -/
def State.respond (s : State) (w : HostWaiter) (code : BitVec 16) : State :=
  let f := hostFlags w ||| 32
  let cause := if code = 0 then cPAGE else cATS
  let node (s : State) (n : BitVec 9) (place : BitVec 32) (done : Nat) : State :=
    s.faultRecord n { addr := w.va, place := zext place 64, done := BitVec.ofNat 64 done, cause := cause, flags := f ||| 8
                      space := s.spaceField (s.reg n).capt, detail := code, keep := true }
  match w.who with
  | .maint n => s.modThr n Thread.goOn
  | .record _ | .word _ => s
  | .area n => if code = 0 then s.writeOwed n else s.dropOwed n
  | .thread n => s.modThr n (fun t => if code = 0 then t.goOn else t.ats w.va)
  | .node r =>
    let done := match (s.rt r.owner r.tile).parked.find? (fun p => p.slot == r.slot) with | some p => p.done | none => 0
    node s r.owner (s.nodeCoord r.owner r.tile r.slot.toNat) done
  | .job n e a =>
    (match s.chainOf n e with
     | some c =>
       let done := match c.jobs.find? (fun j => j.addr == a) with | some j => 64 * j.prog | none => 0
       s.chainRecord n c.capt a w.va done cause f code
     | none => s)
  | .command n t k i =>
    let done := match (s.reg n).cmds.find? (fun j => j.tile == t && j.slot == k && j.idx == i) with | some j => 64 * j.prog | none => 0
    node s n (s.nodeCoord n t k.toNat) done
  | .port n p i => if code = 0 then s else s.portRefused n p i w.va (hostFlags w)

/-! ## Translation completions (R337, R338) -/

/-- The translations of a completion, one after the other from `page` on: sixteen bits of `x` each, [5:0] the logarithm of the
size, 0 after the last, [6] read and [7] write.  An entry keeps the size the host returned (R337). -/
def atcEntries (fn : BitVec 6) (pasid : BitVec 20) (x : Nat) : Nat → Nat → List AtcEntry
  | 0, _ => []
  | k + 1, page =>
    let size := 2 ^ (x % 64)
    if x % 64 = 0 then []
    else { fn := fn, pasid := pasid, page := page - page % size, size := size, rd := x / 64 % 2 == 1, wr := x / 128 % 2 == 1 }
      :: atcEntries fn pasid (x / 65536) k (page - page % size + size)

/-- Does an entry share a byte with a host range of a function and PASID? -/
def AtcEntry.meets (e : AtcEntry) (fn : BitVec 6) (pasid : BitVec 20) (lo hi : Nat) : Bool :=
  e.fn == fn && e.pasid == pasid && decide (e.page < hi) && decide (lo < e.page + e.size)

/-- New entries take the place of those they meet. -/
def State.keepAtc (s : State) (es : List AtcEntry) : State :=
  { s with atc := es ++ s.atc.filter (fun o => !es.any (fun e => o.meets e.fn e.pasid e.page (e.page + e.size))) }

/-- Page Requests that may be outstanding (Table 11.8). -/
def pageRequests : Nat := 512

/-- A Page Request for a waiter, shared with one for its page and kind (R338) unless the waiter is behind that one already, as
a node that was posted before the response is (R342).  With 512 outstanding it is sent when one is answered. -/
def State.askPage (s : State) (fn : BitVec 6) (pasid : BitVec 20) (w : HostWaiter) : State × BitVec 16 :=
  let page := w.ha - w.ha % 4096
  let same (r : HostReq) : Bool := r.fn == fn && r.pasid == pasid && r.page == page && r.write == w.write && !r.waiters.contains w
  match s.pri.find? same with
  | some r =>
    ({ s with pri := s.pri.map (fun q => if q == r then { q with waiters := q.waiters ++ [w] } else q) },
     Config.pageGroup r.group)
  | none =>
    ({ s with
        tick := s.tick + 1
        pri := s.pri ++ [{ fn := fn, pasid := pasid, page := page, write := w.write, waiters := [w], group := s.tick
                           sent := decide ((s.pri.filter (fun r => r.fn == fn && r.sent)).length < pageRequests) }] },
     Config.pageGroup s.tick)

/-- One waiter of an answered request (Table 11.9). -/
def State.answer (s : State) (fn : BitVec 6) (pasid : BitVec 20) (ok : Bool) (w : HostWaiter) : State :=
  if s.atcGrants fn pasid w.ha w.write then
    (match w.who with
     | .thread n | .maint n => s.modThr n Thread.goOn
     | .record n => s.flushRecords (s.thr n).records.length n
     | .word n => s.storeWords n
     | .area n => s.writeOwed n
     | _ => s)
  else
    match w.who with
    | .maint n => s.modThr n Thread.goOn
    | .record n => s.refuseRecord n
    | .word n => s.refuseWord n w.va
    | _ =>
      if ok && s.priOn.contains fn && !s.priOff.contains fn then
        (match s.askPage fn pasid w with | (s, g) => s.refuse w cPAGE 16 g true)
      else s.refuse w cATS 0 0 false

/-- A completion without success brings no page: the sixteen pages asked for grant nothing. -/
def noPages : Nat := (List.range 16).foldl (fun x k => x + 12 * 65536 ^ k) 0

/-- ATS_TRANSLATION_COMPLETION (R338) of request `k`: status `v`, 0 success, else UR or CA; `x` holds the translations. -/
def execAtsTranslationCompletion (s : State) : Out :=
  match s.ats[s.ev.k]? with
  | none => .next s
  | some r =>
    let ok := s.ev.v == 0
    let s := { s with ats := s.ats.eraseIdx s.ev.k }.keepAtc
      (atcEntries r.fn r.pasid (if ok then s.ev.x.toNat else noPages) 16 r.page)
    .next (r.waiters.foldl (fun s w => s.answer r.fn r.pasid ok w) s)

/-- The first Page Request of a function that waits for room is sent; none after a Response Failure (R338). -/
def sendNext (fn : BitVec 6) : List HostReq → List HostReq
  | [] => []
  | r :: rest => if r.fn == fn && !r.sent then { r with sent := true } :: rest else r :: sendNext fn rest

/-- PRG_RESPONSE (R338) to Page Request `k`: code `v`, 0 Success, 1 Invalid Request, 15 Response Failure. -/
def execPrgResponse (s : State) : Out :=
  match s.pri[s.ev.k]? with
  | none => .next s
  | some r =>
    if !r.sent then .next s
    else
    let code : BitVec 16 := if s.ev.v = 0 then 0 else if s.ev.v = 1 then 1 else 15
    let off := if code = 15 ∧ !s.priOff.contains r.fn then r.fn :: s.priOff else s.priOff
    let s := { s with pri := if off.contains r.fn then s.pri.eraseIdx s.ev.k else sendNext r.fn (s.pri.eraseIdx s.ev.k), priOff := off }
    .next (r.waiters.foldl (fun s w => s.respond w code) s)

/-- PRI_CAPABILITY_ENABLE (R338): the host enables function `f`'s capability, or clears it when `w` is 1.  Enabling ends the
silence after a Response Failure only once it has been cleared. -/
def execPriCapabilityEnable (s : State) : Out :=
  let f := s.ev.f
  if s.ev.w = 1 then .next { s with priOn := s.priOn.filter (· != f) }
  else if s.priOn.contains f then .next s
  else .next { s with priOn := f :: s.priOn, priOff := s.priOff.filter (· != f) }

/-! ## Invalidation (R339) -/

/-- Dirty lines of host pages in a range: (cluster, line). -/
def State.hostDirty (s : State) (fn : BitVec 6) (pasid : BitVec 20) (lo hi : Nat) : List (BitVec 5 × Nat) :=
  s.clusters.flatMap (fun c => (c.2.l2.filter (fun l => l.2.dirty != 0 && decide (hostKey fn pasid lo < 64 * l.1 + 64)
    && decide (64 * l.1 < hostKey fn pasid hi))).map (fun l => (BitVec.ofNat 5 c.1, l.1)))

/-- ATS_INVALIDATE_REQUEST (R339): function `f`, PASID `v`, `k` bytes at host address `w`.  Stores that used what goes are
written back by evictions, which R271 allows at any time, so that they complete at the host. -/
def execAtsInvalidateRequest (s : State) : Out :=
  let pasid : BitVec 20 := fld s.ev.v 0 20
  let lo := s.ev.w.toNat
  let hi := lo + s.ev.k
  let s := (s.hostDirty s.ev.f pasid lo hi).foldl (fun s p => s.writeBack p.1 p.2) s
  .next { s with
    atc := s.atc.filter (fun e => !e.meets s.ev.f pasid lo hi)
    invals := s.invals ++ [{ fn := s.ev.f, pasid := pasid, lo := lo, hi := hi, stamp := s.tick }] }

/-- Has an access translated before an invalidation still to complete at the host? -/
def State.usesHost (s : State) (i : Inval) : Bool :=
  s.threads.any (fun p => p.2.region.tiles.any (fun t => t.2.accs.any (fun a =>
    !a.done && a.where_ == 0 && decide (a.stamp < i.stamp) && (match a.target with
      | .host fn pasid ha => fn == i.fn && pasid == i.pasid && decide (ha < i.hi) && decide (i.lo < ha + 32)
      | .device _ => false))))

/-- ATS_INVALIDATE_COMPLETION (R339): invalidation `k` is complete when no access uses what it removed; a store that performed since
the request is written back first, so that it ends at the host too. -/
def execAtsInvalidateCompletion (s : State) : Out :=
  match s.invals[s.ev.k]? with
  | none => .next s
  | some i =>
    if s.usesHost i then .next s
    else
      let s := (s.hostDirty i.fn i.pasid i.lo i.hi).foldl (fun s p => s.writeBack p.1 p.2) s
      .next { s with invals := s.invals.eraseIdx s.ev.k }

/-! ## BAR0 (R406, R408) -/

/-- Offset of the doorbells in BAR0. -/
def doorbellBase : Nat := 0x4000000000

/-- A write of n bytes at an offset of a doorbell, all in one of its 8-byte words. -/
def State.doorbellWrite (s : State) (f : BitVec 6) (off n : Nat) (v : Nat) : State :=
  if off < 8 then
    let d := Tab.get {} s.doorbells f.toNat
    let old := d.dest.toNat
    let m := (2 ^ (8 * n) - 1) * 2 ^ (8 * off)
    let new := (old - (old &&& m)) + (v * 2 ^ (8 * off) &&& m)
    let d' : Doorbell := { d with dest := BitVec.ofNat 11 new }
    { s with doorbells := Tab.set s.doorbells f.toNat d' }
  else if off < 16 then s.doorbellFlit f n (BitVec.ofNat 64 v)
  else if off < 20 then s.clearDiscards f
  else s

/-- The doorbells as the host reads them (Table 14.5): FLIT and the reserved bytes read as 0. -/
def State.doorbellBytes (s : State) : Nat :=
  fieldsAt ((List.range 33).flatMap (fun f =>
    let d := Tab.get ({} : Doorbell) s.doorbells f
    [fieldAt (32 * f) 8 d.dest.toNat, fieldAt (32 * f + 0x10) 4 d.discards.toNat]))

/-- BAR0_ACCESS: the host reads (`w` 0) or writes (`w` 1) `t` bytes, at most 256, of value `x` at offset `k` of the physical
function's BAR0: the GDDR tier at its home, or a doorbell by 8-byte words.  What it reads stands in `hostValue`. -/
def execBar0Access (s : State) : Out :=
  let a := s.ev.k
  let n := if s.ev.t = 0 then 256 else s.ev.t.toNat
  if a + n ≤ Config.gddrBytes then
    .next (if s.ev.w = 1 then s.homeWrite a n (s.ev.x.toNat % 2 ^ (8 * n))
      else match s.homeRead a n with | (s, v, _) => { s with hostValue := BitVec.ofNat 2048 v })
  else if doorbellBase ≤ a ∧ a + n ≤ doorbellBase + 32 * 33 then
    .next (if s.ev.w ≠ 1 then { s with hostValue := BitVec.ofNat 2048 (bytesOf s.doorbellBytes (a - doorbellBase) n) } else (List.range ((a % 8 + n + 7) / 8)).foldl (fun s j =>
      let lo := Nat.max a (a - a % 8 + 8 * j)
      let hi := Nat.min (a + n) (a - a % 8 + 8 * (j + 1))
      s.doorbellWrite (BitVec.ofNat 6 ((lo - doorbellBase) / 32)) ((lo - doorbellBase) % 32) (hi - lo)
        (bytesOf s.ev.x.toNat (lo - a) (hi - lo))) s)
  else .next s

end Sys2Proof.Machine
end

