-- ==== Sys2Proof/Machine/Ports.lean ====
section
/-! DEFINITION. The ports of a region (R117, R118, R170, R176): what an ingress port admits, and when; what an egress port does
with a token; the completion of a period (R120) and the drained event (R121). -/

namespace Sys2Proof.Machine

/-! ## Streams (R117) -/

/-- Elements of a descriptor. -/
def dscElems (v : BitVec 512) : Nat := dscSize v 0 * dscSize v 1 * dscSize v 2 * dscSize v 3

/-- Is the element type packed two to a byte? -/
def dscHalf (v : BitVec 512) : Bool := elemBits (dscType v) == 4

/-- Bytes an element lies in. -/
def dscBytes (v : BitVec 512) : Nat := if dscHalf v then 1 else elemBits (dscType v) / 8

/-- Indices of the element at a position, dimension 0 fastest. -/
def dscIndex (v : BitVec 512) (k d : Nat) : Nat :=
  match d with
  | 0 => k % dscSize v 0
  | 1 => k / dscSize v 0 % dscSize v 1
  | 2 => k / (dscSize v 0 * dscSize v 1) % dscSize v 2
  | _ => k / (dscSize v 0 * dscSize v 1 * dscSize v 2)

/-- Address of the element at a position. -/
def dscAddr (v : BitVec 512) (k : Nat) : Word :=
  let i0 := if dscHalf v then dscIndex v k 0 / 2 else dscIndex v k 0
  dscBase v + BitVec.ofNat 64 i0 * dscStride v 0 + BitVec.ofNat 64 (dscIndex v k 1) * dscStride v 1
    + BitVec.ofNat 64 (dscIndex v k 2) * dscStride v 2 + BitVec.ofNat 64 (dscIndex v k 3) * dscStride v 3

/-- Does the element lie in the high half of its byte? -/
def dscHigh (v : BitVec 512) (k : Nat) : Bool := dscHalf v && dscIndex v k 0 % 2 == 1

/-- Tokens of a stream. -/
def dscTokens (v : BitVec 512) : Nat := (dscElems v + elemCount (dscType v) - 1) / elemCount (dscType v)

/-- Positions of a token's elements that lie in the descriptor. -/
def dscPositions (v : BitVec 512) (n : Nat) : List Nat :=
  let e := elemCount (dscType v)
  (List.range (Nat.min e (dscElems v - n * e))).map (fun j => n * e + j)

/-! ## Bytes of a port -/

/-- Where the bytes of an element lie, one key for each byte, and the shadow's descriptor. -/
def State.byteKeys (cr : Capt) (k : Access) (shadow : Bool) (who : Waiter) : Nat → Word → State → State × Got (List (Nat × Option Nat))
  | 0, _, s => (s, .ok [])
  | n + 1, va, s =>
    match s.resolve cr k shadow va who with
    | (s, .fault c) => (s, .bad c va (k == .write) true)
    | (s, .wait) => (s, .wait)
    | (s, .ok key x) =>
      match State.byteKeys cr k shadow who n (va + 1) s with
      | (s, .ok l) => (s, .ok ((key, if shadow then x.desc else none) :: l))
      | x => x

/-- The bytes of several elements. -/
def State.elemKeys (cr : Capt) (k : Access) (shadow : Bool) (who : Waiter) (v : BitVec 512) : List Nat → State → State × Got (List (List (Nat × Option Nat)))
  | [], s => (s, .ok [])
  | p :: rest, s =>
    match State.byteKeys cr k shadow who (dscBytes v) (dscAddr v p) s with
    | (s, .bad c a w x) => (s, .bad c a w x)
    | (s, .wait) => (s, .wait)
    | (s, .ok l) =>
      match State.elemKeys cr k shadow who v rest s with
      | (s, .ok ls) => (s, .ok (l :: ls))
      | x => x

/-- Read bytes at their keys from the L2 slices of a cluster, lowest first. -/
def State.keyBytes (s : State) (c : BitVec 5) (ks : List (Nat × Option Nat)) : State × Nat × Bool :=
  ks.zipIdx.foldl (fun (x : State × Nat × Bool) k =>
    match x.1.fabricLoad c 0 .slice k.1.1 1 with
    | (s, v, bad) => (s, x.2.1 + v * 2 ^ (8 * k.2), x.2.2 || bad)) (s, 0, false)

/-- What bytes at keys make of a line: the bytes and their mask, a later byte over an earlier one. -/
def lineOf (bs : List (Nat × Nat)) (line : Nat) : BitVec 512 × BitVec 64 :=
  (bs.filter (fun b => b.1 / 64 == line)).foldl (fun x b =>
    let m := byteMask (b.1 % 64) 1
    (mergeLine (BitVec.ofNat 512 (b.2 % 256 * 2 ^ (8 * (b.1 % 64)))) x.1 m, x.2 ||| m)) (0, 0)

/-- Write bytes at their keys into the L2 slices of a cluster, each line at once: a word they cover is overwritten whole (R372). -/
def State.keyWrite (s : State) (c : BitVec 5) (cr : Capt) (bs : List (Nat × Nat)) : State :=
  ((bs.map (fun b => b.1 / 64)).eraseDups).foldl (fun s line =>
    s.l2Store c line (lineOf bs line).1 (lineOf bs line).2 false (cr.marks (64 * line))) s

/-- The byte a key holds: as the write in hand leaves it, else as the slice holds it. -/
def State.keyOld (s : State) (c : BitVec 5) (bs : List (Nat × Nat)) (key : Nat) : State × Nat :=
  match bs.reverse.find? (fun b => b.1 == key) with
  | some b => (s, b.2)
  | none => (match s.fabricLoad c 0 .slice key 1 with | (s, v, _) => (s, v))

/-- A port meets a fault: a region fault at its tile (R175; DEDUCED, log 35). -/
def State.portFault (s : State) (n : BitVec 9) (p : BitVec 14) (cause : BitVec 8) (va : Word) (flags : BitVec 8 := 0) : State :=
  s.regionFault n (s.portCoord n p) cause va flags

/-- The fault of an access of a port: WRITE of a write, HOSTT in the host tier (R347). -/
def State.portBad (s : State) (n : BitVec 9) (p : BitVec 14) (cause : BitVec 8) (va : Word) (write : Bool) : State :=
  s.portFault n p cause va ((if write then 1 else 0) ||| (if s.hostTier (s.reg n).capt va then 4 else 0))

/-! ## Ingress: what is read -/

/-- Change a port of thread n's region. -/
def State.modPort (s : State) (n : BitVec 9) (p : Port) (f : Port → Port) : State :=
  s.modReg n (fun r => { r with ports := r.ports.map (fun q => if q.same p then f q else q) })

/-- The elements of a token whose read is complete: an element beyond the end is absent, or zero where its lane has begun
(R244). -/
def streamElems (v : BitVec 512) (n : Nat) (xs : List Nat) : List (Option Nat) :=
  let ty := dscType v
  let w := elemBits ty
  (List.range (elemCount ty)).map (fun j =>
    match xs[j]? with
    | some x => some x
    | none => if w < 32 ∧ n * elemCount ty + w * j / 32 * 32 / w < dscElems v then some 0 else none)

/-- A data token of a stream; an sd token is a whole record (R47, R117). -/
def streamTok (v : BitVec 512) (n : Nat) (xs : List Nat) : Token :=
  let (pay, valid) := packElems (dscType v) (streamElems v n xs)
  dataTok pay valid (dscType v == 13) (dscType v == 13)

/-- Read token n of a port's descriptor; POISON where a byte of it is poisoned (R372). -/
def State.readToken (s : State) (n : BitVec 9) (p : Port) (k : Nat) : State × Got Token :=
  let v := p.snap
  match State.elemKeys (s.reg n).capt .read false (.port n p.id p.kind.inward) v (dscPositions v k) s with
  | (s, .bad c a w x) => (s, .bad c a w x)
  | (s, .wait) => (s, .wait)
  | (s, .ok ks) =>
    let r := (ks.zip (dscPositions v k)).foldl (fun (x : State × List Nat × Bool) e =>
      match x.1.keyBytes (clusterOf n) e.1 with
      | (s, b, bad) =>
        let b := if dscHalf v then (if dscHigh v e.2 then b / 16 else b % 16) else b
        (s, x.2.1 ++ [b], x.2.2 || bad)) (s, [], false)
    (r.1, .ok (if r.2.2 then poisonTok else streamTok v k r.2.1))

/-! ## Credit (R170) -/

/-- How an index of a node's output leads back to the index of its inputs; `none` where it does not (R133).  The numbers of
a window, a block or a copy are undone. -/
def backIndex (img : Nat) (v : Vtx) (i : Nat) : Option Nat :=
  let w := opWord img v.1 v.2
  match opAt img v.1 v.2 with
  | some (.merge _ c) => if c = 1 then some i else none
  | some (.chain _ _) => if chRearm (chainRec img v.1 v.2) then some (i / Nat.max 1 (chCount (chainRec img v.1 v.2))) else none
  | some (.source _ _ _) => none
  | some (.win _) => some (i * Nat.max 1 (nodeConst img v.1 v.2).toNat)
  | some (.qmax t _) => some (i * Nat.max 1 (128 / elemCount t))
  | some op =>
    if opCode w = 0xFF then none
    else
      let r := replFactor img v op
      let many (es ed : Nat) : Nat := i * Nat.max 1 (ed / Nat.max 1 es)
      (match op with
       | .cvt t sf _ _ _ _ | .csc t sf _ _ _ => if 1 < r then some (i / r) else some (many (elemCount sf) (elemCount t))
       | .sddec t _ _ _ => if 1 < r then some (i / r) else some (many 8 (elemCount t))
       | .qconv t sf => some (many (elemCount sf) (elemCount t))
       | _ => some (i / Nat.max 1 r))
  | none => none

/-- Does a node hold back or bundle the indices it consumes, so that its channel stands where its inputs stand? -/
def bundles (img : Nat) (v : Vtx) (o : Nat) : Bool :=
  match opAt img v.1 v.2 with
  | some (.wsum _ _) | some (.wcnt _) | some (.accum _ _) | some (.win _) | some (.qmax _ _) | some (.qconv _ _) | some (.qdeq _ _)
  | some (.cvt _ _ _ _ _ _) | some (.csc _ _ _ _ _) | some (.sddec _ _ _ _) | some (.sdenc _ _ _ _) | some (.temit _ _ _ _)
  | some (.tepi _ _ _ _) | some (.tfill _ _ _) | some (.tacc _ _) | some (.vote _) => true
  | some (.cksum _ _ _ _) => o == 1
  | _ => false

/-- The input queues of a node that a port's stream reaches otherwise than through the slot B of a loop-carried CHAIN, which carries
no index of its output (log 36). -/
def reachedSlots (img : Nat) (p : BitVec 14) (v : Vtx) : List (TileNo × Nat) :=
  ((slotsRead img v.1 v.2).map (fun k => (v.1, 4 * v.2 + k))).filter (fun q =>
    !isLoopB img q.1 q.2 && (portsOf img true 8192 [q] [] []).contains p)

/-- An index at a queue as an index of port p, when every way from the port to the queue maps back.  The fuel bounds the
nodes on the way. -/
def backTo (img : Nat) (p : BitVec 14) : Nat → TileNo × Nat → Nat → Option Nat
  | 0, _, _ => none
  | fuel + 1, q, i =>
    match feeder img q.1 q.2 with
    | some (.port p', _) => if p' = p then some i else none
    | some (.node t s _, _) =>
      (match backIndex img (t, s) i with
       | none => none
       | some j =>
         let l := (reachedSlots img p (t, s)).map (fun x => backTo img p fuel x j)
         if l.any Option.isNone then none else (l.filterMap id).min?)
    | none => none

/-- The first index at or on the way to a queue, if there is one, a record still arriving among them; a pending gap makes no
head (R170).  The control lane's tokens that end a stream stand past
every index. -/
def Region.firstAt (r : Region) (q : TileNo × Nat) : Option Nat :=
  let Q : Queue := (Tab.get ({} : RTile) r.tiles q.1.toNat).queue q.2
  match Q.items with
  | e :: _ => some (if e.tok.kind = kEND ∨ e.tok.kind = kDRAIN ∨ e.tok.kind = kMARK then 2 ^ 48 else e.span.1)
  | [] =>
    match Q.buf with
    | some b => some b.idx
    | none =>
      match r.flight.find? (fun f => f.dest == .queue q.1 (BitVec.ofNat 5 q.2)) with
      | some f => some (if f.tok.kind = kEND ∨ f.tok.kind = kDRAIN ∨ f.tok.kind = kMARK then 2 ^ 48
          else if f.tok.kind = kGAP then f.tok.gapFirst else f.idx)
      | none => none

/-- How many of port p's indices have passed a queue: those before its head's, or those the channel that feeds it stands past.
DEDUCED, log 36: a token on its way counts as held by its queue, and a bundling node's channel stands where its inputs
do. -/
def Region.passed (r : Region) (p : Port) : Nat → TileNo × Nat → Nat
  | 0, _ => p.next
  | fuel + 1, q =>
    match r.firstAt q with
    | some i => if 2 ^ 48 ≤ i then p.next else (backTo r.image p.id 4096 q i).getD 0
    | none =>
      match feeder r.image q.1 q.2 with
      | some (.port _, _) => p.next
      | some (.node t s o, _) =>
        if bundles r.image (t, s) o then ((reachedSlots r.image p.id (t, s)).map (fun x => r.passed p fuel x)).foldl Nat.min p.next
        else (backTo r.image p.id 4096 q (Tab.get 0 r.pos (16 * t.toNat + 2 * s + o))).getD 0
      | none => p.next

/-- The credit points of an ingress port: FAULT queues, in an Invar image every queue, that its stream reaches only through
nodes that map back. -/
def creditPoints (img : Nat) (p : BitVec 14) : List (TileNo × Nat) :=
  (imgTiles img).flatMap (fun t => ((List.range 32).filter (fun q =>
    termFeeds img t q && (imgInvar img || qPolicy (queueRec img t q) == 0) && (backTo img p 4096 (t, q) 0).isSome)).map (fun q => (t, q)))

/-- Does every credit point stand at or beyond n - IW (R170)? -/
def Region.credit (r : Region) (p : Port) : Bool :=
  (creditPoints r.image p.id).all (fun q => decide (p.next < r.passed p 4096 q + window r.image p.id))

/-! ## INGRESS_ADMIT -/

/-- A token leaves an ingress port on its channel. -/
def State.portEmit (s : State) (n : BitVec 9) (p : BitVec 14) (t : Token) (i : Nat) : State :=
  let fs := (route (s.reg n).image (portChan p) 257 (portTile p) 0).map (fun d => ({ dest := d.1, tok := t, idx := i, due := (s.now n) + 1 + d.2 } : Flight))
  s.modReg n (fun r => { r with flight := r.flight ++ fs, active := (s.now n) })

/-- Indices a token stands for: a GAP its count, a token of an sd record that goes on none yet. -/
def admitStep (ty : BitVec 4) (t : Token) : Nat :=
  if t.kind = kGAP then t.gapCount else if ty = 13 ∧ t.kind = kDATA ∧ !t.last then 0 else 1

/-- A token is admitted: it is kept for a replay, the first 2048 of a period (R384), and leaves with the port's next index. -/
def State.admitTok (s : State) (n : BitVec 9) (p : Port) (ty : BitVec 4) (t : Token) : State :=
  let t' := if t.kind = kGAP then gapTok p.next t.gapCount t.gapComp else t
  let s := s.modPort n p (fun q => { q with
    next := ix (q.next + admitStep ty t), taken := q.taken + 1, mid := ty == 13 && t.kind == kDATA && !t.last
    buf := if q.taken < q.buf.length ∨ 2048 ≤ q.buf.length ∨ q.freed then q.buf else q.buf ++ [t]
    freed := q.freed || (decide (q.buf.length ≤ q.taken) && decide (2048 ≤ q.buf.length)) })
  s.portEmit n p.id t' p.next

/-- The END of an ingress stream, with the teardown flag of a swap (R118, R122).  A bridge's END is kept for a replay, as the tokens
before it are (R384). -/
def State.portEnd (s : State) (n : BitVec 9) (p : Port) : State :=
  (s.modPort n p (fun q => { q with endSent := true, endKept := q.endKept || q.kind == .bridgeIn })).portEmit n p.id (endTok (s.reg n).newImage.isSome) 0

/-- Element type of a port's stream. -/
def portType (img : Nat) (p : BitVec 14) : BitVec 4 :=
  match (portQueues img p).head? with | some q => slotType img q.1 (q.2 / 4) (q.2 % 4) | none => 15

/-- A token of the bridge buffer a port consumes from; its END ends the stream.  The record is that of the first queue the channel
feeds, of queue 0 of tile 0 where it feeds none (DESIGN CHOICE, log 94). -/
def State.bridgeAdmit (s : State) (n : BitVec 9) (p : Port) : State :=
  let b : Bridge := Tab.get {} s.bridges p.num
  let q := (portQueues (s.reg n).image p.id).head?.getD (0, 0)
  let rec_ := bridgeRecord (queueRec (s.reg n).image q.1 q.2)
  match b.buffer.head (s.now n) with
  | none => s
  | some (t, _) =>
    let b' : Bridge := { b with buffer := b.buffer.pop rec_ }
    let s' := { s with bridges := Tab.set s.bridges p.num b' }
    if t.kind = kEND then s'.portEnd n p else s'.admitTok n p (portType (s.reg n).image p.id) t

/-- An ingress port's next token (R118, R119, R170): from the replay buffer, else its descriptor or bridge. -/
def State.admitNext (s : State) (n : BitVec 9) (p : Port) : State :=
  match p.buf[p.taken]? with
  | some t => s.admitTok n p (portType (s.reg n).image p.id) t
  | none =>
    if p.kind = .bridgeIn then (if p.endKept then s.portEnd n p else s.bridgeAdmit n p)
    else if dscTokens p.snap ≤ p.next then s.portEnd n p
    else
      match s.readToken n p p.next with
      | (s, .ok t) => s.admitTok n p (dscType p.snap) t
      | (s, .wait) => s
      | (s, .bad c va w _) => s.portBad n p.id c va w

/-- Does an ingress port stand inside an sd record of a bridge (R147): it has admitted part of it, and what comes next, if it is there,
goes on with it? -/
def State.midRecord (s : State) (n : BitVec 9) (p : Port) : Bool :=
  let next : Option Token := match p.buf[p.taken]? with
    | some t => some t
    | none => if p.kind = .bridgeIn ∧ !p.endKept then ((Tab.get ({} : Bridge) s.bridges p.num).buffer.head (s.now n)).map (·.1) else none
  p.mid && (match next with | some t => t.kind == kDATA && !t.first | none => !p.endKept)

/-- INGRESS_ADMIT (R118, R121, R170, R173, R355): port `k` of thread `n`'s region acts.  A MARK in passage goes behind its
last token, not between the tokens of an sd record (R359); a hold stops it; else it admits its next token when it has credit, then END,
then DRAIN when one is asked for.  A port that has not emitted its END when the period is DONE admits nothing more, unless a teardown
swap is to end the stream (R122); in DRAINING it goes on (DESIGN CHOICE, log 95). -/
def execIngressAdmit (s : State) : Out :=
  let n := s.ev.n
  let r := s.reg n
  match r.ports[s.ev.k]? with
  | none => .next s
  | some p =>
    if !(p.kind == .ingress || p.kind == .bridgeIn) || !actsIn r.st then .next s
    else
      match r.mark with
      | some m =>
        .next (if p.markSent then s
          else if s.midRecord n p then s.admitNext n p
          else (s.modPort n p (fun q => { q with markSent := true })).portEmit n p.id (markTok m.num) p.next)
      | none =>
        if r.anyParked then .next s
        else if p.endSent then
          .next (if r.drainAsked ∧ !p.drainSent then
              (s.modPort n p (fun q => { q with drainSent := true })).portEmit n p.id (drainTok (imgConfig r.image)) p.next
            else s)
        else if r.st = 5 ∧ r.newImage.isNone then .next s
        else .next (if r.credit p then s.admitNext n p else s)

/-! ## Egress -/

/-- The fault of a shadow port whose bytes do not lie in the buffer its descriptor names (R118): its cause and address, and whether it
is the write's.  The spec gives ACCESS for an engine (R308) and nothing for a port: here too it is ACCESS, a region fault with the
address of the descriptor's first element (DESIGN CHOICE, log 93). -/
def State.shadowKeys (s : State) (cr : Capt) (v : BitVec 512) (ks : List (List (Nat × Option Nat))) : State × Option (BitVec 8 × Word × Bool) :=
  if !dscShadow v then (s, none)
  else
    match s.descriptor cr (dscBufid v) with
    | (s, .error c) => (s, some (c, BitVec.ofNat 64 (64 * dscBufid v), false))
    | (s, .ok x) => (s, if ks.any (fun l => l.any (fun k => k.2 != some x.pa)) then some (cACCESS, dscAddr v 0, true) else none)

/-- Bytes written through a shadow are the period's to publish (R120). -/
def State.noteShadow (s : State) (n : BitVec 9) (v : BitVec 512) (ks : List (List (Nat × Option Nat))) : State :=
  if dscShadow v then
    s.modReg n (fun r => { r with shadow := r.shadow ++ ks.flatMap (fun l => l.map (fun k => (k.2.getD 0, k.1, 1))) })
  else s

/-- What DATA does at a port bound to a tensor: its valid elements are written and the stream moves on. -/
def State.egressData (s : State) (n : BitVec 9) (p : Port) (t : Token) (done : State → State) : State :=
  let v := p.snap
  let cr := (s.reg n).capt
  let ps := (dscPositions v p.next).zip (t.elems (dscType v))
  let ws := ps.filterMap (fun e => e.2.map (fun x => (e.1, x)))
  match State.elemKeys cr .write (dscShadow v) (.port n p.id p.kind.inward) v (ws.map (·.1)) s with
  | (s, .wait) => s
  | (s, .bad c va w _) => s.portBad n p.id c va w
  | (s, .ok ks) =>
    match s.shadowKeys cr v ks with
    | (s, some (c, va, w)) => s.portBad n p.id c va w
    | (s, none) =>
      let c := clusterOf n
      let x := (ks.zip ws).foldl (fun (x : State × List (Nat × Nat)) e =>
        let key := (e.1.map (·.1)).headD 0
        if dscHalf v then
          match x.1.keyOld c x.2 key with
          | (s, old) => (s, x.2 ++ [(key, if dscHigh v e.2.1 then old % 16 + 16 * e.2.2 else old / 16 * 16 + e.2.2)])
        else (x.1, x.2 ++ e.1.zipIdx.map (fun k => (k.1.1, bytesOf e.2.2 k.2 1)))) (s, [])
      done (((x.1.keyWrite c cr x.2).noteShadow n v ks).modPort n p (fun q => { q with next := q.next + 1 }))

/-- POISON at a port bound to a tensor: every word of the next token's positions is poisoned (R118, R372). -/
def State.egressPoison (s : State) (n : BitVec 9) (p : Port) (done : State → State) : State :=
  let v := p.snap
  let cr := (s.reg n).capt
  match State.elemKeys cr .write (dscShadow v) (.port n p.id p.kind.inward) v (dscPositions v p.next) s with
  | (s, .wait) => s
  | (s, .bad c va w _) => s.portBad n p.id c va w
  | (s, .ok ks) =>
    match s.shadowKeys cr v ks with
    | (s, some (c, va, w)) => s.portBad n p.id c va w
    | (s, none) =>
      let c := clusterOf n
      let s := (ks.flatMap (fun l => l.map (·.1))).foldl (fun s key =>
        match s.l2Get c (key / 64) with
        | (s, l) =>
          let m := byteMask (key % 64 / 8 * 8) 8
          s.l2Store c (key / 64) l.data m true (cr.marks key)) s
      done ((s.noteShadow n v ks).modPort n p (fun q => { q with next := q.next + 1 }))

/-- A token that ends, drains or marks a stream, or skips positions, at any egress port; `none` for other kinds. -/
def State.egressControl (s : State) (n : BitVec 9) (p : Port) (t : Token) : Option State :=
  if t.kind = kGAP then some (s.modPort n p (fun q => { q with next := q.next + t.gapCount }))
  else if t.kind = kEND then some ((s.modPort n p (fun q => { q with endSent := true })).sinkReport n)
  else if t.kind = kDRAIN then some (s.modPort n p (fun q => { q with drainSent := true }))
  else if t.kind = kMARK then some (s.modPort n p (fun q => { q with markSent := true }))
  else none

/-- A token goes into a bridge buffer, under the record of the consumer's first queue with a depth of 1024; a full buffer of
policy FAULT, or any overflow where the consumer is Invar (R177), is OVERRUN in the producing region (R119, R176).  The record of that
OVERRUN names the node that feeds the egress port, and a consumer whose channel feeds no queue takes the record of queue 0 of its
tile 0 (DESIGN CHOICE, log 94). -/
def State.bridgeArrive (s : State) (n : BitVec 9) (p : Port) (t : Token) (i : Nat) : State :=
  let b : Bridge := Tab.get {} s.bridges p.num
  match b.consumer with
  | none => s
  | some (m, id) =>
    let img := (s.reg m).image
    let q := (portQueues img id).head?.getD (0, 0)
    let a := b.buffer.arrive (bridgeRecord (queueRec img q.1 q.2)) (imgInvar img) (s.reg m).seed (portType img id) (s.now m) t i
    let b' : Bridge := { b with buffer := a.q }
    let s := { s with bridges := Tab.set s.bridges p.num b' }.addFl n a.fl
    let s := if a.gaps then s.sawGap n else s
    if a.overrun then
      s.regionFault n (match portFeeder (s.reg n).image p.id with | some (t, k, _) => s.nodeCoord n t k | none => s.portCoord n p.id) cOVERRUN 0
    else s

/-- EGRESS_TOKEN (R118, R119, R319): flight `k` of thread `n`'s region reaches its egress port. -/
def execEgressToken (s : State) : Out :=
  let n := s.ev.n
  let r := s.reg n
  if !actsIn r.st then .next s
  else
    match flightDue (s.now n) r.flight s.ev.k with
    | some { dest := .port id, tok := t, idx := i, .. } =>
      match r.ports.find? (fun p => p.id == id && !p.kind.inward) with
      | none => .next s
      | some p =>
        let take (s : State) : State := s.modReg n (fun r => { r with flight := r.flight.eraseIdx s.ev.k, active := (s.now n) })
        match p.kind with
        | .command =>
          if t.kind = kCMD then .next s
          else (match (take s).egressControl n p t with
            | some s => .next s
            | none => .next (s.portFault n id cIMAGE 0))
        | .bridgeOut =>
          if t.kind = kDRAIN ∨ t.kind = kMARK then .next (((take s).egressControl n p t).getD s)
          else if t.kind = kCMD ∨ t.kind = kRESUME then .next (s.portFault n id cIMAGE 0)
          else if !s.bridgeLive p.num then .next s
          else
            let s := (take s).bridgeArrive n p t i
            .next (if t.kind = kEND ∧ actsIn (s.reg n).st then (s.egressControl n p t).getD s else s)
        | _ =>
          if t.kind = kDATA then .next (s.egressData n p t take)
          else if t.kind = kPOISON then .next (s.egressPoison n p take)
          else (match (take s).egressControl n p t with
            | some s => .next s
            | none => .next (s.portFault n id cIMAGE 0))
    | _ => .next s

/-! ## Completion and drain -/

/-- The completion address lies in a host page the ATC has no answer for: the controller asks and waits (R338). -/
def State.completionWaits (s : State) (n : BitVec 9) : State × Bool :=
  let r := s.reg n
  match s.translate r.capt .write false r.comp with
  | (s, .ok { target := .host fn pasid ha, .. }) =>
    (match s.atcAnswer fn pasid ha with
     | none => (s.askAts fn pasid { who := .maint n, va := r.comp, ha := ha, write := true }, true)
     | some _ => (s, false))
  | (s, _) => (s, false)

/-- The buffers the period has written through shadows. -/
def Region.buffers (r : Region) : List Nat := (r.shadow.map (·.1)).eraseDups

/-- The descriptors of buffers that could not be read when a save was loaded are read again; one that cannot be now is a region fault
(R175). -/
def State.readUnread (n : BitVec 9) : List Nat → State → State
  | [], s => s
  | b :: rest, s =>
    match s.descriptor (s.reg n).capt b with
    | (s, .ok d) => State.readUnread n rest (s.modReg n (fun r => { r with shadow := r.shadow ++ [(d.pa, 0, 0)] }))
    | (s, .error c) => s.regionFault n (s.originCoord n) c (BitVec.ofNat 64 (64 * b))

/-- The period's buffers are published (R120, R317), when the dirty-bitmap marks of their descriptors are allowed; else the
access to a bitmap faults (R322). -/
def State.publishAll (s : State) (n : BitVec 9) : State :=
  let s := State.readUnread n (s.reg n).unread (s.modReg n (fun r => { r with unread := [] }))
  let r := s.reg n
  if r.st ≠ 4 then s else
  if r.buffers.all r.capt.marksOk then
    (r.buffers.foldl (fun s d => s.publish d (fun s => s.markAll d (r.capt.marks d))) s).modReg n (fun r =>
      { r with shadow := [], published := if r.buffers.isEmpty then r.published else some s.tick })
  else s.regionFault n (s.originCoord n) cACCESS 0

/-- PERIOD_COMPLETION (R120): every sink of thread `n`'s region has reported, and no MARK is in passage (R359).  Writes reach
the home, shadows are published, and once every access that used an old translation has performed (R316) the completion word
is stored. -/
def execPeriodCompletion (s : State) : Out :=
  let n := s.ev.n
  let r := s.reg n
  if !(r.st == 4 && r.running && r.left == 0 && r.mark.isNone) then .next s
  else
    let s := (s.writeBackAll (clusterOf n)).publishAll n
    if (s.reg n).st ≠ 4 then .next s
    else if (match (s.reg n).published with | some t => s.oldAccess t | none => false) then .next s
    else
      match s.completionWaits n with
      | (s, true) => .next s
      | (s, false) =>
      let s := s.finishPeriod n 0
      .next (s.modReg n (fun r => { r with st := if r.drainAsked then 6 else 5, published := none }))

/-- Has DRAIN reached every sink of an image? -/
def Region.drainedAll (r : Region) : Bool :=
  r.ports.all (fun p => match p.kind with | .egress | .bridgeOut | .command => p.drainSent | _ => true)
    && (imgNodes r.image).all (fun v => opCode (opWord r.image v.1 v.2) != 0x55
      || (Tab.get ({} : RTile) r.tiles v.1.toNat).drained.contains v.2)

end Sys2Proof.Machine
end

