-- ==== Sys2Proof/Machine/Passage.lean ====
section
/-! DEFINITION. Hang sweeps (R178 to R181), markers in passage (R355 to R357), RMARK, RKILL (R385) and RREPLAY (R386), the
arbiter's cycle (R108) and the moves of Nitinol (R110). -/

namespace Sys2Proof.Machine

/-! ## Sweeps -/

/-- The state with a node in focus. -/
def State.at (s : State) (n : BitVec 9) (v : TileNo × Nat) : State :=
  { s with focus := { owner := n, tile := v.1, slot := BitVec.ofNat 3 v.2 } }

/-- Can a node of thread n's region act? -/
def State.canAct (s : State) (n : BitVec 9) (v : TileNo × Nat) : Bool :=
  match opAt (s.reg n).image v.1 v.2 with
  | none => false
  | some i => (match runNode i (s.at n v) with | .next s' => s' != s.at n v | _ => false)

/-- Is nothing on its way or at work in the region, and can no node fire, now or later: counter logic that reads no input has ended,
and no run of a re-armed CHAIN is in progress (R121)? -/
def State.quiescent (s : State) (n : BitVec 9) : Bool :=
  let r := s.reg n
  r.freed && r.cmds.isEmpty && r.mark.isNone
    && r.ports.all (fun p => match p.kind with
      | .bridgeIn | .bridgeOut => (Tab.get ({} : Bridge) s.bridges p.num).buffer.items.isEmpty
      | _ => true)
    && (imgNodes r.image).all (fun v =>
      let c : ChainPos := Tab.get {} (s.rt n v.1).chain v.2
      !s.canAct n v && (!isCounter r.image v.1 v.2
        || (if opCode (opWord r.image v.1 v.2) = 0x53 ∧ chRearm (chainRec r.image v.1 v.2) then !c.run else c.ended)))

/-- DRAINED_EVENT (R121). -/
def execDrainedEvent (s : State) : Out :=
  let n := s.ev.n
  .next (if (s.reg n).st == 6 && s.quiescent n && (s.reg n).drainedAll then s.modReg n (fun r => { r with st := 7 }) else s)

/-! ## A tile's turn (R129) and a token's arrival (R128) -/

/-- The node slots of a tile in the order of its turn: from the slot after the one that fired last (R129). -/
def State.turnSlots (s : State) (n : BitVec 9) (t : TileNo) : List Nat :=
  let img := (s.reg n).image
  ([1, 2, 3, 4, 5, 6, 7, 8].map (fun j => ((s.rt n t).last + j) % 8)).filter (fun k => isNode img t k && !isCounter img t k)

/-- A tile acts: its first node that can, from the slot after the last; when none can, its first node, to no effect. -/
def State.tileTurn (s : State) (n : BitVec 9) (t : TileNo) : State × Option Instr :=
  let img := (s.reg n).image
  if (s.rt n t).lastCycle = some (s.now n) then (s, none)
  else
    match (s.turnSlots n t).find? (fun k => s.canAct n (t, k)) with
    | some k => ((s.modRt n t (fun x => { x with last := k, lastCycle := some (s.now n) })).at n (t, k), opAt img t k)
    | none =>
      match s.turnSlots n t with
      | k :: _ => (s.at n (t, k), opAt img t k)
      | [] => (s, none)

/-- The counter logic of a CHAIN or SOURCE acts (R129, R158, R161). -/
def State.counterTurn (s : State) (n : BitVec 9) (t : TileNo) (k : BitVec 3) : State × Option Instr :=
  let img := (s.reg n).image
  if isCounter img t k.toNat then (s.at n (t, k.toNat), opAt img t k.toNat) else (s, none)

/-- The firing a queue's cycle still owes before an arrival (R128): the tile's, or the counter logic's at a CHAIN's queue. -/
def State.fireFirst (s : State) (n : BitVec 9) (t : TileNo) (q : Nat) : State :=
  let go (p : State × Option Instr) : State :=
    match p.2 with
    | some i => (match runNode i p.1 with | .next s => s | _ => s)
    | none => s
  if isCounter (s.reg n).image t (q / 4) then go (s.counterTurn n t (BitVec.ofNat 3 (q / 4))) else go (s.tileTurn n t)

/-- Has a queue had its arrival of this cycle (R128)? -/
def State.hasArrived (s : State) (n : BitVec 9) (t : TileNo) (q : Nat) : Bool := decide (s.now n < Tab.get 0 (s.rt n t).arrived q)

/-- QUEUE_ARRIVAL (R128): flight `k` of thread `n`'s region reaches its queue, after the firing of the cycle; one arrival in a
cycle. -/
def execQueueArrival (s : State) : Out :=
  let n := s.ev.n
  match flightDue (s.now n) (s.reg n).flight s.ev.k with
  | some { dest := .queue t q, .. } =>
    if s.hasArrived n t q.toNat then .next s
    else
      let s := s.fireFirst n t q.toNat
      .next (match flightDue (s.now n) (s.reg n).flight s.ev.k with
        | some { dest := .queue t q, tok, idx, .. } =>
          let s := s.modReg n (fun r => { r with flight := r.flight.eraseIdx s.ev.k })
          (s.modRt n t (fun x => { x with arrived := Tab.set x.arrived q.toNat (s.now n + 1) })).queueArrive n t q.toNat tok idx
        | _ => s)
  | _ => .next s

/-! ## Blocked nodes -/

/-- Does a matrix operation with a record or a GAP at slot A wait only on a tag or a hold (R225)? -/
def State.waitsOnTag (s : State) (n : BitVec 9) (v : TileNo × Nat) : Bool :=
  let img := (s.reg n).image
  let d : Nd := { n := n, t := v.1, slot := v.2, img := img }
  match s.headAt d 0, opAt img v.1 v.2 with
  | some (a, _), some i =>
    let row := rowOp i
    let c := opCode (opWord img v.1 v.2)
    (row.isSome || (decide (0x70 ≤ c) && decide (c ≤ 0x7C))) && (a.kind == kDATA || a.kind == kGAP) && !(s.rt n v.1).busy v.2
      && !(match row with | some o => s.rowHeld d o a | none => false)
  | _, _ => false

/-- The slots of a node as HELD and EMPTY bits of a hang word, when it is blocked (R178, R180); a node at a parked port, its own or the
command port it feeds, is not. -/
def State.blockedAt (s : State) (n : BitVec 9) (v : TileNo × Nat) : Option Nat :=
  let img := (s.reg n).image
  let rt := s.rt n v.1
  let slots := slotsRead img v.1 v.2
  let has (k : Nat) : Bool := ((rt.queue (4 * v.2 + k)).head (s.now n)).isSome
  let bits (l : List Nat) : Nat := l.foldl (fun w k => w + 2 ^ k) 0
  let word := bits (slots.filter has) + 16 * bits (slots.filter (fun k => !has k))
  let loop : Bool := opCode (opWord img v.1 v.2) == 0x53 && chLc (chainRec img v.1 v.2)
    && (Tab.get ({} : ChainPos) rt.chain v.2).owed && !has 1
  if (s.parkedAddr n v.1 (BitVec.ofNat 3 v.2)).isSome then none
  else if loop then some word
  else if slots.any has && (slots.any (fun k => !has k) || s.waitsOnTag n v) && !s.canAct n v then some word
  else none

/-- Is node u reported before node v: stage, then quadtree position, then slot (R180)? -/
def State.sweepBefore (s : State) (n : BitVec 9) (u v : TileNo × Nat) : Bool :=
  let r := s.reg n
  let key (x : TileNo × Nat) : Nat :=
    ((stageOf r.image x.1 x.2).toNat * 256 + (quadPos (r.absTile x.1)).toNat) * 8 + x.2
  decide (key u < key v)

/-- Insert by a strict order, behind what is not after it. -/
def insertBefore {α : Type} (lt : α → α → Bool) (x : α) (l : List α) : List α :=
  l.takeWhile (fun y => !lt x y) ++ x :: l.dropWhile (fun y => !lt x y)

/-- The pages of a region that hold a node, in stage order: the page of the earliest stage first (R181; DEDUCED, log 84). -/
def Region.sweepPages (r : Region) : List (BitVec 4) :=
  let stage (p : Nat) : Nat := ((imgNodes r.image).filter (fun v => regionPage v.1 == p)).foldl
    (fun m v => Nat.min m (stageOf r.image v.1 v.2).toNat) 256
  (((List.range 16).filter (fun p => decide (stage p < 256))).foldl (fun l p => insertBefore (fun x y => decide (stage x < stage y)) p l) []).map
    (BitVec.ofNat 4)

/-- A sweep begins (R178, R179). -/
def State.sweepStart (s : State) (n : BitVec 9) (asked : Bool) : State :=
  s.modReg n (fun r => { r with sweep := some { asked := asked, todo := r.sweepPages } })

/-- A sweep examines its next page, all of it at this instant (R181). -/
def State.sweepPage (s : State) (n : BitVec 9) (w : Sweep) (p : BitVec 4) (rest : List (BitVec 4)) : State :=
  let l := ((imgNodes (s.reg n).image).filter (fun v => regionPage v.1 == p.toNat)).filterMap (fun v => (s.blockedAt n v).map (fun x => (v, x)))
  s.modReg n (fun r => { r with sweep := some { w with
    todo := rest
    found := w.found ++ l.map (fun x => ((x.1.1, x.1.2), x.2)) } })

/-- The records of a sweep's blocked nodes that have not parked since, at most 64, and one event on entry 15 when
there is one (R179, R180).  Answers the number of records. -/
def State.sweepRecords (s : State) (n : BitVec 9) (w : Sweep) : State × Nat :=
  let r := s.reg n
  let l := (w.found.filter (fun x => (s.parkedAddr n x.1.1 (BitVec.ofNat 3 x.1.2)).isNone)).foldl
    (fun l x => insertBefore (fun x y => s.sweepBefore n x.1 y.1) x l) []
  let more : Nat := if 64 < l.length then 2 ^ 8 else 0
  let fixed := more + (if r.anyParked then 2 ^ 9 else 0) + (if w.asked then 2 ^ 10 else 0)
  let s := (l.take 64).foldl (fun s p => s.faultRecord n
    { addr := BitVec.ofNat 64 (p.2 + fixed), place := zext (s.nodeCoord n p.1.1 p.1.2) 64, cause := cHANG
      space := s.spaceField r.capt }) s
  ((if l.isEmpty then s else s.event n 15).modReg n (fun r => { r with sweep := none, active := if w.asked then r.active else s.now n }), Nat.min 64 l.length)

/-- A sweep goes on: its next page is examined, or its records are written; then the number of records is answered. -/
def State.sweepOn (s : State) (n : BitVec 9) (w : Sweep) : State × Option Nat :=
  match w.todo with
  | p :: rest => (s.sweepPage n w p rest, none)
  | [] => (match s.sweepRecords n w with | (s, k) => (s, some k))

/-- RSWEEP (R179): it starts a sweep, once one under way is over, and answers when the records are written. -/
def execRsweep (d : BitVec 5) (s : State) : Out :=
  let on (s : State) : State :=
    match s.my.sweep with
    | some w =>
      (match s.sweepOn s.cur w with
       | (s, some k) => if w.asked then s.status d stOK k else s.stay .inside
       | (s, none) => s.stay .inside)
    | none => (s.sweepStart s.cur true).stay .inside
  .next (if s.me.wait = .inside then on s else s.inStates d [4, 6] on)

/-- HANG_SWEEP (R178, R181): thread `n`'s region has been still for 2^20 cycles and the controller starts a sweep by itself, or
the sweep it has started goes on. -/
def execHangSweep (s : State) : Out :=
  let n := s.ev.n
  let r := s.reg n
  match r.sweep with
  | some w => .next (if w.asked then s else (s.sweepOn n w).1)
  | none =>
    if (r.st == 4 || r.st == 6) && decide (r.active + 2 ^ 20 ≤ (s.now n)) && r.left != 0 && !r.anyParked && r.cmds.isEmpty then
      .next (s.sweepStart n false)
    else .next s

/-! ## Markers in passage (R355 to R357) -/

/-- Has MARK arrived at a slot? -/
def State.markAt (s : State) (n : BitVec 9) (v : TileNo × Nat) (k : Nat) : Bool :=
  ((s.rt n v.1).queue (4 * v.2 + k)).items.any (fun e => e.tok.kind == kMARK)

/-- MARK leaves a slot's queue. -/
def State.takeMark (s : State) (n : BitVec 9) (v : TileNo × Nat) (k : Nat) : State :=
  s.modQueue n v.1 (4 * v.2 + k) Queue.unmark

/-- A node saves: its MARKs are consumed and MARK goes out behind its last emission (R356). -/
def State.saveNode (s : State) (n : BitVec 9) (v : TileNo × Nat) (num : BitVec 16) : State :=
  let d : Nd := { n := n, t := v.1, slot := v.2, img := (s.reg n).image }
  let s := (slotsRead d.img v.1 v.2).foldl (fun s k => s.takeMark n v k) s
  (s.emitAll d [0, 1] (markTok num) 0).modRt n v.1 (fun r => { r with marked := insertNat r.marked v.2 })

/-- A CHAIN or SOURCE that gets its MARK from the controller: it stops, and saves once every iteration it has emitted has
been answered (R355, R357). -/
def State.stopCounter (s : State) (n : BitVec 9) (v : TileNo × Nat) (num : BitVec 16) : State :=
  let c : ChainPos := Tab.get {} (s.rt n v.1).chain v.2
  let s := s.modRt n v.1 (fun r => { r with chain := Tab.set r.chain v.2 { c with stopped := true } })
  if c.owed then s else s.saveNode n v num

/-- Is nothing of a region left to move but nodes that wait on a tag or a hold, so that none of them can fire any more (R356)? -/
def State.onlyTagsWait (s : State) (n : BitVec 9) : Bool :=
  let r := s.reg n
  r.flight.isEmpty && r.tiles.all (fun t => t.2.mops.isEmpty && t.2.accs.isEmpty) && r.ports.all (fun p => !p.kind.inward || p.markSent)
    && (imgNodes r.image).all (fun u =>
      let rt := s.rt n u.1
      let code := opCode (opWord r.image u.1 u.2)
      rt.marked.contains u.2
        || (if code = 0x53 ∨ code = 0x56 then (Tab.get ({} : ChainPos) rt.chain u.2).owed
            else !s.canAct n u && (s.waitsOnTag n u || !(slotsRead r.image u.1 u.2).all (s.markAt n u))))

/-- Has a memory node everything it fires on, and waits only for the time an access takes: a translation in flight, a refresh window, a
range an engine holds?  It can still fire (R338, R356). -/
def State.onlyLatency (s : State) (n : BitVec 9) (v : TileNo × Nat) : Bool :=
  let img := (s.reg n).image
  let d : Nd := { n := n, t := v.1, slot := v.2, img := img }
  let mem : Bool := match opAt img v.1 v.2 with
    | some (.gld _ _ _ _) | some (.gst _ _ _ _) | some (.sld _ _ _ _) | some (.sst _ _ _ _) | some (.wld _ _ _ _) => true
    | some i => (rowOp i).isSome
    | none => false
  mem && (slotsRead img v.1 v.2).all (fun k => match s.headAt d k with | some h => h.1.kind != kMARK && h.1.kind != kDRAIN | none => false)
    && !s.waitsOnTag n v

/-- NODE_MARK_SAVE (R356, R357): node `s` of tile `t` of thread `n`'s region saves when MARK has arrived in every slot it
reads, its operations and accesses are done, and it can no longer fire: one that waits for memory can, and one that waits on a tag may
fire while anything else of its region still moves.  A MARK that returns to a CHAIN's slot B ends there. -/
def execNodeMarkSave (s : State) : Out :=
  let n := s.ev.n
  let v : TileNo × Nat := (s.ev.t, s.ev.s.toNat)
  let r := s.reg n
  let rt := s.rt n v.1
  match r.mark with
  | none => .next s
  | some m =>
    if !actsIn r.st || !isNode r.image v.1 v.2 then .next s
    else
      let code := opCode (opWord r.image v.1 v.2)
      if rt.marked.contains v.2 then .next (if code = 0x53 ∧ s.markAt n v 1 then s.takeMark n v 1 else s)
      else if code = 0x56 then .next (s.stopCounter n v m.num)
      else if code = 0x53 then
        let cr := chainRec r.image v.1 v.2
        let c : ChainPos := Tab.get {} rt.chain v.2
        if chRearm cr then
          .next (if s.markAt n v 0 && !c.run && !c.owed && !s.canAct n v then s.saveNode n v m.num else s)
        else .next (s.stopCounter n v m.num)
      else if (slotsRead r.image v.1 v.2).all (s.markAt n v) && rt.mops.all (fun o => o.slot.toNat != v.2)
          && rt.accs.all (fun a => a.slot.toNat != v.2) && !s.canAct n v && !s.onlyLatency n v && (!s.waitsOnTag n v || s.onlyTagsWait n) then
        .next (s.saveNode n v m.num)
      else .next s

/-- Has every node saved, and has MARK reached every sink and egress port (R356)? -/
def Region.passed_ (r : Region) : Bool :=
  (imgNodes r.image).all (fun v => (Tab.get ({} : RTile) r.tiles v.1.toNat).marked.contains v.2)
    && r.ports.all (fun p => match p.kind with | .egress | .bridgeOut | .command => p.markSent | _ => true)
    && r.flight.all (fun f => f.tok.kind == kMARK)

/-- MARKER_PASSAGE_COMPLETE (R356): commands stop, the section is written, thread `n`'s region is SAVED. -/
def execMarkerPassageComplete (s : State) : Out :=
  let n := s.ev.n
  let r := s.reg n
  if r.mark.isSome && r.passed_ then .next (s.endPassage n .marker) else .next s

/-- MARKER_TIMEOUT (R355, R344): a passage of 16,384 cycles, or one a node has parked in, becomes an eviction. -/
def execMarkerTimeout (s : State) : Out :=
  let n := s.ev.n
  let r := s.reg n
  match r.mark with
  | none => .next s
  | some m => if m.start + 16384 ≤ (s.now n) ∨ r.anyParked then .next (s.endPassage n .eviction) else .next s

/-- Start a passage, or evict a region with a parked node (R344, R355). -/
def State.startMark (s : State) (n : BitVec 9) (num : BitVec 16) (why : MarkFor) : State :=
  if (s.reg n).anyParked then s.evict n num why
  else s.modReg n (fun r => { r with mark := some { num := num, start := (s.now n), why := why } })

/-- RMARK has begun: its answer when the region is SAVED, else it goes on. -/
def State.rmark (s : State) (d : BitVec 5) (num : BitVec 16) : State :=
  let s := if (s.my.st = 4 ∨ s.my.st = 6) ∧ s.my.mark.isNone then s.startMark s.cur num .rmark else s
  let r := s.my
  if r.st = 8 then (if r.areaOwed then s.stay .inside else s.status d stOK ((s.parts s.cur).len % 2 ^ 32))
  else if r.st = 9 then s.status d r.endCause
  else if actsIn r.st then s.stay .inside
  else s.status d stBADSTATE

/-- RMARK (R355): answered when the region is SAVED. -/
def execRmark (d a : BitVec 5) (s : State) : Out :=
  let v := s.rd a
  if s.me.wait = .inside then .next (s.rmark d (fld v 0 16))
  else .next (s.inStates d [4, 6] (fun s =>
    if fld v 16 48 ≠ 0 ∨ fld s.me.ctxbase 12 40 = 0 then s.status d stBADARG else s.rmark d (fld v 0 16)))

/-! ## RKILL, RREPLAY -/

/-- RKILL (R385): the region ends with KILLED. -/
def execRkill (d : BitVec 5) (s : State) : Out :=
  .next (s.inStates d [4, 6, 8] (fun s => ((s.killSteps s.cur).endRegion s.cur cKILLED).status d stOK))

/-- The period of RREPLAY (R386): the reload of R384, every port from index 0, copies and snapshots of R169 and R166 afresh. -/
def State.replayAgain (s : State) (n : BitVec 9) : State :=
  let s := s.zeroTiles n (s.reg n).image false
  let s := s.modThr n (fun t =>
    let r := t.region.fresh
    { t with region := { r with
        st := 4, flags := 0, ends := 0, left := r.sinks, running := true, seed := t.seed, epoch := t.epoch
        origs := (originUses r.image).map (fun k => (k, dscOrigin (Tab.get 0 t.tensors k)))
        ports := r.ports.map (fun p => { p.rewind with buf := [], freed := false })
        tiles := openTiles r.image r.tiles ((s.now n) + 1), pos := [], shadow := [], newImage := none
        drainAsked := false, replays := 0, start := (s.now n) + 1, active := (s.now n) } })
  s.openBridges n

/-- RREPLAY (R386): a region that holds no pages has no tile that meets its footprint. -/
def execRreplay (d : BitVec 5) (s : State) : Out :=
  .next (s.inStates d [9] (fun s =>
    let r := s.my
    if r.ports.any (fun p => p.kind == .bridgeIn) then s.status d cREPLAYLIMIT.toNat
    else if !r.placed then s.status d cOVERCAP.toNat 0x20
    else
      match s.loadCheck s.cur r.image with
      | some (c, off) => s.status d c.toNat off
      | none => if s.wloadRuns s.cur r.image then s.stay .again else (s.replayAgain s.cur).status d stOK))

/-! ## Nitinol (R110, R111) -/

/-- The claim compaction is asked for: a blocking one that lacks a rectangle (R108). -/
def State.wanted (s : State) (c : BitVec 5) : Option Claim :=
  match s.blocking c with
  | some (_, k) => if (s.clu c).allows k.word && (s.eligible c k.word).isNone then some k else none
  | none => none

/-- What pages of a cluster are wanted for: a region to be placed again (R396), then the blocked claim (R111). -/
def State.errands (s : State) (c : BitVec 5) : List Errand :=
  s.threads.filterMap (fun p =>
    let n : BitVec 9 := BitVec.ofNat 9 p.1
    if clusterOf n = c ∧ p.2.region.st = 8 ∧ p.2.region.retry then some (s.placeErrand n) else none)
  ++ (match s.wanted c with
    | some k => [{ own := none, goals := (List.range 16).filterMap (rect (claimW k.word) (claimH k.word)) }]
    | none => [])

/-- Does a move bring an errand nearer: is the plan after it shorter than the plan before (R111)? -/
def State.nearer (s : State) (c : BitVec 5) (e : Errand) (m : Shift) : Bool :=
  match s.plan c e none, s.plan c e (some m) with
  | some (a, _), some (b, _) => decide (b < a)
  | _, _ => false

/-- May thread n's region move to an origin: it is movable, the pages are free or its own and meet its footprint (R110), and its tiles
read the same weights there? -/
def State.mayMove (s : State) (n : BitVec 9) (o : Nat) : Bool :=
  let r := s.reg n
  match rect (claimW r.claim) (claimH r.claim) o with
  | some ps => r.canMove && decide (o < 16) && o != r.origin.toNat && !ps.any (s.othersHold n).contains
      && s.suits n o
  | none => false

/-- A region whose tiles have lost a bank of its footprint takes the over-capacity fault (R388). -/
def State.keepMet (s : State) (n : BitVec 9) : State :=
  let r := s.reg n
  if s.meets (clusterOf n) r.image (claimW r.claim) (claimH r.claim) r.origin.toNat then s else s.overcap n .overcap

/-- NITINOL_MOVE (R110, R111): thread `n`'s region moves to origin `k`, when that is a step of moves that clear a rectangle someone
waits for; one region of a cluster moves at a time.  A running region goes through a marker first.  DESIGN CHOICE, log 33. -/
def execNitinolMove (s : State) : Out :=
  let n := s.ev.n
  let c := clusterOf n
  if !s.moving c && s.mayMove n s.ev.k && (s.errands c).any (fun e => s.nearer c e (n, s.ev.k)) then
    .next (if (s.reg n).movable then (s.moveTo n (BitVec.ofNat 4 s.ev.k)).keepMet n
      else s.startMark n 0 (.move (BitVec.ofNat 4 s.ev.k)))
  else .next s

/-- A move Nitinol makes: the first of the shortest plan for what is wanted first. -/
def State.moveChoice (s : State) (c : BitVec 5) : Option (BitVec 9 × Nat) :=
  if s.moving c then none else (s.errands c).findSome? (fun e => (s.plan c e none).bind (·.2))

/-! ## A region that CTXLOAD has loaded takes its pages (R365, R367) -/

/-- The tile and number of a register of a region whose shape no record may have. -/
def Region.badShape (r : Region) : Option TileNo :=
  (r.tiles.find? (fun t => t.2.tmeta.any (fun q => decide (q.1 < imgTregs r.image) && !shapeOk q.2.shape))).map (fun t => BitVec.ofNat 8 t.1)

/-- A region that has pages again: the loader's checks on its image end it with IMAGE, a register with a shape no record may have is a
region fault IMAGE (R214), and otherwise it goes on where it stands; a footprint its tiles do not meet sends it to another place or ends
it with OVERCAP, and a WLOAD under way in a quarter it binds is waited for (R272). -/
def State.settle (s : State) (n : BitVec 9) : State :=
  let r := s.reg n
  let c := s.clu (clusterOf n)
  if (firstBad [headerCheck r.image, claimCheck r.image r.claim, bodyCheck r.image]).isSome then s.endRegion n cIMAGE
  else if imgWslen r.image != 0 && !(s.regionQuarters n).all (fun q => decide (imgWsbase r.image + imgWslen r.image ≤ c.weightLive q * 2 ^ 18)) then
    s.endRegion n cOVERCAP
  else match r.badShape with
  | some t => s.regionFault n (s.nodeCoord n t 0) cIMAGE 0
  | none =>
  let s := s.modReg n (fun r => { r with legal := true })
  s.relaunch n

/-- ARBITER_CYCLE (R108): cluster `c`'s arbiter admits at most one claim; a region that waited for its pages goes on. -/
def execArbiterCycle (s : State) : Out :=
  let c := s.ev.c
  let waiting := s.threads.filterMap (fun p =>
    if clusterOf (BitVec.ofNat 9 p.1) = c ∧ p.2.region.st = 8 ∧ !p.2.region.placed then some (BitVec.ofNat 9 p.1) else none)
  let s := s.arbiter c
  .next (waiting.foldl (fun s n => if (s.reg n).placed then s.settle n else s) s)

end Sys2Proof.Machine
end

