-- ==== Sys2Proof/Machine/Context.lean ====
section
/-! DEFINITION. Pre-emption of a thread (R360) and the words that save and load a context area (R362 to R368). -/

namespace Sys2Proof.Machine

/-- The word a thread is executing while it waits in it. -/
def Thread.inWord (t : Thread) : Option Instr := if t.wait = .none then none else t.word.map decodeControl

/-- Is a thread executing CTXSAVE or CTXLOAD? -/
def Thread.inContext (t : Thread) : Bool := match t.inWord with | some (.ctxsave _ _ _) | some (.ctxload _ _ _) => true | _ => false

/-- Is a thread inside a word that pre-emption does not divide (R360): CTXSAVE, CTXLOAD, RMARK, or one that goes on where it is? -/
def Thread.undivided (t : Thread) : Bool :=
  t.inContext || (match t.inWord with | some (.rmark _ _) => true | _ => false)
    || (match t.wait with | .inside | .again | .drain _ _ => true | _ => false)

/-- Accesses of some who wait for host pages are given up: no answer reaches them any more (R351). -/
def State.forget (s : State) (gone : Waiter → Bool) : State :=
  let keep (l : List HostReq) : List HostReq := l.map (fun r => { r with waiters := r.waiters.filter (fun w => !gone w.who) })
  { s with ats := keep s.ats, pri := keep s.pri }

/-- Does a thread itself wait, with an access of a word or of its cache maintenance? -/
def Waiter.ofThread (n : BitVec 9) : Waiter → Bool
  | .thread m | .maint m => m == n
  | _ => false

/-- Does anything of a thread's context wait? -/
def Waiter.ofContext (n : BitVec 9) : Waiter → Bool
  | .thread m | .maint m | .record m | .word m | .area m => m == n
  | .node r => r.owner == n
  | .job m _ _ | .command m _ _ _ | .port m _ _ => m == n

/-- THREAD_PREEMPTION (R360): thread `n`, whose save has been accepted, stops at its boundary.  A waiting word runs again in
full after resumption, and what it waited for from the host does not reach it any more (R351); a ticket is kept.  Of a WFE R96 says that the request ends it with the PC past it, R360 that it runs again:
which of the two happens is open (DESIGN CHOICE, log 81). -/
def execThreadPreemption (s : State) : Out :=
  let t := s.thr s.ev.n
  .next (if t.saver.isNone || t.stopped || t.undivided then s
    else (s.forget (Waiter.ofThread s.ev.n)).modThr s.ev.n (fun t => { t with
      stopped := true, wait := match t.wait with | .ticket e o k => .ticket e o k | _ => .none
      pc := if t.wait = .wfe ∧ Config.wfeEnds s.tick then t.pc + 4 else t.pc }))

/-! ## Reading an area -/

/-- What a read of an area came to: its bytes from offset 0 on, and the poisoned 64-bit words among them. -/
inductive AreaRead where
  | ok (v : Nat) (poison : List Nat)
  | fault (cause : BitVec 8) (va : Word)
  | wait

/-- Read k pages of 4 KiB of an area from page `page` on, at their homes (DEDUCED, log 29). -/
def State.areaRead (cr : Capt) (base : Word) (who : Waiter) : Nat → Nat → State → State × AreaRead
  | 0, _, s => (s, .ok 0 [])
  | k + 1, page, s =>
    let va := base + BitVec.ofNat 64 (4096 * page)
    match s.resolve cr .read false va who with
    | (s, .fault c) => (s, .fault c va)
    | (s, .wait) => (s, .wait)
    | (s, .ok key _) =>
      match s.homeRead key 4096 with
      | (s, v, _) =>
        let bad := (s.poison.filter (fun w => decide (key / 8 ≤ w) && decide (w < key / 8 + 512))).map (fun w => w - key / 8 + 512 * page)
        match State.areaRead cr base who k (page + 1) s with
        | (s, .ok r p) => (s, .ok (v * 2 ^ (8 * 4096 * page) + r) (bad ++ p))
        | x => x

/-- Pages of an area of some bytes from a page on. -/
def pagesFrom (page len : Nat) : Nat := (len + 4095) / 4096 - page

/-! ## The thread section (Tables 12.5 and 12.6) -/

/-- SYSREGS, in their order. -/
def sysRegs : List (BitVec 12) :=
  [0x002, 0x003, 0x010, 0x011, 0x012, 0x013, 0x014, 0x020, 0x021, 0x022, 0x023, 0x024, 0x030, 0x031, 0x032, 0x040, 0x04C, 0x080, 0x0A0, 0x0A1]

/-- WAIT. -/
def Thread.waitBytes (t : Thread) : Nat :=
  bit (t.run == .halted) 4 + (match t.wait with | .ticket e _ k => (if e then 1 else 2) + k.toNat * 2 ^ 32 | _ => 0)

/-- CLAIM: a pending claim, or the claim of a region that is CLAIMED, which is entered again (DESIGN CHOICE, log 37). -/
def Thread.claimBytes (t : Thread) : Nat :=
  let w : Option Word := if t.region.st = 2 then some t.region.claim else if t.region.st = 1 then t.claim.map (·.word) else none
  match w with | some w => (fld w 0 14).toNat + 2 ^ 63 | none => 0

/-- The entries a chain has yet to run, from the one being run (Table 12.6, CURSOR); a batch keeps its last entry. -/
def Chain.todo (c : Chain) : List Job := c.jobs.dropWhile (fun j => j.st == .done && !enClose j.raw)

/-- A chain record (Table 12.6). -/
def Chain.bytes (c : Chain) (e : Nat) : Nat :=
  fieldsAt [fieldAt 0 1 e, fieldAt 1 1 (1 + bit c.halted 1 + c.capt.pl.toNat * 4)
    , fieldAt 8 8 c.header.toNat, fieldAt 0x10 8 (match c.todo with | j :: _ => j.addr | [] => c.cursor).toNat
    , fieldAt 0x18 8 c.last.toNat, fieldAt 0x20 8 c.enq, fieldAt 0x28 8 (bit c.openb 0)
    , fieldAt 0x30 8 c.capt.space.toNat, fieldAt 0x38 8 c.capt.partition.toNat]

/-- A chain record but for what it captured, which a tenant's move rewrites. -/
def chainKey (r : Nat) : Nat := r % 2 ^ (8 * 0x30)

/-- The thread section of thread n, at area offset 0x100. -/
def State.threadBytes (s : State) (n : BitVec 9) : Nat :=
  let t := s.thr n
  let h := 0x100
  let words (off : Nat) (l : List Word) : Nat := recordsAt off 8 (l.map BitVec.toNat)
  fieldsAt [
    words h ((List.range 32).map (fun k => t.rd (BitVec.ofNat 5 k))),
    fieldAt (h + 0x100) 8 t.pc.toNat,
    words (h + 0x108) (sysRegs.map (s.sysRead n)),
    fieldAt (h + 0x1A8) 8 t.waitBytes, fieldAt (h + 0x1B0) 8 t.claimBytes,
    words (h + 0x1C0) t.trig.toList,
    recordsAt (h + 0x240) 128 (t.mbox.toList.map (fun b => recordsAt 0 8 (b.map BitVec.toNat))),
    recordsAt (h + 0x440) 24 ((t.binds.take 16).map (fun b => fieldsAt [fieldAt 0 8 b.obj.toNat, fieldAt 8 8 b.base.toNat, fieldAt 16 8 b.len.toNat])),
    recordsAt (h + 0x5C0) 16 ((t.held.take 8).map (fun x => x.1.toNat + fieldAt 8 8 (if x.2 then 1 else 2))),
    recordsAt (h + 0x640) 64 ((List.range 64).map (fun k => (Tab.get (0 : BitVec 512) t.tensors k).toNat)),
    recordsAt (h + 0x1640) 64 (t.chains.map (fun c => c.2.bytes c.1))]

/-- The registers and `PC` of an area's thread section. -/
def areaWords (v : Nat) : Nat := at_ v 0x100 0x108

/-- What chain records have no field for is kept beside the area (DESIGN CHOICE, log 28): SEQ, the cause, the writes owed and how far
each entry has come, by the whole record and the thread's registers. -/
def State.noteChains (s : State) (n : BitVec 9) : State :=
  let words := areaWords (s.threadBytes n)
  (s.thr n).chains.foldl (fun s c =>
    let x : SavedChain := { key := c.2.bytes c.1, words := words, chain := c.2 }
    { s with savedChains := x :: s.savedChains.filter (fun y => !(y.key == x.key && y.words == x.words)) }) s

/-- The save a chain record comes from: the newest with the record and the thread's registers, else with the record, else, where a
tenant's move has rewritten what was captured, with the rest of it and the registers, else with the rest of it. -/
def State.savedChain (s : State) (r words : Nat) : Option SavedChain :=
  ((s.savedChains.find? (fun x => x.key == r && x.words == words)).orElse (fun _ => s.savedChains.find? (fun x => x.key == r))).orElse (fun _ =>
    (s.savedChains.find? (fun x => chainKey x.key == chainKey r && x.words == words)).orElse (fun _ =>
      s.savedChains.find? (fun x => chainKey x.key == chainKey r)))

/-- A 64-bit word of an area. -/
def areaW (v off : Nat) : Word := BitVec.ofNat 64 (at_ v off 8)

/-- A thread read from the thread section of an area: registers in their fields, `part` for `PARTITION` when it is kept. -/
def threadOf (v : Nat) (part : Option Word) : Thread :=
  let h := 0x100
  let reg (k : Nat) : Word := areaW v (h + 0x108 + 8 * k)
  let wt := at_ v (h + 0x1A8) 8
  let t : Thread := sysRegs.zipIdx.foldl (fun t p => t.sysWrite p.1 (reg p.2)) {}
  let t := t.setMboxstat (reg 16)
  { t with
    run := if wt / 16 % 2 = 1 then .halted else .ready
    wait := match wt % 16 with
      | 1 => .ticket true 0 (BitVec.ofNat 32 (wt / 2 ^ 32))
      | 2 => .ticket false 0 (BitVec.ofNat 32 (wt / 2 ^ 32))
      | _ => .none
    g := Vector.ofFn (fun i : Fin 32 => if i = 0 then 0 else areaW v (h + 8 * i.val))
    pc := areaW v (h + 0x100) &&& ~~~3
    status := reg 0 &&& 0x3F
    faultqtail := reg 14 &&& 0xFFFF0001FFFFFFFF
    partition := match part with | some p => p | none => t.partition
    trig := Vector.ofFn (fun i : Fin 16 => areaW v (h + 0x1C0 + 8 * i.val))
    mbox := Vector.ofFn (fun i : Fin 4 =>
      (List.range (Nat.min 16 (fld (reg 16) (16 * i.val) 5).toNat)).map (fun k => areaW v (h + 0x240 + 128 * i.val + 8 * k)))
    binds := ((List.range 16).map (fun k =>
      ({ obj := areaW v (h + 0x440 + 24 * k), base := areaW v (h + 0x448 + 24 * k), len := areaW v (h + 0x450 + 24 * k) } : Bind))).filter
        (fun b => b.len != 0)
    held := (List.range 8).filterMap (fun k =>
      match at_ v (h + 0x5C8 + 16 * k) 8 with
      | 1 => some (areaW v (h + 0x5C0 + 16 * k), true)
      | 2 => some (areaW v (h + 0x5C0 + 16 * k), false)
      | _ => none)
    tensors := (List.range 64).filterMap (fun k =>
      if at_ v (h + 0x640 + 64 * k + 9) 1 = 0 then none else some (k, BitVec.ofNat 512 (at_ v (h + 0x640 + 64 * k) 64))) }

/-- The chain records in use of an area: the engine and the record. -/
def chainRecords (v : Nat) : List (BitVec 5 × Nat) :=
  ((List.range 32).map (fun k => at_ v (0x1740 + 64 * k) 64)).filterMap (fun r =>
    if at_ r 1 1 % 2 = 1 then (engineOf (BitVec.ofNat 64 (at_ r 0 1))).map (fun e => (e, r)) else none)

/-- An entry of a restored chain: one that had begun goes on from the PROGRESS its memory holds, as after `ENQ.resume` (R307). -/
def Job.restored (j : Job) : Job :=
  match j.st with
  | .running => { j with st := .queued, order := true }
  | _ => j

/-- A chain is opened again from its record (R307, R367), as the save that wrote the record left it.  A record no save has written
brings the entries from CURSOR to LAST while batches are outstanding by the header's SEQ, those done by their ESTATE, all from
their PROGRESS; one whose entries cannot be read stands halted with the cause (DESIGN CHOICE, log 38). -/
def State.reopen (s : State) (n : BitVec 9) (e : BitVec 5) (r words : Nat) : State :=
  let t := s.thr n
  let cst := at_ r 1 1
  let capt : Capt := { t.cred with space := areaW r 0x30, partition := areaW r 0x38, pl := BitVec.ofNat 2 (cst / 4) }
  let put (s : State) (c : Chain) : State := s.modThr n (fun t => { t with chains := Tab.set t.chains e.toNat c })
  match s.savedChain r words with
  | some x => put s { x.chain with capt := capt, jobs := x.chain.jobs.map Job.restored }
  | none =>
    let enq := at_ r 0x20 8
    let openb : Bool := at_ r 0x28 8 % 2 == 1
    let c : Chain := { header := areaW r 8, cursor := areaW r 0x10, last := areaW r 0x18, enq := enq, seq := enq, openb := openb
                       halted := cst / 2 % 2 == 1, capt := capt }
    match s.readEntry capt c.header with
    | (s, .error x) => put s { c with halted := true, cause := x }
    | (s, .ok h) =>
      let seq := bytesOf h.toNat 8 8
      let c := { c with seq := seq, cause := BitVec.ofNat 8 (bytesOf h.toNat 0x18 1) }
      if enq = seq ∧ !openb then put s c
      else
        match State.walkChain capt c.last 4096 c.cursor s with
        | (s, .error x) => put s { c with halted := true, cause := match x with | some (x, _) => x | none => cENGINE }
        | (s, .ok js) =>
          put s { c with jobs := js.map (fun j =>
            { j with
              st := if enAt j.raw 0x3C 4 / 2 ^ 8 % 2 = 1 then .done else .queued
              prog := enAt j.raw 0x38 4, order := true }) }

/-! ## CTXSAVE (R366) -/

/-- Thread n's chains stop for its save, at a sector boundary of every entry, and running entries record PROGRESS (R307). -/
def State.stopChains (s : State) (n : BitVec 9) : State :=
  if (s.thr n).frozen then s
  else
    ((s.thr n).chains.foldl (fun s c =>
      c.2.jobs.foldl (fun s j =>
        if j.st = .running then s.statusWrites n (BitVec.ofNat 5 c.1) j.addr (64 * j.prog) [(j.addr + 0x38, 4, j.prog)] else s) s) s).modThr n
      (fun t => { t with frozen := true })

/-- Records that still wait for room count as lost. -/
def State.loseRecords (s : State) (n : BitVec 9) : State :=
  s.modThr n (fun t => { t with faultqtail := t.records.foldl (fun w _ => lostRecord w false) t.faultqtail, records := [] })

/-- The region section for a save: as it stands at `CTXBASE` when the region was saved there, else from the machine. -/
def State.savedSection (s : State) (n : BitVec 9) : State × AreaRead :=
  let t := s.thr n
  if t.region.st ≠ 8 then (s, .ok 0 [])
  else if t.region.inArea then
    State.areaRead { t.cred with pl := if t.pl = 0 then 1 else t.pl } (zext (fld t.ctxbase 12 40) 64 <<< 12) (.thread s.cur)
      (pagesFrom 2 (s.parts n).len) 2 s
  else (s, .ok (s.sectionBytes n) (s.sectionPoison n))

/-- The area is written; then the context is given back and becomes empty. -/
def State.writeContext (s : State) (d : BitVec 5) (n : BitVec 9) (area : Word) : State :=
  let s := (s.stopChains n).loseRecords n
  match s.savedSection n with
  | (s, .fault c va) => (s.stay .none).trap c va
  | (s, .wait) => s.stay .busy
  | (s, .ok sec poison) =>
    let t := s.thr n
    let inc : Bool := t.region.st == 8
    let len := if inc then (s.parts n).len else 0x2000
    let parts := 1 + (if inc then 2 else 0) + (if t.chains.isEmpty then 0 else 4)
    let v := areaHeader parts len n.toNat + s.threadBytes n + sec % 2 ^ (8 * len)
    let s := (if inc && !t.region.inArea then s.noteSaved n sec else s).noteChains n
    match s.areaWrite s.me.cred area 0 len v poison (.thread s.cur) with
    | (s, .fault c va) => (s.stay .none).trap c va
    | (s, .wait) => s.stay .busy
    | (s, .ok) =>
      let s := s.writeBackAll (clusterOf n)
      let s := t.chains.foldl (fun s c => s.dropChain n (BitVec.ofNat 5 c.1)) s
      (((s.freeRegion n).forget (Waiter.ofContext n)).setThr n { partition := t.partition, lost := t.lost }).status d stOK (len % 2 ^ 32)

/-- An accepted save goes on: the thread stops, its region is saved, then the area is written.  A completion word or record whose
write waits for the host is made first. -/
def State.ctxsave (s : State) (d : BitVec 5) (n : BitVec 9) (area : Word) : State :=
  let r := s.reg n
  let preempt (s : State) : State := s.faultRecord n
    { place := zext (s.originCoord n) 64, cause := cPREEMPT, space := s.spaceField (s.reg n).capt }
  if !(s.thr n).stopped then s.stay .inside
  else if actsIn r.st && r.mark.isSome then s.stay .inside
  else if !(s.thr n).stores.isEmpty || (!(s.thr n).records.isEmpty && !(s.thr n).faultStuck) then s.stay .inside
  else if r.st = 4 ∨ r.st = 6 then ((preempt s).startMark n 0 .ctxsave).stay .inside
  else if r.st = 3 ∨ r.st = 5 ∨ r.st = 7 then
    let s := (preempt s).save n .marker false
    if (s.thr n).records.isEmpty || (s.thr n).faultStuck then s.writeContext d n area else s.stay .inside
  else s.writeContext d n area

/-- Does a bridge the region consumes from have a producing region that is RUNNING (R366)? -/
def State.fedByRunning (s : State) (n : BitVec 9) : Bool :=
  (s.reg n).ports.any (fun p => p.kind == .bridgeIn
    && (match (Tab.get ({} : Bridge) s.bridges p.num).producer with | some (m, _) => (s.reg m).st == 4 | none => false))

/-- Is a thread's CTXSAVE at work on an accepted request? -/
def State.saving (s : State) (m : BitVec 9) : Bool := (s.thr m).inContext && s.threads.any (fun p => p.2.saver == some m)

/-- The partition check of CTXSAVE and CTXLOAD (R366): a caller whose FN is not 0 reaches contexts of its own `PARTITION` alone. -/
def State.foreignContext (s : State) (n : BitVec 9) : Bool :=
  s.me.cred.fn != 0 && (!clIn s.me.partition (clusterOf n) || (s.thr n).partition != s.me.partition)

/-- CTXSAVE (R366): its checks, then the save, one at a time in the device. -/
def execCtxsave (d a b : BitVec 5) (s : State) : Out :=
  let v := s.rd a
  let area := s.rd b
  let n : BitVec 9 := fld v 0 9
  let t := s.thr n
  if s.me.pl = 0 then .next (s.trap cPRIV 0)
  else if fld v 9 55 ≠ 0 ∨ n = s.cur ∨ fld area 0 12 ≠ 0 then .next (s.status d stBADARG)
  else if s.foreignContext n then .next (s.trap cACCESS v)
  else if t.saver = some s.cur then .next (s.ctxsave d n area)
  else if s.me.pl = 1 ∧ t.pl = 2 then .next (s.status d stBADARG)
  else if t.run = .empty ∨ t.inContext ∨ t.saver.isSome ∨ s.fedByRunning n then .next (s.status d stBADSTATE)
  else if s.threads.any (fun p => match p.2.saver with | some m => s.saving m | none => false) then .next (s.stay .again)
  else .next ((s.modThr n (fun t => { t with saver := some s.cur })).ctxsave d n area)

/-! ## CTXLOAD (R367) -/

/-- The reserved fields of a descriptor at an offset (Table 4.10): TYPE [7:4], FLAGS [15:3] and the last 8 bytes. -/
def dscChecks (v o : Nat) : List (Bool × Nat) :=
  [(decide (at_ v (o + 8) 1 < 16), o + 8), (decide (at_ v (o + 0xA) 2 < 8), o + 0xA), (at_ v (o + 0x38) 8 == 0, o + 0x38)]

/-- The fields of the header, the thread section and the region header of an area that must be right (R367), with their offsets. -/
def areaChecks (v : Nat) (len : Nat) (region : Bool) : List (Bool × Nat) :=
  let chain (k : Nat) : List (Bool × Nat) :=
    let o := 0x1740 + 64 * k
    if at_ v (o + 1) 1 % 2 = 1 then [(decide (at_ v (o + 1) 1 < 16), o + 1), (at_ v (o + 2) 6 == 0, o + 2)] else [(at_ v o 64 == 0, o)]
  [(at_ v 0 4 == 0x31585443, 0), (at_ v 4 2 == 1, 4), (decide (at_ v 6 2 < 8), 6), (at_ v 8 8 == len, 8), (at_ v 0x12 238 == 0, 0x12),
   (at_ v 0x2A8 4 / 32 == 0, 0x2A8), (at_ v 0x2B0 8 / 2 ^ 14 % 2 ^ 49 == 0, 0x2B0), (at_ v 0x2B8 8 == 0, 0x2B8)]
  ++ (List.range 64).flatMap (fun k => dscChecks v (0x740 + 64 * k))
  ++ (List.range 32).flatMap chain ++ [(at_ v 0x1F40 192 == 0, 0x1F40)]
  ++ (if region then [(at_ v 0x2000 8 / 2 ^ 14 == 0, 0x2000), (at_ v 0x201A 2 == 0, 0x201A), (at_ v 0x20A2 94 == 0, 0x20A2)] else [])

/-- The reserved and zero fields of a port record, a command's origin record and a tile block (R364), with their offsets. -/
def portChecks (v o : Nat) : List (Bool × Nat) :=
  [(at_ v (o + 3) 1 == 0, o + 3), (at_ v (o + 0x1C) 36 == 0, o + 0x1C)] ++ dscChecks v (o + 0x40)

/-- Those of a tile block at an offset. -/
def blockChecks (v o : Nat) : List (Bool × Nat) :=
  (List.range 32).map (fun q => (at_ v (o + 0x200 + 8 * q) 8 / 2 ^ 11 == 0, o + 0x200 + 8 * q))
  ++ (List.range 32).map (fun q => (at_ v (o + 0x318 + 32 * q) 8 / 4 == 0, o + 0x318 + 32 * q))
  ++ (List.range 8).map (fun k => (at_ v (o + 0x700 + 16 * k) 8 / 2 ^ 17 == 0, o + 0x700 + 16 * k))
  ++ (List.range 16).map (fun q => (at_ v (o + 0x848 + 16 * q) 8 == 0, o + 0x848 + 16 * q))
  ++ [(at_ v (o + 0x949) 1 == 0, o + 0x949), (at_ v (o + 0x94C) 4 == 0, o + 0x94C), (at_ v (o + 0x970) 1680 == 0, o + 0x970)]
  ++ (List.range 640).map (fun k => (at_ v (o + 0x102C + 48 * k) 4 == 0, o + 0x102C + 48 * k))

/-- Those of a whole region section behind its header, in the order of their offsets. -/
def sectionChecks (v : Nat) : List (Bool × Nat) :=
  let claim := areaW v 0x2000
  (List.range (at_ v 0x2024 2)).flatMap (fun k => portChecks v (at_ v 0x2070 8 + 128 * k))
  ++ (List.range (at_ v 0x20A0 2)).map (fun k => (at_ v (at_ v 0x2098 8 + 16 * k + 1) 7 == 0, at_ v 0x2098 8 + 16 * k + 1))
  ++ (List.range (16 * claimW claim * claimH claim)).flatMap (fun k => blockChecks v (at_ v 0x2088 8 + at_ v 0x2090 8 * k))

/-- The length the parts of an area come to. -/
def areaLength (v : Nat) (region : Bool) : Nat :=
  let claim := areaW v 0x2000
  if region then at_ v 0x2088 8 + at_ v 0x2090 8 * (16 * claimW claim * claimH claim) else 0x2000

/-- Which of `count` words from an area offset on are poisoned. -/
def wordsOf (poison : List Nat) (off count : Nat) : List Nat := (List.range count).filter (fun k => poison.contains (off / 8 + k))

/-- The poisoned words of a tile's storage among those of an area. -/
def keptPoison (img : Nat) (off : Nat) (poison : List Nat) (m : TileMem) : TileMem :=
  let rel := (poison.filter (fun w => decide (off / 8 ≤ w))).map (fun w => w - off / 8)
  let tr := 0x8800 / 8
  let sc := (0x8800 + 4096 * imgTregs img + 8192) / 8
  { m with
    tregPoison := (rel.filter (fun w => decide (tr ≤ w) && decide (w < tr + 512 * imgTregs img))).map (fun w => w - tr)
    scrPoison := (rel.filter (fun w => decide (sc ≤ w) && decide (w < sc + 1024 * imgScrbanks img))).map (fun w => w - sc)
    accPoison := (rel.filter (fun w => decide (sc ≤ w + 1024) && decide (w < sc))).map (fun w => w + 1024 - sc) }

/-- A command read back from its record; its port gives the engine and the node. -/
def commandOf (img : Nat) (ports : List Port) (v : Nat) : Job :=
  let next := at_ v 0x30 8
  let p : BitVec 14 := BitVec.ofNat 14 next
  let st := at_ v 0x3C 4
  { raw := BitVec.ofNat 512 (v % 2 ^ 384), prog := at_ v 0x38 4, port := p
    st := if st / 2 ^ 9 % 2 = 1 then .faulted (BitVec.ofNat 8 st) else if st / 2 ^ 8 % 2 = 1 then .done else .queued
    engine := BitVec.ofNat 5 (match ports.find? (fun q => q.id == p && q.kind == .command) with | some q => q.num | none => 0)
    tile := (cmdNode img p).1, slot := (cmdNode img p).2 }

/-- The region of an area's region section, SAVED: `now` is the cycle its chains are set against. -/
def regionOf (v : Nat) (poison : List Nat) (now : Nat) : Region :=
  let h := 0x2000
  let claim := areaW v h
  let il := imgLength (claimW claim) (claimH claim)
  let img := at_ v (at_ v (h + 0x80) 8) il
  let size := at_ v (h + 0x90) 8
  let block (k : Nat) : Nat := at_ v (at_ v (h + 0x88) 8 + size * k) size
  let tiles := (imgTiles img).zipIdx
  let ports := (List.range (at_ v (h + 0x24) 2)).map (fun k => portOf (at_ v (at_ v (h + 0x70) 8 + 128 * k) 128))
  { st := 8, prev := BitVec.ofNat 4 (at_ v (h + 8) 1), how := if at_ v (h + 9) 1 % 2 = 1 then .eviction else .marker
    marker := BitVec.ofNat 16 (at_ v (h + 0xA) 2), claim := fld claim 0 14 |> fun c => zext c 64, origin := BitVec.ofNat 4 (at_ v (h + 0xE) 1)
    placed := false, image := img, ports := ports
    tiles := tiles.map (fun t => (t.1.toNat, rtileOf img t.1 (block t.2) now
      (wordsOf poison (at_ v (h + 0x80) 8 + tileOff (imgW img) t.1) 8) (wordsOf poison (at_ v (h + 0x88) 8 + size * t.2) 64)))
    flight := tiles.flatMap (fun t => linksOf img t.1 (block t.2) now)
    flags := BitVec.ofNat 16 (at_ v (h + 0x18) 2), ends := BitVec.ofNat 32 (at_ v (h + 0x1C) 4), left := at_ v (h + 0x20) 4
    comp := areaW v (h + 0x10)
    running := at_ v (h + 8) 1 == 4
    capt := { space := areaW v (h + 0x38), ptbase := areaW v (h + 0x40), dirtybase := areaW v (h + 0x48), dirtygran := areaW v (h + 0x50)
              partition := areaW v (h + 0x58), pl := BitVec.ofNat 2 (at_ v (h + 0xF) 1) }
    seed := areaW v (h + 0x28), epoch := areaW v (h + 0x30)
    origs := (List.range (at_ v (h + 0xA0) 2)).map (fun k =>
      (at_ v (at_ v (h + 0x98) 8 + 16 * k) 1, areaW v (at_ v (h + 0x98) 8 + 16 * k + 8)))
    last := if [5, 6, 7].contains (at_ v (h + 8) 1) then some (compWord (imgConfig img) 0 (BitVec.ofNat 32 (at_ v (h + 0x1C) 4))) else none
    drainAsked := at_ v (h + 8) 1 == 6 || at_ (block 0) 0x950 4 / 2 ^ 29 % 2 == 1
    cmds := (List.range (at_ v (h + 0x26) 2)).map (fun k => commandOf img ports (at_ v (at_ v (h + 0x78) 8 + 64 * k) 64))
    kept := tiles.map (fun t => (t.1.toNat, keptPoison img (at_ v (h + 0x88) 8 + size * t.2) poison (keptOf img (block t.2)))) }

/-- How many indices of its output an index of its inputs stands for, at a node that keeps the indices it gets or copies each. -/
def copies (img : Nat) (v : Vtx) : Nat :=
  match opAt img v.1 v.2 with
  | some (.chain _ _) => Nat.max 1 (chCount (chainRec img v.1 v.2))
  | some op => Nat.max 1 (replFactor img v op)
  | none => 1

/-- The index at which a queue stands: its first one, else that at which what feeds it stands, since a node that has nothing to
fire on has passed on all it had.  The fuel bounds the nodes on the way. -/
def Region.standsAt (r : Region) : Nat → TileNo × Nat → Nat
  | 0, _ => 0
  | fuel + 1, q =>
    match r.firstAt q with
    | some i => i
    | none =>
      match feeder r.image q.1 q.2 with
      | some (.port id, _) => ((r.ports.find? (fun p => p.id == id && p.kind.inward)).map (·.next)).getD 0
      | some (.node t s _, _) =>
        if isCounter r.image t s && !(opCode (opWord r.image t s) == 0x53 && chRearm (chainRec r.image t s)) then 2 ^ 48
        else copies r.image (t, s) * (((slotsRead r.image t s).filter (fun k => !isLoopB r.image t (4 * s + k))).map (fun k =>
          r.standsAt fuel (t, 4 * s + k))).foldl Nat.min (2 ^ 48)
      | none => 0

/-- Where the channels of a region's nodes stand (R170), found from its queues, links and ports: a section does not hold it. -/
def Region.positions (r : Region) : Tab Nat :=
  (imgNodes r.image).flatMap (fun v =>
    let k := copies r.image v * (((slotsRead r.image v.1 v.2).filter (fun k => !isLoopB r.image v.1 (4 * v.2 + k))).map (fun k =>
      r.standsAt 4096 (v.1, 4 * v.2 + k))).foldl Nat.min (2 ^ 48)
    [0, 1].map (fun o => (16 * v.1.toNat + 2 * v.2 + o, k)))

/-- The save an area's section came from, known by its bytes from the image copy on. -/
def State.savedAs (s : State) (v : Nat) : Option SavedRegion :=
  s.savedRegions.find? (fun x => x.key == v % 2 ^ (8 * areaLength v true) / 2 ^ (8 * at_ v 0x2080 8))

/-- A region read from an area is made whole by the save it came from: what the section has fields for is the area's (R369), the
rest of its tiles, links, ports and commands the save's. -/
def Region.graft (r : Region) (x : SavedRegion) (v now : Nat) : Region :=
  { x.region with
    st := 8, prev := r.prev, how := r.how, marker := r.marker, claim := r.claim, origin := r.origin, placed := r.placed
    flags := r.flags, ends := r.ends, left := r.left, comp := r.comp, running := if r.prev = x.region.prev then x.region.running else r.running, capt := r.capt, seed := r.seed, epoch := r.epoch
    origs := r.origs, kept := r.kept, legal := false
    ports := r.ports.zipIdx.map (fun p =>
      if x.ports[p.2]? = some (at_ v (at_ v 0x2070 8 + 128 * p.2) 128) then (x.region.ports[p.2]?).getD p.1 else p.1)
    cmds := r.cmds.zipIdx.map (fun p =>
      if x.cmds[p.2]? = some (at_ v (at_ v 0x2078 8 + 64 * p.2) 64) then (x.region.cmds[p.2]?).getD p.1 else p.1)
    flight := x.region.flight.map (fun f => { f with due := now })
    mark := none, sweep := none, unread := [], published := none, inArea := false, areaOwed := false, retry := false }

/-- The bridge buffer of a port read back: the save's where it holds the same tokens. -/
def bufferBack (saved : Option SavedRegion) (id : Nat) (toks : List Nat) : Queue :=
  let plain : Queue := { items := toks.map (fun x => (entryOf x 0).2) }
  match saved with
  | some x =>
    if Tab.has x.buffers id ∧ ((Tab.get ({} : Queue) x.buffers id).items.map (entryBytes 0)) = toks then Tab.get {} x.buffers id else plain
  | none => plain

/-- The ports of a loaded region take their bridges again, with the tokens of the buffers they consume from. -/
def State.rebind (s : State) (n : BitVec 9) (v : Nat) : State :=
  let saved := s.savedAs v
  ((s.reg n).ports.zipIdx).foldl (fun s p =>
    let b : Bridge := Tab.get {} s.bridges p.1.num
    let put (b : Bridge) : State := { s with bridges := Tab.set s.bridges p.1.num b }
    match p.1.kind with
    | .bridgeIn => if b.consumer.isNone then
        put { b with consumer := some (n, p.1.id), live := true
                     buffer := bufferBack saved p.1.id.toNat (bufferedOf (at_ v (at_ v 0x2070 8 + 128 * p.2) 128) v) } else s
    | .bridgeOut => if b.producer.isNone then put { b with producer := some (n, p.1.id) } else s
    | _ => s) s

/-- The buffers a loaded region's period has written through shadows: those of its shadow ports and of its commands, which a foreign
section names only while they are under way (log 28). -/
def Region.shadowBufs (r : Region) : List Nat :=
  ((r.ports.filter (fun p => p.kind == .egress && dscShadow p.snap && p.next != 0)).map (fun p => dscBufid p.snap)
    ++ r.cmdBufs ++ (r.cmds.filter (fun j => enShadow j.raw && j.prog != 0)).map (fun j => enBuf j.raw)).eraseDups

/-- The bytes at virtual addresses a period has written through the shadow of a buffer: those the ports' streams have passed, and those of
the commands' sectors. -/
def Region.shadowVas (r : Region) (b : Nat) : List (Word × Nat) :=
  (r.ports.filter (fun p => p.kind == .egress && dscShadow p.snap && dscBufid p.snap == b)).flatMap (fun p =>
    (List.range (Nat.min p.next (dscTokens p.snap))).flatMap (fun k => (dscPositions p.snap k).map (fun i => (dscAddr p.snap i, dscBytes p.snap))))
  ++ (r.cmds.filter (fun j => enShadow j.raw && enBuf j.raw == b)).flatMap (fun j =>
    (List.range j.prog).map (fun k => (BitVec.ofNat 64 (enDst j.raw + 64 * k), 64)))

/-- Where those bytes lie now, in a device tier; an address that leads nowhere holds none. -/
def State.shadowPlaces (cr : Capt) (d : Nat) : List (Word × Nat) → State → State × List (Nat × Nat × Nat)
  | [], s => (s, [])
  | (va, n) :: rest, s =>
    let (s, here) : State × List (Nat × Nat × Nat) := match s.translate cr .write true va with
      | (s, .ok { target := .device pa, desc := some d', .. }) => (s, if d' = d then [(d, pa, n)] else [])
      | (s, _) => (s, [])
    match State.shadowPlaces cr d rest s with
    | (s, l) => (s, here ++ l)

/-- Buffers the period has written through shadows are published at its completion and spoiled at a kill (R120, R317).  What its own save
kept is kept where the buffer's descriptor still lies where it lay; else the bytes are found again.  A buffer whose descriptor cannot be
read is looked for again at the completion. -/
def State.recallShadows (s : State) (n : BitVec 9) : State :=
  let r := s.reg n
  if !r.running then s
  else
    let s := s.modReg n (fun r => { r with shadow := [], unread := [] })
    r.shadowBufs.foldl (fun s b =>
      match s.descriptor r.capt b with
      | (s, .ok d) =>
        let known := r.shadow.filter (fun x => x.1 == d.pa)
        (match (if known.isEmpty then State.shadowPlaces r.capt d.pa (r.shadowVas b) s else (s, known)) with
         | (s, l) => s.modReg n (fun r => { r with shadow := r.shadow ++ (d.pa, 0, 0) :: l }))
      | (s, .error _) => s.modReg n (fun r => { r with unread := r.unread ++ [b] })) s

/-- The region section of an area becomes the region of thread n. -/
def State.loadRegion (s : State) (n : BitVec 9) (v : Nat) (poison : List Nat) : State :=
  let r := regionOf v poison (s.now n)
  let r := match s.savedAs v with | some x => r.graft x v (s.now n) | none => { r with pos := r.positions }
  ((s.modReg n (fun _ => r)).rebind n v).recallShadows n

/-- The whole of an area, its first pages first; `bad` says what is wrong with them, `worse` with the whole. -/
def State.withArea (s : State) (base : Word) (bad worse : State → Nat → Option State) (act : State → Nat → List Nat → State) : State :=
  let cr := s.me.cred
  let who : Waiter := .thread s.cur
  let fail (s : State) (x : AreaRead) : State :=
    match x with | .fault c va => s.trap c va | _ => s.stay .busy
  match State.areaRead cr base who 2 0 s with
  | (s, .ok v p) =>
    let region : Bool := at_ v 6 2 / 2 % 2 == 1
    (match (if region then State.areaRead cr base who 1 2 s else (s, .ok 0 [])) with
     | (s, .ok h q) =>
       (match bad s (v + h) with
        | some s => s
        | none =>
          match (if region then State.areaRead cr base who (pagesFrom 3 (areaLength (v + h) true)) 3 s else (s, .ok 0 [])) with
          | (s, .ok r o) => (match worse s (v + h + r) with | some s => s | none => act s (v + h + r) (p ++ q ++ o))
          | (s, x) => fail s x)
     | (s, x) => fail s x)
  | (s, x) => fail s x

/-- CTXLOAD without REGONLY: what the first pages of an area fail on, if anything. -/
def State.areaBad (s : State) (d : BitVec 5) (v : Nat) : Option State :=
  let region : Bool := at_ v 6 2 / 2 % 2 == 1
  ((areaChecks v (areaLength v region) region).find? (fun c => !c.1)).map (fun c => s.status d stBADARG c.2)

/-- What the whole of an area fails on: a region section behind its header, the saved privilege level, then the engines' chains. -/
def State.sectionBad (s : State) (d : BitVec 5) (v : Nat) : Option State :=
  match (if at_ v 6 2 / 2 % 2 = 1 then (sectionChecks v).find? (fun c => !c.1) else none) with
  | some c => some (s.status d stBADARG c.2)
  | none =>
    if s.me.pl.toNat < at_ v 0x208 8 % 4 then some (s.status d stBADARG)
    else if (chainRecords v).any (fun c => decide (32 ≤ s.openChains c.1)) then some (s.status d stNOSLOT)
    else none

/-- The thread section goes into context n: its registers, its pending claim with a new age, its chains. -/
def State.loadThread (s : State) (n : BitVec 9) (v : Nat) : State :=
  let t := threadOf v (if s.me.pl = 1 then some (s.thr n).partition else none)
  let s := s.setThr n t
  let s := if at_ v 0x2B0 8 / 2 ^ 63 = 1 then s.enterClaim n (zext (fld (areaW v 0x2B0) 0 14) 64) else s
  (chainRecords v).foldl (fun s c => s.reopen n c.1 c.2 (areaWords v)) s

/-- CTXLOAD (R367).  REGONLY for a region that still waits for pages restores the section at once, and the region goes on when it is
admitted. -/
def execCtxload (d a b : BitVec 5) (s : State) : Out :=
  let x := s.rd a
  let w := s.rd b
  let n : BitVec 9 := fld x 0 9
  let t := s.thr n
  let base : Word := zext (fld w 12 52) 64 <<< 12
  if fld w 1 11 ≠ 0 ∨ fld x 9 55 ≠ 0 then .next (s.status d stBADARG)
  else if w.getLsbD 0 then
    if n ≠ s.cur ∨ s.my.st ≠ 8 then .next (s.status d stBADSTATE)
    else .next (s.withArea base (fun _ _ => none) (fun _ _ => none) (fun s v poison =>
      if at_ v 6 2 / 2 % 2 = 0 then s.status d stOK
      else
        let old := s.my
        let s := (s.loadRegion n v poison).modReg n (fun r => { r with claim := old.claim, origin := old.origin, placed := old.placed })
        (if old.placed then s.settle n else s).status d stOK))
  else if s.me.pl = 0 then .next (s.trap cPRIV 0)
  else if s.foreignContext n then .next (s.trap cACCESS x)
  else if !(t.run == .empty || (t.run == .halted && t.region.st == 0 && t.chains.isEmpty)) then .next (s.status d stBADSTATE)
  else .next (s.withArea base (fun s v => s.areaBad d v) (fun s v => s.sectionBad d v) (fun s v poison =>
    let s := s.loadThread n v
    let s := if at_ v 6 2 / 2 % 2 = 0 then s
      else (s.loadRegion n v poison).enterClaim n (zext (fld (areaW v 0x2000) 0 14) 64)
    s.status d stOK))

end Sys2Proof.Machine
end

