-- ==== Sys2Proof/Machine/Flags.lean ====
section
/-! DEFINITION. The sticky flags: those of `FPCTL` for a thread (Table 6.6) and those of `RSTAT` word 0 for
a region (R203, Table 4.9). -/

namespace Sys2Proof.Machine

/-- `FPCTL` with raised flags ORed in (R203, R205). -/
def fpctlOr (w : Word) (f : Fl) : Word :=
  w ||| (if f.inx then 64 else 0) ||| (if f.ovf then 32 else 0) ||| (if f.inv then 16 else 0)

/-- Write a floating-point result and its flags: g[d], FPCTL, then the next word (R207). -/
def State.putFp (s : State) (d : BitVec 5) (v : Word) (f : Fl) : State :=
  s.modMe (fun t => { t.wr d v with fpctl := fpctlOr t.fpctl f, pc := t.pc + 4 })

end Sys2Proof.Machine
end

