-- ==== Sys2Proof/Machine/Fp.lean ====
section
/-! DEFINITION. Scalar floating point (R207 to R212). -/

namespace Sys2Proof.Machine

/-- The format of fn[10:8] (Table 2.5); codes 3 to 7 have none. -/
def fpFmt (f : BitVec 3) : Option Fmt :=
  match f.toNat with | 0 => some .f32 | 1 => some .f64 | 2 => some .bf16 | _ => none

/-- The rounding mode of fn[7:5] (Table 2.5), 4 the mode of `FPCTL`; codes 5 to 7 have none. -/
def fpMode (r : BitVec 3) (fpctl : Word) : Option Mode :=
  match r.toNat with
  | 0 => some .rne | 1 => some .rtz | 2 => some .rdn | 3 => some .rup
  | 4 => some (Mode.ofCode (fld fpctl 0 2)) | _ => none

/-- A register read in a format: its low bits (R207). -/
def State.rdFp (s : State) (f : Fmt) (r : BitVec 5) : Num := f.decode ((s.rd r).toNat % 2 ^ f.bits)

/-- A rounded operation: compute an exact value with its flags, round it, write it (R208, R210). -/
def fpRound (f : BitVec 3) (r : BitVec 3) (d : BitVec 5) (i : Instr) (s : State) (x : Fmt → Num × Fl) : Out :=
  match fpFmt f, fpMode r s.me.fpctl with
  | some fmt, some mode =>
    let (v, fl) := x fmt
    let (c, fl') := fmt.round mode v
    .next (s.putFp d (BitVec.ofNat 64 c) (fl.or fl'))
  | _, _ => .next (s.illegal i)

/-- An exact operation: its register value, no flag (R209). -/
def fpExact (f : BitVec 3) (d : BitVec 5) (i : Instr) (s : State) (x : Fmt → Word) : Out :=
  match fpFmt f with
  | some fmt => .next (s.put d (x fmt))
  | none => .next (s.illegal i)

/-- A value a format holds, as its register value; rounding it changes nothing. -/
def fpCode (f : Fmt) (x : Num) : Word := BitVec.ofNat 64 (f.round .rne x).1

/-- FADD (R208). -/
def execFadd (d a b : BitVec 5) (f r : BitVec 3) (s : State) : Out :=
  fpRound f r d (.fadd d a b f r) s (fun m => (s.rdFp m a).add (s.rdFp m b))
/-- FSUB (R208): A + (−B). -/
def execFsub (d a b : BitVec 5) (f r : BitVec 3) (s : State) : Out :=
  fpRound f r d (.fsub d a b f r) s (fun m => (s.rdFp m a).add (s.rdFp m b).negate)
/-- FMUL (R208). -/
def execFmul (d a b : BitVec 5) (f r : BitVec 3) (s : State) : Out :=
  fpRound f r d (.fmul d a b f r) s (fun m => (s.rdFp m a).mul (s.rdFp m b))
/-- FFMA (R208): D + A·B, one rounding. -/
def execFfma (d a b : BitVec 5) (f r : BitVec 3) (s : State) : Out :=
  fpRound f r d (.ffma d a b f r) s (fun m => (s.rdFp m d).fma (s.rdFp m a) (s.rdFp m b))
/-- FMIN (R209). -/
def execFmin (d a b : BitVec 5) (f : BitVec 3) (s : State) : Out :=
  fpExact f d (.fmin d a b f) s (fun m => fpCode m ((s.rdFp m a).min (s.rdFp m b)))
/-- FMAX (R209). -/
def execFmax (d a b : BitVec 5) (f : BitVec 3) (s : State) : Out :=
  fpExact f d (.fmax d a b f) s (fun m => fpCode m ((s.rdFp m a).max (s.rdFp m b)))
/-- FCMPEQ (R209). -/
def execFcmpeq (d a b : BitVec 5) (f : BitVec 3) (s : State) : Out :=
  fpExact f d (.fcmpeq d a b f) s (fun m => flag ((s.rdFp m a).eqv (s.rdFp m b)))
/-- FCMPLT (R209). -/
def execFcmplt (d a b : BitVec 5) (f : BitVec 3) (s : State) : Out :=
  fpExact f d (.fcmplt d a b f) s (fun m => flag ((s.rdFp m a).lt (s.rdFp m b)))
/-- FCMPLE (R209). -/
def execFcmple (d a b : BitVec 5) (f : BitVec 3) (s : State) : Out :=
  fpExact f d (.fcmple d a b f) s (fun m => flag ((s.rdFp m a).le (s.rdFp m b)))
/-- FRCP (R210). -/
def execFrcp (d a : BitVec 5) (f r : BitVec 3) (s : State) : Out :=
  fpRound f r d (.frcp d a f r) s (fun m => (s.rdFp m a).rcp)
/-- FRSQ (R210). -/
def execFrsq (d a : BitVec 5) (f r : BitVec 3) (s : State) : Out :=
  fpRound f r d (.frsq d a f r) s (fun m => (s.rdFp m a).rsq)
/-- FSQRT (R210). -/
def execFsqrt (d a : BitVec 5) (f r : BitVec 3) (s : State) : Out :=
  fpRound f r d (.fsqrt d a f r) s (fun m => (s.rdFp m a).sqrt)
/-- FABS (R209). -/
def execFabs (d a : BitVec 5) (f : BitVec 3) (s : State) : Out :=
  fpExact f d (.fabs d a f) s (fun m => fpCode m (s.rdFp m a).abs)
/-- FNEG (R209). -/
def execFneg (d a : BitVec 5) (f : BitVec 3) (s : State) : Out :=
  fpExact f d (.fneg d a f) s (fun m => fpCode m (s.rdFp m a).negate)

/-- The integer a FCVT source type code reads (R211); `none` for a code that names no integer. -/
def cvtIntSrc (t : BitVec 4) (w : Word) : Option Int :=
  match t.toNat with
  | 4 => some (fld w 0 32).toInt | 5 => some ((fld w 0 32).toNat : Int)
  | 6 => some w.toInt | 7 => some (w.toNat : Int) | _ => none

/-- The integer range of a FCVT destination code (R30, R211). -/
def cvtIntDst (t : BitVec 4) : Option (Int × Int) :=
  match t.toNat with
  | 4 => some (intRange true 32) | 5 => some (intRange false 32)
  | 6 => some (intRange true 64) | 7 => some (intRange false 64) | _ => none

/-- The source format of a FCVT code 0 to 2 (R30). -/
def cvtFmtSrc (t : BitVec 4) : Option Fmt :=
  match t.toNat with | 0 => some .f32 | 1 => some .f64 | 2 => some .bf16 | _ => none

/-- FCVT (R211): to an integer when t[4] is set, else from a float or an integer. -/
def execFcvt (d a t : BitVec 5) (f r : BitVec 3) (s : State) : Out :=
  let i := Instr.fcvt d a t f r
  match fpFmt f, fpMode r s.me.fpctl with
  | some fmt, some mode =>
    if t.getLsbD 4 then
      match cvtIntDst (fld t 0 4) with
      | some (lo, hi) =>
        let (v, fl) := (s.rdFp fmt a).toInt mode lo hi
        .next (s.putFp d (BitVec.ofInt 64 v) fl)
      | none => .next (s.illegal i)
    else
      match cvtFmtSrc (fld t 0 4), cvtIntSrc (fld t 0 4) (s.rd a) with
      | some src, _ =>
        let (c, fl) := fmt.round mode (s.rdFp src a)
        .next (s.putFp d (BitVec.ofNat 64 c) fl)
      | _, some v =>
        let (c, fl) := fmt.round mode (Num.ofInt v)
        .next (s.putFp d (BitVec.ofNat 64 c) fl)
      | _, _ => .next (s.illegal i)
  | _, _ => .next (s.illegal i)

end Sys2Proof.Machine
end

