-- ==== Sys2Proof/Machine/Int.lean ====
section
/-! DEFINITION. The integer words of the control thread: INT (R69), the immediate operations (R70) and
MULDIV (R71, R72). -/

namespace Sys2Proof.Machine

/-- A register-register operation: g[d] := f(g[a], g[b]), then the next word. -/
def int2 (f : Word → Word → Word) (d a b : BitVec 5) (s : State) : Out :=
  .next (s.put d (f (s.rd a) (s.rd b)))

/-- A one-operand operation: g[d] := f(g[a]), then the next word. -/
def int1 (f : Word → Word) (d a : BitVec 5) (s : State) : Out := .next (s.put d (f (s.rd a)))

/-- Shift amount g[b][5:0] (R69). -/
def shamt (y : Word) : Nat := (fld y 0 6).toNat

/-- Leading zero bits of the low n bits of a word. -/
def clzN : Nat → Word → Nat
  | 0, _ => 0
  | n + 1, x => if x.getLsbD n then 0 else 1 + clzN n x

/-- One bits among the low n bits of a word. -/
def popN : Nat → Word → Nat
  | 0, _ => 0
  | n + 1, x => (if x.getLsbD n then 1 else 0) + popN n x

/-- ADD (R69). -/
def execAdd (d a b : BitVec 5) (s : State) : Out := int2 (fun x y => x + y) d a b s
/-- SUB (R69). -/
def execSub (d a b : BitVec 5) (s : State) : Out := int2 (fun x y => x - y) d a b s
/-- AND (R69). -/
def execAnd (d a b : BitVec 5) (s : State) : Out := int2 (fun x y => x &&& y) d a b s
/-- OR (R69). -/
def execOr (d a b : BitVec 5) (s : State) : Out := int2 (fun x y => x ||| y) d a b s
/-- XOR (R69). -/
def execXor (d a b : BitVec 5) (s : State) : Out := int2 (fun x y => x ^^^ y) d a b s
/-- ANDN (R69). -/
def execAndn (d a b : BitVec 5) (s : State) : Out := int2 (fun x y => x &&& ~~~y) d a b s
/-- SHL (R69). -/
def execShl (d a b : BitVec 5) (s : State) : Out := int2 (fun x y => x <<< shamt y) d a b s
/-- SHR (R69). -/
def execShr (d a b : BitVec 5) (s : State) : Out := int2 (fun x y => x >>> shamt y) d a b s
/-- SHA (R69). -/
def execSha (d a b : BitVec 5) (s : State) : Out := int2 (fun x y => x.sshiftRight (shamt y)) d a b s
/-- SLT (R69). -/
def execSlt (d a b : BitVec 5) (s : State) : Out := int2 (fun x y => flag (sLt x y)) d a b s
/-- SLTN (R69). -/
def execSltn (d a b : BitVec 5) (s : State) : Out := int2 (fun x y => flag (uLt x y)) d a b s
/-- MIN (R69): g[a] when s(g[a]) ≤ s(g[b]). -/
def execMin (d a b : BitVec 5) (s : State) : Out := int2 (fun x y => if sLt y x then y else x) d a b s
/-- MAX (R69): g[a] when s(g[a]) ≥ s(g[b]). -/
def execMax (d a b : BitVec 5) (s : State) : Out := int2 (fun x y => if sLt x y then y else x) d a b s
/-- MINN (R69): g[a] when u(g[a]) ≤ u(g[b]). -/
def execMinn (d a b : BitVec 5) (s : State) : Out := int2 (fun x y => if uLt y x then y else x) d a b s
/-- MAXN (R69): g[a] when u(g[a]) ≥ u(g[b]). -/
def execMaxn (d a b : BitVec 5) (s : State) : Out := int2 (fun x y => if uLt x y then y else x) d a b s
/-- CLZ (R69). -/
def execClz (d a : BitVec 5) (s : State) : Out := int1 (fun x => BitVec.ofNat 64 (clzN 64 x)) d a s
/-- POPC (R69). -/
def execPopc (d a : BitVec 5) (s : State) : Out := int1 (fun x => BitVec.ofNat 64 (popN 64 x)) d a s

/-- ADDI (R70). -/
def execAddi (d a : BitVec 5) (i : BitVec 16) (s : State) : Out := int1 (fun x => x + sext i 64) d a s
/-- ANDI (R70). -/
def execAndi (d a : BitVec 5) (i : BitVec 16) (s : State) : Out := int1 (fun x => x &&& zext i 64) d a s
/-- ORI (R70). -/
def execOri (d a : BitVec 5) (i : BitVec 16) (s : State) : Out := int1 (fun x => x ||| zext i 64) d a s
/-- XORI (R70). -/
def execXori (d a : BitVec 5) (i : BitVec 16) (s : State) : Out := int1 (fun x => x ^^^ zext i 64) d a s
/-- SHLI (R70). -/
def execShli (d a : BitVec 5) (i : BitVec 6) (s : State) : Out := int1 (fun x => x <<< i.toNat) d a s
/-- SHRI (R70). -/
def execShri (d a : BitVec 5) (i : BitVec 6) (s : State) : Out := int1 (fun x => x >>> i.toNat) d a s
/-- SHAI (R70). -/
def execShai (d a : BitVec 5) (i : BitVec 6) (s : State) : Out := int1 (fun x => x.sshiftRight i.toNat) d a s
/-- LDHI (R70). -/
def execLdhi (d : BitVec 5) (i : BitVec 16) (s : State) : Out := .next (s.put d (sext i 64 <<< 16))
/-- SLTI (R70). -/
def execSlti (d a : BitVec 5) (i : BitVec 16) (s : State) : Out := int1 (fun x => flag (sLt x (sext i 64))) d a s

/-- MUL (R71). -/
def execMul (d a b : BitVec 5) (s : State) : Out := int2 (fun x y => x * y) d a b s
/-- MULH (R71): bits [127:64] of the exact signed product. -/
def execMulh (d a b : BitVec 5) (s : State) : Out :=
  int2 (fun x y => BitVec.ofInt 64 ((x.toInt * y.toInt) / 2 ^ 64)) d a b s
/-- MULHN (R71): bits [127:64] of the exact unsigned product. -/
def execMulhn (d a b : BitVec 5) (s : State) : Out :=
  int2 (fun x y => BitVec.ofNat 64 (x.toNat * y.toNat / 2 ^ 64)) d a b s
/-- DIV (R71, R72): truncated toward zero; −2^63 by −1 wraps to −2^63 as R72 states. -/
def execDiv (d a b : BitVec 5) (s : State) : Out :=
  int2 (fun x y => if y = 0 then -1 else BitVec.ofInt 64 (x.toInt.tdiv y.toInt)) d a b s
/-- DIVN (R71, R72). -/
def execDivn (d a b : BitVec 5) (s : State) : Out :=
  int2 (fun x y => if y = 0 then -1 else BitVec.ofNat 64 (x.toNat / y.toNat)) d a b s
/-- REM (R71, R72). -/
def execRem (d a b : BitVec 5) (s : State) : Out :=
  int2 (fun x y => if y = 0 then x else BitVec.ofInt 64 (x.toInt.tmod y.toInt)) d a b s
/-- REMN (R71, R72). -/
def execRemn (d a b : BitVec 5) (s : State) : Out :=
  int2 (fun x y => if y = 0 then x else BitVec.ofNat 64 (x.toNat % y.toNat)) d a b s

end Sys2Proof.Machine
end

