-- ==== Sys2Proof/Machine/LoadStore.lean ====
section
/-! DEFINITION. Loads and stores of the control thread (R76, R77). -/

namespace Sys2Proof.Machine

/-- LD (R76): size 7 raises ILLEGAL; the value is extended by the size. -/
def execLd (d a : BitVec 5) (z : BitVec 3) (o : BitVec 13) (s : State) : Out :=
  match ldBytes z with
  | none => .next (s.illegal (.ld d a z o))
  | some n => .next (s.memRead (s.ea a o) n (fun s v => s.put d (ldExtend z v)))

/-- ST (R76): sizes 4 to 7 raise ILLEGAL; the low bytes of g[v] are stored. -/
def execSt (v a : BitVec 5) (z : BitVec 3) (o : BitVec 13) (s : State) : Out :=
  match stBytes z with
  | none => .next (s.illegal (.st v a z o))
  | some n => .next (s.memWrite (s.ea a o) n ((s.rd v).toNat % 2 ^ (8 * n)) State.advance)

end Sys2Proof.Machine
end

