-- ==== Sys2Proof/Machine/Module.lean ====
section
/-! DEFINITION. The module's own events: link lanes (R375), refresh windows (R273), temperature (R401, R402), rails (R400),
module reset (R406), and Cobalt's commands (R403 to R407). -/

namespace Sys2Proof.Machine

/-! ## Link lanes -/

/-- LINK_CRC_RETRANSMIT (R375): a flit on lane `s` of link `k` (0 to 15 the Solwen Link ports, from 16 on the ring's links) fails
its CRC and is sent again, or, with `v` 1, passes soundly.  Either is a flit that an armed injection counts; the one it corrupts or
drops is sent again, the one it delays only comes late (R398). -/
def execLinkCrcRetransmit (s : State) : Out :=
  let lane := s.ev.s.toNat
  if 20 ≤ s.ev.k then .next s
  else
    match s.injectLane s.ev.k lane with
    | (s, .late) => .next s
    | (s, .lost) => .next (s.laneError s.ev.k lane)
    | (s, .none) => .next (if s.ev.v = 1 then s else s.laneError s.ev.k lane)

/-! ## Refresh windows -/

/-- REFRESH_WINDOW_START (R273): cluster `c`'s window of 1125 reference cycles begins when it is due. -/
def execRefreshWindowStart (s : State) : Out :=
  let c := s.clu s.ev.c
  .next (if !c.inWin ∧ c.refNext ≤ s.cycle then s.modClu s.ev.c (fun c => { c with inWin := true, refNext := c.refNext + 1125 }) else s)

/-- REFRESH_WINDOW_END (R273): the window ends; the next starts 72,000 reference cycles after it began. -/
def execRefreshWindowEnd (s : State) : Out :=
  let c := s.clu s.ev.c
  .next (if c.inWin ∧ c.refNext ≤ s.cycle then s.modClu s.ev.c (fun c => { c with inWin := false, refNext := c.refNext + 70875 }) else s)

/-! ## Temperature (Table 14.2) -/

/-- The band of a temperature. -/
def bandOf (t : Int) : Nat := if t < 85 then 0 else if t < 95 then 1 else if t < 105 then 2 else 3

/-- The lower edge of a band. -/
def bandEdge (b : Nat) : Int := match b with | 0 => -1000 | 1 => 85 | 2 => 95 | _ => 105

/-- Lower from band b toward a band while the temperature is 3 degrees below b's edge. -/
def lowerBand (t : Int) (goal : Nat) : Nat → Nat
  | 0 => 0
  | b + 1 => if goal < b + 1 ∧ t < bandEdge (b + 1) - 3 then lowerBand t goal b else b + 1

/-- The band Cobalt chooses from the band in force, the temperature and the package power in watts (R401).  DEDUCED, log 40. -/
def nextBand (old : Nat) (t : Int) (watts : Nat) : Nat :=
  let b := bandOf t
  if 1800 < watts then Nat.min 3 (Nat.max b old + 1) else if old ≤ b then b else lowerBand t b old

/-- CAP and BUDGET of a band. -/
def bandCap (b : Nat) : BitVec 11 := match b with | 0 => 0 | 1 => 64 | 2 => 16 | _ => 4
/-- BUDGET of a band. -/
def bandBudget (b : Nat) : BitVec 8 := match b with | 0 => 255 | 1 => 192 | 2 => 128 | _ => 64

/-! ## Module reset (R404, R406) -/

/-- The slot module reset boots, if any, after the slots that fail (R404, R406): the slot UPDATE has written, else the active
one, and the other where that fails. -/
def Module.boots (m : Module) : List Nat × Option Nat :=
  let ok (k : Nat) : Bool := Config.slotVerifies (Tab.get ({} : Slot) m.slots k).digest
  let k := m.fresh.getD m.active
  if ok k then ([], some k) else if ok (1 - k) then ([k], some (1 - k)) else ([k, 1 - k], none)

/-- Module reset: everything but the memories, the error log and the firmware slots is as after reset; each slot that fails its
check is logged, and Cobalt runs the slot that verifies, or no firmware (R404, R406).  A module that the rails hold in reset leaves
it when they let it go (R22, R400).  DESIGN CHOICE, log 41: the memories keep their contents; log 85: CYCLE and TIME start at the
release. -/
def State.moduleReset (s : State) : State :=
  let m := s.module
  if m.held then s
  else
    let (failed, slot) := m.boots
    failed.foldl (fun s k => s.logErr 4 0 (BitVec.ofNat 64 k)) { State.reset with
      mem := s.mem, poison := s.poison, tick := s.tick
      module := { log := m.log, logNext := m.logNext, slots := m.slots, active := slot.getD m.active, firmware := slot.isSome
                  rails := m.rails } }

/-- MODULE_RESET (R406). -/
def execModuleReset (s : State) : Out := .next s.moduleReset

/-- A sensor of cluster c reads 115 degrees or more: the trip is logged, then the module is reset (R402). -/
def State.trip (s : State) (c : BitVec 5) : State := (s.logErr 3 0 (zext c 64 <<< 41)).moduleReset

/-- THERMAL_SAMPLE (R401): cluster `c` reads `temp` degrees while the package drew `k` watts over the millisecond; at 115 degrees it
trips (R402). -/
def execThermalSample (s : State) : Out :=
  let b := nextBand (s.clu s.ev.c).band.toNat s.ev.temp s.ev.k
  .next (if 115 ≤ s.ev.temp then s.trip s.ev.c
    else { s with module := { s.module with power := s.ev.k } }.modClu s.ev.c (fun c =>
      { c with band := BitVec.ofNat 2 b, cap := bandCap b, budget := bandBudget b }))

/-- THERMAL_TRIP (R402): cluster `c`'s sensor reads `temp`; at 115 degrees the trip is logged and the module is reset. -/
def execThermalTrip (s : State) : Out := .next (if 115 ≤ s.ev.temp then s.trip s.ev.c else s)

/-- RAIL_UNDERVOLTAGE (R400): rail `s` leaves its limits: below its minimum it holds the AE40 in module reset, in which nothing moves
and Cobalt has no power (R22); above its maximum (`v` not 0) it only keeps a hold from ending. -/
def execRailUndervoltage (s : State) : Out :=
  let rail : BitVec 2 := fld s.ev.s 0 2
  let rails := if s.module.rails.contains rail then s.module.rails else s.module.rails ++ [rail]
  .next { s with module := { s.module with rails := rails, held := s.module.held || s.ev.v == 0 } }

/-- 10 ms in reference cycles. -/
def tenMs : Nat := 22500000

/-- RAIL_RECOVERY (R400): rail `s` is within its limits again; once every rail has been for 10 ms, the hold ends and the module
leaves it as after reset. -/
def execRailRecovery (s : State) : Out :=
  let rail : BitVec 2 := fld s.ev.s 0 2
  let m := s.module
  if m.rails.contains rail then .next { s with module := { m with rails := m.rails.erase rail, goodSince := s.cycle } }
  else .next (if m.held ∧ m.rails.isEmpty ∧ m.goodSince + tenMs ≤ s.cycle then
    ({ s with module := { m with held := false } } : State).moduleReset else s)

/-! ## Cobalt's commands (Table 14.3) -/

/-- A status and a result are returned to the host. -/
def State.cobaltAnswer (s : State) (op : BitVec 8) (status : Word) : State :=
  { s with module := { s.module with answer := some { op := op, status := status } } }

/-- A command arrives from function `f`: refused from a virtual function, BUSY while another runs, else it runs; `act` gives its
effect, its status and its result.  Held in module reset, or without firmware, Cobalt answers nothing (R22, R400, R404). -/
def State.cobalt (s : State) (op : BitVec 8) (act : State → State × Word × Nat) : State :=
  if s.module.held || !s.module.firmware then s
  else if s.ev.f ≠ 0 then ({ s with tick := s.tick + 1 }).cobaltAnswer op (Config.foreignStatus s.tick)
  else if s.module.cobalt.isSome then s.cobaltAnswer op 1
  else
    match act s with
    | (s, status, result) => { s with module := { s.module with cobalt := some { op := op, status := status, result := result } } }

/-- Firmware version of a slot. -/
def Module.version (m : Module) (k : Nat) : BitVec 64 := Config.firmwareVersion k (Tab.get ({} : Slot) m.slots k).digest

/-- IDENT: identity and the version of each slot. -/
def execIdent (s : State) : Out :=
  .next (s.cobalt 1 (fun s => (s, 0, fieldsAt [fieldAt 0 48 Config.identity.toNat, fieldAt 48 8 (s.module.version 0).toNat
    , fieldAt 56 8 (s.module.version 1).toNat])))

/-- The five capacity registers of every cluster (R393). -/
def State.capacities (s : State) : List (BitVec 64) :=
  (List.range 32).flatMap (fun c => (List.range 5).map (fun k =>
    s.sysRead (BitVec.ofNat 9 (16 * c)) (BitVec.ofNat 12 (0x050 + k))))

/-- ATTEST: a signature over the nonce, the active firmware and the capacity registers. -/
def execAttest (s : State) : Out :=
  .next (s.cobalt 2 (fun s =>
    (s, 0, (Config.attest (fld s.ev.x 0 256) (Tab.get ({} : Slot) s.module.slots s.module.active).digest s.capacities).toNat)))

/-- A log record's bytes (Table 14.4). -/
def LogRec.bytes (r : LogRec) : Nat :=
  fieldsAt [fieldAt 0 8 r.time, fieldAt 8 1 r.kind.toNat, fieldAt 9 1 r.struct.toNat, fieldAt 0x10 8 r.loc.toNat, fieldAt 0x18 8 r.index]

/-- LOGREAD: the record of an index; for one the log does not hold, status and result are open. -/
def execLogread (s : State) : Out :=
  .next (s.cobalt 3 (fun s =>
    match s.module.log.find? (fun r => r.index == (fld s.ev.v 8 56).toNat) with
    | some r => (s, 0, r.bytes)
    | none => ({ s with tick := s.tick + 1 }, Config.cobaltStatus s.tick, (Config.freeRecord s.tick).toNat)))

/-- UPDATE (R404): an image in host memory goes to the inactive slot; BADSIG when its signature fails, which is logged. -/
def execUpdate (s : State) : Out :=
  .next (s.cobalt 4 (fun s =>
    let addr := (fld s.ev.x 0 64).toNat
    let len := (fld s.ev.x 64 64).toNat
    let image : List (BitVec 8) := (List.range len).map (fun k => cellRead s.mem (hostKey 0 0 (addr + k)))
    let k := 1 - s.module.active
    if Config.signatureOk image then
      ({ s with module := { s.module with slots := Tab.set s.module.slots k { digest := Config.imageDigest image }, fresh := some k } }, 0, 0)
    else (s.logErr 4 0 (BitVec.ofNat 64 k), 3, 0)))

/-- START (R406): thread 0 starts at PC, at host level.  DESIGN CHOICE, log 82: so it does at every START, whatever it was doing. -/
def execStart (s : State) : Out :=
  .next (s.cobalt 5 (fun s =>
    (({ s with module := { s.module with started := true } }).modThr 0 (fun t =>
      { (t.sysWrite 0x021 (fld s.ev.x 64 64)) with
        run := .ready, wait := .none, status := rwFields t.status 2 0x13, space := 0, partition := 0, pc := fld s.ev.x 0 64 &&& ~~~3 }), 0, 0)))

/-- Is a collective entry running on the module? -/
def State.collecting (s : State) : Bool :=
  s.threads.any (fun p => p.2.chains.any (fun c => c.2.jobs.any (fun j => j.st == .running && enColl j.raw))
    || p.2.region.cmds.any (fun j => j.st == .running && enColl j.raw))

/-- SETMOD (R407): BUSY while a collective entry runs. -/
def execSetmod (s : State) : Out :=
  .next (s.cobalt 6 (fun s =>
    if s.collecting then (s, 1, 0) else ({ s with module := { s.module with modNo := fld s.ev.v 8 16 } }, 0, 0)))

/-- RESET: module reset. -/
def execReset (s : State) : Out :=
  .next (if s.module.held || !s.module.firmware || s.ev.f != 0 || s.module.cobalt.isSome then s.cobalt 7 (fun s => (s, 0, 0))
    else s.moduleReset.cobaltAnswer 7 0)

/-- UNASSIGNED_COBALT_OPCODE (R403): BADCMD. -/
def execUnassignedCobaltOpcode (s : State) : Out :=
  let op : BitVec 8 := fld s.ev.v 0 8
  .next (if 1 ≤ op.toNat ∧ op.toNat ≤ 7 then s else s.cobalt op (fun s => (s, 2, 0)))

/-- COBALT_COMMAND_DONE (R403): the running command's status and result are returned. -/
def execCobaltCommandDone (s : State) : Out :=
  match s.module.cobalt with
  | some a => .next { s with module := { s.module with cobalt := none, answer := some a } }
  | none => .next s

end Sys2Proof.Machine
end

