-- ==== Sys2Proof/Machine/Dispatch.lean ====
section
/-! DEFINITION. The dispatch: each constructor of `Instr` calls its meaning. -/

namespace Sys2Proof.Machine

/-- The effect of an instruction or event on the machine. -/
def exec (i : Instr) (s : State) : Host.Outcome State Fault Refusal :=
  match i with
  | .add d a b => Sys2Proof.Machine.execAdd d a b s
  | .sub d a b => Sys2Proof.Machine.execSub d a b s
  | .and d a b => Sys2Proof.Machine.execAnd d a b s
  | .or d a b => Sys2Proof.Machine.execOr d a b s
  | .xor d a b => Sys2Proof.Machine.execXor d a b s
  | .andn d a b => Sys2Proof.Machine.execAndn d a b s
  | .shl d a b => Sys2Proof.Machine.execShl d a b s
  | .shr d a b => Sys2Proof.Machine.execShr d a b s
  | .sha d a b => Sys2Proof.Machine.execSha d a b s
  | .slt d a b => Sys2Proof.Machine.execSlt d a b s
  | .sltn d a b => Sys2Proof.Machine.execSltn d a b s
  | .min d a b => Sys2Proof.Machine.execMin d a b s
  | .max d a b => Sys2Proof.Machine.execMax d a b s
  | .minn d a b => Sys2Proof.Machine.execMinn d a b s
  | .maxn d a b => Sys2Proof.Machine.execMaxn d a b s
  | .clz d a => Sys2Proof.Machine.execClz d a s
  | .popc d a => Sys2Proof.Machine.execPopc d a s
  | .mul d a b => Sys2Proof.Machine.execMul d a b s
  | .mulh d a b => Sys2Proof.Machine.execMulh d a b s
  | .mulhn d a b => Sys2Proof.Machine.execMulhn d a b s
  | .div d a b => Sys2Proof.Machine.execDiv d a b s
  | .divn d a b => Sys2Proof.Machine.execDivn d a b s
  | .rem d a b => Sys2Proof.Machine.execRem d a b s
  | .remn d a b => Sys2Proof.Machine.execRemn d a b s
  | .fadd d a b f r => Sys2Proof.Machine.execFadd d a b f r s
  | .fsub d a b f r => Sys2Proof.Machine.execFsub d a b f r s
  | .fmul d a b f r => Sys2Proof.Machine.execFmul d a b f r s
  | .ffma d a b f r => Sys2Proof.Machine.execFfma d a b f r s
  | .fmin d a b f => Sys2Proof.Machine.execFmin d a b f s
  | .fmax d a b f => Sys2Proof.Machine.execFmax d a b f s
  | .fcmpeq d a b f => Sys2Proof.Machine.execFcmpeq d a b f s
  | .fcmplt d a b f => Sys2Proof.Machine.execFcmplt d a b f s
  | .fcmple d a b f => Sys2Proof.Machine.execFcmple d a b f s
  | .frcp d a f r => Sys2Proof.Machine.execFrcp d a f r s
  | .frsq d a f r => Sys2Proof.Machine.execFrsq d a f r s
  | .fsqrt d a f r => Sys2Proof.Machine.execFsqrt d a f r s
  | .fcvt d a t f r => Sys2Proof.Machine.execFcvt d a t f r s
  | .fabs d a f => Sys2Proof.Machine.execFabs d a f s
  | .fneg d a f => Sys2Proof.Machine.execFneg d a f s
  | .addi d a imm => Sys2Proof.Machine.execAddi d a imm s
  | .andi d a imm => Sys2Proof.Machine.execAndi d a imm s
  | .ori d a imm => Sys2Proof.Machine.execOri d a imm s
  | .xori d a imm => Sys2Proof.Machine.execXori d a imm s
  | .shli d a imm => Sys2Proof.Machine.execShli d a imm s
  | .shri d a imm => Sys2Proof.Machine.execShri d a imm s
  | .shai d a imm => Sys2Proof.Machine.execShai d a imm s
  | .ldhi d imm => Sys2Proof.Machine.execLdhi d imm s
  | .slti d a imm => Sys2Proof.Machine.execSlti d a imm s
  | .br a b c o => Sys2Proof.Machine.execBr a b c o s
  | .jmp o => Sys2Proof.Machine.execJmp o s
  | .call o => Sys2Proof.Machine.execCall o s
  | .jr d a => Sys2Proof.Machine.execJr d a s
  | .ld d a sf o => Sys2Proof.Machine.execLd d a sf o s
  | .st v a sf o => Sys2Proof.Machine.execSt v a sf o s
  | .bind d a b => Sys2Proof.Machine.execBind d a b s
  | .unbind d a b => Sys2Proof.Machine.execUnbind d a b s
  | .acqx a => Sys2Proof.Machine.execAcqx a s
  | .acqs a => Sys2Proof.Machine.execAcqs a s
  | .rel a => Sys2Proof.Machine.execRel a s
  | .fence sf => Sys2Proof.Machine.execFence sf s
  | .aadd d a b z => Sys2Proof.Machine.execAadd d a b z s
  | .aand d a b z => Sys2Proof.Machine.execAand d a b z s
  | .aor d a b z => Sys2Proof.Machine.execAor d a b z s
  | .axor d a b z => Sys2Proof.Machine.execAxor d a b z s
  | .amin d a b z => Sys2Proof.Machine.execAmin d a b z s
  | .amax d a b z => Sys2Proof.Machine.execAmax d a b z s
  | .aminn d a b z => Sys2Proof.Machine.execAminn d a b z s
  | .amaxn d a b z => Sys2Proof.Machine.execAmaxn d a b z s
  | .axchg d a b z => Sys2Proof.Machine.execAxchg d a b z s
  | .acas d a b z => Sys2Proof.Machine.execAcas d a b z s
  | .rclaim d a n => Sys2Proof.Machine.execRclaim d a n s
  | .rload d a => Sys2Proof.Machine.execRload d a s
  | .rstart d a => Sys2Proof.Machine.execRstart d a s
  | .rfeed d a b => Sys2Proof.Machine.execRfeed d a b s
  | .rfeedBridge d a b => Sys2Proof.Machine.execRfeedBridge d a b s
  | .rtap d a b => Sys2Proof.Machine.execRtap d a b s
  | .rtapBridge d a b => Sys2Proof.Machine.execRtapBridge d a b s
  | .rdrain d => Sys2Proof.Machine.execRdrain d s
  | .rwait d => Sys2Proof.Machine.execRwait d s
  | .rwaitDrained d => Sys2Proof.Machine.execRwaitDrained d s
  | .rswap d a => Sys2Proof.Machine.execRswap d a s
  | .rswapTd d a => Sys2Proof.Machine.execRswapTd d a s
  | .rstat d sf => Sys2Proof.Machine.execRstat d sf s
  | .rfree d => Sys2Proof.Machine.execRfree d s
  | .rpost d a => Sys2Proof.Machine.execRpost d a s
  | .rsweep d => Sys2Proof.Machine.execRsweep d s
  | .rmark d a => Sys2Proof.Machine.execRmark d a s
  | .rkill d => Sys2Proof.Machine.execRkill d s
  | .rreplay d => Sys2Proof.Machine.execRreplay d s
  | .enq d a b => Sys2Proof.Machine.execEnq d a b s
  | .enqOpen d a b => Sys2Proof.Machine.execEnqOpen d a b s
  | .enqShut d a => Sys2Proof.Machine.execEnqShut d a s
  | .enqResume d a b => Sys2Proof.Machine.execEnqResume d a b s
  | .cwait d a n => Sys2Proof.Machine.execCwait d a n s
  | .cseq d a => Sys2Proof.Machine.execCseq d a s
  | .pub d a => Sys2Proof.Machine.execPub d a s
  | .tdset d a b => Sys2Proof.Machine.execTdset d a b s
  | .tdget d a b => Sys2Proof.Machine.execTdget d a b s
  | .tdclr d a => Sys2Proof.Machine.execTdclr d a s
  | .srd d r => Sys2Proof.Machine.execSrd d r s
  | .swr a r => Sys2Proof.Machine.execSwr a r s
  | .sset d a r => Sys2Proof.Machine.execSset d a r s
  | .sclr d a r => Sys2Proof.Machine.execSclr d a r s
  | .trap c => Sys2Proof.Machine.execTrap c s
  | .sysret => Sys2Proof.Machine.execSysret s
  | .halt => Sys2Proof.Machine.execHalt s
  | .wfe => Sys2Proof.Machine.execWfe s
  | .tlbinvs a => Sys2Proof.Machine.execTlbinvs a s
  | .tlbinva a b => Sys2Proof.Machine.execTlbinva a b s
  | .spgen d a => Sys2Proof.Machine.execSpgen d a s
  | .ctxsave d a b => Sys2Proof.Machine.execCtxsave d a b s
  | .ctxload d a b => Sys2Proof.Machine.execCtxload d a b s
  | .iadd t b sf => Sys2Proof.Machine.execIadd t b sf s
  | .isub t b sf => Sys2Proof.Machine.execIsub t b sf s
  | .imul t b sf => Sys2Proof.Machine.execImul t b sf s
  | .imulh t b => Sys2Proof.Machine.execImulh t b s
  | .imad t b sf => Sys2Proof.Machine.execImad t b sf s
  | .imin t b => Sys2Proof.Machine.execImin t b s
  | .imax t b => Sys2Proof.Machine.execImax t b s
  | .iabs t sf => Sys2Proof.Machine.execIabs t sf s
  | .ineg t sf => Sys2Proof.Machine.execIneg t sf s
  | .iand t b => Sys2Proof.Machine.execIand t b s
  | .ior t b => Sys2Proof.Machine.execIor t b s
  | .ixor t b => Sys2Proof.Machine.execIxor t b s
  | .inot t => Sys2Proof.Machine.execInot t s
  | .ishl t b => Sys2Proof.Machine.execIshl t b s
  | .ishr t b => Sys2Proof.Machine.execIshr t b s
  | .isha t b => Sys2Proof.Machine.execIsha t b s
  | .icmpeq t b => Sys2Proof.Machine.execIcmpeq t b s
  | .icmpne t b => Sys2Proof.Machine.execIcmpne t b s
  | .icmplt t b => Sys2Proof.Machine.execIcmplt t b s
  | .icmple t b => Sys2Proof.Machine.execIcmple t b s
  | .sel t b => Sys2Proof.Machine.execSel t b s
  | .clzNode t => Sys2Proof.Machine.execClzNode t s
  | .popcNode t => Sys2Proof.Machine.execPopcNode t s
  | .isat t n => Sys2Proof.Machine.execIsat t n s
  | .iclamp t b => Sys2Proof.Machine.execIclamp t b s
  | .faddNode t b m => Sys2Proof.Machine.execFaddNode t b m s
  | .fsubNode t b m => Sys2Proof.Machine.execFsubNode t b m s
  | .fmulNode t b m => Sys2Proof.Machine.execFmulNode t b m s
  | .ffmaNode t b m => Sys2Proof.Machine.execFfmaNode t b m s
  | .fminNode t b => Sys2Proof.Machine.execFminNode t b s
  | .fmaxNode t b => Sys2Proof.Machine.execFmaxNode t b s
  | .fabsNode t => Sys2Proof.Machine.execFabsNode t s
  | .fnegNode t => Sys2Proof.Machine.execFnegNode t s
  | .fcmpeqNode t b => Sys2Proof.Machine.execFcmpeqNode t b s
  | .fcmpltNode t b => Sys2Proof.Machine.execFcmpltNode t b s
  | .fcmpleNode t b => Sys2Proof.Machine.execFcmpleNode t b s
  | .frcpNode t m => Sys2Proof.Machine.execFrcpNode t m s
  | .frsqNode t m => Sys2Proof.Machine.execFrsqNode t m s
  | .fsqrtNode t m => Sys2Proof.Machine.execFsqrtNode t m s
  | .fexp2 t m => Sys2Proof.Machine.execFexp2 t m s
  | .flog2 t m => Sys2Proof.Machine.execFlog2 t m s
  | .cvt t sf l p x m => Sys2Proof.Machine.execCvt t sf l p x m s
  | .cvtsr t imm c => Sys2Proof.Machine.execCvtsr t imm c s
  | .sdenc sf l p w => Sys2Proof.Machine.execSdenc sf l p w s
  | .sddec t l p w => Sys2Proof.Machine.execSddec t l p w s
  | .qmax t e => Sys2Proof.Machine.execQmax t e s
  | .qconv t sf => Sys2Proof.Machine.execQconv t sf s
  | .qdeq t e => Sys2Proof.Machine.execQdeq t e s
  | .pack t => Sys2Proof.Machine.execPack t s
  | .unpack t m => Sys2Proof.Machine.execUnpack t m s
  | .shuf t => Sys2Proof.Machine.execShuf t s
  | .bcast t e => Sys2Proof.Machine.execBcast t e s
  | .rsum t q => Sys2Proof.Machine.execRsum t q s
  | .rmax t => Sys2Proof.Machine.execRmax t s
  | .rmin t => Sys2Proof.Machine.execRmin t s
  | .accum t e => Sys2Proof.Machine.execAccum t e s
  | .wsum t e => Sys2Proof.Machine.execWsum t e s
  | .wcnt e => Sys2Proof.Machine.execWcnt e s
  | .xred t o => Sys2Proof.Machine.execXred t o s
  | .steer t => Sys2Proof.Machine.execSteer t s
  | .merge t c => Sys2Proof.Machine.execMerge t c s
  | .gate t v => Sys2Proof.Machine.execGate t v s
  | .chain a b => Sys2Proof.Machine.execChain a b s
  | .repl t r => Sys2Proof.Machine.execRepl t r s
  | .sink t v e => Sys2Proof.Machine.execSink t v e s
  | .source t a n => Sys2Proof.Machine.execSource t a n s
  | .join t u => Sys2Proof.Machine.execJoin t u s
  | .win t => Sys2Proof.Machine.execWin t s
  | .gapc t v e => Sys2Proof.Machine.execGapc t v e s
  | .hashk c => Sys2Proof.Machine.execHashk c s
  | .dropm t imm c => Sys2Proof.Machine.execDropm t imm c s
  | .gld t n e sf => Sys2Proof.Machine.execGld t n e sf s
  | .gst t n e sf => Sys2Proof.Machine.execGst t n e sf s
  | .sld t n e sf => Sys2Proof.Machine.execSld t n e sf s
  | .sst t n e sf => Sys2Proof.Machine.execSst t n e sf s
  | .wld t n e sf => Sys2Proof.Machine.execWld t n e sf s
  | .tld b r n sf => Sys2Proof.Machine.execTld b r n sf s
  | .tst r n sf k c => Sys2Proof.Machine.execTst r n sf k c s
  | .done h => Sys2Proof.Machine.execDone h s
  | .ecmd => Sys2Proof.Machine.execEcmd s
  | .tshape r => Sys2Proof.Machine.execTshape r s
  | .tprec => Sys2Proof.Machine.execTprec s
  | .tfill t b r => Sys2Proof.Machine.execTfill t b r s
  | .temit t r k c => Sys2Proof.Machine.execTemit t r k c s
  | .tlds b r sf => Sys2Proof.Machine.execTlds b r sf s
  | .tsts r sf k c => Sys2Proof.Machine.execTsts r sf k c s
  | .tzero b r f c => Sys2Proof.Machine.execTzero b r f c s
  | .tmma r q l k j => Sys2Proof.Machine.execTmma r q l k j s
  | .tmov r q x k => Sys2Proof.Machine.execTmov r q x k s
  | .tcvt r q k m => Sys2Proof.Machine.execTcvt r q k m s
  | .tepi t k l m => Sys2Proof.Machine.execTepi t k l m s
  | .tquant r q k => Sys2Proof.Machine.execTquant r q k s
  | .tacc t c => Sys2Proof.Machine.execTacc t c s
  | .csc t sf l p m => Sys2Proof.Machine.execCsc t sf l p m s
  | .norm t m => Sys2Proof.Machine.execNorm t m s
  | .perm => Sys2Proof.Machine.execPerm s
  | .vote t => Sys2Proof.Machine.execVote t s
  | .cksum t b c e => Sys2Proof.Machine.execCksum t b c e s
  | .ckchk t => Sys2Proof.Machine.execCkchk t s
  | .capq => Sys2Proof.Machine.execCapq s
  | .illegalWord w => Sys2Proof.Machine.execIllegalWord w s
  | .sysregWrite => Sys2Proof.Machine.execSysregWrite s
  | .statusWrite => Sys2Proof.Machine.execStatusWrite s
  | .mboxoutWrite => Sys2Proof.Machine.execMboxoutWrite s
  | .mboxinRead => Sys2Proof.Machine.execMboxinRead s
  | .injctlWrite => Sys2Proof.Machine.execInjctlWrite s
  | .triggerDelivery => Sys2Proof.Machine.execTriggerDelivery s
  | .threadPreemption => Sys2Proof.Machine.execThreadPreemption s
  | .mboxFlitArrival => Sys2Proof.Machine.execMboxFlitArrival s
  | .doorbellFlit => Sys2Proof.Machine.execDoorbellFlit s
  | .arbiterCycle => Sys2Proof.Machine.execArbiterCycle s
  | .nitinolMove => Sys2Proof.Machine.execNitinolMove s
  | .queueArrival => Sys2Proof.Machine.execQueueArrival s
  | .ingressAdmit => Sys2Proof.Machine.execIngressAdmit s
  | .egressToken => Sys2Proof.Machine.execEgressToken s
  | .periodCompletion => Sys2Proof.Machine.execPeriodCompletion s
  | .drainedEvent => Sys2Proof.Machine.execDrainedEvent s
  | .teardownPeriodStart => Sys2Proof.Machine.execTeardownPeriodStart s
  | .hangSweep => Sys2Proof.Machine.execHangSweep s
  | .faultRecordDeferred => Sys2Proof.Machine.execFaultRecordDeferred s
  | .atsTranslationCompletion => Sys2Proof.Machine.execAtsTranslationCompletion s
  | .prgResponse => Sys2Proof.Machine.execPrgResponse s
  | .atsInvalidateRequest => Sys2Proof.Machine.execAtsInvalidateRequest s
  | .atsInvalidateCompletion => Sys2Proof.Machine.execAtsInvalidateCompletion s
  | .nodeMarkSave => Sys2Proof.Machine.execNodeMarkSave s
  | .markerPassageComplete => Sys2Proof.Machine.execMarkerPassageComplete s
  | .markerTimeout => Sys2Proof.Machine.execMarkerTimeout s
  | .nop => Sys2Proof.Machine.execNop s
  | .copy => Sys2Proof.Machine.execCopy s
  | .wload => Sys2Proof.Machine.execWload s
  | .gather => Sys2Proof.Machine.execGather s
  | .allred => Sys2Proof.Machine.execAllred s
  | .redscat => Sys2Proof.Machine.execRedscat s
  | .allgath => Sys2Proof.Machine.execAllgath s
  | .engineSector => Sys2Proof.Machine.execEngineSector s
  | .batchCompletion => Sys2Proof.Machine.execBatchCompletion s
  | .commandPortReceive => Sys2Proof.Machine.execCommandPortReceive s
  | .scrubRow => Sys2Proof.Machine.execScrubRow s
  | .errorWindowBoundary => Sys2Proof.Machine.execErrorWindowBoundary s
  | .evacuationRowCopy => Sys2Proof.Machine.execEvacuationRowCopy s
  | .invarRelaunchRetry => Sys2Proof.Machine.execInvarRelaunchRetry s
  | .linkCrcRetransmit => Sys2Proof.Machine.execLinkCrcRetransmit s
  | .refreshWindowStart => Sys2Proof.Machine.execRefreshWindowStart s
  | .refreshWindowEnd => Sys2Proof.Machine.execRefreshWindowEnd s
  | .thermalSample => Sys2Proof.Machine.execThermalSample s
  | .thermalTrip => Sys2Proof.Machine.execThermalTrip s
  | .railUndervoltage => Sys2Proof.Machine.execRailUndervoltage s
  | .railRecovery => Sys2Proof.Machine.execRailRecovery s
  | .moduleReset => Sys2Proof.Machine.execModuleReset s
  | .ident => Sys2Proof.Machine.execIdent s
  | .attest => Sys2Proof.Machine.execAttest s
  | .logread => Sys2Proof.Machine.execLogread s
  | .update => Sys2Proof.Machine.execUpdate s
  | .start => Sys2Proof.Machine.execStart s
  | .setmod => Sys2Proof.Machine.execSetmod s
  | .reset => Sys2Proof.Machine.execReset s
  | .tmmaCompletion => Sys2Proof.Machine.execTmmaCompletion s
  | .wfeSpuriousEnd => Sys2Proof.Machine.execWfeSpuriousEnd s
  | .l2Eviction => Sys2Proof.Machine.execL2Eviction s
  | .translationEntryDrop => Sys2Proof.Machine.execTranslationEntryDrop s
  | .memoryAccessPerformed => Sys2Proof.Machine.execMemoryAccessPerformed s
  | .matrixOpCompletion => Sys2Proof.Machine.execMatrixOpCompletion s
  | .solwenLinkFlit => Sys2Proof.Machine.execSolwenLinkFlit s
  | .priCapabilityEnable => Sys2Proof.Machine.execPriCapabilityEnable s
  | .discardsWrite => Sys2Proof.Machine.execDiscardsWrite s
  | .bar0Access => Sys2Proof.Machine.execBar0Access s
  | .unassignedCobaltOpcode => Sys2Proof.Machine.execUnassignedCobaltOpcode s
  | .cobaltCommandDone => Sys2Proof.Machine.execCobaltCommandDone s

end Sys2Proof.Machine
end

