-- ==== Sys2Proof/Machine/Sched.lean ====
section
/-! DEFINITION. What moves next.  The agenda says which unit acts, and after how many cycles; when it is empty it is filled
with the turns of one cycle.  DESIGN CHOICE, log 3: any order of turns can stand in the agenda. -/

namespace Sys2Proof.Machine

/-! ## Time -/

/-- Does a cluster hold a region whose accepted image is Invar (R6) while its width is capped, so that its clock is throttled
(R223)? -/
def State.throttled (s : State) (c : BitVec 5) : Bool :=
  (s.clu c).cap != 0 && s.threads.any (fun p =>
    clusterOf (BitVec.ofNat 9 p.1) == c && p.2.region.legal && holdsPages p.2.region.st && p.2.region.placed
      && imgInvar p.2.region.image)

/-- Reference cycles pass; a throttled cluster loses a quarter of them for each step of its band (Table 14.2). -/
def State.pass (s : State) (k : Nat) : State :=
  { s with
    cycle := s.cycle + k
    clusters := s.clusters.map (fun p =>
      if s.throttled (BitVec.ofNat 5 p.1) then (p.1, { p.2 with lost4 := p.2.lost4 + k * p.2.band.toNat }) else p) }

/-! ## A core's turn (R65, R66) -/

/-- Is the thread at an instruction boundary with a word to issue (R65)?  A pre-emption comes first (R103). -/
def Thread.ready (t : Thread) : Bool := t.run == .ready && !t.stopped && t.saver.isNone && t.wait == .none

/-- Does the thread wait in a word that is looked at again?  A looking thread issues nothing (R65). -/
def Thread.looks (t : Thread) : Bool :=
  t.run == .ready && !t.stopped && (t.saver.isNone || t.undivided)
    && (match t.wait with | .reissue | .again | .inside | .drain _ _ | .ticket _ _ _ => true | _ => false)

/-- Is a line in the instruction cache of a core? -/
def State.hasInst (s : State) (k : BitVec 7) (pa : Nat) : Bool :=
  (Tab.get ({} : Line) (Tab.get [] (s.clu (fld k 2 5)).inst (fld k 0 2).toNat) (pa / 64)).valid == -1

/-- What the look at a thread's next word comes to: the word, the trap of its fetch, or no word in this cycle. -/
inductive Fetched where
  | word (w : BitVec 32)
  | trapped
  | none
  deriving DecidableEq, Repr

/-- The word at a thread's PC (R23, R68), or the trap its fetch raises (R25, R353).  A word that is not in the instruction
cache is brought there, and the thread is not ready (R65). -/
def State.fetchWord (s : State) (k : BitVec 7) : State × Fetched :=
  let pc := s.me.pc
  match s.resolve s.me.cred .fetch false pc (.thread s.cur) with
  | (s, .fault c) => (s.trap c pc, .trapped)
  | (s, .wait) => (s.stay .fetch, .none)
  | (s, .ok key _) =>
    match s.hasInst k key, s.instLoad k key with
    | false, (s, _) => (s, .none)
    | true, (s, w, bad) => if bad then (s.trap cUNCORR pc, .trapped) else (s, .word (BitVec.ofNat 32 w))

/-- A deliverable trigger is delivered to the running thread at its boundary (R101). -/
def State.takeTrigger (s : State) : State :=
  match s.me.deliverable, s.me.dueTrigger with
  | true, some i => s.modMe (fun t => t.deliver i)
  | _, _ => s

/-- Context x of core k has issued in this cycle (R66). -/
def State.hasIssued (s : State) (k : BitVec 7) (x : Nat) : State :=
  s.modClu (fld k 2 5) (fun g => { g with
    turn := Tab.set g.turn (fld k 0 2).toNat x
    issued := Tab.set g.issued (fld k 0 2).toNat (s.cycleOf (fld k 2 5) + 1) })

/-- The first of some contexts of a core that is ready issues its word, or takes the trap of its fetch. -/
def State.issueFrom (k : BitVec 7) : List Nat → State → State × Option Instr
  | [], s => (s, none)
  | x :: r, s =>
    let n : BitVec 9 := BitVec.ofNat 9 (4 * k.toNat + x)
    if !(s.thr n).ready then State.issueFrom k r s
    else
      match ({ s with cur := n } : State).takeTrigger.fetchWord k with
      | (s, .none) => State.issueFrom k r s
      | (s, .trapped) => (s.hasIssued k x, none)
      | (s, .word w) => ((s.hasIssued k x).modMe (fun t => { t with word := some w }), some (decodeControl w))

/-- The contexts of a core in the order that begins after the one that issued last (R66). -/
def State.contexts (s : State) (k : BitVec 7) : List Nat :=
  let last := Tab.get 3 (s.clu (fld k 2 5)).turn (fld k 0 2).toNat
  [1, 2, 3, 4].map (fun j => (last + j) % 4)

/-- A core acts: at most one word issues in a cycle of the core's clock (R66). -/
def State.coreTurn (s : State) (k : BitVec 7) : State × Option Instr :=
  if s.cycleOf (fld k 2 5) < Tab.get 0 (s.clu (fld k 2 5)).issued (fld k 0 2).toNat then (s, none)
  else State.issueFrom k (s.contexts k) s

/-- A thread that waits in a word looks at it again: the word that issued goes on.  A context that CTXLOAD has loaded takes the
word from its PC. -/
def State.lookTurn (s : State) (n : BitVec 9) : State × Option Instr :=
  if !(s.thr n).looks then (s, none)
  else
    let s := ({ s with cur := n } : State)
    let go (s : State) (w : BitVec 32) : State × Option Instr :=
      (s.modMe (fun t => { t with word := some w, wait := match t.wait with | .reissue | .again => .none | x => x }),
       some (decodeControl w))
    match s.me.word with
    | some w => go s w
    | none =>
      match s.fetchWord (coreOf n) with
      | (s, .word w) => go s w
      | (s, .trapped) => (s.stay .none, none)
      | (s, .none) => (s, none)

/-! ## The turns of one cycle -/

/-- An event's turn in the same cycle. -/
def evt (i : Instr) (e : Event) : Turn := { delay := 0, move := .event i e }

/-- The event of a job's next step: the one of its opcode. -/
def jobEvent (j : Job) : Instr :=
  match enOp j.raw with
  | 0 => .nop | 1 => .copy | 2 => .wload | 0x10 => .gather | 0x20 => .allred | 0x21 => .redscat | 0x22 => .allgath
  | _ => .engineSector

/-- Turns of a region's nodes, ports, tokens and passage. -/
def State.regionTurns (s : State) (n : BitVec 9) : List Turn :=
  let r := s.reg n
  (match r.sweep with | some w => if w.asked then [] else [evt .hangSweep { n := n }] | none => []) ++
  if !actsIn r.st then
    (if r.st = 8 ∧ r.retry then [evt .invarRelaunchRetry { n := n }] else [])
      ++ (if r.newImage.isSome then [evt .teardownPeriodStart { n := n }] else [])
  else
    let nodes := imgNodes r.image
    let down (k : Nat) : List Nat := (List.range k).reverse
    (nodes.filter (fun v => isCounter r.image v.1 v.2)).map (fun v => { delay := 0, move := .counter n v.1 (BitVec.ofNat 3 v.2) })
    ++ (((nodes.filter (fun v => !isCounter r.image v.1 v.2)).map (·.1)).eraseDups).map (fun t => { delay := 0, move := .tile n t })
    ++ r.tiles.flatMap (fun t =>
        let tt : BitVec 8 := BitVec.ofNat 8 t.1
        (down t.2.accs.length).map (fun k => evt .memoryAccessPerformed { n := n, t := tt, k := k })
        ++ t.2.mops.flatMap (fun m =>
          [evt .memoryAccessPerformed { n := n, t := tt, s := m.slot, w := 1 }, evt .tmmaCompletion { n := n, t := tt, s := m.slot }
           , evt .matrixOpCompletion { n := n, t := tt, s := m.slot }]))
    ++ (down r.flight.length).filterMap (fun k =>
        r.flight[k]?.map (fun (f : Flight) =>
          match f.dest with
          | .queue _ _ => evt .queueArrival { n := n, k := k }
          | .port _ => evt (if f.tok.kind = kCMD then .commandPortReceive else .egressToken) { n := n, k := k }))
    ++ (List.range r.ports.length).map (fun k => evt .ingressAdmit { n := n, k := k })
    ++ r.cmds.zipIdx.map (fun p => evt (jobEvent p.1) { n := n, c := p.1.engine, k := p.2, w := 1 })
    ++ (if r.mark.isSome then
        nodes.map (fun v => evt .nodeMarkSave { n := n, t := v.1, s := BitVec.ofNat 3 v.2 })
          ++ [evt .markerPassageComplete { n := n }, evt .markerTimeout { n := n }] else [])
    ++ (if r.running ∧ r.left = 0 then [evt .periodCompletion { n := n }] else [])
    ++ (if r.newImage.isSome then [evt .teardownPeriodStart { n := n }] else [])
    ++ (if r.st = 6 then [evt .drainedEvent { n := n }] else [])
    ++ (if r.active + 2 ^ 20 ≤ (s.now n) && r.sweep.isNone then [evt .hangSweep { n := n }] else [])

/-- Turns of a thread: its pre-emption, its waiting records, its chains, its region. -/
def State.threadTurns (s : State) (n : BitVec 9) : List Turn :=
  let t := s.thr n
  (if t.saver.isSome && !t.stopped then [evt .threadPreemption { n := n }] else [])
  ++ (if t.records.isEmpty then [] else [evt .faultRecordDeferred { n := n }])
  ++ (if t.frozen then [] else t.chains.flatMap (fun c =>
      (if c.2.halted then [] else c.2.batch.zipIdx.map (fun p => evt (jobEvent p.1) { n := n, c := BitVec.ofNat 5 c.1, k := p.2 }))
        ++ (if c.2.batch.isEmpty then [] else [evt .batchCompletion { n := n, c := BitVec.ofNat 5 c.1 }])))
  ++ s.regionTurns n

/-- Turns of a cluster: its arbiter, Nitinol, evacuations, refresh. -/
def State.clusterTurns (s : State) (c : BitVec 5) : List Turn :=
  let k := s.clu c
  let unit (u : BankUnit) : List Turn :=
    if (s.bankSet u).evac.isSome || !(s.bankSet u).held.isEmpty then [evt .evacuationRowCopy { u := u }] else []
  (if (s.pending c).isEmpty then [] else [evt .arbiterCycle { c := c }])
  ++ (match s.moveChoice c with | some (n, o) => [evt .nitinolMove { n := n, k := o }] | none => [])
  ++ k.tiles.flatMap (fun t => unit (.scratch c (BitVec.ofNat 8 t.1)) ++ unit (.treg c (BitVec.ofNat 8 t.1)))
  ++ k.quarters.flatMap (fun q => unit (.weight c (BitVec.ofNat 2 q.1)))
  ++ k.l2Banks.flatMap (fun p => unit (.l2 c (BitVec.ofNat 4 p.1)))
  ++ k.quadBanks.flatMap (fun q => unit (.quad c (BitVec.ofNat 6 q.1)))
  ++ (if k.refNext ≤ s.cycle then [evt (if k.inWin then .refreshWindowEnd else .refreshWindowStart) { c := c }] else [])

/-- The turns of one cycle: the first passes the cycle. -/
def State.cycleTurns (s : State) : List Turn :=
  let ns : List (BitVec 9) := s.threads.map (fun p => BitVec.ofNat 9 p.1)
  let cores := (ns.filter (fun n => (s.thr n).ready)).map coreOf |>.eraseDups
  let l := s.flits.map (fun _ => evt .mboxFlitArrival {})
    ++ (ns.filter (fun n => (s.thr n).deliverable)).map (fun n => evt .triggerDelivery { n := n })
    ++ (ns.filter (fun n => (s.thr n).looks)).map (fun n => ({ delay := 0, move := .look n } : Turn))
    ++ cores.map (fun k => ({ delay := 0, move := .core k } : Turn))
    ++ ns.flatMap s.threadTurns
    ++ (List.range 32).flatMap (fun c => s.clusterTurns (BitVec.ofNat 5 c))
    ++ s.module.llc.flatMap (fun d =>
        if (s.bankSet (.llc (BitVec.ofNat 2 d.1))).evac.isSome then [evt .evacuationRowCopy { u := .llc (BitVec.ofNat 2 d.1) }] else [])
    ++ (if s.module.winStart < s.time / 1000 / s.module.winNow * s.module.winNow then [evt .errorWindowBoundary {}] else [])
    ++ (if s.module.cobalt.isSome then [evt .cobaltCommandDone {}] else [])
    ++ (List.range s.invals.length).reverse.map (fun k => evt .atsInvalidateCompletion { k := k })
  match l with
  | [] => []
  | t :: r => { t with delay := 1 } :: r

/-! ## What moves next -/

/-- The moves that come to a module in reset: while the rails hold it, what the rails do (R22, R400); with no verified firmware, which
brings up nothing (R404, R406), a reset too. -/
def Module.lets (m : Module) : Move → Bool
  | .event .railUndervoltage _ | .event .railRecovery _ => true
  | .event .moduleReset _ => !m.held
  | _ => !m.held && m.firmware

/-- A unit moves: the state it leaves, and the instruction or event that then has its effect. -/
def State.moved (s : State) : Move → State × Option Instr
  | .core k => s.coreTurn k
  | .look n => s.lookTurn n
  | .tile n t => s.tileTurn n t
  | .counter n t k => s.counterTurn n t k
  | .event i e => if (encode i).isNone then ({ s with ev := e }, some i) else (s, none)
  | .dropL1 k line => (s.modL1 k (fun t => Tab.del t line), none)
  | .dropInst k line => (s.modInst k (fun t => Tab.del t line), none)
  | .dropQuad c q line => (s.modQuad c q (fun t => Tab.del t line), none)

/-- A unit moves, unless the module is in reset. -/
def State.move (s : State) (m : Move) : State × Option Instr := if s.module.lets m then s.moved m else (s, none)

/-- The next turn of the agenda is taken; an empty agenda is filled, and where nothing can move a cycle passes. -/
def State.pick (s : State) : State × Option Instr :=
  match s.agenda with
  | [] => (match s.cycleTurns with
    | [] => (s.pass 1, none)
    | l => ({ s with agenda := l }, none))
  | t :: r => ({ s.pass t.delay with agenda := r, tick := s.tick + 1 } : State).move t.move

end Sys2Proof.Machine
end

