-- ==== Sys2Proof/Machine/Step.lean ====
section
/-! DEFINITION. One step of the machine, and the placement of a word where the next step takes it. -/

namespace Sys2Proof.Machine

/-- One step: the next turn is taken, and the instruction or event it brings has its effect. -/
def step (s : State) : Host.Outcome State Fault Refusal :=
  match s.pick with
  | (s, some i) => exec i s
  | (s, none) => .next s

/-- `s` with a control word where thread 0 fetches next: at address 0, mapped to the first byte of memory, with the core's
turn first in the agenda and the word in its instruction cache (R65). -/
def State.withControlWord (s : State) (w : BitVec 32) : State :=
  let s := s.modThr 0 (fun t => { t with
    run := .ready, wait := .none, saver := none, stopped := false, word := none, pc := 0, status := rwFields t.status 0 0x10 })
  let s := s.modClu 0 (fun c => { c with turn := Tab.set c.turn 0 3, issued := Tab.del c.issued 0, inst := [], l2 := Tab.del c.l2 0 })
  let t := s.thr 0
  let s := { s with
    tlb := { space := fld t.space 0 12, gen := (s.gen t.cred.spnum).gen, base := 0, size := 65536, target := .device 0
             user := true, write := false, dirtied := false, desc := none, shadow := false } :: s.tlb
    mem := writeLE s.mem 0 4 w.toNat, poison := clearPoison s.poison 0 4
    agenda := [{ delay := 0, move := .core 0 }] }
  (s.instLoad 0 0).1

/-- An image of one page whose slot 0 of tile (0, 0) holds an operation word, every other slot being empty. -/
def oneNode (w : BitVec 32) : Nat :=
  fieldsAt [fieldAt 0 4 0x30344541, fieldAt 4 2 1, fieldAt 0x28 8 (imgLength 1 1),
    recordsAt 64 1024 ((List.range 16).map (fun t => recordsAt 0 4 ((List.range 8).map (fun k =>
      if t = 0 ∧ k = 0 then w.toNat else nopn.toNat))))]

/-- `s` with an operation word in the region of thread 0, RUNNING, with a token at each of its slots, 16 × 16 registers for it
to read, and the tile's turn, or its counter logic's, first in the agenda. -/
def State.withOperationWord (s : State) (w : BitVec 32) : State :=
  let img := oneNode w
  let tok : Entry := { tok := dataTok 1 0xFF, idx := 0 }
  let go : Entry := { tok := { pay := 0, side := mkSide kCTRL 0 0 0 false false 1 }, idx := 0, ctl := true }
  let q (k : Nat) : Queue := { items := [if k = 2 ∧ opCode w ≠ 0x51 then go else tok] }
  let target : Nat := match decodeOperation w with | some (.tshape r) => r.toNat | some i => (writesReg i).getD 16 | none => 16
  let regs : Tab TregMeta := ((List.range 16).filter (· != target)).map (fun k => (k, { shape := 0x03CF00E0, full := true }))
  let tile : RTile := {
    queues := (slotsRead img 0 0).map (fun k => (k, q k)), tmeta := regs, accFull := opCode w == 0x7A }
  let s := s.modReg 0 (fun _ => { st := 4, image := img, running := true, left := 1, tiles := [(0, tile)] })
  { s with agenda := [{ delay := 1, move := if isCounter img 0 0 then .counter 0 0 0 else .tile 0 0 }] }

/-- The instruction of a table word where the next step takes it: an operation word as the node of a running region, any
other as thread 0's next word.  Log 42 says how a program comes to run from reset. -/
def State.withFetchWord (s : State) (nbits w : Nat) : State :=
  let x := BitVec.ofNat 32 w
  if nbits = 32 ∧ (decodeOperation x).isSome then s.withOperationWord x else s.withControlWord x

end Sys2Proof.Machine
end

