-- ==== Sys2Proof/Safety.lean ====
section
/-! DEFINITION. What claims about a step say: which part of the machine an outcome changes, and how. -/

namespace Sys2Proof.Machine

/-! ## Control words: the running thread's context alone changes -/

/-- From s to t the context of thread n becomes m, and nothing else of the machine changes: no other thread, no byte of memory, no
cache, no register of a cluster or of the module. -/
def OnlyThread (s t : State) (n : BitVec 9) (m : Thread) : Prop :=
  t.thr n = m ∧ (∀ k, k ≠ n → t.thr k = s.thr k) ∧ { t with threads := s.threads } = s

/-- The running thread's context becomes m, and nothing else of the machine changes. -/
def OnlyMe (s t : State) (m : Thread) : Prop := OnlyThread s t s.cur m

/-- From s to t register d comes to read v, where `g0` goes on reading zero, and every other register reads as before. -/
def RegsSet (s t : State) (d : BitVec 5) (v : Word) : Prop :=
  ∀ r, t.rd r = if r = d ∧ r ≠ 0 then v else s.rd r

/-- The outcome is a next state where register d reads v, the PC is p, and nothing else has changed. -/
def Writes (s : State) (o : Out) (d : BitVec 5) (v p : Word) : Prop :=
  ∃ t, o = .next t ∧ RegsSet s t d v ∧ OnlyMe s t { s.me with g := t.me.g, pc := p }

/-- The sticky bits of `FPCTL` that flags set (Table 6.6). -/
def stickyBits (f : Fl) : Word :=
  (if f.inx then 0x40 else 0) ||| (if f.ovf then 0x20 else 0) ||| (if f.inv then 0x10 else 0)

/-- The outcome is a next state where register d reads v, the flags are ORed into `FPCTL`, the PC is the next word's, and
nothing else has changed. -/
def WritesFp (s : State) (o : Out) (d : BitVec 5) (v : Word) (f : Fl) : Prop :=
  ∃ t, o = .next t ∧ RegsSet s t d v
    ∧ OnlyMe s t { s.me with g := t.me.g, fpctl := s.me.fpctl ||| stickyBits f, pc := s.pc + 4 }

/-- The outcome is a next state where only the running thread's context has changed, to m. -/
def Becomes (s : State) (o : Out) (m : Thread) : Prop := ∃ t, o = .next t ∧ OnlyMe s t m

/-- A thread's context after the trap sequence of R353 from the context m. -/
def trapped (m : Thread) (cause : BitVec 8) (info ret : Word) : Thread :=
  let pl := fld m.status 0 2
  { m with
    trappc := ret
    trapcause := zext cause 64
    trapinfo := info
    status := 0#58 ++ fld m.status 4 1 ++ 0#1 ++ pl ++ (if pl = 0 then 1#2 else pl)
    pc := zext (fld m.trapvec 2 46) 64 <<< 2 }

/-- The outcome is a next state: the trap taken by the word at the running thread's PC, and nothing else. -/
def Traps (s : State) (o : Out) (cause : BitVec 8) (info : Word) : Prop :=
  Becomes s o (trapped s.me cause info s.pc)

/-- The outcome is a next state: the machine u with a status word in register d, code and detail (Table 4.11, Table 10.5), its running
thread waiting for nothing and at the next word. -/
def Answers (u : State) (o : Out) (d : BitVec 5) (code detail : Nat) : Prop :=
  ∃ t, o = .next t ∧ RegsSet u t d (BitVec.ofNat 64 detail <<< 32 ||| BitVec.ofNat 64 code)
    ∧ OnlyMe u t { u.me with g := t.me.g, wait := .none, pc := u.pc + 4 }

/-! ## System registers -/

/-- A register of a thread whose RW fields are a fixed mask and which is read and written at one level (Tables 3.2 to 3.9, 6.6,
11.1 to 11.8, 12.1, 12.2, 12.4). -/
structure PlainReg where
  num : BitVec 12
  level : Nat
  mask : Word
  get : Thread → Word
  set : Thread → Word → Thread

/-- Those registers. -/
def plainRegs : List PlainReg :=
  [⟨0x003, 0, 0x73, (·.fpctl), fun m v => { m with fpctl := v }⟩
   , ⟨0x010, 1, 0xFFFFFFFFFFFC, (·.trapvec), fun m v => { m with trapvec := v }⟩
   , ⟨0x011, 0, 0xFFFFFFFFFFFFFFFF, (·.trappc), fun m v => { m with trappc := v }⟩
   , ⟨0x012, 0, 0xFF, (·.trapcause), fun m v => { m with trapcause := v }⟩
   , ⟨0x013, 0, 0xFFFFFFFFFFFFFFFF, (·.trapinfo), fun m v => { m with trapinfo := v }⟩
   , ⟨0x014, 1, 0xFFFFFFFFFFFFFFFF, (·.trapsave), fun m v => { m with trapsave := v }⟩
   , ⟨0x021, 1, 0x3FFFFFF0000, (·.ptbase), fun m v => { m with ptbase := v }⟩
   , ⟨0x022, 1, 0x3FFFFFFFFF8, (·.dirtybase), fun m v => { m with dirtybase := v }⟩
   , ⟨0x031, 1, 0xFFFFFFFF, (·.faultqhead), fun m v => { m with faultqhead := v }⟩
   , ⟨0x032, 1, 0xFFFF000100000000, (·.faultqtail), fun m v => { m with faultqtail := v }⟩
   , ⟨0x040, 0, 0x7FF, (·.mboxdest), fun m v => { m with mboxdest := v }⟩
   , ⟨0x080, 1, 0xFFFFFFFFFF000, (·.ctxbase), fun m v => { m with ctxbase := v }⟩
   , ⟨0x0A0, 0, 0xFFFFFFFFFFFFFFFF, (·.seed), fun m v => { m with seed := v }⟩
   , ⟨0x0A1, 0, 0xFFFFFFFFFFFFFFFF, (·.epoch), fun m v => { m with epoch := v }⟩]
  ++ (List.finRange 16).map (fun k =>
    ⟨0x100 + BitVec.ofNat 12 k.val, 0, 0xFF00FFFFFFFFFFFF, fun m => m.trig[k], fun m v => { m with trig := m.trig.set k.val v }⟩)

/-- The bits of v where the mask is set, of the old value elsewhere (R80). -/
def masked (old v mask : Word) : Word := (old &&& ~~~mask) ||| (v &&& mask)

/-! ## Memory -/

/-- The byte a core's load of an address reads: its L1 copy where that holds the byte, else its cluster's slice where that
does, else the home (R270, R285). -/
def State.coreByte (s : State) (k : BitVec 7) (a : Nat) : Byte :=
  let c := s.clu (fld k 2 5)
  let l1 : Line := Tab.get {} (c.l1Of (fld k 0 2).toNat) (a / 64)
  let l2 := s.l2Line (fld k 2 5) (a / 64)
  if l1.valid.getLsbD (a % 64) then fld l1.data (8 * (a % 64)) 8
  else if l2.valid.getLsbD (a % 64) then fld l2.data (8 * (a % 64)) 8
  else cellRead s.mem a

/-- Every byte of memory reads as before. -/
def SameMemory (s t : State) : Prop := ∀ a, cellRead t.mem a = cellRead s.mem a

/-- Every byte of memory outside [a, a + n) reads as before. -/
def SameMemoryBut (s t : State) (a n : Nat) : Prop := ∀ k, k < a ∨ a + n ≤ k → cellRead t.mem k = cellRead s.mem k

/-- The byte a cluster's fabric reads at an address: its slice's where that holds it, else the home's (R271). -/
def State.sliceByte (s : State) (c : BitVec 5) (a : Nat) : Byte :=
  if (s.l2Line c (a / 64)).valid.getLsbD (a % 64) then fld (s.l2Line c (a / 64)).data (8 * (a % 64)) 8 else cellRead s.mem a

/-- Where a scratchpad address of a region leads: the tile of its cluster and the byte of that tile's storage, by the map of its banks
(R275, R388). -/
def State.scrPlace (s : State) (d : Nd) (a : Nat) : Option (BitVec 8 × Nat) :=
  (s.scrAddr d a).map (fun p =>
    (p.1, 8192 * ((s.clu (clusterOf d.n)).tile p.1).scrBanks.phys (p.2 / 8192) + p.2 % 8192))

/-- A byte of a tile's scratchpad storage. -/
def State.scrCell (s : State) (n : BitVec 9) (p : BitVec 8 × Nat) : Byte := cellRead ((s.clu (clusterOf n)).tile p.1).scr p.2

/-- The bits of register q of a node's tile as they are stored. -/
def State.regBits (s : State) (d : Nd) (q : Nat) : BitVec 32768 :=
  Tab.get 0 (s.tmem d.n d.t).treg ((s.tmem d.n d.t).tregBanks.phys q)

/-! ## Context areas -/

/-- The fields of the header, the thread section and the region header of an area that must be right, by rising place, each with its offset
(R106, R362, Tables 4.10, 12.5 and 12.6, R364): the magic number, the version, the length, and every reserved or zero bit. -/
def areaFields (v : Nat) (len : Nat) (region : Bool) : List (Bool × Nat) :=
  let zero (o k : Nat) : Bool × Nat := (at_ v o k == 0, o)
  let below (o k n : Nat) : Bool × Nat := (decide (at_ v o k < n), o)
  [(at_ v 0 4 == 0x31585443, 0), (at_ v 4 2 == 1, 4), below 6 2 8, (at_ v 8 8 == len, 8), zero 0x12 238, below 0x2A8 4 32
   , (at_ v 0x2B0 8 / 2 ^ 14 % 2 ^ 49 == 0, 0x2B0), zero 0x2B8 8]
  ++ (List.range 64).flatMap (fun k =>
    let o := 0x740 + 64 * k
    [below (o + 8) 1 16, below (o + 0xA) 2 8, zero (o + 0x38) 8])
  ++ (List.range 32).flatMap (fun k =>
    let o := 0x1740 + 64 * k
    if at_ v (o + 1) 1 % 2 = 1 then [below (o + 1) 1 16, zero (o + 2) 6] else [zero o 64])
  ++ [zero 0x1F40 192]
  ++ (if region then [below 0x2000 8 (2 ^ 14), zero 0x201A 2, zero 0x20A2 94] else [])

/-- Those of the rest of a region section (R364, Table 4.10): its port records, its commands' origins and its tile blocks. -/
def regionFields (v : Nat) : List (Bool × Nat) :=
  let zero (o k : Nat) : Bool × Nat := (at_ v o k == 0, o)
  let below (o k n : Nat) : Bool × Nat := (decide (at_ v o k < n), o)
  let claim : Word := BitVec.ofNat 64 (at_ v 0x2000 8)
  (List.range (at_ v 0x2024 2)).flatMap (fun k =>
    let o := at_ v 0x2070 8 + 128 * k
    [zero (o + 3) 1, zero (o + 0x1C) 36, below (o + 0x48) 1 16, below (o + 0x4A) 2 8, zero (o + 0x78) 8])
  ++ (List.range (at_ v 0x20A0 2)).map (fun k => zero (at_ v 0x2098 8 + 16 * k + 1) 7)
  ++ (List.range (16 * claimW claim * claimH claim)).flatMap (fun k =>
    let o := at_ v 0x2088 8 + at_ v 0x2090 8 * k
    (List.range 32).map (fun q => below (o + 0x200 + 8 * q) 8 (2 ^ 11)) ++ (List.range 32).map (fun q => below (o + 0x318 + 32 * q) 8 4)
    ++ (List.range 8).map (fun q => below (o + 0x700 + 16 * q) 8 (2 ^ 17)) ++ (List.range 16).map (fun q => zero (o + 0x848 + 16 * q) 8)
    ++ [zero (o + 0x949) 1, zero (o + 0x94C) 4, zero (o + 0x970) 1680]
    ++ (List.range 640).map (fun q => zero (o + 0x102C + 48 * q) 4))

/-- A region restored from the header of an area's region section (R364): SAVED, with the section's state before, marker, flags, completion
and captured registers. -/
def fromHeader (v : Nat) (r : Region) : Prop :=
  let word (o : Nat) : Word := BitVec.ofNat 64 (at_ v (0x2000 + o) 8)
  r.prev = BitVec.ofNat 4 (at_ v 0x2008 1) ∧ r.how = (if at_ v 0x2009 1 % 2 = 1 then .eviction else .marker)
    ∧ r.marker = BitVec.ofNat 16 (at_ v 0x200A 2) ∧ r.flags = BitVec.ofNat 16 (at_ v 0x2018 2) ∧ r.ends = BitVec.ofNat 32 (at_ v 0x201C 4)
    ∧ r.left = at_ v 0x2020 4 ∧ r.comp = word 0x10 ∧ r.seed = word 0x28 ∧ r.epoch = word 0x30
    ∧ r.capt = { space := word 0x38, ptbase := word 0x40, dirtybase := word 0x48, dirtygran := word 0x50, partition := word 0x58
                 pl := BitVec.ofNat 2 (at_ v 0x200F 1) }

/-! ## Operation words: what a node in focus does -/

/-- The node in focus may act: its region acts, it is neither parked nor saved at MARK, no word of its tile that it reads is poisoned, an
ORDER or END token stands at slot O if a channel feeds it, and these are the heads at these slots. -/
def State.Stands (s : State) (ks : List Nat) (hs : List Taken) : Prop :=
  let d := s.nd
  s.nodeLive d = true ∧ s.illAt d = false ∧ hs.map (·.1) = ks ∧ (∀ h ∈ hs, s.headAt d h.1 = some h.2)
    ∧ (d.ordered = true → ∃ t i, s.headAt d 3 = some (t, i) ∧ (t.kind = kORDER ∨ t.kind = kEND))

/-- And they are one record of index i at every slot, DATA, or CTRL at slot C. -/
def State.Ready (s : State) (ks : List Nat) (hs : List Taken) (i : Nat) : Prop :=
  s.Stands ks hs ∧ ∀ h ∈ hs, h.2.2 = i ∧ (h.2.1.kind = kDATA ∨ h.1 = 2 ∧ h.2.1.kind = kCTRL)

/-- The machine after an action of the node that left t: its region was active now (R178). -/
def State.acted (s t : State) : State := t.modReg s.nd.n (fun r => { r with active := s.now s.nd.n })

/-- The machine after a firing that left t: the ORDER token at slot O, if any, was taken too (R149). -/
def State.fired (s t : State) : State :=
  if s.nd.ordered = true ∧ (s.headAt s.nd 3).map (·.1.kind) = some kORDER then (s.acted t).popAt s.nd 3 else s.acted t

/-- The outcome is a next state: the heads at the slots taken, the flags of the sideband's sum and of the result raised, and one token on
output 0, the result under the sideband of R131 with the result's VALID and the record's index. -/
def Fires (s : State) (o : Out) (ks : List Nat) (hs : List Taken) (i : Nat) (sd : Bool) (r : BitVec 256 × BitVec 8 × Fl) : Prop :=
  let d := s.nd
  let x := sideOf d sd hs
  o = .next (s.fired (((s.popAll d ks).addFl d.n (x.2.or r.2.2)).emit d 0 (({ x.1 with valid := r.2.1 } : Side).tok r.1) i))

end Sys2Proof.Machine
end

