-- ==== Sys2Proof/Certificates/Slice0/Obligations.lean ====
section
/-! DEFINITION. The statements about the model, each from the rules its docstring names.  A statement named Rule.<Name> is a part of
an obligation, which stands at the end of this file. -/

open Sys2Proof Sys2Proof.Machine

/-! ## Integer words -/

/-- R69, Table 3.4: each INT word writes its result to g[d], goes on with the next word and changes nothing else. -/
def Rule.IntegerWords : Prop :=
  ∀ (s : State) (d a b : BitVec 5),
    let x := s.rd a
    let y := s.rd b
    let k := y.toNat % 64
    let gives (i : Instr) (v : Word) : Prop := Writes s (exec i s) d v (s.pc + 4)
    gives (.add d a b) (x + y) ∧ gives (.sub d a b) (x - y) ∧ gives (.and d a b) (x &&& y) ∧ gives (.or d a b) (x ||| y)
      ∧ gives (.xor d a b) (x ^^^ y) ∧ gives (.andn d a b) (x &&& ~~~y)
      ∧ gives (.shl d a b) (BitVec.ofNat 64 (x.toNat * 2 ^ k)) ∧ gives (.shr d a b) (BitVec.ofNat 64 (x.toNat / 2 ^ k))
      ∧ gives (.sha d a b) (BitVec.ofInt 64 (x.toInt / 2 ^ k))
      ∧ gives (.slt d a b) (if x.toInt < y.toInt then 1 else 0) ∧ gives (.sltn d a b) (if x.toNat < y.toNat then 1 else 0)
      ∧ gives (.min d a b) (if x.toInt ≤ y.toInt then x else y) ∧ gives (.max d a b) (if y.toInt ≤ x.toInt then x else y)
      ∧ gives (.minn d a b) (if x.toNat ≤ y.toNat then x else y) ∧ gives (.maxn d a b) (if y.toNat ≤ x.toNat then x else y)

/-- R69, Table 3.4: CLZ writes the number of leading zero bits of g[a], POPC the number of its one bits, both from 0 to 64, and
nothing else changes. -/
def Rule.BitCountWords : Prop :=
  ∀ (s : State) (d a : BitVec 5),
    let x := s.rd a
    (∃ n : Nat, n ≤ 64 ∧ (∀ i, 64 - n ≤ i → x.getLsbD i = false) ∧ (n < 64 → x.getLsbD (63 - n) = true)
        ∧ Writes s (exec (.clz d a) s) d (BitVec.ofNat 64 n) (s.pc + 4))
      ∧ Writes s (exec (.popc d a) s) d (BitVec.ofNat 64 ((List.range 64).filter (fun i => x.getLsbD i)).length) (s.pc + 4)

/-- R70: each immediate word writes its result to g[d], goes on with the next word and changes nothing else. -/
def Rule.ImmediateWords : Prop :=
  ∀ (s : State) (d a : BitVec 5) (i : BitVec 16) (k : BitVec 6),
    let x := s.rd a
    let gives (i : Instr) (v : Word) : Prop := Writes s (exec i s) d v (s.pc + 4)
    gives (.addi d a i) (x + i.signExtend 64) ∧ gives (.andi d a i) (x &&& i.setWidth 64)
      ∧ gives (.ori d a i) (x ||| i.setWidth 64) ∧ gives (.xori d a i) (x ^^^ i.setWidth 64)
      ∧ gives (.shli d a k) (BitVec.ofNat 64 (x.toNat * 2 ^ k.toNat))
      ∧ gives (.shri d a k) (BitVec.ofNat 64 (x.toNat / 2 ^ k.toNat))
      ∧ gives (.shai d a k) (BitVec.ofInt 64 (x.toInt / 2 ^ k.toNat))
      ∧ gives (.ldhi d i) (BitVec.ofInt 64 (i.toInt * 65536))
      ∧ gives (.slti d a i) (if x.toInt < i.toInt then 1 else 0)

/-- R71, R72, Table 3.5: each MULDIV word writes its result to g[d], the quotients and remainders by zero and of −2^63 by −1
among them, goes on with the next word and changes nothing else: no trap, no flag. -/
def Obligations.MultiplyDivideWords : Prop :=
  ∀ (s : State) (d a b : BitVec 5),
    let x := s.rd a
    let y := s.rd b
    let gives (i : Instr) (v : Word) : Prop := Writes s (exec i s) d v (s.pc + 4)
    gives (.mul d a b) (BitVec.ofInt 64 (x.toInt * y.toInt))
      ∧ gives (.mulh d a b) (BitVec.ofInt 64 (x.toInt * y.toInt / 2 ^ 64))
      ∧ gives (.mulhn d a b) (BitVec.ofNat 64 (x.toNat * y.toNat / 2 ^ 64))
      ∧ gives (.div d a b) (if y = 0 then 0xFFFFFFFFFFFFFFFF
          else if x.toInt = -2 ^ 63 ∧ y.toInt = -1 then 0x8000000000000000 else BitVec.ofInt 64 (x.toInt.tdiv y.toInt))
      ∧ gives (.divn d a b) (if y = 0 then 0xFFFFFFFFFFFFFFFF else BitVec.ofNat 64 (x.toNat / y.toNat))
      ∧ gives (.rem d a b) (if y = 0 then x else if x.toInt = -2 ^ 63 ∧ y.toInt = -1 then 0
          else BitVec.ofInt 64 (x.toInt - y.toInt * x.toInt.tdiv y.toInt))
      ∧ gives (.remn d a b) (if y = 0 then x else BitVec.ofNat 64 (x.toNat % y.toNat))

/-! ## Floating-point words -/

/-- R207, R208, R210: in each format and rounding mode, the mode of `FPCTL` for the code 4, the arithmetic words write the exact
result rounded once, zero-extended, OR the flags of the operation and of the rounding into `FPCTL`, and change nothing else. -/
def Rule.RoundedFloatWords : Prop :=
  ∀ (s : State) (d a b : BitVec 5) (f r : BitVec 3) (m : Fmt),
    (f, m) ∈ [(0#3, Fmt.f32), (1#3, Fmt.f64), (2#3, Fmt.bf16)] → r.toNat ≤ 4 →
    let mode := Mode.ofCode (if r = 4 then fld s.me.fpctl 0 2 else fld r 0 2)
    let op (q : BitVec 5) : Machine.Num := m.decode ((s.rd q).toNat % 2 ^ m.bits)
    let gives (i : Instr) (x : Machine.Num × Fl) : Prop :=
      WritesFp s (exec i s) d (BitVec.ofNat 64 (m.round mode x.1).1) (x.2.or (m.round mode x.1).2)
    gives (.fadd d a b f r) ((op a).add (op b)) ∧ gives (.fsub d a b f r) ((op a).add (op b).negate)
      ∧ gives (.fmul d a b f r) ((op a).mul (op b)) ∧ gives (.ffma d a b f r) ((op d).fma (op a) (op b))
      ∧ gives (.frcp d a f r) (op a).rcp ∧ gives (.frsq d a f r) (op a).rsq ∧ gives (.fsqrt d a f r) (op a).sqrt

/-- R209: FMIN, FMAX, FABS and FNEG write the value they choose, canonical if it is NaN, the compares write 0 or 1, and 0 when an
operand is NaN; none sets a flag or changes anything else. -/
def Rule.ExactFloatWords : Prop :=
  ∀ (s : State) (d a b : BitVec 5) (f : BitVec 3) (m : Fmt),
    (f, m) ∈ [(0#3, Fmt.f32), (1#3, Fmt.f64), (2#3, Fmt.bf16)] →
    let op (q : BitVec 5) : Machine.Num := m.decode ((s.rd q).toNat % 2 ^ m.bits)
    let gives (i : Instr) (v : Word) : Prop := Writes s (exec i s) d v (s.pc + 4)
    let code (x : Machine.Num) : Word := BitVec.ofNat 64 (m.round .rne x).1
    let unordered := (op a).isNan || (op b).isNan
    gives (.fmin d a b f) (code (if unordered then .nan else if (op b).before (op a) then op b else op a))
      ∧ gives (.fmax d a b f) (code (if unordered then .nan else if (op a).before (op b) then op b else op a))
      ∧ gives (.fabs d a f) (code (op a).abs) ∧ gives (.fneg d a f) (code (op a).negate)
      ∧ gives (.fcmpeq d a b f) (if !unordered ∧ (op a).cmp (op b) = 0 then 1 else 0)
      ∧ gives (.fcmplt d a b f) (if !unordered ∧ (op a).cmp (op b) = -1 then 1 else 0)
      ∧ gives (.fcmple d a b f) (if !unordered ∧ (op a).cmp (op b) ≠ 1 then 1 else 0)

/-- R30, R211: FCVT converts from a float or an integer by rounding once, and to an integer by rounding to one and keeping it
within the destination's range, NaN giving 0 and invalid; only g[d], the flags and the PC change. -/
def Rule.ConvertWord : Prop :=
  ∀ (s : State) (d a : BitVec 5) (f r : BitVec 3) (m : Fmt) (u : BitVec 4),
    (f, m) ∈ [(0#3, Fmt.f32), (1#3, Fmt.f64), (2#3, Fmt.bf16)] → r.toNat ≤ 4 →
    let mode := Mode.ofCode (if r = 4 then fld s.me.fpctl 0 2 else fld r 0 2)
    let x := s.rd a
    let low : BitVec 32 := fld x 0 32
    let toFloat (v : Machine.Num) : Prop := WritesFp s (exec (.fcvt d a (0#1 ++ u) f r) s) d (BitVec.ofNat 64 (m.round mode v).1) (m.round mode v).2
    let toInt (lo hi : Int) : Prop :=
      let v := (m.decode (x.toNat % 2 ^ m.bits)).toInt mode lo hi
      WritesFp s (exec (.fcvt d a (1#1 ++ u) f r) s) d (BitVec.ofInt 64 v.1) v.2
    (u = 0 → toFloat (Fmt.f32.decode (x.toNat % 2 ^ 32))) ∧ (u = 1 → toFloat (Fmt.f64.decode x.toNat))
      ∧ (u = 2 → toFloat (Fmt.bf16.decode (x.toNat % 2 ^ 16)))
      ∧ (u = 4 → toFloat (Machine.Num.ofInt low.toInt)) ∧ (u = 5 → toFloat (Machine.Num.ofInt low.toNat))
      ∧ (u = 6 → toFloat (Machine.Num.ofInt x.toInt)) ∧ (u = 7 → toFloat (Machine.Num.ofInt x.toNat))
      ∧ (u = 4 → toInt (-2 ^ 31) (2 ^ 31 - 1)) ∧ (u = 5 → toInt 0 (2 ^ 32 - 1))
      ∧ (u = 6 → toInt (-2 ^ 63) (2 ^ 63 - 1)) ∧ (u = 7 → toInt 0 (2 ^ 64 - 1))

/-! ## Branches, traps and returns -/

/-- R73: BR goes to PC + 4·sext(off13, 64) when its condition holds and to the next word when not, conditions 6 and 7 raise
ILLEGAL; a branch writes no register and changes nothing but the PC. -/
def Rule.BranchWord : Prop :=
  ∀ (s : State) (a b : BitVec 5) (c : BitVec 3) (o : BitVec 13),
    let x := s.rd a
    let y := s.rd b
    let goes (holds : Prop) : Prop :=
      (holds → Becomes s (exec (.br a b c o) s) { s.me with pc := s.pc + o.signExtend 64 * 4 })
        ∧ (¬holds → Becomes s (exec (.br a b c o) s) { s.me with pc := s.pc + 4 })
    (c = 0 → goes (x = y)) ∧ (c = 1 → goes (x ≠ y)) ∧ (c = 2 → goes (x.toInt < y.toInt))
      ∧ (c = 3 → goes (y.toInt ≤ x.toInt)) ∧ (c = 4 → goes (x.toNat < y.toNat)) ∧ (c = 5 → goes (y.toNat ≤ x.toNat))
      ∧ (6 ≤ c.toNat → Traps s (exec (.br a b c o) s) 0x01 (((encode (.br a b c o)).getD 0).setWidth 64))

/-- R74, R75: JMP and CALL go to PC + 4·sext(off26, 64), CALL with the return address in `g1`; JR reads its target before it
writes g[d], and a target that is no multiple of 4 raises ALIGN and leaves g[d] as it was. -/
def Rule.JumpWords : Prop :=
  ∀ (s : State) (d a : BitVec 5) (o : BitVec 26),
    Writes s (exec (.jmp o) s) 0 0 (s.pc + o.signExtend 64 * 4)
      ∧ Writes s (exec (.call o) s) 1 (s.pc + 4) (s.pc + o.signExtend 64 * 4)
      ∧ ((s.rd a).toNat % 4 = 0 → Writes s (exec (.jr d a) s) d (s.pc + 4) (s.rd a))
      ∧ ((s.rd a).toNat % 4 ≠ 0 → Traps s (exec (.jr d a) s) 0x03 (s.rd a))

/-- R93, R353: TRAP takes the trap TRAPINSN with its code, and the address of the next word to return to. -/
def Rule.TrapWord : Prop :=
  ∀ (s : State) (c : BitVec 5), Becomes s (exec (.trap c) s) (trapped s.me 0x10 (c.setWidth 64) (s.pc + 4))

/-- R26, R32, R353: a word that is no instruction takes the trap ILLEGAL with the word in TRAPINFO and changes no register. -/
def Rule.IllegalWord : Prop :=
  ∀ (s : State) (w : BitVec 32), Traps s (exec (.illegalWord w) s) 0x01 (w.setWidth 64)

/-- R94: SYSRET raises PRIV for a PPL of 3 or above PL, then ALIGN for a TRAPPC that is no multiple of 4; else it goes to TRAPPC at
level PPL with PIE in IE, clearing TRAPCAUSE and TRAPINFO when the level falls, and nothing else changes. -/
def Rule.SysretWord : Prop :=
  ∀ s : State,
    let m := s.me
    let pl : BitVec 2 := fld m.status 0 2
    let ppl : BitVec 2 := fld m.status 2 2
    let bad := ppl = 3 ∨ pl.toNat < ppl.toNat
    (bad → Traps s (exec .sysret s) 0x02 0)
      ∧ (¬bad → m.trappc.toNat % 4 ≠ 0 → Traps s (exec .sysret s) 0x03 m.trappc)
      ∧ (¬bad → m.trappc.toNat % 4 = 0 → Becomes s (exec .sysret s) { m with
          trapcause := if ppl.toNat < pl.toNat then 0 else m.trapcause
          trapinfo := if ppl.toNat < pl.toNat then 0 else m.trapinfo
          status := 0#58 ++ 1#1 ++ fld m.status 5 1 ++ 0#2 ++ ppl
          pc := m.trappc })

/-- R95, R96: HALT halts the thread past its word (that its PC is the next word's is the model's reading, log 11), WFE leaves it
waiting at its own, and nothing else changes. -/
def Rule.HaltAndWait : Prop :=
  ∀ s : State,
    Becomes s (exec .halt s) { s.me with run := .halted, pc := s.pc + 4 }
      ∧ Becomes s (exec .wfe s) { s.me with wait := .wfe }

/-! ## System registers, mailboxes and triggers -/

/-- R81 with Table 3.2: at a register's level SRD writes its value to g[d] and changes nothing else: the coordinate word of R13, MBOXSTAT's
counts (R91), the live capacities of R393, the caps and budget of R109 and the phase of the refresh windows (R273) among them; MBOXOUT, and a
number the table does not list, read zero at every level (R79). -/
def Obligations.SystemRegisterReads : Prop :=
  ∀ (s : State) (d : BitVec 5),
    let pl := (fld s.me.status 0 2 : BitVec 2).toNat
    let reads (r : BitVec 12) (v : Word) : Prop := Writes s (exec (.srd d r) s) d v (s.pc + 4)
    let n := s.cur
    let c := s.clu (clusterOf n)
    let phase := s.wsphase (clusterOf n)
    (∀ q ∈ plainRegs, q.level ≤ pl → reads q.num (q.get s.me))
      ∧ reads 0x000 (s.cur.setWidth 64) ∧ reads 0x002 s.me.status
      ∧ reads 0x001 ((0#8 ++ 1#1 ++ (fld n 7 2 : BitVec 2) ++ (fld n 4 3 : BitVec 3) ++ (fld n 2 2 : BitVec 2) ++ (fld n 0 2 : BitVec 2) ++ 0#14).setWidth 64)
      ∧ reads 0x041 0 ∧ reads 0x04C s.me.mboxstat
      ∧ ((∀ k : Fin 4, s.me.mbox[k].length ≤ 16) → ∀ k : Fin 4,
          fld s.me.mboxstat (16 * k.val) 8 = BitVec.ofNat 8 s.me.mbox[k].length ∧ fld s.me.mboxstat (16 * k.val + 8) 8 = s.me.lost[k])
      ∧ reads 0x050 (capTiles c (fun m => m.scrBanks.live)) ∧ reads 0x051 (capTiles c (fun m => m.tregBanks.live)) ∧ reads 0x052 (capL2 c)
      ∧ reads 0x053 (BitVec.ofNat 64 (c.weightLive 0) ||| BitVec.ofNat 64 (c.weightLive 1) <<< 16 ||| BitVec.ofNat 64 (c.weightLive 2) <<< 32
          ||| BitVec.ofNat 64 (c.weightLive 3) <<< 48)
      ∧ reads 0x054 (BitVec.ofNat 64 (s.module.llcLive 0) ||| BitVec.ofNat 64 (s.module.llcLive 1) <<< 16
          ||| BitVec.ofNat 64 (s.module.llcLive 2) <<< 32 ||| BitVec.ofNat 64 (s.module.llcLive 3) <<< 48)
      ∧ reads 0x062 (c.cap.setWidth 64) ∧ reads 0x063 (c.used.setWidth 64 <<< 16 ||| c.budget.setWidth 64)
      ∧ reads 0x064 phase ∧ phase.getLsbD 17 = c.inWin
      ∧ (s.cycle < c.refNext → c.refNext ≤ s.cycle + (if c.inWin then 1125 else 70875) → fld phase 0 17 = BitVec.ofNat 17 (c.refNext - s.cycle))
      ∧ (1 ≤ pl → reads 0x020 (masked s.me.space ((s.gen (fld s.me.space 0 12).toNat).gen.setWidth 64 <<< 12) 0xF000)
          ∧ reads 0x023 s.me.dirtygran ∧ reads 0x024 s.me.partition ∧ reads 0x030 s.me.faultqbase)
      ∧ reads 0x060 (s.arbrank (clusterOf s.cur)) ∧ reads 0x061 ((s.clu (clusterOf s.cur)).bound.setWidth 64)
      ∧ (pl = 2 → reads 0x070 s.module.injaddr ∧ reads 0x071 s.module.injctl)
      ∧ (1 ≤ pl → reads 0x072 s.module.errwindow ∧ reads 0x073 s.module.errthresh)
      ∧ reads 0x090 (BitVec.ofNat 64 (s.now s.cur)) ∧ reads 0x091 (BitVec.ofNat 64 s.time)
      ∧ (∀ r, sysLevels r = none → reads r 0)

/-- R80, R81: at a register's level SWR writes the RW fields of the register named, keeps its other fields, and changes no other
register; SSET and SCLR do so with the old value ORed or cleared by g[a], and write the old value to g[d]. -/
def Rule.SystemRegisterWrites : Prop :=
  ∀ (s : State) (d a : BitVec 5) (q : PlainReg), q ∈ plainRegs → q.level ≤ (fld s.me.status 0 2 : BitVec 2).toNat →
    let old := q.get s.me
    let new (v : Word) : Thread := { q.set s.me (masked old v q.mask) with pc := s.pc + 4 }
    Becomes s (exec (.swr a q.num) s) (new (s.rd a))
      ∧ (∃ t, exec (.sset d a q.num) s = .next t ∧ RegsSet s t d old
          ∧ OnlyMe s t { new (old ||| s.rd a) with g := t.me.g })
      ∧ (∃ t, exec (.sclr d a q.num) s = .next t ∧ RegsSet s t d old
          ∧ OnlyMe s t { new (old &&& ~~~s.rd a) with g := t.me.g })

/-- R80, R81, Tables 3.9, 11.1, 11.2, 11.7, 11.10: the registers whose fields are kept from some values, written by SWR, SSET or SCLR at their
level: `SPACE` keeps GEN, which is its space's; `DIRTYGRAN` takes only 16 to 30; `PARTITION`, at host level, keeps FN from 33 to 63;
`FAULTQBASE` keeps SIZE from 12 to 15; `MBOXSTAT` sets the LOST counts alone. -/
def Rule.GuardedRegisterWrites : Prop :=
  ∀ (s : State) (d a : BitVec 5),
    let m := s.me
    let pl := (fld m.status 0 2 : BitVec 2).toNat
    let x := s.rd a
    let does (r : BitVec 12) (old : Word) (new : Word → Thread) : Prop :=
      Becomes s (exec (.swr a r) s) { new x with pc := s.pc + 4 }
        ∧ (∃ t, exec (.sset d a r) s = .next t ∧ RegsSet s t d old ∧ OnlyMe s t { new (old ||| x) with g := t.me.g, pc := s.pc + 4 })
        ∧ (∃ t, exec (.sclr d a r) s = .next t ∧ RegsSet s t d old ∧ OnlyMe s t { new (old &&& ~~~x) with g := t.me.g, pc := s.pc + 4 })
    (1 ≤ pl → does 0x020 (masked m.space ((s.gen (fld m.space 0 12).toNat).gen.setWidth 64 <<< 12) 0xF000)
        (fun v => { m with space := masked m.space v 0x1FFFFF0FFF }))
      ∧ (1 ≤ pl → does 0x023 m.dirtygran (fun v => if 16 ≤ (fld v 0 5 : BitVec 5).toNat ∧ (fld v 0 5 : BitVec 5).toNat ≤ 30 then
          { m with dirtygran := masked m.dirtygran v 0x1F } else m))
      ∧ (pl = 2 → does 0x024 m.partition (fun v =>
          let fields := if (fld v 26 6 : BitVec 6).toNat ≤ 32 then 0xFFFFFFFFFFFFFFFC else 0xFFFFFFFF03FFFFFC
          { m with partition := masked m.partition v fields }))
      ∧ (1 ≤ pl → does 0x030 m.faultqbase (fun v =>
          let fields := if (fld v 0 4 : BitVec 4).toNat ≤ 11 then 0xFFFFFFFFFF00F else 0xFFFFFFFFFF000
          { m with faultqbase := masked m.faultqbase v fields }))
      ∧ does 0x04C m.mboxstat (fun v => { m with lost := #v[fld v 8 8, fld v 24 8, fld v 40 8, fld v 56 8] })

/-- R64: a write of `STATUS`, by SWR or as a step of its own, sets IE and PIE, sets PPL at guest or host level when the value does not
exceed PL, and never changes PL. -/
def Rule.StatusWrites : Prop :=
  ∀ (s : State) (a : BitVec 5),
    let new (old v : Word) : Word :=
      let pl : BitVec 2 := fld old 0 2
      let ppl : BitVec 2 := fld v 2 2
      0#58 ++ fld v 5 1 ++ fld v 4 1 ++ (if pl ≠ 0 ∧ ppl.toNat ≤ pl.toNat then ppl else fld old 2 2) ++ pl
    Becomes s (exec (.swr a 0x002) s) { s.me with status := new s.me.status (s.rd a), pc := s.pc + 4 }
      ∧ ∃ t, exec .statusWrite s = .next t
          ∧ OnlyThread s t s.ev.n { s.thr s.ev.n with status := new (s.thr s.ev.n).status s.ev.v }

/-- R79, R82: an access below a register's level raises PRIV with the register's number and leaves every register unchanged; so does a user
write, by SWR, SSET or SCLR, of a number that has no write level, which other levels' writes pass over, SSET and SCLR with the value SRD
would read in g[d].  SSET and SCLR of MBOXOUT and MBOXIN0 to MBOXIN3 write zero to g[d] at every level and do nothing else; SWR of
MBOXIN0 to MBOXIN3 is that of a register with no write level. -/
def Obligations.SystemRegisterLevels : Prop :=
  ∀ (s : State) (d a : BitVec 5) (r : BitVec 12),
    let pl := (fld s.me.status 0 2 : BitVec 2).toNat
    let priv (i : Instr) : Prop := Traps s (exec i s) 0x02 (r.setWidth 64)
    let box : Prop := r = 0x041 ∨ 0x48 ≤ r.toNat ∧ r.toNat ≤ 0x4B
    (∀ lr lw, sysLevels r = some (lr, lw) → pl < lr → priv (.srd d r) ∧ priv (.sset d a r) ∧ priv (.sclr d a r))
      ∧ (∀ lr lw, sysLevels r = some (lr, some lw) → pl < lw → priv (.swr a r) ∧ priv (.sset d a r) ∧ priv (.sclr d a r))
      ∧ ((sysLevels r = none ∨ ∃ lr, sysLevels r = some (lr, none)) → pl = 0 → priv (.swr a r))
      ∧ ((sysLevels r = none ∨ ∃ lr, sysLevels r = some (lr, none)) → pl ≠ 0 →
          Becomes s (exec (.swr a r) s) { s.me with pc := s.pc + 4 })
      ∧ ((sysLevels r = none ∨ ∃ lr, sysLevels r = some (lr, none)) → ¬box →
          (pl = 0 → priv (.sset d a r) ∧ priv (.sclr d a r))
          ∧ (pl ≠ 0 → ∀ i ∈ [Instr.sset d a r, .sclr d a r], exec i s = exec (.srd d r) s
              ∧ ∃ v, Writes s (exec i s) d v (s.pc + 4) ∧ (sysLevels r = none → v = 0)))
      ∧ (box → ∀ i ∈ [Instr.sset d a r, .sclr d a r], Writes s (exec i s) d 0 (s.pc + 4))
      ∧ (0x48 ≤ r.toNat → r.toNat ≤ 0x4B → (pl = 0 → priv (.swr a r))
          ∧ (pl ≠ 0 → Becomes s (exec (.swr a r) s) { s.me with pc := s.pc + 4 }))

/-- R80, R109, R374, R398: a permitted write of the registers of a cluster or of the module, by SWR or as a step of its own, changes
that register alone; a write of `INJCTL` arms the injector only for a KIND that arms, clears FIRED where a one is written, and
starts its count of flits again. -/
def Rule.SharedRegisterWrites : Prop :=
  ∀ (s : State) (a : BitVec 5),
    let pl := (fld s.me.status 0 2 : BitVec 2).toNat
    let v := s.rd a
    let c := clusterOf s.cur
    let on (r : BitVec 12) (u : State) : Prop := exec (.swr a r) s = .next u.advance
    let inj (w : Word) : Word :=
      (w &&& 0x3FFCFFFFFFFF07FF) ||| (if w.getLsbD 63 ∧ fld w 58 2 ≠ 3#2 then 1#64 <<< 63 else 0)
        ||| (if s.module.injctl.getLsbD 62 ∧ ¬w.getLsbD 62 then 1#64 <<< 62 else 0)
    (1 ≤ pl → on 0x060 (s.modClu c (fun k => { k with ceil := fld v 0 4 })) ∧ on 0x061 (s.modClu c (fun k => { k with bound := fld v 0 8 })))
      ∧ (pl = 2 → on 0x070 { s with module := { s.module with injaddr := v } }
          ∧ on 0x071 { s with module := { s.module with injctl := inj v, injSeen := 0 } }
          ∧ on 0x072 { s with module := { s.module with errwindow := (fld v 0 32 : BitVec 32).setWidth 64 } }
          ∧ on 0x073 { s with module := { s.module with errthresh := (fld v 0 8 : BitVec 8).setWidth 64 } })
      ∧ exec .injctlWrite s = .next { s with module := { s.module with injctl := inj s.ev.v, injSeen := 0 } }

/-- R80: the write of a register of thread n as a step of its own, permitted at that thread's level, writes its RW fields and changes
nothing else. -/
def Rule.RegisterWriteStep : Prop :=
  ∀ (s : State) (q : PlainReg), q ∈ plainRegs → s.ev.k = q.num.toNat →
    let m := s.thr s.ev.n
    q.level ≤ (fld m.status 0 2 : BitVec 2).toNat →
      ∃ t, exec .sysregWrite s = .next t ∧ OnlyThread s t s.ev.n (q.set m (masked (q.get m) s.ev.v q.mask))

/-- R87, R88: a permitted write to `MBOXOUT`, by SWR or as a step of its own, sends one flit with the value to the thread and box of
`MBOXDEST`, whatever the state of that mailbox; one whose destination the partition does not allow raises ACCESS with `MBOXDEST`
and sends none. -/
def Rule.MailboxSend : Prop :=
  ∀ (s : State) (a : BitVec 5),
    let flit (n : BitVec 9) (m : Thread) (v : Word) : MboxFlit := ⟨n.toNat, fld m.mboxdest 0 9, fld m.mboxdest 9 2, v⟩
    let barred (m : Thread) : Prop := (fld m.partition 26 6 : BitVec 6) ≠ 0 ∧ (fld m.status 0 2 : BitVec 2).toNat < 2
      ∧ m.partition.getLsbD (32 + (clusterOf (fld m.mboxdest 0 9)).toNat) = false
    (¬barred s.me → exec (.swr a 0x041) s = .next { s with flits := s.flits ++ [flit s.cur s.me (s.rd a)] }.advance)
      ∧ (barred s.me → Traps s (exec (.swr a 0x041) s) 0x05 s.me.mboxdest)
      ∧ (¬barred (s.thr s.ev.n) → exec .mboxoutWrite s
          = .next { s with cur := s.ev.n, flits := s.flits ++ [flit s.ev.n (s.thr s.ev.n) s.ev.v] })

/-- R90: SRD of `MBOXINn`, or that read as a step of its own, moves the oldest flit of mailbox n to the register and removes it; while
the mailbox is empty the thread waits at the word. -/
def Rule.MailboxReceive : Prop :=
  ∀ (s : State) (d : BitVec 5) (b : BitVec 2),
    (∀ v r, s.me.mbox[b.toNat] = v :: r →
        ∃ t, exec (.srd d (0x048 + b.setWidth 12)) s = .next t ∧ RegsSet s t d v
          ∧ OnlyMe s t { s.me with g := t.me.g, mbox := s.me.mbox.set b.toNat r, pc := s.pc + 4 })
      ∧ (s.me.mbox[b.toNat] = [] → Becomes s (exec (.srd d (0x048 + b.setWidth 12)) s) { s.me with wait := .reissue })
      ∧ (let u : State := { s with cur := s.ev.n }
        s.ev.k = b.toNat → fld s.ev.w 0 5 = d → ∀ v r, u.me.mbox[b.toNat] = v :: r →
          ∃ t, exec .mboxinRead s = .next t ∧ RegsSet u t d v ∧ OnlyMe u t { u.me with g := t.me.g, mbox := u.me.mbox.set b.toNat r })

/-- R89, R99, R100, R368: the oldest flit in flight of its sender and mailbox arrives: it is appended while the mailbox holds fewer than
16 flits, its thread is no empty context and no area of it is being written (R366), PEND of entry 10 + box rises or OVF is set, and a thread that waits in WFE goes on;
else it is discarded and LOST rises, at most to 255.  Nothing else changes.  Flits in flight, and their order, are the model's (log 10). -/
def Rule.FlitArrival : Prop :=
  ∀ (s : State) (f : MboxFlit), s.flits[s.ev.k]? = some f →
    (∀ g ∈ s.flits.take s.ev.k, ¬(g.src = f.src ∧ g.dest = f.dest ∧ g.box = f.box)) →
    let m := s.thr f.dest
    let i := 10 + f.box.toNat
    let e := m.trig[i]!
    let e' := if trigPend e = 255 then e ||| (1#64 <<< 46) else fld e 56 8 ++ (trigPend e + 1) ++ fld e 0 48
    let lost := m.lost[f.box.toNat]
    ∃ t, exec .mboxFlitArrival s = .next t
      ∧ OnlyThread { s with flits := s.flits.eraseIdx s.ev.k } t f.dest
          (if m.run ≠ .empty ∧ m.frozen = false ∧ m.mbox[f.box.toNat].length < 16 then
            { m with mbox := m.mbox.set f.box.toNat (m.mbox[f.box.toNat] ++ [f.val])
                     trig := m.trig.setIfInBounds i e'
                     wait := if m.wait = .wfe then .none else m.wait
                     pc := if m.wait = .wfe then m.pc + 4 else m.pc }
          else { m with lost := m.lost.set f.box.toNat (if lost = 255 then 255 else lost + 1) })

/-- R408: a 64-bit write to the FLIT of a doorbell sends one flit to the thread and box of its DEST, unless a virtual function's DEST
names a cluster no partition of that function holds, which discards and counts it; a narrower write has no effect; a write to
DISCARDS clears the count.  That the flit is then on its way, in order among those of its function, is the model's choice (log 10). -/
def Rule.Doorbells : Prop :=
  ∀ s : State, (s.ev.f).toNat ≤ 32 →
    let f := s.ev.f
    let b := Tab.get {} s.doorbells f.toNat
    let n : BitVec 9 := fld b.dest 0 9
    let allowed := f = 0 ∨ s.fnMask f (clusterOf n) = true
    (s.ev.k = 8 → allowed → exec .doorbellFlit s = .next { s with flits := s.flits ++ [⟨512 + f.toNat, n, fld b.dest 9 2, s.ev.v⟩] })
      ∧ (s.ev.k = 8 → ¬allowed → ∃ t, exec .doorbellFlit s = .next t ∧ { t with doorbells := s.doorbells } = s
          ∧ ∀ j, Tab.get {} t.doorbells j = if j = f.toNat then
              { b with discards := if b.discards = 0xFFFFFFFF then b.discards else b.discards + 1 } else Tab.get {} s.doorbells j)
      ∧ (s.ev.k ≠ 8 → exec .doorbellFlit s = .next s)
      ∧ ∃ t, exec .discardsWrite s = .next t ∧ { t with doorbells := s.doorbells } = s
          ∧ ∀ j, Tab.get {} t.doorbells j = if j = f.toNat then { b with discards := 0 } else Tab.get {} s.doorbells j

/-- R97, R101: at a boundary of a ready thread at user level with IE set and no save asked of it, the lowest trigger entry with V set
and events pending is delivered: PEND falls by one, TRAPPC is the word not yet executed, TRAPINFO holds what is still pending, GEN
and the entry, PPL is 0, PIE 1, IE 0, and the PC is the handler's.  Nothing else changes. -/
def Obligations.TriggerDelivery : Prop :=
  ∀ (s : State) (i : Fin 16),
    let m := s.thr s.ev.n
    let e := m.trig[i]
    m.run = .ready → fld m.status 4 1 = 1#1 → fld m.status 0 2 = 0#2 → m.saver = none →
    (m.wait = .none ∨ m.wait = .reissue ∨ m.wait = .wfe ∨ ∃ d, m.wait = .claim d) →
    trigV e = true → trigPend e ≠ 0 → (∀ j : Fin 16, j < i → ¬(trigV m.trig[j] = true ∧ trigPend m.trig[j] ≠ 0)) →
    ∃ t, exec .triggerDelivery s = .next t
      ∧ OnlyThread s t s.ev.n { m with
          wait := .none
          trig := m.trig.set i.val (fld e 56 8 ++ (trigPend e - 1) ++ fld e 0 48)
          trappc := if m.wait = .wfe then m.pc + 4 else m.pc
          trapcause := 0x0C
          trapinfo := BitVec.ofNat 64 ((trigPend e).toNat - 1) <<< 16 ||| (fld e 56 8 : BitVec 8).setWidth 64 <<< 8 ||| BitVec.ofNat 64 i.val
          status := 0#58 ++ 1#1 ++ 0#1 ++ 0#2 ++ 0#2
          pc := (fld e 0 46 : BitVec 46).setWidth 64 <<< 2 }

/-- R96: a wait in WFE may end with none of its events: the thread goes on with the next word and nothing else changes. -/
def Rule.WaitEnds : Prop :=
  ∀ s : State, (s.thr s.ev.n).wait = .wfe →
    ∃ t, exec .wfeSpuriousEnd s = .next t
      ∧ OnlyThread s t s.ev.n { s.thr s.ev.n with wait := .none, pc := (s.thr s.ev.n).pc + 4 }

/-! ## Loads, stores and translation -/

/-- R25, R329, R331: an address with a bit above 51 set faults with ACCESS before any table is read; a translation the cache holds for
the space, its generation, the access and the level is used without a walk, and then translating changes nothing. -/
def Rule.Translation : Prop :=
  ∀ (s : State) (c : Capt) (k : Access) (sh : Bool) (va : Word) (w : Waiter),
    ((fld va 52 12 : BitVec 12) ≠ 0 → s.resolve c k sh va w = (s, .fault 0x05))
      ∧ ((fld va 52 12 : BitVec 12) = 0 → c.spaceOk = true →
          ∀ (e : TlbEntry) (pa : Nat), s.tlb.find? (fun e => e.serves s c k sh va.toNat) = some e → e.target = .device pa →
            let a := pa + (va.toNat - e.base)
            (c.paOk a = true ∧ (k = .write → c.marksOk a = true) →
              s.resolve c k sh va w = (s, .ok a ⟨.device a, e.desc⟩))
            ∧ (c.paOk a = false → s.resolve c k sh va w = (s, .fault 0x05)))

/-- R328 to R331: an access that no cached translation serves reads the level 3 entry from PTBASE: PAGE when it is not valid, ACCESS when it
is a leaf; from an entry that points on, a valid device leaf of 1 GiB at level 2 whose permissions allow the access gives the
address, and A, and D for a write, are set in the leaf at its home; a leaf that does not allow it raises ACCESS. -/
def Rule.TableWalk : Prop :=
  ∀ (s u w : State) (c : Capt) (k : Access) (sh : Bool) (va e e' : Word) (q : Waiter),
    (fld va 52 12 : BitVec 12) = 0 → c.spaceOk = true → s.tlb.find? (fun e => e.serves s c k sh va.toNat) = none →
    let a := (fld c.ptbase 16 26).toNat * 65536 + 8 * (va.toNat / 2 ^ 39 % 2 ^ 13)
    c.paOk a = true → s.homeRead a 8 = (u, e.toNat, false) →
    (e.getLsbD 0 = false → s.resolve c k sh va q = (u, .fault 0x04))
      ∧ (e.getLsbD 0 = true → e.getLsbD 1 = true → s.resolve c k sh va q = (u, .fault 0x05))
      ∧ (e.getLsbD 0 = true → e.getLsbD 1 = false → e.getLsbD 7 = false → (fld e 40 24 : BitVec 24) = 0 →
          let a' := (fld e 6 1).toNat * 2 ^ 40 + (fld e 8 32).toNat * 256 + 8 * (va.toNat / 2 ^ 30 % 2 ^ 9)
          c.paOk a' = true → u.homeRead a' 8 = (w, e'.toNat, false) →
          e'.getLsbD 0 = true → e'.getLsbD 1 = true → (fld e' 7 1 : BitVec 1) = 0 → (fld e' 8 8 : BitVec 8) = 0 →
          (fld e' 40 24 : BitVec 24) = 0 → (fld e' 16 24).toNat * 65536 % 2 ^ 30 = 0 →
          let allowed := (k = .write → e'.getLsbD 2 = true) ∧ (c.pl = 0 → e'.getLsbD 3 = true)
          let pa := (fld e' 6 1).toNat * 2 ^ 40 + (fld e' 16 24).toNat * 65536 + va.toNat % 2 ^ 30
          (allowed → c.paOk pa = true → (k = .write → c.marksOk pa = true) →
              ∃ t, s.resolve c k sh va q = (t, .ok pa ⟨.device pa, none⟩) ∧ t.threads = s.threads
                ∧ t.mem = writeLE w.mem a' 8 (e' ||| 0x10 ||| (if k = .write then 0x20 else 0)).toNat)
            ∧ (¬allowed → s.resolve c k sh va q = (w, .fault 0x05)))

/-- R76, R77: an LD whose address is a multiple of its size and resolves, and whose bytes are not poisoned, writes the bytes its core
reads, sign-extended for sizes 0 to 2 and zero-extended for 4 to 6, and goes on with the next word; it changes no other register, no
other thread and no byte of memory beyond what resolving the address changed. -/
def Rule.LoadWord : Prop :=
  ∀ (s u w : State) (d a : BitVec 5) (z : BitVec 3) (o : BitVec 13) (n v key : Nat) (x : Xl),
    (z, n) ∈ [(0#3, 1), (1#3, 2), (2#3, 4), (3#3, 8), (4#3, 1), (5#3, 2), (6#3, 4)] →
    let ea := s.rd a + o.signExtend 64
    ea.toNat % n = 0 → s.resolve s.me.cred .read false ea (.thread s.cur) = (u, .ok key x) →
    u.l1Load (coreOf s.cur) key n = (w, v, false) →
    ∃ t, exec (.ld d a z o) s = .next t
      ∧ RegsSet s t d (if z.toNat < 3 then BitVec.ofInt 64 ((BitVec.ofNat (8 * n) v).toInt) else BitVec.ofNat 64 v)
      ∧ OnlyMe w t { s.me with g := t.me.g, pc := s.pc + 4 } ∧ w.threads = s.threads ∧ w.cur = s.cur ∧ SameMemory u t

/-- R67, R76, R270, R334: an ST whose address is a multiple of its size and resolves marks its granule where dirty tracking is on, makes the
bytes its core's loads read there the low bytes of g[v], lowest first, and leaves every other byte they read as it was; outside the
stored bytes memory itself changes in the marked bitmap alone, and no register and no other thread changes. -/
def Rule.StoreWord : Prop :=
  ∀ (s u : State) (v a : BitVec 5) (z : BitVec 3) (o : BitVec 13) (n key : Nat) (x : Xl),
    (z, n) ∈ [(0#3, 1), (1#3, 2), (2#3, 4), (3#3, 8)] →
    let ea := s.rd a + o.signExtend 64
    ea.toNat % n = 0 → s.resolve s.me.cred .write false ea (.thread s.cur) = (u, .ok key x) → key % n = 0 → Memory.wf s.mem = true →
    let marked := u.markAll (64 * (key / 64)) (s.me.cred.marks key)
    let k := coreOf s.cur
    ∃ t, exec (.st v a z o) s = .next t
      ∧ (∀ b, t.coreByte k b = if key ≤ b ∧ b < key + n then fld (s.rd v) (8 * (b - key)) 8 else marked.coreByte k b)
      ∧ SameMemoryBut marked t key n ∧ t.me = { s.me with pc := s.pc + 4 } ∧ (∀ m, m ≠ s.cur → t.thr m = s.thr m) ∧ t.cur = s.cur

/-- R32, R51, R76: an LD of size 7 or an ST of sizes 4 to 7 raises ILLEGAL, a misaligned address ALIGN with the address, a failed translation its
own cause with the address, a poisoned load UNCORR; g[d] is then unchanged and no byte is stored. -/
def Rule.LoadStoreTraps : Prop :=
  ∀ (s u : State) (d a : BitVec 5) (z : BitVec 3) (o : BitVec 13) (c : BitVec 8),
    let ea := s.rd a + o.signExtend 64
    let n := 2 ^ (z.toNat % 4)
    let fails (k : Access) (i : Instr) : Prop :=
      (ea.toNat % n ≠ 0 → Traps s (exec i s) 0x03 ea)
        ∧ (ea.toNat % n = 0 → s.resolve s.me.cred k false ea (.thread s.cur) = (u, .fault c) → Traps u (exec i s) c ea)
    (z = 7 → Traps s (exec (.ld d a z o) s) 0x01 (((encode (.ld d a z o)).getD 0).setWidth 64))
      ∧ (4 ≤ z.toNat → Traps s (exec (.st d a z o) s) 0x01 (((encode (.st d a z o)).getD 0).setWidth 64))
      ∧ (z ≠ 7 → fails .read (.ld d a z o)) ∧ (z.toNat < 4 → fails .write (.st d a z o))
      ∧ (z ≠ 7 → ea.toNat % n = 0 → ∀ key x w v, s.resolve s.me.cred .read false ea (.thread s.cur) = (u, .ok key x) →
          u.l1Load (coreOf s.cur) key n = (w, v, true) → Traps w (exec (.ld d a z o) s) 0x09 ea)

/-! ## Ordering and entry consistency -/

/-- R288, R289: BIND with an aligned object, base and length of at most 2^32 adds the binding unless the thread has it already, and UNBIND
removes it; neither changes anything else.  A misaligned or zero operand raises ALIGN with that operand, a length above 2^32 ACCESS
with the length, and a seventeenth binding ACCESS with the object. -/
def Obligations.BindWords : Prop :=
  ∀ (s : State) (d a b : BitVec 5),
    let e : Bind := ⟨s.rd d, s.rd a, s.rd b⟩
    let both (p : Instr → Prop) : Prop := p (.bind d a b) ∧ p (.unbind d a b)
    let good := e.obj.toNat % 64 = 0 ∧ e.base.toNat % 64 = 0 ∧ e.len.toNat % 64 = 0 ∧ e.len ≠ 0 ∧ e.len.toNat ≤ 2 ^ 32
    (good → e ∈ s.me.binds → Becomes s (exec (.bind d a b) s) { s.me with pc := s.pc + 4 })
      ∧ (good → e ∉ s.me.binds → s.me.binds.length < 16 →
          Becomes s (exec (.bind d a b) s) { s.me with binds := s.me.binds ++ [e], pc := s.pc + 4 })
      ∧ (good → e ∉ s.me.binds → 16 ≤ s.me.binds.length → Traps s (exec (.bind d a b) s) 0x05 e.obj)
      ∧ (good → Becomes s (exec (.unbind d a b) s) { s.me with binds := s.me.binds.erase e, pc := s.pc + 4 })
      ∧ (e.obj.toNat % 64 ≠ 0 → both (fun i => Traps s (exec i s) 0x03 e.obj))
      ∧ (e.obj.toNat % 64 = 0 → e.base.toNat % 64 ≠ 0 → both (fun i => Traps s (exec i s) 0x03 e.base))
      ∧ (e.obj.toNat % 64 = 0 → e.base.toNat % 64 = 0 → (e.len = 0 ∨ e.len.toNat % 64 ≠ 0) →
          both (fun i => Traps s (exec i s) 0x03 e.len))
      ∧ (e.obj.toNat % 64 = 0 → e.base.toNat % 64 = 0 → e.len.toNat % 64 = 0 → 2 ^ 32 < e.len.toNat →
          both (fun i => Traps s (exec i s) 0x05 e.len))

/-- R290, Table 9.5: with an object aligned, translated for writing, free of poison and not held, ACQX and ACQS take the next ticket; where
that ticket is served at once, ACQX with no sharer left writes the owner, ACQS raises the sharers and serves the next ticket, the lines
of the ranges bound to the object leave the core's L1 and leave its slices but for dirty bytes, and the thread holds the object and
goes on with the next word; where it is not, the thread waits with its ticket.  The stores mark their granules (R334). -/
def Rule.AcquireWords : Prop :=
  ∀ (s u w y : State) (a : BitVec 5) (pa v : Nat) (x : Xl) (rs : Ranges),
    let o := s.rd a
    let cr := s.me.cred
    let c := clusterOf s.cur
    (∀ e b t, s.me.wait ≠ .ticket e b t) → o.toNat % 64 = 0 →
    s.translate cr .write false o = (u, .ok x) → x.target = .device pa → cr.marksOk pa = true →
    (∀ h ∈ s.me.held, h.1 ≠ o) → s.me.held.length < 8 → u.homeRead pa 64 = (w, v, false) →
    let ticket := readLE w.mem pa 4
    let took := w.homeStore cr pa 4 (ticket + 1)
    let sharers := readLE took.mem (pa + 0x14) 4
    let served := readLE took.mem (pa + 4) 4 = ticket
    took.boundTo o = (y, rs) → rs.asked = false →
    let after (i : Instr) (excl : Bool) (m : State) : Prop :=
      ∃ t, exec i s = .next t ∧ t.me = { s.me with wait := .none, held := s.me.held ++ [(o, excl)], pc := s.pc + 4 }
        ∧ t.mem = m.mem ∧ (∀ n, n ≠ s.cur → t.thr n = s.thr n)
        ∧ ∀ line, lineIn rs.list line = true →
            Tab.get {} ((t.clu c).l1Of (fld s.cur 2 2 : BitVec 2).toNat) line = ({} : Line)
              ∧ (t.l2Line c line).valid &&& ~~~(t.l2Line c line).dirty = 0
    (served → sharers = 0 → after (.acqx a) true (y.homeStore cr (pa + 0x10) 4 (s.cur.toNat + 1)))
      ∧ (served → after (.acqs a) false ((y.homeStore cr (pa + 0x14) 4 (sharers + 1)).homeStore cr (pa + 4) 4 (ticket + 1)))
      ∧ (¬served → ∀ p ∈ [(Instr.acqx a, true), (Instr.acqs a, false)], ∃ t, exec p.1 s = .next t
          ∧ OnlyMe took t { s.me with wait := .ticket p.2 o (BitVec.ofNat 32 ticket) })

/-- R291: with an object aligned, translated for writing and free of poison, REL first writes the dirty bytes of the ranges bound to it back
from the cluster's slices; then of an object held with ACQX it raises VERSION, clears the owner and serves the next ticket, of one held
with ACQS it takes one sharer off, and of one not held it raises VERSION alone; the thread no longer holds it and goes on with the next
word.  The stores mark their granules (R334). -/
def Rule.ReleaseWord : Prop :=
  ∀ (s u w y : State) (a : BitVec 5) (pa v : Nat) (x : Xl) (rs : Ranges),
    let o := s.rd a
    let cr := s.me.cred
    let c := clusterOf s.cur
    o.toNat % 64 = 0 → s.translate cr .write false o = (u, .ok x) → x.target = .device pa → cr.marksOk pa = true →
    u.homeRead pa 64 = (w, v, false) → w.boundTo o = (y, rs) → rs.asked = false →
    let raise (m : State) (off n by_ : Nat) : State := m.homeStore cr (pa + off) n (readLE m.mem (pa + off) n + by_)
    let back := y.writeBackIn c rs.list
    ∃ t, exec (.rel a) s = .next t
      ∧ t.mem = (if (o, true) ∈ s.me.held then raise ((raise back 8 8 1).homeStore cr (pa + 0x10) 4 0) 4 4 1
          else if (o, false) ∈ s.me.held then raise back 0x14 4 (2 ^ 32 - 1) else raise back 8 8 1).mem
      ∧ (∀ line, lineIn rs.list line = true → (t.l2Line c line).dirty = 0)
      ∧ t.me = { s.me with held := s.me.held.filter (fun h => h.1 != o), pc := s.pc + 4 }
      ∧ ∀ n, n ≠ s.cur → t.thr n = s.thr n

/-- R76, R290, R291, R372: ACQX, ACQS and REL of an object that is not aligned to 64 trap ALIGN, of one whose translation for writing fails its
cause, of one in the host tier, or whose dirty bitmap lies outside the windows, ACCESS, of one with a poisoned word UNCORR; ACQX and ACQS trap
ACCESS too where the thread holds the object already or holds eight, before the object is read.  Each has the object in TRAPINFO and neither
takes a ticket nor changes the object.  A thread that waits with a ticket in ACQX or ACQS is past these checks. -/
def Rule.AcquireTraps : Prop :=
  ∀ (s u w : State) (a : BitVec 5) (pa v : Nat) (x : Xl),
    let o := s.rd a
    let m := s.me
    (∀ e b t, m.wait ≠ .ticket e b t) →
    (∀ i ∈ [Instr.acqx a, .acqs a, .rel a],
      (o.toNat % 64 ≠ 0 → Traps s (exec i s) 0x03 o)
        ∧ (o.toNat % 64 = 0 →
            (∀ c, s.translate m.cred .write false o = (u, .error c) → Traps u (exec i s) c o)
            ∧ (s.translate m.cred .write false o = (u, .ok x) →
                (∀ fn pasid ha, x.target = .host fn pasid ha → Traps u (exec i s) 0x05 o)
                ∧ (x.target = .device pa → u.me.cred.marksOk pa = false → Traps u (exec i s) 0x05 o))))
      ∧ (o.toNat % 64 = 0 → s.translate m.cred .write false o = (u, .ok x) → x.target = .device pa → u.me.cred.marksOk pa = true →
          let taken : Prop := (∃ h ∈ u.me.held, h.1 = o) ∨ 8 ≤ u.me.held.length
          (∀ i ∈ [Instr.acqx a, .acqs a], (taken → Traps u (exec i s) 0x05 o)
              ∧ (¬taken → u.homeRead pa 64 = (w, v, true) → Traps w (exec i s) 0x09 o))
          ∧ (u.homeRead pa 64 = (w, v, true) → Traps w (exec (.rel a) s) 0x09 o))

/-- R286: FENCE at scope 0 discards the core's own copies alone; at scopes 1 to 3 it also leaves no dirty byte and no clean byte in its cluster's
slices, and every byte that was dirty there now stands in memory, the other bytes as before but for bitmaps that a line marks; it goes
on with the next word and changes no register.  Scopes 4 to 7 raise ILLEGAL. -/
def Obligations.FenceWord : Prop :=
  ∀ (s : State) (z : BitVec 3),
    let c := clusterOf s.cur
    let core := (fld s.cur 2 2 : BitVec 2).toNat
    let bitmap (b : Nat) : Prop := ∃ p ∈ (s.clu c).l2, ∃ m ∈ p.2.marks,
      m.1 + 8 * (64 * p.1 / 2 ^ m.2 / 64) ≤ b ∧ b < m.1 + 8 * (64 * p.1 / 2 ^ m.2 / 64) + 8
    (z.toNat < 4 → ∃ t, exec (.fence z) s = .next t ∧ t.me = { s.me with pc := s.pc + 4 }
        ∧ (∀ n, n ≠ s.cur → t.thr n = s.thr n) ∧ (t.clu c).l1Of core = [] ∧ Tab.get [] (t.clu c).inst core = []
        ∧ (z = 0 → SameMemory s t)
        ∧ (z ≠ 0 → ∀ line, (t.l2Line c line).valid = 0 ∧ (t.l2Line c line).dirty = 0)
        ∧ (z ≠ 0 → Memory.wf s.mem = true → ∀ line i, i < 64 → ¬bitmap (64 * line + i) → cellRead t.mem (64 * line + i)
            = if (s.l2Line c line).dirty.getLsbD i then fld (s.l2Line c line).data (8 * i) 8 else cellRead s.mem (64 * line + i)))
      ∧ (4 ≤ z.toNat → Traps s (exec (.fence z) s) 0x01 (((encode (.fence z)).getD 0).setWidth 64))

/-- R293: a far atomic on an aligned address that translates for writing, free of poison, reads the old value at the home, writes the new
one there, marking its granule (R334), and writes the old, zero-extended, to g[d]: sum, and, or, xor, signed and unsigned least and
greatest, exchange, and compare and swap against g[d].  No other byte of memory, no other register and no other thread changes.  Each traps
before either effect: ALIGN for a misaligned address, the cause of a translation that fails, ACCESS for a host page or a dirty bitmap
outside the windows, UNCORR for poison, all with the address. -/
def Obligations.AtomicWords : Prop :=
  ∀ (s u w : State) (d a b : BitVec 5) (z : BitVec 1) (pa old : Nat) (x : Xl),
    let ea := s.rd a
    let n := if z = 1 then 8 else 4
    let line := (pa - pa % 64, pa - pa % 64 + 64)
    let home := ((u.dropL1In (coreOf s.cur) [line]).dropClean (clusterOf s.cur) (pa / 64)).homeRead pa n
    let all := [Instr.aadd d a b z, .aand d a b z, .aor d a b z, .axor d a b z, .amin d a b z, .amax d a b z, .aminn d a b z, .amaxn d a b z
      , .axchg d a b z, .acas d a b z]
    (∀ i ∈ all,
      (ea.toNat % n ≠ 0 → Traps s (exec i s) 0x03 ea)
        ∧ (ea.toNat % n = 0 →
            (∀ c, s.translate s.me.cred .write false ea = (u, .error c) → Traps u (exec i s) c ea)
            ∧ (s.translate s.me.cred .write false ea = (u, .ok x) →
                (∀ fn pasid ha, x.target = .host fn pasid ha → Traps u (exec i s) 0x05 ea)
                ∧ (x.target = .device pa → s.me.cred.marksOk pa = false → Traps u (exec i s) 0x05 ea)
                ∧ (x.target = .device pa → s.me.cred.marksOk pa = true → home = (w, old, true) → Traps w (exec i s) 0x09 ea))))
    ∧ (ea.toNat % n = 0 → s.translate s.me.cred .write false ea = (u, .ok x) → x.target = .device pa → s.me.cred.marksOk pa = true →
    home = (w, old, false) →
    let m := 2 ^ (8 * n)
    let y := (s.rd b).toNat % m
    let sgn (q : Nat) : Int := (BitVec.ofNat (8 * n) q).toInt
    let gives (i : Instr) (new : Nat) : Prop :=
      ∃ t, exec i s = .next t ∧ RegsSet s t d (BitVec.ofNat 64 old) ∧ t.mem = writeLE (w.markAll pa (s.me.cred.marks pa)).mem pa n (new % m)
        ∧ t.me = { s.me with g := t.me.g, pc := s.pc + 4 } ∧ ∀ k, k ≠ s.cur → t.thr k = s.thr k
    gives (.aadd d a b z) (old + y) ∧ gives (.aand d a b z) (old &&& y) ∧ gives (.aor d a b z) (old ||| y)
      ∧ gives (.axor d a b z) (old ^^^ y) ∧ gives (.amin d a b z) (if sgn old ≤ sgn y then old else y)
      ∧ gives (.amax d a b z) (if sgn y ≤ sgn old then old else y) ∧ gives (.aminn d a b z) (if old ≤ y then old else y)
      ∧ gives (.amaxn d a b z) (if y ≤ old then old else y) ∧ gives (.axchg d a b z) y
      ∧ gives (.acas d a b z) (if old = (s.rd d).toNat % m then y else old))

/-! ## Regions: claims, loads, periods -/

/-- R105: a region word issued in a state its instruction does not allow answers NOREGION when there is no region and BADSTATE otherwise, and
changes nothing else. -/
def Obligations.RegionStateRefusals : Prop :=
  ∀ (s : State) (d a b : BitVec 5),
    let st := (s.reg s.cur).st
    let refuses (i : Instr) (ok : List Nat) : Prop :=
      st.toNat ∉ ok → Answers s (exec i s) d (if st = 0 then 0x101 else 0x102) 0
    refuses (.rload d a) [2] ∧ refuses (.rswap d a) [3, 7] ∧ refuses (.rdrain d) [4, 5] ∧ (s.me.wait ≠ .inside → refuses (.rsweep d) [4, 6])
      ∧ refuses (.rkill d) [4, 6, 8] ∧ refuses (.rreplay d) [9]
      ∧ refuses (.rfeed d a b) [3, 5, 7] ∧ refuses (.rtap d a b) [3, 5, 7]
      ∧ refuses (.rfeedBridge d a b) [3, 5, 7] ∧ refuses (.rtapBridge d a b) [3, 5, 7]
      ∧ refuses (.rstart d a) (if imgInvar (s.reg s.cur).image then [3, 7] else [3, 5, 7])
      ∧ refuses (.rswapTd d a) [4] ∧ (s.me.wait ≠ .inside → refuses (.rmark d a) [4, 6])

/-- R106, R124: RCLAIM with no region, or with a claim pending, and a legal claim word enters it in PENDING, a word equal to the pending
one keeping its age; where an arbiter cycle falls between the entry and the answer and admits the claim it answers OK (whether one does is
open, log 83), else with `.n` it answers PENDING and without it the thread waits.  An illegal word answers BADARG, a region with pages
BADSTATE, and nothing else changes. -/
def Rule.ClaimWord : Prop :=
  ∀ (s : State) (d a : BitVec 5),
    let m := s.me
    let r := m.region
    let w := s.rd a
    let pl : BitVec 2 := fld m.status 0 2
    let c := clusterOf s.cur
    let legal : Prop := (fld w 14 50 : BitVec 50) = 0 ∧ ¬(w.getLsbD 12 = true ∧ w.getLsbD 13 = true)
      ∧ (pl = 0 → (fld w 4 4 : BitVec 4).toNat ≤ (s.clu c).ceil.toNat)
      ∧ ¬((fld m.partition 26 6 : BitVec 6) ≠ 0 ∧ pl.toNat < 2 ∧ m.partition.getLsbD (32 + c.toNat) = false)
    let same : Bool := r.st == 1 && m.claim.map (·.word) == some w
    let m' : Thread := { m with claim := if same then m.claim else some ⟨w, s.claims, 0⟩, region := { r with st := 1 } }
    (r.st.toNat ≤ 1 → legal → ∃ u, OnlyMe { s with claims := if same then s.claims else s.claims + 1 } u m'
        ∧ (let v := u.arbiter c
          let admitted : Prop := Config.admitsAtOnce s.tick = true ∧ v.me.claim = none
          (admitted → ∀ n, Answers v (exec (.rclaim d a n) s) d 0 0)
            ∧ (¬admitted → Answers u (exec (.rclaim d a 1) s) d 0x100 0
              ∧ ∃ t, exec (.rclaim d a 0) s = .next t ∧ OnlyMe u t { m' with wait := .claim d })))
      ∧ (∀ n, r.st.toNat ≤ 1 → ¬legal → Answers s (exec (.rclaim d a n) s) d 0x103 0)
      ∧ (∀ n, 2 ≤ r.st.toNat → Answers s (exec (.rclaim d a n) s) d 0x102 0)

/-- R107, R108: in a cycle of a cluster's arbiter in which no claim blocks the others and no region waits for its pages, the first claim in
rank order that has room is admitted at the lowest origin, with OK to a thread that waits in RCLAIM, and each claim ranked before it
counts one bypass, at most 255; a blocking claim is admitted alone, or none is. -/
def Rule.ArbiterAdmission : Prop :=
  ∀ (s : State) (n : BitVec 9) (k : Claim) (o : Nat),
    let c := s.ev.c
    let m := s.thr n
    s.threads.all (fun p => !(clusterOf (BitVec.ofNat 9 p.1) == c && p.2.region.st == 8 && !p.2.region.placed)) = true →
    s.eligible c k.word = some o → clusterOf n = c → m.claim = some k → m.region.st = 1 →
    let bump (x : Option Claim) : Option Claim := x.map (fun y => { y with bypass := Nat.min 255 (y.bypass + 1) })
    let admits (before : List (BitVec 9 × Claim)) : Prop := ∃ t, exec .arbiterCycle s = .next t
      ∧ t.thr n = { m with
          claim := none, region := { m.region with st := 2, claim := k.word, origin := BitVec.ofNat 4 o, placed := true }
          g := (t.thr n).g
          wait := match m.wait with | .claim _ => .none | w => w
          pc := match m.wait with | .claim _ => m.pc + 4 | _ => m.pc }
      ∧ (∀ d, m.wait = .claim d → ∀ r, (t.thr n).rd r = if r = d ∧ r ≠ 0 then 0 else m.rd r)
      ∧ ((∀ d, m.wait ≠ .claim d) → (t.thr n).g = m.g)
      ∧ (∀ q, q ≠ n → t.thr q = { s.thr q with claim := bump^[(before.filter (fun p => p.1 == q)).length] (s.thr q).claim })
      ∧ (t.clu c).used = BitVec.ofNat 8 ((s.clu c).used.toNat + claimUnits k.word) ∧ t.mem = s.mem
    (s.blocking c = none → (s.ranked c).find? (fun p => (s.eligible c p.2.word).isSome) = some (n, k) →
        admits ((s.ranked c).takeWhile (fun p => p.1 != n)))
      ∧ (s.blocking c = some (n, k) → admits [])
      ∧ ∀ p, s.blocking c = some p → s.eligible c p.2.word = none → exec .arbiterCycle s = .next s

/-- R113, R114, R122, R309: RLOAD and RSWAP of an image that reads and passes the loader's checks leave the region LOADED with that image,
no token, no operation, and the bindings its ports fit; RSWAP.td keeps the region as it is, with the image to follow; each answers OK.
While a WLOAD runs in a quarter the image would bind, the word waits.  An image that fails a check answers the check's code and offset and
changes no region; a misaligned address raises ALIGN, one whose read faults that fault. -/
def Rule.LoadRegionWords : Prop :=
  ∀ (s u : State) (d a : BitVec 5) (img : Nat),
    let r := s.me.region
    let allowed (i : Instr) : Prop := (i = .rload d a ∧ r.st = 2) ∨ (i = .rswap d a ∧ (r.st = 3 ∨ r.st = 7))
      ∨ (i = .rswapTd d a ∧ r.st = 4 ∧ imgInvar r.image = false
          ∧ r.ports.all (fun p => !((p.kind == .ingress || p.kind == .bridgeIn) && p.endSent)) = true)
    ((s.rd a).toNat % 64 ≠ 0 → ∀ i, allowed i → Traps s (exec i s) 0x03 (s.rd a))
      ∧ ((s.rd a).toNat % 64 = 0 → ∀ k va, s.readImage (s.rd a) = (u, .fault k va) → ∀ i, allowed i → Traps u (exec i s) k va)
      ∧ ((s.rd a).toNat % 64 = 0 → s.readImage (s.rd a) = (u, .ok img) →
    (u.loadCheck s.cur img = none → u.wloadRuns s.cur img = false → ∀ i, allowed i →
        ∃ w, Answers w (exec i s) d 0 0 ∧ w.mem = u.mem ∧ (∀ n, n ≠ s.cur → w.thr n = s.thr n)
          ∧ w.me = { s.me with region := w.me.region }
          ∧ (i = .rswapTd d a → w.me.region = { r with newImage := some img })
          ∧ (i ≠ .rswapTd d a → w.me.region = { r with
              st := 3, legal := true, image := img, newImage := none, ports := r.ports.filter (portFits r.image img)
              tiles := freshTiles img, flight := [], pos := [], cmds := [], mark := none, drainAsked := false, kept := [], retry := false
              areaOwed := false, unread := [] }))
      ∧ (u.loadCheck s.cur img = none → u.wloadRuns s.cur img = true → ∀ i, allowed i → Becomes u (exec i s) { s.me with wait := .again })
      ∧ (∀ c off, u.loadCheck s.cur img = some (c, off) → ∀ i, allowed i → Answers u (exec i s) d c.toNat off))

/-- R119, R120, R169, R326: RSTART in a state it allows, with its completion address a multiple of 8 that resolves for reading and every port bound,
starts the period: RUNNING, flags and END count zero, the sinks still to report, the address, credentials, SEED and EPOCH as captured,
and OK; an unbound port answers UNBOUND, a descriptor of the wrong direction BADARG; a misaligned address raises ALIGN.  That cycle 0 of the
period is the cycle after the word's is the model's choice (log 3). -/
def Rule.StartWord : Prop :=
  ∀ (s u : State) (d a : BitVec 5) (key : Nat) (x : Xl),
    let m := s.me
    let va := s.rd a
    (m.region.st = 3 ∨ m.region.st = 7 ∨ m.region.st = 5 ∧ imgInvar m.region.image = false) →
    (va.toNat % 8 ≠ 0 → Traps s (exec (.rstart d a) s) 0x03 va)
      ∧ (va.toNat % 8 = 0 → s.resolve m.cred .read false va (.thread s.cur) = (u, .ok key x) →
          (bindingCheck m m.region = 0 → ∃ w, Answers w (exec (.rstart d a) s) d 0 0 ∧ w.mem = u.mem
              ∧ (∀ n, n ≠ s.cur → w.thr n = s.thr n)
              ∧ w.me = { m with region := { m.region with
                  st := 4, flags := 0, ends := 0, left := imgSinks m.region.image, comp := va, running := true, capt := m.cred
                  seed := m.seed, epoch := m.epoch, drainAsked := false, replays := 0, pos := [], shadow := [], newImage := none
                  ports := m.region.ports.map (fun p => p.opened m), start := s.now s.cur + 1, active := s.now s.cur
                  origs := w.me.region.origs, tiles := w.me.region.tiles } })
            ∧ (bindingCheck m m.region ≠ 0 → Answers u (exec (.rstart d a) s) d (bindingCheck m m.region) 0))

/-- R115, R118: RFEED binds an ingress port of the image to a tensor-table entry that may be read, RTAP an egress port to one that may be written,
in place of the port's earlier binding, and answers OK; an identifier the image has no such port for, an index of 64 or more, or a
descriptor of the wrong direction answers BADARG.  That a bridge channel is bound to a tensor all the same is the model's choice (log 80). -/
def Rule.TensorBindings : Prop :=
  ∀ (s : State) (d a b : BitVec 5),
    let r := s.me.region
    let id : BitVec 14 := fld (s.rd a) 0 14
    let k := (s.rd b).toNat
    let dsc : BitVec 512 := Tab.get 0 s.me.tensors k
    let binds (i : Instr) (ports : List (BitVec 14)) (kind : PortKind) (bit : Nat) : Prop :=
      let good : Prop := (fld (s.rd a) 14 50 : BitVec 50) = 0 ∧ id ∈ ports ∧ k < 64
        ∧ (Tab.has s.me.tensors k = true → dsc.getLsbD bit = true)
      (good → ∃ w, Answers w (exec i s) d 0 0 ∧ OnlyMe s w { s.me with region := { r with
          ports := r.ports.filter (fun q => !(q.id == id && q.kind.inward == kind.inward)) ++ [{ id := id, kind := kind, num := k }] } })
        ∧ (¬good → Answers s (exec i s) d 0x103 0)
    (r.st = 3 ∨ r.st = 5 ∨ r.st = 7) →
    binds (.rfeed d a b) (ingressPorts r.image) .ingress 80 ∧ binds (.rtap d a b) (egressPorts r.image) .egress 81

/-- R119, R319, R320: RFEED.bridge makes the region the consumer of a bridge whose buffer is not in use, RTAP.bridge its producer, and RTAP.bridge to
a number from 0xFF00 binds a port fed by an ECMD node to that engine's command port; each answers OK.  That a channel that is no bridge
channel is bound all the same is the model's choice (log 80). -/
def Rule.BridgeBindings : Prop :=
  ∀ (s : State) (d a b : BitVec 5),
    let r := s.me.region
    let id : BitVec 14 := fld (s.rd a) 0 14
    let k := (s.rd b).toNat
    let br := Tab.get {} s.bridges k
    let bound (kind : PortKind) (num : Nat) : Thread := { s.me with region := { r with
      ports := r.ports.filter (fun q => !(q.id == id && q.kind.inward == kind.inward)) ++ [{ id := id, kind := kind, num := num }] } }
    let unused : Prop := br.live = false ∨ ∃ n p, br.consumer = some (n, p) ∧ (s.reg n).edgeFreed p = true
    (r.st = 3 ∨ r.st = 5 ∨ r.st = 7) → (fld (s.rd a) 14 50 : BitVec 50) = 0 → k < 0x10000 →
    (id ∈ ingressPorts r.image → ¬(0xFF00 ≤ k ∧ k ≤ 0xFF1F) → unused → ∃ w, Answers w (exec (.rfeedBridge d a b) s) d 0 0
        ∧ OnlyMe { s with bridges := w.bridges } w (bound .bridgeIn k)
        ∧ ∀ j, Tab.get {} w.bridges j = if j = k then { br with consumer := some (s.cur, id), buffer := {} } else Tab.get {} s.bridges j)
      ∧ (id ∈ egressPorts r.image → ¬(0xFF00 ≤ k ∧ k ≤ 0xFF1F) → unused → ∃ w, Answers w (exec (.rtapBridge d a b) s) d 0 0
          ∧ OnlyMe { s with bridges := w.bridges } w (bound .bridgeOut k)
          ∧ ∀ j, Tab.get {} w.bridges j = if j = k then { br with producer := some (s.cur, id) } else Tab.get {} s.bridges j)
      ∧ (id ∈ egressPorts r.image → 0xFF00 ≤ k → k ≤ 0xFF1F → k % 8 ≠ 7 → ecmdFed r.image id = true →
          ∃ w, Answers w (exec (.rtapBridge d a b) s) d 0 0 ∧ OnlyMe s w (bound .command (k - 0xFF00)))

/-- R121, R125, Table 4.9: RDRAIN asks for the drain, a region whose period has ended becoming DRAINING; RWAIT and RWAIT.drained return the last
completion word with an acquire once their condition holds, and wait until it does; RSTAT reads the region's words and changes nothing
else, and a selector above 3 raises ILLEGAL. -/
def Obligations.DrainWaitStatWords : Prop :=
  ∀ (s : State) (d : BitVec 5) (sel : BitVec 6) (w : Word),
    let m := s.me
    let r := m.region
    let word (code : Nat) : Word := BitVec.ofNat 64 (code * 2 ^ 32)
    let ends (i : Instr) (over_ : Prop) : Prop :=
      (r.st = 0 → Writes s (exec i s) d (word 0x101) (s.pc + 4))
        ∧ (r.st = 1 ∨ r.st = 2 → Writes s (exec i s) d (word 0x102) (s.pc + 4))
        ∧ (r.st = 3 ∨ 4 ≤ r.st.toNat ∧ r.st ≠ 8 ∧ over_ →
            (r.last = some w → Writes s.acquire (exec i s) d w (s.pc + 4))
              ∧ (r.last = none → Writes s (exec i s) d (word 0x102) (s.pc + 4)))
        ∧ (4 ≤ r.st.toNat → (r.st = 8 ∨ ¬over_) → Becomes s (exec i s) { m with wait := .reissue })
    let claim := match m.claim with | some k => k.word | none => r.claim
    let bypass := match m.claim with | some k => k.bypass | none => 0
    let stat (k : Nat) (v : Word) : Prop := r.st ≠ 0 → sel.toNat = k → Writes s (exec (.rstat d sel) s) d v (s.pc + 4)
    (r.st = 4 ∨ r.st = 5 → ∃ u, OnlyMe s u { m with region := { r with drainAsked := true, st := if r.st = 5 then 6 else r.st } }
        ∧ Answers u (exec (.rdrain d) s) d 0 0)
      ∧ ends (.rwait d) (r.running = false ∧ m.stores = []) ∧ ends (.rwaitDrained d) (r.st = 7 ∨ r.st = 9)
      ∧ stat 0 ((imgConfig r.image).setWidth 64 <<< 48 ||| BitVec.ofNat 64 bypass <<< 32 ||| r.flags.setWidth 64 <<< 16 ||| r.st.setWidth 64)
      ∧ stat 1 (r.origin.setWidth 64 <<< 4 ||| (fld claim 0 4 : BitVec 4).setWidth 64)
      ∧ stat 2 (r.ends.setWidth 64 <<< 32 ||| BitVec.ofNat 64 r.left)
      ∧ stat 3 (BitVec.ofNat 64 (s.minLive s.cur (fun k => k.tregBanks.live)) <<< 8 ||| BitVec.ofNat 64 (s.minLive s.cur (fun k => k.scrBanks.live)))
      ∧ (r.st = 0 → sel.toNat < 4 → Writes s (exec (.rstat d sel) s) d 0 (s.pc + 4))
      ∧ (4 ≤ sel.toNat → Traps s (exec (.rstat d sel) s) 0x01 (((encode (.rstat d sel)).getD 0).setWidth 64))

/-- R105, R383, R385: RFREE of a region with no period at work frees its pages, budget share and claim and leaves no region; RKILL
ends a running, draining or saved region, a period at work with a completion word of status KILLED, where no period is in progress
with a fault record of cause KILLED at the region's origin and no word (R120); both answer OK.  That STAGE and SLOT of that origin's coordinate
are 0 is the model's choice (log 92). -/
def Rule.FreeKillWords : Prop :=
  ∀ (s : State) (d : BitVec 5),
    let m := s.me
    let r := m.region
    let c := clusterOf s.cur
    (r.st.toNat ∈ [0, 1, 2, 3, 5, 7, 9] → ∃ u, Answers u (exec (.rfree d) s) d 0 0
        ∧ u.me = { m with claim := none, region := {} } ∧ (∀ n, n ≠ s.cur → u.thr n = s.thr n) ∧ u.mem = s.mem
        ∧ (u.clu c).used = if 2 ≤ r.st.toNat ∧ r.placed = true then BitVec.ofNat 8 ((s.clu c).used.toNat - claimUnits r.claim) else (s.clu c).used)
      ∧ (r.st.toNat ∈ [4, 6, 8] → Answers s (exec (.rfree d) s) d 0x102 0)
      ∧ (r.st.toNat ∈ [4, 6, 8] → ∃ u, Answers u (exec (.rkill d) s) d 0 0 ∧ u.me.region.st = 9 ∧ u.me.region.flight = []
          ∧ u.me.region.cmds = [] ∧ u.me.region.mark = none ∧ u.me.region.claim = r.claim ∧ u.me.g = m.g
          ∧ (r.running = true → u.me.region.running = false
              ∧ u.me.region.last = some (imgConfig r.image ++ 0x000A#16 ++ r.ends))
          ∧ (r.running = false → u.me.region.running = false ∧ u.me.region.last = r.last
              ∧ (let w := (s.spoilShadows r.shadow).faultRecord s.cur
                  { place := (s.originCoord s.cur).setWidth 64, cause := 0x0A, space := s.spaceField r.capt }
                 u.mem = w.mem ∧ u.me.faultqtail = w.me.faultqtail ∧ u.me.records = w.me.records ∧ u.me.trig = w.me.trig)))

/-- R179, R181, R342, R355, R386: RSWEEP starts a sweep where none is under way, examines its pages one after another, each at one instant,
and answers OK with the number of nodes it reported, none when none is blocked; RPOST above user level unparks the parked node it names and
answers OK, at user level it raises PRIV; RMARK answers OK with the section's length once the region is SAVED;
RREPLAY of an ended region that passes the loader's checks and consumes from no bridge starts its period again and answers OK. -/
def Rule.SweepPostMarkReplay : Prop :=
  ∀ (s : State) (d a : BitVec 5) (n : BitVec 9) (t : TileNo),
    let m := s.me
    let r := m.region
    let v := s.rd a
    let blocked (p : BitVec 4) : List ((BitVec 8 × Nat) × Nat) :=
      ((imgNodes r.image).filter (fun v => regionPage v.1 == p.toNat)).filterMap (fun v => (s.blockedAt s.cur v).map (fun x => (v, x)))
    (r.st = 4 ∨ r.st = 6 → m.wait ≠ .inside → r.sweep = none →
        Becomes s (exec (.rsweep d) s) { m with wait := .inside, region := { r with sweep := some { asked := true, todo := r.sweepPages } } })
      ∧ (∀ w p rest, m.wait = .inside → r.sweep = some w → w.todo = p :: rest →
          Becomes s (exec (.rsweep d) s) { m with region := { r with sweep := some { w with todo := rest, found := w.found ++ blocked p } } })
      ∧ (∀ w u k, m.wait = .inside → r.sweep = some w → w.asked = true → w.todo = [] → s.sweepRecords s.cur w = (u, k) →
          Answers u (exec (.rsweep d) s) d 0 k)
      ∧ (∀ w, m.wait = .inside → r.sweep = some w → w.asked = true → w.todo = [] → w.found = [] →
          ∃ u, Answers u (exec (.rsweep d) s) d 0 0 ∧ OnlyMe s u { m with region := { r with sweep := none } })
      ∧ ((fld m.status 0 2 : BitVec 2) = 0 → Traps s (exec (.rpost d a) s) 0x02 0)
      ∧ ((fld m.status 0 2 : BitVec 2) = 2 → fld v 32 32 = 0#32 → v.getLsbD 23 = false → fld v 0 7 = 0#7 →
          s.ownerOf (fld v 21 2 ++ fld v 18 3) (fld v 10 4 ++ fld v 14 4) = some (n, t) → (s.reg n).st = 4 ∨ (s.reg n).st = 6 →
          ∀ q, (s.rt n t).parked.find? (fun p => p.slot == fld v 7 3) = some q → ∃ u, Answers u (exec (.rpost d a) s) d 0 0
            ∧ (u.rt n t).parked = (s.rt n t).parked.filter (fun p => !(p.slot == fld v 7 3 && (fld p.addr 0 52 : BitVec 52) == fld q.addr 0 52))
            ∧ u.mem = s.mem ∧ u.pc = s.pc)
      ∧ (m.wait = .inside → r.st = 8 → r.areaOwed = false → Answers s (exec (.rmark d a) s) d 0 ((s.parts s.cur).len % 2 ^ 32))
      ∧ (r.st = 4 ∨ r.st = 6 → m.wait ≠ .inside → fld v 16 48 = 0#48 → fld m.ctxbase 12 40 ≠ 0#40 → r.mark = none → r.anyParked = false →
          Becomes s (exec (.rmark d a) s) { m with
            wait := .inside, region := { r with mark := some { num := fld v 0 16, start := s.now s.cur, why := .rmark } } })
      ∧ (r.st = 9 → r.ports.any (fun p => p.kind == .bridgeIn) = false → r.placed = true → s.loadCheck s.cur r.image = none →
          s.wloadRuns s.cur r.image = false → ∃ u, Answers u (exec (.rreplay d) s) d 0 0 ∧ u.me.region.st = 4 ∧ u.me.region.running = true
            ∧ u.me.region.ends = 0 ∧ u.me.region.flags = 0 ∧ u.me.region.left = imgSinks r.image ∧ u.me.region.replays = 0
            ∧ u.me.region.image = r.image ∧ u.me.region.comp = r.comp ∧ u.mem = s.mem ∧ u.me.g = m.g)

/-- R116, R126: TDSET of an index below 64 with a descriptor that loads and passes the checks writes the tensor table's entry and answers OK, one
that fails a check answers BADARG; TDGET stores the entry's 64 bytes, zeros when it is empty, and answers OK or UNBOUND; TDCLR empties
the entry; an index of 64 or more answers BADARG.  That the index is looked at before the address is the model's choice (log 79). -/
def Rule.TensorWords : Prop :=
  ∀ (s u w : State) (d a b : BitVec 5) (key v : Nat) (x : Xl),
    let k := (s.rd a).toNat
    let va := s.rd b
    (64 ≤ k → ∀ i ∈ [Instr.tdset d a b, Instr.tdget d a b, Instr.tdclr d a], Answers s (exec i s) d 0x103 0)
      ∧ (k < 64 → va.toNat % 64 = 0 → s.resolve s.me.cred .read false va (.thread s.cur) = (u, .ok key x) →
          u.l1Load (coreOf s.cur) key 64 = (w, v, false) →
          (dscOk (BitVec.ofNat 512 v) = true → ∃ y, Answers y (exec (.tdset d a b) s) d 0 0
              ∧ OnlyMe w y { s.me with tensors := y.me.tensors }
              ∧ ∀ j, Tab.get 0 y.me.tensors j = if j = k then BitVec.ofNat 512 v else Tab.get 0 s.me.tensors j)
            ∧ (dscOk (BitVec.ofNat 512 v) = false → Answers w (exec (.tdset d a b) s) d 0x103 0))
      ∧ (k < 64 → va.toNat % 64 = 0 → s.resolve s.me.cred .write false va (.thread s.cur) = (u, .ok key x) →
          Answers (u.l1Store (coreOf s.cur) key 64 (Tab.get (0 : BitVec 512) s.me.tensors k).toNat (s.me.cred.marks key)) (exec (.tdget d a b) s) d
            (if Tab.has s.me.tensors k then 0 else 0x104) 0)
      ∧ (k < 64 → ∃ y, Answers y (exec (.tdclr d a) s) d 0 0 ∧ OnlyMe s y { s.me with tensors := y.me.tensors }
          ∧ Tab.has y.me.tensors k = false ∧ ∀ j, j ≠ k → Tab.get 0 y.me.tensors j = Tab.get 0 s.me.tensors j)

/-! ## Chains and engines -/

/-- R297, R303 to R305: on an engine that g[a] names, ENQ.open with no chain, fewer than 32 chains and a header that reads makes a chain of
the header's FIRST and SEQ and the thread's credentials, ENQ.shut discards a chain with nothing outstanding or halted, CWAIT returns
at once where its condition holds and waits where not, CSEQ reads the engine's SEQ or 0; each status has the code of Table 4.11 or 10.5
and the outstanding count, and OPENBATCH, NOCHAIN, NOSLOT and BADARG have detail 0 (the model's reading, log 43). -/
def Rule.ChainWords : Prop :=
  ∀ (s u w : State) (d a b : BitVec 5) (n : BitVec 6) (key pa v : Nat) (x : Xl),
    let e : BitVec 5 := fld (s.rd a) 0 5
    let named : Prop := (s.rd a).toNat < 32 ∧ (s.rd a).toNat % 8 ≠ 7
    let h := s.rd b
    let left (c : Chain) : Nat := (c.enq - c.seq) + if c.openb then 1 else 0
    let others (y : State) : Prop := ∀ k, k ≠ e → y.chainOf s.cur k = s.chainOf s.cur k
    let cseq (v : Nat) : Prop := Writes s.acquire (exec (.cseq d a) s) d (BitVec.ofNat 64 v) (s.pc + 4)
    (¬named → (∀ i ∈ [Instr.enq d a b, .enqOpen d a b, .enqShut d a, .enqResume d a b, .cwait d a n], Answers s (exec i s) d 0x103 0) ∧ cseq 0)
      ∧ (named → s.chainOf s.cur e = none →
          (∀ i ∈ [Instr.enq d a b, .enqShut d a, .cwait d a n], Answers s (exec i s) d 0x107 0) ∧ cseq 0
          ∧ (32 ≤ (s.threads.filter (fun p => Tab.has p.2.chains e.toNat)).length → Answers s (exec (.enqOpen d a b) s) d 0x109 0)
          ∧ ((s.threads.filter (fun p => Tab.has p.2.chains e.toNat)).length < 32 →
              (h.toNat % 64 ≠ 0 → Traps s (exec (.enqOpen d a b) s) 0x03 h)
              ∧ (h.toNat % 64 = 0 → s.resolve s.me.cred .read false h (.thread s.cur) = (u, .ok key x) → x.target = .device pa →
                  u.l1Load (coreOf s.cur) key 64 = (w, v, false) →
                  ∃ y, Answers y (exec (.enqOpen d a b) s) d 0 0 ∧ OnlyMe w y { s.me with chains := y.me.chains } ∧ others y
                    ∧ y.chainOf s.cur e = some { header := h, cursor := BitVec.ofNat 64 v, enq := v / 2 ^ 64 % 2 ^ 64, seq := v / 2 ^ 64 % 2 ^ 64
                                                 capt := s.me.cred })))
      ∧ (named → ∀ c, s.chainOf s.cur e = some c →
          Answers s (exec (.enqOpen d a b) s) d 0x102 (left c)
          ∧ (left c ≠ 0 ∧ c.halted = false → Answers s (exec (.enqShut d a) s) d 0x102 (left c))
          ∧ (left c = 0 ∨ c.halted = true → ∃ y, Answers y (exec (.enqShut d a) s) d 0 0 ∧ y.chainOf s.cur e = none ∧ others y
              ∧ y.me = { s.me with chains := y.me.chains } ∧ y.mem = s.mem ∧ ∀ m, m ≠ s.cur → y.thr m = s.thr m)
          ∧ (n = 0 ∧ c.openb = true → Answers s (exec (.cwait d a n) s) d 0x108 0)
          ∧ (¬(n = 0 ∧ c.openb = true) → c.halted = true → Answers s.acquire (exec (.cwait d a n) s) d 0x10A (left c))
          ∧ (¬(n = 0 ∧ c.openb = true) → c.halted = false → left c ≤ n.toNat → Answers s.acquire (exec (.cwait d a n) s) d 0 (left c))
          ∧ (¬(n = 0 ∧ c.openb = true) → c.halted = false → n.toNat < left c →
              Becomes s (exec (.cwait d a n) s) { s.me with wait := .reissue })
          ∧ cseq c.seq)

/-- R303, R306: ENQ of an aligned entry that the chain's NEXT addresses reach from the last one enqueued adds every entry met, t included,
and one batch per CLOSE, and answers OK with the outstanding count; a walk that faults traps, one that does not reach t answers BADARG, and
then nothing is enqueued.  ENQ.resume above user level clears HALTED of the chain of the thread g[b] names, halted with no write owed,
and its faulted entries run again from their PROGRESS; the count in its status is that chain's. -/
def Rule.EnqueueWords : Prop :=
  ∀ (s u w : State) (d a b : BitVec 5) (c : Chain) (start : Word),
    let e : BitVec 5 := fld (s.rd a) 0 5
    let t := s.rd b
    let left (c : Chain) : Nat := (c.enq - c.seq) + if c.openb then 1 else 0
    (s.rd a).toNat < 32 → (s.rd a).toNat % 8 ≠ 7 →
    (s.chainOf s.cur e = some c →
      (t.toNat % 64 ≠ 0 → Traps s (exec (.enq d a b) s) 0x03 t)
      ∧ (t.toNat % 64 = 0 → (s.writeBackAll (clusterOf s.cur)).walkStart c = (u, .ok start) →
          (∀ js, State.walkChain c.capt t 4096 start u = (w, .ok js) → ∃ y c',
              Answers y (exec (.enq d a b) s) d 0 (left c') ∧ y.chainOf s.cur e = some c' ∧ (∀ k, k ≠ e → y.chainOf s.cur k = s.chainOf s.cur k)
              ∧ OnlyMe w y { s.me with chains := y.me.chains }
              ∧ c' = { c with last := t, enq := c.enq + (js.filter (fun j => j.raw.getLsbD 8)).length, openb := c'.openb, jobs := c.jobs ++ js }
              ∧ (∀ j, js.getLast? = some j → j.addr = t ∧ c'.openb = !j.raw.getLsbD 8)
              ∧ (∃ j, js.head? = some j ∧ j.addr = start) ∧ js.length ≤ 4096
              ∧ ∀ i j k, js[i]? = some j → js[i + 1]? = some k → k.addr = fld j.raw 0x180 64 ∧ k.st = .queued)
          ∧ (State.walkChain c.capt t 4096 start u = (w, .error none) → Answers w (exec (.enq d a b) s) d 0x103 (left c))
          ∧ (∀ k va, State.walkChain c.capt t 4096 start u = (w, .error (some (k, va))) → Traps w (exec (.enq d a b) s) k va)))
      ∧ ((fld s.me.status 0 2 : BitVec 2) = 0 → Traps s (exec (.enqResume d a b) s) 0x02 0)
      ∧ ((fld s.me.status 0 2 : BitVec 2) ≠ 0 →
          let m : BitVec 9 := fld (s.rd b) 0 9
          (s.chainOf m e = none → Answers s (exec (.enqResume d a b) s) d 0x107 0)
          ∧ (s.chainOf m e = some c → c.halted = false → Answers s (exec (.enqResume d a b) s) d 0x102 (left c))
          ∧ (s.chainOf m e = some c → c.halted = true → c.owed = [] →
              (s.setThr m { s.thr m with chains := Tab.set (s.thr m).chains e.toNat { c with
                halted := false, jobs := c.jobs.map (fun j => match j.st with | .faulted _ => { j with st := .queued, order := true } | _ => j) }
                }).engStore c.capt (c.header + 0x18) 4 c.cause.toNat = (u, none) →
              Answers u (exec (.enqResume d a b) s) d 0 (left c)))

/-- R306, R308 to R310: a running COPY or WLOAD moves the next sector of its source to its destination and PROGRESS counts it, until LEN; a
GATHER reads the index of its row and then what is left of the row, and writes it sector by sector; ENGINE_SECTOR does the same whatever
the opcode; an entry of another opcode is left alone, and so is one an earlier fabric access holds back (R313).  A sector that faults
halts the chain, or the command, at that sector.  The cause and the place a sector leaves when its address does not translate, and whom its
wait is for, are the model's choices (log 34, log 47). -/
def Rule.EntrySteps : Prop :=
  ∀ (s u w : State) (j : Job) (v rows : Nat) (p : Place),
    let r : JobRef := ⟨s.ev.n, s.ev.c, s.ev.k, s.ev.w == 1⟩
    let cr := s.jobCred r
    let byte (k n : Nat) : Nat := j.raw.toNat / 2 ^ (8 * k) % 2 ^ (8 * n)
    let op := byte 0 1
    let words : List (Nat × Instr) := [(0, .nop), (1, .copy), (2, .wload), (0x10, .gather), (0x20, .allred), (0x21, .redscat), (0x22, .allgath)]
    let runs (t : State) : Prop := exec .engineSector s = .next t ∧ ∀ q ∈ words, q.1 = op → exec q.2 s = .next t
    s.jobAt r = some j → j.st = .running →
    (∀ q ∈ words, q.1 ≠ op → exec q.2 s = .next s)
      ∧ (s.scoreHeld j = true → runs s)
      ∧ (s.scoreHeld j = false → op = 1 ∨ op = 2 →
          let src := byte 8 8 + 64 * j.prog
          let got := if byte 1 1 / 2 % 2 = 1 then s.engReadSp src else s.engRead cr (r.waiter j) src
          (got = (u, .ok v) → u.engPlace cr (r.waiter j) j.raw (byte 0x10 8 + 64 * j.prog) = (w, .ok p) →
              runs ((w.engWrite r p v).advanceJob r (j.prog + 1) (byte 0x18 8 / 64)))
          ∧ (∀ c va wr xl, got = (u, .bad c va wr xl) → runs (u.jobFault r c va wr xl)) ∧ (got = (u, .wait) → runs u))
      ∧ (s.scoreHeld j = false → op = 0x10 →
          let per := byte 0x28 4 / 64
          let n := if byte 2 1 = 14 then 8 else 4
          let a := byte 0x20 8 + n * (j.prog / per)
          let i := v / 2 ^ (8 * (a % 64)) % 2 ^ (8 * n)
          let index : Int := if n = 8 then (BitVec.ofNat 64 i).toInt else i
          let src := (((byte 8 8 : Int) + index * byte 0x28 4) % 2 ^ 64).toNat + 64 * (j.prog % per)
          let got := s.engRead cr (r.waiter j) (a - a % 64)
          (got = (u, .ok v) → State.engReads cr (r.waiter j) (per - j.prog % per) (src % 2 ^ 64) u = (w, .ok rows) →
              runs (State.rowWrites r (byte 0x18 8 / byte 0x28 4 * per) (per - j.prog % per) rows w))
          ∧ (∀ c va wr xl, got = (u, .bad c va wr xl) → runs (u.jobFault r c va wr xl)) ∧ (got = (u, .wait) → runs u))

/-- R260, R311, R375, R380: when the participants of a running ALLRED, REDSCAT or ALLGATH agree and every source's chunk is there, this module's
and the pieces and checksums of others', a step reduces it in the order of R260, checks its sum, and writes each participant that stands at
the chunk its part, and their progress moves past it together; a sum that does not hold halts them with UNCORR and lets what came of the chunk
and those behind it go, to be read again; a ring that is not legal halts the entry, a port that is down with ENGINE each participant of this module it
cuts off, and entries that disagree, here or with a peer's, with ENGINE, these all of them; while what a peer runs has not come the
step waits.  How a peer's pieces, checksums and entry come and are kept, and which participants halt at which cause, are the model's choices
(log 34, log 52). -/
def Obligations.CollectiveSteps : Prop :=
  ∀ (s t u v w y : State) (j : Job) (g : Ring) (all : List (Local × Bool)) (xs : List Nat) (ys : List (Nat × Cksum))
    (ps : List (JobRef × Place × Nat)),
    let r : JobRef := ⟨s.ev.n, s.ev.c, s.ev.k, s.ev.w == 1⟩
    let byte (k n : Nat) : Nat := j.raw.toNat / 2 ^ (8 * k) % 2 ^ (8 * n)
    let op := byte 0 1
    let words : List (Nat × Instr) := [(0x20, .allred), (0x21, .redscat), (0x22, .allgath)]
    let runs (t : State) : Prop := exec .engineSector s = .next t ∧ ∀ q ∈ words, q.1 = op → exec q.2 s = .next t
    let cut (v : State) (all : List (Local × Bool)) : List (Local × Bool) :=
      all.filter (fun l => v.collDown { g with rank := l.1.2 } (ringEngine (g.entries.getD l.1.2 0)))
    s.jobAt r = some j → j.st = .running → s.scoreHeld j = false → op = 0x20 ∨ op = 0x21 ∨ op = 0x22 →
    (∀ c va wr xl, s.ringOf r j = (t, .bad c va wr xl) → runs (t.jobFault r c va wr xl))
      ∧ (s.ringOf r j = (t, .ok g) → t.collDown g (r.engine j) = true → runs (t.jobFault r 0x0F (BitVec.ofNat 64 (byte 0x20 8)) false false))
      ∧ (s.ringOf r j = (t, .ok g) → t.collDown g (r.engine j) = false →
          State.gatherLocals j g r (List.range g.entries.length) t = (u, some all) →
          all.any (fun l => !l.2) = true →
          runs (all.foldl (fun s l => s.jobFault l.1.1 0x0F (BitVec.ofNat 64 (byte 0x20 8)) false false) u))
      ∧ (s.ringOf r j = (t, .ok g) → t.collDown g (r.engine j) = false →
          State.gatherLocals j g r (List.range g.entries.length) t = (u, some all) → all.all (fun l => l.2) = true →
          (cut u all ≠ [] → runs ((cut u all).foldl (fun s l => s.jobFault l.1.1 0x0F (BitVec.ofNat 64 (byte 0x20 8)) false false) u))
          ∧ (cut u all = [] → peersAgree u.module.pieces u.module.modNo j.raw g = none → runs u)
          ∧ (cut u all = [] → peersAgree u.module.pieces u.module.modNo j.raw g = some false →
              runs (all.foldl (fun s l => s.jobFault l.1.1 0x0F (BitVec.ofNat 64 (byte 0x20 8)) false false) u)))
      ∧ (s.ringOf r j = (t, .ok g) → t.collDown g (r.engine j) = false →
          State.gatherLocals j g r (List.range g.entries.length) t = (u, some all) → all.all (fun l => l.2) = true →
          cut u all = [] → peersAgree u.module.pieces u.module.modNo j.raw g = some true →
          let ls := all.map (fun l => l.1)
          State.sharesFit g.entries.length ls u = (v, true) → (∀ l ∈ ls, ∃ i, v.jobAt l.1 = some i ∧ j.prog ≤ i.prog) →
          let es := byte 0x28 4
          let c := 64 * j.prog / es
          let len := Nat.min es (byte 0x18 8 - c * es)
          State.sources g ls j.raw (c * es) (len / 64) (List.range g.entries.length) v = (w, .ok xs) →
          w.summed g ls j.raw (c * es) len xs = some ys →
          let sum := if op = 0x22 then (0, gatherSums j.raw len ys) else reduceChunk j.raw len c w.tick ys
          let here := ls.filter (fun l => match w.jobAt l.1 with | some i => i.prog == j.prog | none => false)
          (sum.2 = false →
              let z := ls.foldl (fun s l => s.jobFault l.1 0x09 (BitVec.ofNat 64 (byte 8 8)) false false) w
              runs { z with module := { z.module with pieces := z.module.pieces.filter (fun p => !(p.of g && !p.entry && decide (c * es < p.upto))) } })
          ∧ (sum.2 = true → State.collPlaces g.entries.length c len (len / 64) xs sum.1 here w = (y, .ok ps) →
              let z := ps.foldl (fun s p => s.engWrite p.1 p.2.1 p.2.2) y
              let q := spendPieces (fun p => p.spent g (byte 0x18 8) (c * es) (c * es + len)) [] z.module.pieces
              runs (({ z with module := { z.module with pieces := q } } : State).collAdvance here ((c * es + len) / 64) (byte 0x18 8 / 64))))
      ∧ ∀ (len tick : Nat) (x : Nat × Cksum) (rest : List (Nat × Cksum)), enEager j.raw = false →
          (reduceChunk j.raw len 0 tick (x :: rest)).1
            = (rest.map (fun p => p.1)).foldl (collChunk j.raw (8 * len / elemBits (collType j.raw))) x.1

/-- R301, R302, R306, R313: a queued entry that passes its checks gives up the scoreboard entries it still holds and runs once its scratchpad
ranges have room there, and completes when nothing is left to do; a NOP's ESTATE is then DONE, its PROGRESS 0; one that fails a check halts
its chain with the cause: ENGINE for an opcode its engine does not execute, a field it does not use that is not zero, an address or a length
not aligned to 64, a LEN above 2^38, an ESIZE out of its range, an endpoint with a bit outside its fields or a scratchpad range that passes the
tile's 128 KiB; then, of endpoints in the captured partition, OVERCAP for a scratchpad range that reaches a bank the tile has not live.
The order of the checks that come after the entry's form, and the place a failed one leaves, are the model's choices (log 34, log 47). -/
def Rule.EntryStart : Prop :=
  ∀ (s t u : State) (j i : Job),
    let r : JobRef := ⟨s.ev.n, s.ev.c, s.ev.k, s.ev.w == 1⟩
    s.jobAt r = some j → j.st = .queued → s.fetchEntry r j = (t, .ok i) →
    let byte (k n : Nat) : Nat := i.raw.toNat / 2 ^ (8 * k) % 2 ^ (8 * n)
    let t' := if s.ev.w = 1 ∧ byte 1 1 / 8 % 2 = 1 then (t.modJob r (fun _ => i)).modReg r.n (fun g => { g with cmdBufs := insertNat g.cmdBufs (byte 4 4) })
      else t.modJob r (fun _ => i)
    let at_ (xl : Bool) : Word := if xl then BitVec.ofNat 64 (64 * byte 4 4) else i.addr
    let op := byte 0 1
    let words : List (Nat × Instr) := [(0, .nop), (1, .copy), (2, .wload), (0x10, .gather), (0x20, .allred), (0x21, .redscat), (0x22, .allgath)]
    let runs (y : State) : Prop := exec .engineSector s = .next y ∧ ∀ q ∈ words, q.1 = op → exec q.2 s = .next y
    let last := if op = 0x10 then byte 0x18 8 / byte 0x28 4 * (byte 0x28 4 / 64) else byte 0x18 8 / 64
    let fails (c : BitVec 8) : Prop := runs ((t'.jobFault r c (at_ false) false false).runJob r)
    let unit := (r.engine i).toNat % 8
    let zero (l : List (Nat × Nat)) : Prop := ∀ f ∈ l, byte f.1 f.2 = 0
    let aligned (l : List Nat) : Prop := ∀ k ∈ l, byte k 8 % 64 = 0
    let flags (m : Nat) : Prop := byte 1 1 &&& m = byte 1 1
    let len := byte 0x18 8
    let lenOk : Prop := 64 ≤ len ∧ len % 64 = 0 ∧ len ≤ 2 ^ 38
    let sizeOk : Prop := 64 ≤ byte 0x28 4 ∧ byte 0x28 4 % 64 = 0 ∧ byte 0x28 4 ≤ 65536
    let buf : Prop := byte 1 1 / 8 % 2 = 1 ∨ byte 4 4 = 0
    let space (flag k : Nat) : Prop :=
      byte 1 1 / flag % 2 = 1 → byte k 8 / 2 ^ 25 % 2 ^ 12 = 0 ∧ byte k 8 < 2 ^ 42 ∧ byte k 8 % 2 ^ 17 + len ≤ 2 ^ 17
    let legal : Prop := byte 0x2C 4 = 0 ∧ match op with
      | 0 => flags 1 ∧ zero [(2, 1), (3, 1), (4, 4), (8, 8), (0x10, 8), (0x18, 8), (0x20, 8), (0x28, 4)]
      | 1 => unit < 4 ∧ flags 0xF ∧ zero [(2, 1), (3, 1), (0x20, 8), (0x28, 4)] ∧ buf ∧ aligned [8, 0x10] ∧ lenOk ∧ space 2 8 ∧ space 4 0x10
      | 2 => unit < 4 ∧ flags 1 ∧ zero [(2, 1), (3, 1), (4, 4), (0x20, 8), (0x28, 4)] ∧ aligned [8, 0x10] ∧ lenOk
          ∧ byte 0x10 8 / 2 ^ 23 % 2 ^ 12 = 0 ∧ byte 0x10 8 < 2 ^ 42
      | 0x10 => (unit = 4 ∨ unit = 5) ∧ flags 0xD ∧ (byte 2 1 = 1 ∨ byte 2 1 = 14) ∧ zero [(3, 1)] ∧ buf ∧ aligned [8, 0x10, 0x20] ∧ lenOk ∧ sizeOk
          ∧ space 4 0x10
      | 0x20 | 0x21 | 0x22 => unit = 6 ∧ flags 0x19 ∧ (byte 2 1 = 0 ∨ byte 2 1 = 14 ∨ byte 2 1 = 6) ∧ (if op = 0x22 then byte 3 1 = 0 else byte 3 1 ≤ 2)
          ∧ buf ∧ aligned [8, 0x10, 0x20] ∧ lenOk ∧ sizeOk
      | _ => False
    let over_ (flag k : Nat) : Prop := byte 1 1 / flag % 2 = 1 ∧
      ((t'.clu (BitVec.ofNat 5 (byte k 8 / 2 ^ 37))).tile (BitVec.ofNat 8 (byte k 8 / 2 ^ 17))).scrBanks.live ≤ (byte k 8 % 2 ^ 17 + len - 1) / 8192
    (¬legal → fails 0x0F)
      ∧ (legal → op ≠ 2 → endpointsOk (t'.jobCred r) (r.engine i) i.raw = true → (op = 1 ∧ over_ 2 8) ∨ over_ 4 0x10 → fails 0x06)
      ∧ (∀ k xl, t'.entryStart (t'.jobCred r) (r.engine i) i.raw = (u, some (k, xl)) → runs ((u.jobFault r k (at_ xl) false xl).runJob r))
      ∧ (t'.entryStart (t'.jobCred r) (r.engine i) i.raw = (u, none) → (u.releaseScore r i).takeScore r i = none → runs (u.runJob r))
      ∧ (∀ w, t'.entryStart (t'.jobCred r) (r.engine i) i.raw = (u, none) → (u.releaseScore r i).takeScore r i = some w →
          let y := w.modJob r (fun j => { j with st := .running })
          runs ((if last ≤ i.prog then y.jobDone r { i with st := .running } else y).runJob r))
      ∧ (op = 0 → s.ev.w ≠ 1 → t'.entryStart (t'.jobCred r) (r.engine i) i.raw = (u, none) →
          let y := (u.releaseScore r i).modJob r (fun j => { j with st := .running })
          runs (((((y.releaseScore r { i with st := .running }).modJob r (fun j => { j with st := .done, prog := 0 })).statusWrites r.n r.e i.addr 0
            [(i.addr + 0x38, 4, 0), (i.addr + 0x3C, 4, 0x100)])).runJob r))

/-- R302, R306: a batch whose entries have all completed and whose last one closes it completes: DONEPTR and SEQ are written in that order at
the home of the chain's header, the engine's count rises by one, the batch leaves the chain, and the cursor is its last entry's NEXT; where a
status write is still owed those two are owed behind it and nothing is written.  A batch that has not completed, a chain that has stopped for
a save, or no chain, leaves the machine as it is. -/
def Rule.BatchCompletes : Prop :=
  ∀ (s u w : State) (c : Chain) (j : Job),
    let n := s.ev.n
    let e := s.ev.c
    (s.chainOf n e = none → exec .batchCompletion s = .next s)
      ∧ (s.chainOf n e = some c → c.batch.any (fun j => j.st != .done) = true → exec .batchCompletion s = .next s)
      ∧ (s.chainOf n e = some c → c.batch.getLast? = some j → c.batch.all (fun j => j.st == .done) = true → j.raw.getLsbD 8 = true →
          (s.thr n).frozen = false →
          let c' : Chain := { c with seq := c.seq + 1, jobs := c.jobs.drop c.batch.length, cursor := fld j.raw 0x180 64 }
          let owes (a : Word) (v : Nat) : Owed := { addr := a, size := 8, val := v, place := c.header, done := 64 * j.prog }
          let behind : Chain := { c' with owed := c.owed ++ [owes (c.header + 0x10) j.addr.toNat, owes (c.header + 8) ((c.seq + 1) % 2 ^ 64)] }
          (c.owed ≠ [] → ∃ w, exec .batchCompletion s = .next w
            ∧ OnlyThread s w n { s.thr n with chains := Tab.set (s.thr n).chains e.toNat behind })
          ∧ (c.owed = [] →
          (s.setThr n { s.thr n with chains := Tab.set (s.thr n).chains e.toNat c' }).engStore c.capt (c.header + 0x10) 8 j.addr.toNat = (u, none) →
          u.engStore c.capt (c.header + 8) 8 ((c.seq + 1) % 2 ^ 64) = (w, none) →
          exec .batchCompletion s = .next w ∧ w.chainOf n e = some c' ∧ (∀ k, k ≠ e → w.chainOf n k = s.chainOf n k)
            ∧ ∀ m, m ≠ n → w.thr m = s.thr m))
      ∧ (s.chainOf n e = some c → (s.thr n).frozen = true → exec .batchCompletion s = .next s)

/-- R318, R319, Table 10.3: in an acting region whose port has no parked command, the first CMD token of a command port waits in the port,
and the second makes the command of both, with the index of the second, which starts at once; a sixteenth command in flight is the last, a
further one faults the region with OVERRUN.  Other tokens stay in flight. -/
def Rule.CommandReceive : Prop :=
  ∀ (s : State) (f : Flight) (p : BitVec 14) (q : Port),
    let n := s.ev.n
    let r := s.reg n
    r.flight[s.ev.k]? = some f → f.dest = .port p → r.ports.find? (fun q => q.id == p && q.kind == .command) = some q →
    (f.tok.kind ≠ 5 ∨ s.now n < f.due ∨ (r.st ≠ 4 ∧ r.st ≠ 5 ∧ r.st ≠ 6) → exec .commandPortReceive s = .next s)
      ∧ (r.st = 4 ∨ r.st = 5 ∨ r.st = 6 → f.due ≤ s.now n → f.tok.kind = 5 → (r.flight.take s.ev.k).any (fun g => g.dest == f.dest) = false →
          r.cmds.any (fun j => j.port == p && (match j.st with | .faulted _ => true | _ => false)) = false →
          let half (h : Option (Token × Nat)) : Region := { r with
            flight := r.flight.eraseIdx s.ev.k, active := s.now n
            ports := r.ports.map (fun x => if x.id = p ∧ x.kind = .command then { x with half := h } else x) }
          (q.half = none → ∃ t, exec .commandPortReceive s = .next t ∧ OnlyThread s t n { s.thr n with region := half (some (f.tok, f.idx)) })
          ∧ (∀ h, q.half = some h → (r.cmds.filter (fun j => j.port == p && j.st != .done)).length < 16 →
              ∃ t j, OnlyThread s t n { s.thr n with region := { half none with cmds := r.cmds ++ [j] } }
                ∧ exec .commandPortReceive s = .next (t.startJob ⟨n, BitVec.ofNat 5 q.num, r.cmds.length, true⟩)
                ∧ j.raw = (h.1.pay.setWidth 512 ||| (f.tok.pay.setWidth 128).setWidth 512 <<< 256) ∧ j.engine = BitVec.ofNat 5 q.num ∧ j.port = p
                ∧ j.idx = f.idx ∧ j.prog = 0 ∧ j.st = .queued)
          ∧ (∀ h, q.half = some h → 16 ≤ (r.cmds.filter (fun j => j.port == p && j.st != .done)).length →
              exec .commandPortReceive s = .next (s.regionFault n (s.nodeCoord n (cmdNode r.image p).1 (cmdNode r.image p).2.toNat) 0x07 0)))

/-! ## Translations and publication -/

/-- R316, R352: above user level, in a space the thread may name, TLBINVS drops every entry of the space and clears its count, TLBINVA those
whose page holds the address, SPGEN takes the next generation and returns it; PUB of a valid buffer publishes it and returns its count.
Each then waits until no access issued before it is in flight, and goes on.  Other operands trap or answer BADARG. -/
def Rule.TranslationWords : Prop :=
  ∀ (s u w : State) (d a b : BitVec 5) (x : Xl) (pa v : Nat),
    let m := s.me
    let q := s.rd a
    let n := q.toNat
    let va := s.rd b
    let pl : BitVec 2 := fld m.status 0 2
    let three (p : Instr → Prop) : Prop := p (.tlbinvs a) ∧ p (.tlbinva a b) ∧ p (.spgen d a)
    let outside : Prop := pl = 1 ∧ (fld m.partition 26 6 : BitVec 6) ≠ 0 ∧ spaceInRange (fld m.partition 26 6) n = false
    let waits (y : State) (i : Instr) (z : BitVec 32) : Prop :=
      y.oldAccess s.tick = true → Becomes y (exec i s) { m with wait := .drain s.tick z }
    let idle (y : State) : Prop := y.oldAccess s.tick = false
    let invs : State := { s with
      tlb := s.tlb.filter (fun e => e.space.toNat != n), spaces := Tab.set s.spaces n { gen := (s.gen n).gen, count := 0 } }
    let inva : State := { s with tlb := s.tlb.filter (fun e => !(e.space.toNat == n && decide (e.base ≤ va.toNat) && decide (va.toNat < e.base + e.size))) }
    let next : BitVec 4 := (s.gen n).gen + 1
    let spgen : State := { s with spaces := Tab.set s.spaces n { gen := next, count := (s.gen n).count + 1 } }
    (∀ t z, m.wait ≠ .drain t z) →
    (pl = 0 → three (fun i => Traps s (exec i s) 0x02 0))
      ∧ (pl ≠ 0 → (4096 ≤ n ∨ outside) → three (fun i => Traps s (exec i s) 0x05 q))
      ∧ (pl ≠ 0 → n < 4096 → ¬outside →
          (idle invs → Becomes invs (exec (.tlbinvs a) s) { m with pc := s.pc + 4 }) ∧ waits invs (.tlbinvs a) 0
          ∧ ((fld va 52 12 : BitVec 12) ≠ 0 → Traps s (exec (.tlbinva a b) s) 0x05 va)
          ∧ ((fld va 52 12 : BitVec 12) = 0 →
              (idle inva → Becomes inva (exec (.tlbinva a b) s) { m with pc := s.pc + 4 }) ∧ waits inva (.tlbinva a b) 0)
          ∧ ((s.gen n).count = 15 → Traps s (exec (.spgen d a) s) 0x05 q)
          ∧ ((s.gen n).count ≠ 15 →
              (idle spgen → Writes spgen (exec (.spgen d a) s) d (next.setWidth 64) (s.pc + 4)) ∧ waits spgen (.spgen d a) (next.setWidth 32)))
      ∧ (n = 0 ∨ 2 ^ 32 ≤ n → Answers s (exec (.pub d a) s) d 0x103 0)
      ∧ (0 < n → n < 2 ^ 32 → s.translate m.cred .read false (q <<< 6) = (u, .ok x) → x.target = .device pa → u.homeRead pa 64 = (w, v, false) →
          (v / 2 ^ 264 % 2 = 0 → Answers w (exec (.pub d a) s) d 0x103 0)
          ∧ (v / 2 ^ 264 % 2 = 1 → m.cred.marksOk pa = true →
              let y := w.publish pa (fun s => s.markAll pa (m.cred.marks pa))
              let count := v / 2 ^ 320 % 2 ^ 64 + 1
              (idle y → Answers y (exec (.pub d a) s) d 0 (count % 2 ^ 32)) ∧ waits y (.pub d a) (BitVec.ofNat 32 count)
              ∧ (∀ e ∈ y.tlb, e.desc ≠ some pa) ∧ y.threads = s.threads
              ∧ let marked := (w.markAll pa (m.cred.marks pa)).mem
                let cur := readLE w.mem (pa + 0x20) 1
                let back := readLE w.mem (pa + (if cur % 2 = 1 then 0x10 else 0x18)) 8
                y.mem = writeLE (writeLE marked (pa + 0x20) 1 (cur ^^^ 1)) (pa + 0x28) 8 (readLE w.mem (pa + 0x28) 8 + 1)
                ∧ ∀ line c, back ≤ 64 * line → 64 * line < back + readLE w.mem (pa + 8) 8 →
                    (y.l2Line c line).valid &&& ~~~(y.l2Line c line).dirty = 0))

/-- R316, R352: a word that waits for the accesses issued before it ends once none of them is in flight, and does nothing before. -/
def Rule.TranslationWaits : Prop :=
  ∀ (s : State) (d a b : BitVec 5) (t : Nat) (z : BitVec 32), s.me.wait = .drain t z →
    (s.oldAccess t = true → ∀ i ∈ [Instr.tlbinvs a, .tlbinva a b, .spgen d a, .pub d a], exec i s = .next s)
      ∧ (s.oldAccess t = false →
          (∀ i ∈ [Instr.tlbinvs a, .tlbinva a b], Becomes s (exec i s) { s.me with wait := .none, pc := s.pc + 4 })
          ∧ (∃ y, exec (.spgen d a) s = .next y ∧ RegsSet s y d (z.setWidth 64) ∧ OnlyMe s y { s.me with g := y.me.g, wait := .none, pc := s.pc + 4 })
          ∧ Answers s (exec (.pub d a) s) d 0 z.toNat)

/-! ## Contexts -/

/-- R360, R363, R366: CTXSAVE above user level of another context that may be saved is accepted and waits for its thread to stop.  A region
that is RUNNING or DRAINING is then recorded with PREEMPT at its origin tile and goes through a marker numbered 0; one that is LOADED,
DONE or DRAINED is recorded and SAVED where it stands; a record that waits for the host is written before the capture.  The area then receives the
context, its chain records and the region section, no byte stays dirty in its cluster's slices, the context is empty with its PARTITION and its
LOSTn kept, and the word answers OK with the area's length.  A fault of the write traps with the state kept.  The model's choices: log 28 on what
a record has no field for, log 30 on a section that stands at CTXBASE, log 67 on completion words and records that wait, log 92 on the coordinate of an origin tile. -/
def Rule.SaveWord : Prop :=
  ∀ (s u w : State) (d a b : BitVec 5) (sec : Nat) (poison : List Nat),
    let m := s.me
    let n : BitVec 9 := fld (s.rd a) 0 9
    let area := s.rd b
    let t := s.thr n
    let i := Instr.ctxsave d a b
    let pl : BitVec 2 := fld m.status 0 2
    let fine : Prop := (fld (s.rd a) 9 55 : BitVec 55) = 0 ∧ n ≠ s.cur ∧ (fld area 0 12 : BitVec 12) = 0
    let mine : Prop := (fld m.partition 26 6 : BitVec 6) = 0 ∨ (clIn m.partition (clusterOf n) = true ∧ t.partition = m.partition)
    let waits (v : State) : Prop := ∃ y, exec i s = .next y ∧ OnlyMe v y { v.me with wait := .inside }
    let st := t.region.st.toNat
    let passing : Prop := st ∈ [4, 5, 6] ∧ t.region.mark.isSome = true
    let ready (v : State) : Prop := (v.thr n).records = [] ∨ (v.thr n).faultStuck = true
    let noted := s.faultRecord n { place := zext (s.originCoord n) 64, cause := 0x0E, space := s.spaceField t.region.capt }
    let rested := if st ∈ [3, 5, 7] then noted.save n .marker false else s
    (pl = 0 → Traps s (exec i s) 0x02 0)
      ∧ (pl ≠ 0 → ¬fine → Answers s (exec i s) d 0x103 0)
      ∧ (pl ≠ 0 → fine → ¬mine → Traps s (exec i s) 0x05 (s.rd a))
      ∧ (pl ≠ 0 → fine → mine → t.saver ≠ some s.cur → pl = 1 → (fld t.status 0 2 : BitVec 2) = 2 → Answers s (exec i s) d 0x103 0)
      ∧ (pl ≠ 0 → fine → mine → t.saver ≠ some s.cur → ¬(pl = 1 ∧ (fld t.status 0 2 : BitVec 2) = 2) →
          (t.run = .empty ∨ t.inContext = true ∨ t.saver.isSome = true ∨ s.fedByRunning n = true → Answers s (exec i s) d 0x102 0)
          ∧ (t.run ≠ .empty → t.inContext = false → t.saver = none → s.fedByRunning n = false →
              s.threads.any (fun p => match p.2.saver with | some k => s.saving k | none => false) = false → t.stopped = false →
              ∃ y, exec i s = .next y ∧ OnlyMe (s.setThr n { t with saver := some s.cur }) y { m with wait := .inside }))
      ∧ (pl ≠ 0 → fine → mine → t.saver = some s.cur →
          (t.stopped = false ∨ passing ∨ t.stores ≠ [] ∨ ¬ready s → waits s)
          ∧ (t.stopped = true → ¬passing → t.stores = [] → ready s →
              (st ∈ [4, 6] → waits (noted.startMark n 0 .ctxsave))
              ∧ (st ∈ [3, 5, 7] → ¬ready rested → waits rested)
              ∧ (st ∈ [0, 1, 2, 3, 5, 7, 8, 9] → ready rested →
                  let s' := (rested.stopChains n).loseRecords n
                  s'.savedSection n = (u, .ok sec poison) →
                  let inc : Bool := (u.thr n).region.st == 8
                  let len := if inc then (u.parts n).len else 0x2000
                  let parts := 1 + (if inc then 2 else 0) + (if (u.thr n).chains.isEmpty then 0 else 4)
                  let kept := (if inc = true ∧ (u.thr n).region.inArea = false then u.noteSaved n sec else u).noteChains n
                  let wrote := kept.areaWrite u.me.cred area 0 len (areaHeader parts len n.toNat + u.threadBytes n + sec % 2 ^ (8 * len)) poison (.thread s.cur)
                  (wrote = (w, .ok) → ∃ y, Answers y (exec i s) d 0 (len % 2 ^ 32)
                      ∧ y.thr n = { partition := (u.thr n).partition, lost := (u.thr n).lost }
                      ∧ (∀ k, k ≠ n → y.thr k = rested.thr k) ∧ ∀ line, (y.l2Line (clusterOf n) line).dirty = 0)
                  ∧ (∀ c va, wrote = (w, .fault c va) → ∃ y, OnlyMe w y { w.me with wait := .none } ∧ Traps y (exec i s) c va))))

/-- R365, R367: CTXLOAD checks everything before it changes anything: a wrong field answers BADARG with the field's offset, a saved privilege
level above the caller's BADARG, an engine of its chains that holds 32 NOSLOT.  An area that passes gives a context that is empty, or halted
with nothing, the saved registers, its ticketed wait, its pending claim with a new age and its chains; a region in it becomes SAVED and a
pending claim of the thread, and goes on when it is admitted.  REGONLY restores the caller's own SAVED region from an area at once: it goes
on in the state it had, ends with IMAGE where the loader's checks refuse the image, and stays SAVED while it has no pages.  A fault of a read of the
area traps.  The model's choices: log 28 on what a section has no field for and what is kept beside the area, log 29 on the point an area is
read from, log 37 on the claim of a region that was CLAIMED, log 68 on an image the loader refuses, a shape no record may have and the low bits of the PC. -/
def Rule.LoadContextWord : Prop :=
  ∀ (s u w x : State) (d a b : BitVec 5) (v h q : Nat) (p p' p'' : List Nat),
    let m := s.me
    let n : BitVec 9 := fld (s.rd a) 0 9
    let t := s.thr n
    let i := Instr.ctxload d a b
    let pl : BitVec 2 := fld m.status 0 2
    let base : Word := (fld (s.rd b) 12 52 : BitVec 52) ++ 0#12
    let fine : Prop := (fld (s.rd b) 1 11 : BitVec 11) = 0 ∧ (fld (s.rd a) 9 55 : BitVec 55) = 0
    let mine : Prop := (fld m.partition 26 6 : BitVec 6) = 0 ∨ (clIn m.partition (clusterOf n) = true ∧ t.partition = m.partition)
    let free : Prop := t.run = .empty ∨ (t.run = .halted ∧ t.region.st = 0 ∧ t.chains = [])
    let read (k page : Nat) (s : State) := State.areaRead m.cred base (.thread s.cur) k page s
    let region : Bool := at_ v 6 2 / 2 % 2 == 1
    let head := v + h
    let area := head + q
    let poison := p ++ p' ++ p''
    let begun : Prop := read 2 0 s = (u, .ok v p)
      ∧ (if region then State.areaRead m.cred base (.thread s.cur) 1 2 u = (w, .ok h p') else w = u ∧ h = 0 ∧ p' = [])
    let whole : Prop := begun
      ∧ (if region then State.areaRead m.cred base (.thread s.cur) (pagesFrom 3 (areaLength head true)) 3 w = (x, .ok q p'') else x = w ∧ q = 0 ∧ p'' = [])
    let unread : Prop := (∀ c va, read 2 0 s = (u, .fault c va) → Traps u (exec i s) c va)
      ∧ (read 2 0 s = (u, .wait) → ∃ y, exec i s = .next y ∧ OnlyMe u y { u.me with wait := .busy })
    let word (o : Nat) : Word := BitVec.ofNat 64 (at_ area o 8)
    let image (r : Region) : Prop := x.savedAs area = none → r.image = at_ area (at_ area 0x2080 8) (imgLength (claimW (word 0x2000)) (claimH (word 0x2000)))
    let offset (l : List (Bool × Nat)) (o : Nat) : Prop := (l.find? (fun c => !c.1)).map (·.2) = some o
    let right (l : List (Bool × Nat)) : Prop := ∀ c ∈ l, c.1 = true
    (¬fine → Answers s (exec i s) d 0x103 0)
      ∧ (fine → (s.rd b).getLsbD 0 = true → n ≠ s.cur ∨ m.region.st ≠ 8 → Answers s (exec i s) d 0x102 0)
      ∧ (fine → (s.rd b).getLsbD 0 = true → n = s.cur → m.region.st = 8 →
          unread ∧ (whole → (region = false → Answers x (exec i s) d 0 0)
            ∧ (region = true →
                let old := x.me.region
                let read := regionOf area poison (x.now n)
                let refused := (firstBad [headerCheck read.image, claimCheck read.image old.claim, bodyCheck read.image]).isSome
                ∃ y, Answers y (exec i s) d 0 0 ∧ y.me.g = m.g
                  ∧ (old.placed = false → y.me.region.st = 8 ∧ fromHeader area y.me.region ∧ image y.me.region
                      ∧ y.me.region.placed = false ∧ y.me.region.claim = old.claim ∧ y.me.region.origin = old.origin)
                  ∧ (old.placed = true → x.savedAs area = none →
                      (refused = true → y.me.region.st = 9)
                      ∧ (refused = false → imgWslen read.image = 0 → read.badShape = none →
                          x.meets (clusterOf n) read.image (claimW old.claim) (claimH old.claim) old.origin.toNat = true →
                          y.me.region.st = BitVec.ofNat 4 (at_ area 0x2008 1) ∧ fromHeader area y.me.region ∧ image y.me.region
                            ∧ y.me.region.placed = true ∧ y.me.region.claim = old.claim ∧ y.me.region.origin = old.origin)))))
      ∧ (fine → (s.rd b).getLsbD 0 = false →
          (pl = 0 → Traps s (exec i s) 0x02 0)
          ∧ (pl ≠ 0 → ¬mine → Traps s (exec i s) 0x05 (s.rd a))
          ∧ (pl ≠ 0 → mine → ¬free → Answers s (exec i s) d 0x102 0)
          ∧ (pl ≠ 0 → mine → free →
              let fields := areaFields head (areaLength head region) region
              let rest := if region then regionFields area else []
              unread ∧ (begun → ∀ o, offset fields o → Answers w (exec i s) d 0x103 o)
              ∧ (begun → right fields → whole →
                  (∀ o, offset rest o → Answers x (exec i s) d 0x103 o)
                  ∧ (right rest →
                      let high : Prop := pl.toNat < at_ area 0x208 8 % 4
                      let full : Prop := ∃ c ∈ chainRecords area, 32 ≤ x.openChains c.1
                      (high → Answers x (exec i s) d 0x103 0)
                      ∧ (¬high → full → Answers x (exec i s) d 0x109 0)
                      ∧ (¬high → ¬full → ∃ y, Answers y (exec i s) d 0 0 ∧
                          let T := y.thr n
                          let wait := at_ area 0x2A8 8
                          let claimed := at_ area 0x2B0 8 / 2 ^ 63 = 1
                          (region = false → chainRecords area = [] → { y with threads := x.threads, claims := x.claims } = x ∧ ∀ k, k ≠ n → y.thr k = x.thr k)
                          ∧ (∀ k : BitVec 5, k ≠ 0 → T.rd k = word (0x100 + 8 * k.toNat))
                          ∧ T.pc = word 0x200 &&& ~~~3 ∧ T.status = word 0x208 &&& 0x3F
                          ∧ (∀ k r, k ≠ 14 → sysRegs[k]? = some r.num → r ∈ plainRegs → r.get T = masked (r.get {}) (word (0x208 + 8 * k)) r.mask)
                          ∧ T.run = (if wait / 16 % 2 = 1 then .halted else .ready)
                          ∧ T.wait = (if wait % 16 = 1 then .ticket true 0 (BitVec.ofNat 32 (wait / 2 ^ 32))
                              else if wait % 16 = 2 then .ticket false 0 (BitVec.ofNat 32 (wait / 2 ^ 32)) else .none)
                          ∧ (pl = 1 → T.partition = t.partition)
                          ∧ (∀ k : Fin 16, T.trig[k] = word (0x2C0 + 8 * k.val))
                          ∧ (∀ k : Fin 4, ∀ j : Nat, j < (T.mbox[k]).length → (T.mbox[k])[j]? = some (word (0x340 + 128 * k.val + 8 * j)))
                          ∧ (region = false → claimed → T.region = { st := 1 }
                              ∧ ∃ c, T.claim = some c ∧ c.word = word 0x2B0 &&& 0x3FFF ∧ c.age = x.claims ∧ y.claims = x.claims + 1)
                          ∧ (region = false → ¬claimed → T.region = {} ∧ T.claim = none)
                          ∧ (region = true → T.region.st = 8 ∧ T.region.placed = false ∧ fromHeader area T.region ∧ image T.region
                              ∧ T.region.claim = word 0x2000 &&& 0x3FFF
                              ∧ ∃ c, T.claim = some c ∧ c.word = word 0x2000 &&& 0x3FFF ∧ x.claims ≤ c.age ∧ y.claims = c.age + 1)
                          ∧ (((chainRecords area).map (·.1)).Nodup → ∀ e r, (e, r) ∈ chainRecords area →
                              Tab.has T.chains e.toNat = true ∧
                              let c : Chain := Tab.get { header := 0, cursor := 0 } T.chains e.toNat
                              c.capt.space = BitVec.ofNat 64 (at_ r 0x30 8) ∧ c.capt.partition = BitVec.ofNat 64 (at_ r 0x38 8)
                                ∧ (x.savedChain r (areaWords area) = none → c.header = BitVec.ofNat 64 (at_ r 8 8)
                                    ∧ c.cursor = BitVec.ofNat 64 (at_ r 0x10 8) ∧ c.last = BitVec.ofNat 64 (at_ r 0x18 8) ∧ c.enq = at_ r 0x20 8)))))))

/-! ## Element operations of the fabric -/

/-- R242, R246, R247: with a record at every slot it reads, an integer operation fires: each element of the result is the operation of the
elements at the same place, wrapped or saturated with AOVF, absent where an operand's is, under the sideband of R131. -/
def Obligations.IntegerNodes : Prop :=
  ∀ (s : State) (t : BitVec 4) (b : BitVec 2) (sf : BitVec 1) (n : BitVec 6) (hs : List Taken) (i : Nat),
    let w := elemBits t
    let A := ((tokOf hs 0).map (Token.elems t)).getD []
    let B := s.opB s.nd t b hs
    let C := ((tokOf hs 2).map (Token.elems t)).getD []
    let sg : Bool := t.toNat == 0 || t.toNat == 2 || t.toNat == 4 || t.toNat == 14
    let I (x : Nat) : Int := if sg ∧ 2 ^ (w - 1) ≤ x then (x : Int) - 2 ^ w else x
    let P (v : Int) : Nat := (v % 2 ^ w).toNat
    let within (lo hi v : Int) : Nat × Fl := if v < lo then (P lo, { aovf := true }) else if hi < v then (P hi, { aovf := true }) else (P v, {})
    let fit (m : Nat) (v : Int) : Nat × Fl := if sg then within (-2 ^ (m - 1)) (2 ^ (m - 1) - 1) v else within 0 (2 ^ m - 1) v
    let X (v : Int) : Nat × Fl := if sf = 1 then fit w v else (P v, {})
    let one (op : Instr) (f : Nat → Nat × Fl) : Prop := s.Ready [0] hs i →
      Fires s (exec op s) [0] hs i (t == 13) (packFl t (A.map (fun x => x.map f)))
    let two (op : Instr) (f : Nat → Nat → Nat × Fl) : Prop := s.Ready (ewSlots b false) hs i →
      Fires s (exec op s) (ewSlots b false) hs i (t == 13) (packFl t ((A.zip B).map (fun x =>
        match x with | (some x, some y) => some (f x y) | _ => none)))
    let three (op : Instr) (c : List (Option Nat)) (f : Nat → Nat → Nat → Nat × Fl) : Prop := s.Ready (ewSlots b true) hs i →
      Fires s (exec op s) (ewSlots b true) hs i (t == 13) (packFl t ((A.zip (B.zip c)).map (fun x =>
        match x with | (some x, some y, some z) => some (f x y z) | _ => none)))
    let cond : List (Option Nat) := match tokOf hs 2 with
      | some k => if k.kind = 8 then A.map (fun _ => some (if k.pay.getLsbD 0 then 1 else 0)) else k.elems t
      | none => []
    two (.iadd t b sf) (fun x y => X (I x + I y)) ∧ two (.isub t b sf) (fun x y => X (I x - I y)) ∧ two (.imul t b sf) (fun x y => X (I x * I y))
      ∧ two (.imulh t b) (fun x y => (P (I x * I y / 2 ^ w), {})) ∧ three (.imad t b sf) C (fun x y z => X (I z + I x * I y))
      ∧ (isInt t = true → two (.imin t b) (fun x y => (P (min (I x) (I y)), {})) ∧ two (.imax t b) (fun x y => (P (max (I x) (I y)), {})))
      ∧ one (.iabs t sf) (fun x => X (if I x < 0 then -I x else I x)) ∧ one (.ineg t sf) (fun x => X (-I x))
      ∧ two (.iand t b) (fun x y => (x &&& y, {})) ∧ two (.ior t b) (fun x y => (x ||| y, {})) ∧ two (.ixor t b) (fun x y => (x ^^^ y, {}))
      ∧ one (.inot t) (fun x => (2 ^ w - 1 - x, {})) ∧ two (.ishl t b) (fun x y => (x * 2 ^ (y % w) % 2 ^ w, {}))
      ∧ two (.ishr t b) (fun x y => (x / 2 ^ (y % w), {}))
      ∧ two (.isha t b) (fun x y => (x / 2 ^ (y % w) + (if 2 ^ (w - 1) ≤ x then 2 ^ w - 2 ^ (w - y % w) else 0), {}))
      ∧ two (.icmpeq t b) (fun x y => (if x = y then 1 else 0, {})) ∧ two (.icmpne t b) (fun x y => (if x = y then 0 else 1, {}))
      ∧ two (.icmplt t b) (fun x y => (if I x < I y then 1 else 0, {})) ∧ two (.icmple t b) (fun x y => (if I x ≤ I y then 1 else 0, {}))
      ∧ three (.sel t b) cond (fun x y z => (if z ≠ 0 then x else y, {}))
      ∧ one (.clzNode t) (fun x => (if x = 0 then w else w - 1 - Nat.log2 x, {}))
      ∧ one (.popcNode t) (fun x => (((List.range w).filter (fun k => x / 2 ^ k % 2 == 1)).length, {}))
      ∧ one (.isat t n) (fun x => fit n.toNat (I x)) ∧ three (.iclamp t b) C (fun x y z => (P (min (max (I x) (I y)) (I z)), {}))

/-- R199, R242, R248, R249: with a record at every slot it reads, a floating-point operation fires: each element is the exact result of the
operation on the elements at the same place, rounded once under the word's mode, with its flags; the compares give 0 or 1, and 0 for a
NaN; FMIN, FMAX, FABS and FNEG raise no flag.  FEXP2 and FLOG2 are not rounded from the exact result but from an approximation of it of a
fixed precision, which is the model's choice (log 18), and so are these two clauses. -/
def Obligations.FloatNodes : Prop :=
  ∀ (s : State) (t : BitVec 4) (b m : BitVec 2) (hs : List Taken) (i : Nat),
    let A := ((tokOf hs 0).map (Token.elems t)).getD []
    let B := s.opB s.nd t b hs
    let C := ((tokOf hs 2).map (Token.elems t)).getD []
    let D (x : Nat) : Machine.Num := (fmtOf t).decode x
    let R (x : Machine.Num × Fl) : Nat × Fl := (((fmtOf t).round (Mode.ofCode m) x.1).1, x.2.or ((fmtOf t).round (Mode.ofCode m) x.1).2)
    let E (x : Machine.Num) : Nat × Fl := (((fmtOf t).round .rne x).1, {})
    let one (op : Instr) (f : Machine.Num → Nat × Fl) : Prop := s.Ready [0] hs i →
      Fires s (exec op s) [0] hs i (t == 13) (packFl t (A.map (fun x => x.map (fun v => f (D v)))))
    let two (op : Instr) (f : Machine.Num → Machine.Num → Nat × Fl) : Prop := s.Ready (ewSlots b false) hs i →
      Fires s (exec op s) (ewSlots b false) hs i (t == 13) (packFl t ((A.zip B).map (fun x =>
        match x with | (some x, some y) => some (f (D x) (D y)) | _ => none)))
    let three (op : Instr) (f : Machine.Num → Machine.Num → Machine.Num → Nat × Fl) : Prop := s.Ready (ewSlots b true) hs i →
      Fires s (exec op s) (ewSlots b true) hs i (t == 13) (packFl t ((A.zip (B.zip C)).map (fun x =>
        match x with | (some x, some y, some z) => some (f (D x) (D y) (D z)) | _ => none)))
    two (.faddNode t b m) (fun x y => R (x.add y)) ∧ two (.fsubNode t b m) (fun x y => R (x.add y.negate))
      ∧ two (.fmulNode t b m) (fun x y => R (x.mul y)) ∧ three (.ffmaNode t b m) (fun x y z => R (z.fma x y))
      ∧ (isFloat t = true ∨ isSmallFloat t = true →
          two (.fminNode t b) (fun x y => E (x.min y)) ∧ two (.fmaxNode t b) (fun x y => E (x.max y)))
      ∧ one (.fabsNode t) (fun x => E x.abs) ∧ one (.fnegNode t) (fun x => E x.negate)
      ∧ two (.fcmpeqNode t b) (fun x y => (if x.eqv y then 1 else 0, {})) ∧ two (.fcmpltNode t b) (fun x y => (if x.lt y then 1 else 0, {}))
      ∧ two (.fcmpleNode t b) (fun x y => (if x.le y then 1 else 0, {}))
      ∧ one (.frcpNode t m) (fun x => R x.rcp) ∧ one (.frsqNode t m) (fun x => R x.rsq) ∧ one (.fsqrtNode t m) (fun x => R x.sqrt)
      ∧ one (.fexp2 t m) (fun x => R x.exp2) ∧ one (.flog2 t m) (fun x => R x.log2)

/-- R245, R250, R251, R253, R267: a conversion with a record at slot A fires: its elements are converted one by one, CVT between types, CVTSR by
the keyed draw, CSC as (x − c)·s rounded once, SDDEC a whole record's digits, and the part rule of Table 8.2 says which index and which
lanes the result has; a token the rule leaves without an output advances the output's position. -/
def Rule.ConversionNodes : Prop :=
  ∀ (s : State) (t sf : BitVec 4) (l : BitVec 1) (p : BitVec 3) (x : BitVec 1) (m : BitVec 2) (g : BitVec 6) (c : BitVec 8) (a : Token) (i : Nat),
    let d := s.nd
    s.Ready [0] [(0, a, i)] i →
    let goes (op : Instr) (es ed : Nat) (all : Bool) (part : Nat) (whole : Bool) (els : List (Option (Nat × Fl))) : Prop :=
      let k := s.prog d
      let side := sideOf d (t == 13) [(0, a, i)]
      let x : Side := if whole then { side.1 with first := false, last := false } else side.1
      let gone := if whole then s.modQueue d.n d.t (4 * d.slot) (fun q => q.discard (d.qrec 0) i) else s.popAt d 0
      let u := if k + 1 = (if all then es / ed else 1) then gone.setProg d 0 else s.setProg d (k + 1)
      match partOut es ed all part i k els with
      | some (j, r) => exec op s = .next (s.fired ((u.addFl d.n (side.2.or (packFl t r).2.2)).emit d 0
          (({ x with valid := (packFl t r).2.1 } : Side).tok (packFl t r).1) (j % 2 ^ 48)))
      | none => exec op s = .next (s.fired (if part ≤ i then u.skip d 0 ((i - part) / (ed / es)) else u))
    let each (ty : BitVec 4) (f : Nat → Nat × Fl) : List (Option (Nat × Fl)) := (a.elems ty).map (fun x => x.map f)
    let D (ty : BitVec 4) (x : Nat) : Machine.Num := (fmtOf ty).decode x
    let R (v : Machine.Num) : Nat × Fl := (fmtOf t).round (Mode.ofCode m) v
    let k := d.const
    let src : BitVec 4 := fld k 0 4
    let bf (off : Nat) : Machine.Num := Fmt.bf16.decode (fld k off 16 : BitVec 16).toNat
    let wd := g.toNat + 1
    let toks := ((s.rt d.n d.t).queue (4 * d.slot)).headRec
    goes (.cvt t sf l p x m) (elemCount sf) (elemCount t) (l == 1) p.toNat false (each sf (fun v =>
        if isInt sf then (if isInt t then wrapSat t x (intOf sf v) else R (Machine.Num.ofInt (intOf sf v)))
        else if isInt t then (let r := intRange (isSigned t) (elemBits t); let y := (D sf v).toInt (Mode.ofCode m) r.1 r.2; (patOf t y.1, y.2))
        else R (D sf v)))
      ∧ goes (.cvtsr t g c) (elemCount src) (elemCount t) false (fld k 4 3 : BitVec 3).toNat false ((a.elems src).zipIdx.map (fun e => e.1.map (fun v =>
          (fmtOf t).roundKeyed (fld (hashH (s.reg d.n).seed c.toNat (s.origin d.n g + i * elemCount src + e.2)) 40 24 : BitVec 24).toNat (D src v))))
      ∧ goes (.csc t sf l p m) (elemCount sf) (elemCount t) (l == 1) p.toNat false (each sf (fun v =>
          let y := (if isInt sf then Machine.Num.ofInt (intOf sf v) else D sf v).add (bf 0).negate
          let z := y.1.mul (bf 16)
          ((R z.1).1, (y.2.or z.2).or (R z.1).2)))
      ∧ (toks.length ≤ (wd + 15) / 16 → goes (.sddec t l p g) 8 (elemCount t) (l == 1) p.toNat true ((List.range 8).map (fun e =>
          if recValid toks e then some (satInt t (sdValue wd (recDigits toks e))) else none)))
      ∧ ((wd + 15) / 16 < toks.length → exec (.sddec t l p g) s = .next (s.nodeFault d 0x08))

/-- R252: SDENC with an integer record at slot A takes it and emits the first token of its first signed-digit record, then one token a firing
until all of them are out; a value beyond the width is bounded with AOVF; a token the part rule leaves without an output advances the
position.  That the later firings need no head at slot A is the model's choice (log 55). -/
def Rule.SignedDigitEncode : Prop :=
  ∀ (s : State) (sf : BitVec 4) (l : BitVec 1) (p : BitVec 3) (w : BitVec 6) (a : Token) (i : Nat),
    let d := s.nd
    let n := (w.toNat + 16) / 16
    let total := n * (if l = 1 then elemCount sf / 8 else 1)
    let ints : List (Option Int) := (a.elems sf).map (fun x => x.map (intOf sf))
    let sends (u : State) (a : Token) (k : Nat) (j : Nat) (els : List (Option Int)) : State :=
      let r := sdencTok (w.toNat + 1) els (k % n)
      let v := (u.addFl d.n r.2.2).emit d 0 { pay := r.1, side := mkSide 0 a.wexp a.mcount 0 (k % n == 0) (k % n + 1 == n) r.2.1 } (j % 2 ^ 48)
      if k + 1 = total then ((v.setProg d 0).setCounts d []).setNstate d 0
      else ((v.setProg d (k + 1)).setCounts d [a.side.toNat, i]).setNstate d (a.pay.setWidth 512)
    (s.prog d = 0 → s.Ready [0] [(0, a, i)] i →
        let x := sideOf d false [(0, a, i)]
        let u := (s.popAt d 0).addFl d.n x.2
        match partOut (elemCount sf) 8 (l == 1) p.toNat i 0 ints with
        | some (j, els) => exec (.sdenc sf l p w) s
            = .next (s.fired (sends u (a.withSide x.1.wexp x.1.mcount 0 x.1.first x.1.last a.valid) 0 j els))
        | none => exec (.sdenc sf l p w) s = .next (s.fired (if p.toNat ≤ i then u.skip d 0 ((i - p.toNat) / (8 / elemCount sf)) else u)))
      ∧ (s.prog d ≠ 0 → s.nodeLive d = true → s.illAt d = false → a = { pay := fld (s.nstate d) 0 256, side := BitVec.ofNat 32 ((s.counts d).getD 0 0) } →
          i = (s.counts d).getD 1 0 → ∀ j els, partOut (elemCount sf) 8 (l == 1) p.toNat i (s.prog d / n) ints = some (j, els) →
          exec (.sdenc sf l p w) s = .next (sends s a (s.prog d) j els))

/-- R195 to R197, R262 to R265: QMAX takes a record of its open block and emits the block's scale after its last, the largest exponent less the
type's, or 255 for a NaN or infinity; QCONV and QDEQ take a record with the scale of its block, which leaves with the block's last, and
convert its elements under it.  The sideband of QMAX's and QCONV's tokens, the largest WEXP and MCOUNT of what went in with FIRST and LAST
clear, is the model's choice (log 55). -/
def Obligations.QuantiseNodes : Prop :=
  ∀ (s : State) (t e sf : BitVec 4) (a b : Token) (i j : Nat),
    let d := s.nd
    let l := fields (s.nstate d)
    let c := s.counts d
    let K (ty : BitVec 4) : Nat := 128 / elemCount ty
    let vs := (a.elems t).filterMap (fun v => v.map (fmtOf t).decode)
    let x1 := sideOf d false [(0, a, i)]
    (s.Ready [0] [(0, a, i)] i → l.getD 0 0 = 0 ∨ l.getD 0 0 = i / K t + 1 →
        let l' := [i / K t + 1, 1, if vs.any (fun v => v.isNan || v.isInf) ∨ l.getD 2 0 = 1 then 1 else 0
          , vs.foldl (fun m v => match v with | .fin _ mm ee => if mm = 0 then m else Nat.max m (leadExp mm ee + 4096).toNat | _ => m) (l.getD 3 0)
          , l.getD 4 0, Nat.max (l.getD 5 0) x1.1.wexp, Nat.max (l.getD 6 0) x1.1.mcount]
        let u := (s.popAt d 0).addFl d.n x1.2
        exec (.qmax t e) s = .next (s.fired (if i % K t = K t - 1 then (u.setNstate d 0).emit d 0 (qmaxTok e l') (i / K t % 2 ^ 48)
          else u.setNstate d (ofFields l'))))
      ∧ (s.Stands [0, 1] [(0, a, i), (1, b, j)] → a.kind = 0 → b.kind = 0 →
          let left (ty : BitVec 4) (u : State) : State := if i % K ty = K ty - 1 then u.popAt d 1 else u
          let scale := (fld b.pay 0 8 : BitVec 8).toNat
          (j = i / K sf → c.getD 0 0 = 0 ∨ c.getD 0 0 = i / (elemCount t / elemCount sf) + 1 →
            let x := sideOf d false [(0, a, i), (1, b, i / K sf)]
            let els := (a.elems sf).map (fun v => v.map (fun v => quantElem t scale ((fmtOf sf).decode v)))
            let fl := els.foldl (fun f v => match v with | some y => f.or y.2 | none => f) x.2
            exec (.qconv t sf) s = .next (s.fired (((left sf (s.popAt d 0)).addFl d.n fl).qconvTake d t (elemCount sf) i
              (some (els.map (fun v => v.map (·.1)))) x.1.wexp x.1.mcount true)))
          ∧ (j < i / K sf → exec (.qconv t sf) s = .next (s.acted (s.popAt d 1)))
          ∧ (j = i / K e →
            let n := elemCount e / elemCount t
            let k := s.prog d
            let x := sideOf d false [(0, a, i), (1, b, i / K e)]
            let r := packFl t ((((a.elems e).map (fun v => v.map (dequantElem e t scale))).drop (k * elemCount t)).take (elemCount t))
            exec (.qdeq t e) s = .next (s.fired (((if k + 1 = n then (left e (s.popAt d 0)).setProg d 0 else s.setProg d (k + 1)).addFl d.n (x.2.or r.2.2)).emit d 0
              (({ x.1 with valid := r.2.1 } : Side).tok r.1) ((i * n + k) % 2 ^ 48))))
          ∧ (j < i / K e → exec (.qdeq t e) s = .next (s.acted (s.popAt d 1))))

/-- R165, R166, R254 to R256, R258: with a record at every slot it reads, PACK, SHUF, BCAST, RSUM, RMAX, RMIN, XRED, HASHK and DROPM emit the
lanes that their rules give, and UNPACK splits the lanes between its two outputs. -/
def Obligations.VectorNodes : Prop :=
  ∀ (s : State) (t : BitVec 4) (m c : BitVec 8) (e g : BitVec 6) (q : BitVec 1) (o : BitVec 2) (a b : Token) (i : Nat),
    let d := s.nd
    let hs : List Taken := [(0, a, i)]
    let seed := (s.reg d.n).seed
    let tree (op : Nat) (f : Nat → Nat × Fl) : BitVec 256 × BitVec 8 × Fl :=
      let els : List Part := (a.elems t).map (fun x => match x with | some v => { v := some (f v).1, fl := (f v).2 } | none => {})
      let w := if isInt t then 14#4 else 6#4
      let r := treeOf (combineOpt op w) els
      ((packElems w [r.v]).1, (packElems w [r.v]).2, r.fl)
    let wide (v : Nat) : Nat × Fl := if isInt t then (patOf 14 (intOf t v), {}) else ((Fmt.f32.round .rne ((fmtOf t).decode v)).1, {})
    let square (v : Nat) : Nat × Fl :=
      if isInt t then satInt 14 (intOf t v * intOf t v)
      else
        let y := ((fmtOf t).decode v).mul ((fmtOf t).decode v)
        ((Fmt.f32.round .rne y.1).1, y.2.or (Fmt.f32.round .rne y.1).2)
    (s.Ready [0, 1] [(0, a, i), (1, b, i)] i →
        Fires s (exec (.pack t) s) [0, 1] [(0, a, i), (1, b, i)] i (t == 13)
            (maskLanes a.pay a.valid ||| maskLanes b.pay (b.valid &&& ~~~a.valid), a.valid ||| b.valid, {})
          ∧ Fires s (exec (.xred t o) s) [0, 1] [(0, a, i), (1, b, i)] i (t == 13) (packFl t (((a.elems t).zip (b.elems t)).map (fun x =>
              match x with | (some x, some y) => some (combineElem o.toNat t x y) | _ => none))))
      ∧ (s.Ready [0] hs i →
          (let x := sideOf d (t == 13) hs
           let half (v : BitVec 8) : Token := ({ x.1 with valid := v } : Side).tok (maskLanes a.pay v)
           exec (.unpack t m) s = .next (s.fired ((((s.popAt d 0).addFl d.n x.2).emit d 0 (half (a.valid &&& m)) i).emit d 1 (half (a.valid &&& ~~~m)) i)))
          ∧ (let p := packElems 15 ((List.range 8).map (fun j =>
               let c := d.const.toNat / 2 ^ (4 * j) % 16
               if 8 ≤ c ∨ a.valid.getLsbD c = false then none else some (a.lane c).toNat))
             Fires s (exec (.shuf t) s) [0] hs i (t == 13) (p.1, p.2, {}))
          ∧ (let p := packElems t (List.replicate (elemCount t) ((a.elems t).getD e.toNat none))
             Fires s (exec (.bcast t e) s) [0] hs i (t == 13) (p.1, p.2, {}))
          ∧ Fires s (exec (.rsum t q) s) [0] hs i false (tree 0 (if q = 1 then square else wide))
          ∧ Fires s (exec (.rmax t) s) [0] hs i false (tree 1 wide) ∧ Fires s (exec (.rmin t) s) [0] hs i false (tree 2 wide)
          ∧ (let p := packElems 14 ((a.elems 14).map (fun x => x.map (fun n => (hashH seed c.toNat n).toNat)))
             Fires s (exec (.hashk c) s) [0] hs i false (p.1, p.2, {}))
          ∧ (let p := packElems t ((a.elems t).zipIdx.map (fun x => x.1.map (fun v =>
               if d.const.toNat ≤ (fld (hashH seed c.toNat (s.origin d.n g + i * elemCount t + x.2)) 32 32 : BitVec 32).toNat then v else 0)))
             Fires s (exec (.dropm t g c) s) [0] hs i false (p.1, p.2, {})))

/-! ## Flow operations -/

/-- R154 to R156, R159, R162: with its records there, STEER sends A's to the output its condition names and advances the other's position, GATE
passes it or advances its output's position, JOIN emits A and B with one sideband, MERGE takes the record its condition names, or A's before
B's renumbered by its own count, with the sideband R131 gives the one record it takes, and REPL emits one copy a firing, with the sideband of
the record at slot A, FIRST on the first copy alone and LAST on the last. -/
def Rule.SteerNodes : Prop :=
  ∀ (s : State) (t : BitVec 4) (v u : BitVec 1) (r : BitVec 6) (a b c : Token) (i : Nat),
    let d := s.nd
    let cond : Bool := if c.kind = 8 then c.pay.getLsbD 0 else c.valid.getLsbD 0 && c.lane 0 != 0
    let own (hs : List Taken) (a : Token) : Token × Fl :=
      let x := sideOf d false hs
      (a.withSide x.1.wexp x.1.mcount a.narrow a.first a.last a.valid, x.2)
    let goes (op : Instr) (w : State) : Prop := exec op s = .next (s.fired w)
    let ac : List Taken := [(0, a, i), (2, c, i)]
    let pops := if t = 13 ∧ a.last = false then [0] else [0, 2]
    (s.Ready [0, 2] ac i →
        (let o := if cond then 0 else 1
         goes (.steer t) ((((s.popAll d pops).addFl d.n (own ac a).2).emit d o (own ac a).1 i).raisePos d (1 - o) (i + 1)))
        ∧ goes (.gate t v) (if cond ≠ (v == 1) then ((s.popAll d pops).addFl d.n (own ac a).2).emit d 0 (own ac a).1 i
            else (s.popAll d pops).raisePos d 0 (i + 1)))
      ∧ (∀ hs, hs = [(0, a, i), (1, b, i)] ++ (if u = 1 then [(2, c, i)] else []) → s.Ready (if u = 1 then [0, 1, 2] else [0, 1]) hs i →
          let x := sideOf d (t == 13) hs
          goes (.join t u) ((((s.popAll d (if u = 1 then 1 :: pops else [0, 1])).addFl d.n x.2).emit d 0 (x.1.tok (maskLanes a.pay x.1.valid)) i).emit d 1
            (x.1.tok (maskLanes b.pay x.1.valid)) i))
      ∧ (∀ k : Fin 2, s.Ready [k.val, 2] [(k.val, a, i), (2, c, i)] i → k.val = (if cond then 0 else 1) → (s.rt d.n d.t).ended.contains d.slot = false →
          (∀ x, (s.headAt d (1 - k.val)) = some x → x.1.kind = 0 ∧ i ≤ x.2) →
          let x := own [(k.val, a, i), (2, c, i)] a
          goes (.merge t 1) (((s.popAll d (if t = 13 ∧ a.last = false then [k.val] else [k.val, 2])).addFl d.n x.2).emit d 0 x.1 i))
      ∧ (s.prog d = 0 → (s.Ready [0] [(0, a, i)] i ∧ (∀ x, s.headAt d 1 = some x → x.1.kind = 0)
            ∨ s.Ready [1] [(1, a, i)] i ∧ s.headAt d 0 = none) → t ≠ 13 →
          let k := if s.headAt d 0 = none then 1 else 0
          let n := (s.nstate d).toNat
          goes (.merge t 0) ((((s.popAt d k).addFl d.n (own [(k, a, i)] a).2).emit d 0 (own [(k, a, i)] a).1 (n % 2 ^ 48)).setNstate d (BitVec.ofNat 512 (n + 1))
            |>.setProg d 0))
      ∧ (s.Ready [0] [(0, a, i)] i → t ≠ 13 →
          let n := r.toNat + 1
          let p := s.prog d
          goes (.repl t r) ((if p + 1 = n then (s.popAt d 0).setProg d 0 else s.setProg d (p + 1)).emit d 0 (a.marked (p == 0) (p + 1 == n)) ((i * n + p) % 2 ^ 48)))

/-- R120, R158, R160, R161: SOURCE emits its operand as token n from cycle n of the period on, FIRST and LAST at the ends, then END; SINK takes its
records and reports END; CHAIN emits START + j·STEP in iteration j, its indices from START or from the record that armed it, II cycles
apart, waits for slot B where LC is set, and ends after COUNT.  That a token at slot B which no iteration awaits is taken and dropped, and that neither looks
at slot O, are the model's choices (log 87, log 91). -/
def Rule.SourceNodes : Prop :=
  ∀ (s : State) (t : BitVec 4) (am bm : BitVec 2) (n : BitVec 8) (v : BitVec 1) (e : BitVec 4) (a : Token) (i : Nat),
    let d := s.nd
    let c := s.chainPos d
    let rt := s.rt d.n d.t
    let ended (u : State) : State := u.modRt d.n d.t (fun r => { r with ended := insertNat r.ended d.slot })
    let cr := chainRec d.img d.t d.slot
    let count := (fld cr 0 16 : BitVec 16).toNat
    let start : BitVec 16 := fld cr 16 16
    let value (j : Nat) : BitVec 32 := start.signExtend 32 + BitVec.ofNat 32 j * (fld cr 32 8 : BitVec 8).signExtend 32
    let tok (j w m : Nat) : Token := { pay := (value j).setWidth 256, side := mkSide 0 w m 0 (j == 0) (j + 1 == count) 1 }
    let ii := (fld cr 40 6 : BitVec 6).toNat
    let now := s.now d.n
    let acts : Prop := (s.reg d.n).st.toNat ∈ [4, 5, 6]
    let chain (w : State) : Prop := exec (.chain am bm) s = .next w
    let lc := cr.getLsbD 46
    let rearm := cr.getLsbD 47
    s.illAt d = false → c.ill = 0 →
    (s.nodeLive d = true → c.ended = false → c.stopped = false → (s.reg d.n).start + c.iter ≤ now →
        (c.iter ≠ n.toNat + 1 → exec (.source t am n) s = .next ((s.emit d 0 ((s.operand d t am).marked (t == 13 || c.iter == 0)
          (t == 13 || c.iter + 1 == n.toNat + 1)) c.iter).setChain d { c with iter := c.iter + 1 }))
        ∧ (c.iter = n.toNat + 1 → exec (.source t am n) s = .next (ended ((s.emit d 0 (endTok false) 0).setChain d { c with ended := true }))))
      ∧ (s.Ready [0] [(0, a, i)] i → exec (.sink t v e) s = .next (s.fired (s.popAt d 0)))
      ∧ (s.Stands [0] [(0, a, i)] → a.kind = 2 →
          let u := (ended (s.popAt d 0)).modReg d.n (fun r => { r with ends := r.ends + 1, left := r.left - 1 })
          exec (.sink t v e) s = .next (s.acted (if v = 1 then u.event d.n e else u)))
      ∧ (acts → rearm = false → lc = false → rt.marked.contains d.slot = false → c.ended = false → c.stopped = false → c.owed = false → c.ready ≤ now →
          (c.iter = count → chain (ended ((s.emit d 0 (endTok false) 0).setChain d { c with ended := true })))
          ∧ (c.iter ≠ count → chain ((s.emit d 0 (tok c.iter 0 0) (((start.signExtend 48).toNat + c.iter) % 2 ^ 48)).setChain d
              { c with iter := c.iter + 1, owed := false, ready := c.ready + ii })))
      ∧ (acts → rearm = true → lc = false → rt.marked.contains d.slot = false →
          (c.run = true → (s.headAt d 0).all (fun h => h.1.kind == 0) = true → c.iter < count → c.owed = false → c.ready ≤ now →
              let w : Token := { pay := 0, side := c.side }
              chain ((s.emit d 0 (tok c.iter w.wexp w.mcount) ((c.base * count + c.iter) % 2 ^ 48)).setChain d
                { c with iter := c.iter + 1, run := if c.iter + 1 = count then false else true, owed := false, ready := c.ready + ii }))
          ∧ (c.run = false → s.headAt d 0 = some (a, i) → a.kind = 0 →
              chain ((s.popAt d 0).setChain d { c with
                iter := 0, run := true, base := i, side := a.side, ready := now + (fld cr 48 6 : BitVec 6).toNat, owed := false })))
      ∧ (acts → lc = true → rearm = false → s.headAt d 1 = some (a, i) → a.kind = 0 → chain ((s.popAt d 1).setChain d { c with owed := false }))

/-- R163, R164, R167, R168, R257: WSUM, ACCUM and WCNT add a record to their sums, WCNT and WSUM weighted by 2^WEXP; WIN adds one of its open
window, and a window that is left behind is emitted first, sums on output 0, counts and completeness on output 1; GAPC passes records on.  That the sideband of WIN's two tokens has
WEXP and MCOUNT 0 and FIRST and LAST clear is the model's choice (log 97). -/
def Obligations.SumNodes : Prop :=
  ∀ (s : State) (t : BitVec 4) (e v : BitVec 1) (x : BitVec 4) (a : Token) (i : Nat),
    let d := s.nd
    let l := s.counts d
    let seen : Nat := (BitVec.ofNat 8 (l.getD 0 0) ||| a.valid).toNat
    s.Ready [0] [(0, a, i)] i →
    let goes (op : Instr) (w : State) : Prop := exec op s = .next (s.fired w)
    let sum (ex : Nat) : State := ((s.popAt d 0).addRecord d t a ex).setCounts d [seen, i]
    let result (u : State) : State :=
      let p := if t = 6 then sumsTok t (u.nstate d) (BitVec.ofNat 8 seen) else intSumsTok t (u.exactSums d) (BitVec.ofNat 8 seen)
      (((u.addFl d.n p.2).emit d 0 (dataTok p.1 (BitVec.ofNat 8 seen)) i).setSums d []).setCounts d []
    let cnt (k : Nat) : Nat := (fld (s.nstate d) (64 * k) 64 : BitVec 64).toNat
    let counts := [cnt 0 + 2 ^ a.wexp * (1 + a.mcount), cnt 1, cnt 2, cnt 3 + 1]
    let counted := ((s.popAt d 0).setNstate d (wcntPack counts)).setCounts d [1, i]
    let len := d.const.toNat
    let ended := e = 1 ∧ a.last = true
    (¬ended → goes (.wsum t e) (sum a.wexp) ∧ goes (.accum t e) (sum 0) ∧ goes (.wcnt e) counted)
      ∧ (ended → goes (.wsum t e) (result (sum a.wexp)) ∧ goes (.accum t e) (result (sum 0))
          ∧ (let w := wcntTok (wcntOf (counted.nstate d))
             goes (.wcnt e) ((((counted.addFl d.n w.2).emit d 0 (dataTok w.1 0x0F) i).setNstate d 0).setCounts d [])))
      ∧ goes (.gapc t v x) ((s.popAt d 0).emit d 0 a i)
      ∧ (l = [] ∨ l.getD 0 0 = i / len →
          let r := addLanes t (if l = [] then sumStart t else s.nstate d) a a.wexp
          goes (.win t) ((((s.popAt d 0).addFl d.n r.2).setNstate d r.1).setCounts d
            [i / len, l.getD 1 0 + 2 ^ a.wexp * (1 + a.mcount), l.getD 2 0, (BitVec.ofNat 8 (l.getD 3 0) ||| a.valid).toNat]))
      ∧ (∀ k w lost m, l = [k, w, lost, m] → k ≠ i / len → w < 2 ^ 32 → lost < 2 ^ 32 →
          let q := Fmt.f32.round .rne (ratio w len)
          let p := sumsTok t (s.nstate d) (BitVec.ofNat 8 m)
          exec (.win t) s = .next (s.acted (((((s.addFl d.n (p.2.or q.2)).emit d 0 (dataTok p.1 (BitVec.ofNat 8 m)) (k % 2 ^ 48)).emit d 1
            (dataTok (BitVec.ofNat 256 (w + lost * 2 ^ 32 + q.1 * 2 ^ 64 + k % 2 ^ 32 * 2 ^ 96)) 0x0F) (k % 2 ^ 48)).setNstate d 0).setCounts d [])))

/-! ## Memory nodes -/

/-- R47, R275 to R277, R340, R347: with a valid, aligned address that leads somewhere, GLD, SLD and WLD, and GST and SST with their data, take their records
and issue one access of 32 bytes there, which owes an ORDER token with EMIT; a record without a valid address makes none; an address that
faults parks the node with its records, but for poison met on the walk, which is the region's fault; and with INORD a node whose last access has not performed waits. -/
def Rule.MemoryNodes : Prop :=
  ∀ (s u : State) (t : BitVec 4) (n e : BitVec 1) (sc : BitVec 3) (a b : Token) (i key : Nat) (x : Xl),
    let d := s.nd
    let held := (s.rt d.n d.t).accs.any (fun y => y.slot.toNat == d.slot && !y.done)
    let side := sideOf d false [(0, a, i)]
    let va : Word := fld a.pay 0 64
    let who : Waiter := .node ⟨d.n, d.t, BitVec.ofNat 3 d.slot⟩
    let base (op : Instr) (store : Bool) : MemAcc := {
      slot := 0, op := op, store := store, scope := sc, order := e == 1, idx := i, wide := if e = 1 ∨ n = 1 then 1 else 0 }
    let marks : Side := if t = 13 then { side.1 with first := true, last := true } else side.1
    let load (op : Instr) (u : State) (f : MemAcc → MemAcc) : Prop := exec op s
      = .next (s.fired (((u.popAt d 0).addFl d.n side.2).issueAcc d (f { base op false with out := ({ marks with valid := 0xFF } : Side).tok 0 })))
    let store (op : Instr) (u : State) (f : MemAcc → MemAcc) : Prop := exec op s
      = .next (s.fired ((u.popAll d [0, 1]).issueAcc d (f { base op true with data := b.pay, lanes := b.valid })))
    let mem (y : MemAcc) : MemAcc := { y with where_ := 0, target := x.target }
    let off := (fld a.pay 0 32 : BitVec 32).toNat
    let lane : Bool := a.valid.getLsbD 0
    let none_ (op : Instr) : Prop := exec op s = .next (s.fired (((s.popAt d 0).addFl d.n side.2).issueAcc d { base op false with
      none := true, done := true, out := ({ marks with valid := 0 } : Side).tok 0 }))
    let nothing (op : Instr) : Prop := store op s (fun y => { y with none := true, done := true })
    let parks (op : Instr) (u : State) (c : BitVec 8) (v : Word) (w : BitVec 8) : Prop := exec op s = .next (s.acted (u.park d c v 0 w))
    let scr (load : Bool) (op : Instr) (go : (MemAcc → MemAcc) → Prop) : Prop :=
      (∀ tile o, lane = true → off % 32 = 0 → scrSpot d.img off = some (tile, o) →
          s.scoreHolds (clusterOf d.n) ((s.reg d.n).absTile tile) o (o + 32) = false →
          go (fun y => { y with where_ := 1, tile := tile.toNat, addr := o }))
        ∧ (lane = true → off % 32 ≠ 0 → parks op s 0x03 (BitVec.ofNat 64 off) (if load then 0 else 1))
        ∧ (lane = true → off % 32 = 0 → scrSpot d.img off = none → parks op s 0x05 (BitVec.ofNat 64 off) (if load then 0 else 1))
    ((n = 1 ∧ held = true) → s.Ready [0] [(0, a, i)] i →
        ∀ op ∈ [Instr.gld t n e sc, .sld t n e sc, .wld t n e sc], exec op s = .next s)
      ∧ (¬(n = 1 ∧ held = true) → s.Ready [0] [(0, a, i)] i →
          ((fld a.valid 0 2 : BitVec 2) ≠ 3 → none_ (.gld t n e sc)) ∧ (lane = false → none_ (.sld t n e sc) ∧ none_ (.wld t n e sc))
          ∧ ((fld a.valid 0 2 : BitVec 2) = 3 → va.toNat % 32 = 0 →
              (s.resolve (s.reg d.n).capt .read false va who = (u, .ok key x) → load (.gld t n e sc) u mem)
              ∧ (∀ c, s.resolve (s.reg d.n).capt .read false va who = (u, .fault c) → parks (.gld t n e sc) u c va (u.nodeFlags d false true va)))
          ∧ ((fld a.valid 0 2 : BitVec 2) = 3 → va.toNat % 32 ≠ 0 → parks (.gld t n e sc) s 0x03 va (s.nodeFlags d false true va))
          ∧ scr true (.sld t n e sc) (load (.sld t n e sc) s)
          ∧ (lane = true → off % 32 = 0 → off < imgWslen d.img → (s.clu (clusterOf d.n)).inWin = false →
              load (.wld t n e sc) s (fun y => { y with where_ := 2, addr := imgWsbase d.img + off }))
          ∧ (lane = true → off % 32 = 0 → imgWslen d.img ≤ off → parks (.wld t n e sc) s 0x05 (BitVec.ofNat 64 off) 0))
      ∧ (¬(n = 1 ∧ held = true) → s.Ready [0, 1] [(0, a, i), (1, b, i)] i →
          ((fld a.valid 0 2 : BitVec 2) ≠ 3 → nothing (.gst t n e sc)) ∧ (lane = false → nothing (.sst t n e sc))
          ∧ ((fld a.valid 0 2 : BitVec 2) = 3 → va.toNat % 32 = 0 →
              (s.resolve (s.reg d.n).capt .write false va who = (u, .ok key x) → store (.gst t n e sc) u mem)
              ∧ (∀ c, s.resolve (s.reg d.n).capt .write false va who = (u, .fault c) → parks (.gst t n e sc) u c va (u.nodeFlags d true true va)))
          ∧ ((fld a.valid 0 2 : BitVec 2) = 3 → va.toNat % 32 ≠ 0 → parks (.gst t n e sc) s 0x03 va (s.nodeFlags d true true va))
          ∧ scr false (.sst t n e sc) (store (.sst t n e sc) s))

/-- R110, R273, R277, R278, R372: an access in flight that is its node's only one performs, unless it reads weights inside a refresh window,
where it waits: a store's valid lanes are written at its point, a load's 32 bytes, read
from its point, leave as its token on output 0, or POISON where a word of them is poisoned, and the ORDER token it owes follows on
output 1; the access is then gone. -/
def Rule.MemoryPerforms : Prop :=
  ∀ (s u : State) (a : MemAcc) (v : Nat) (bad : Bool),
    let n := s.ev.n
    let t := s.ev.t
    let c := clusterOf n
    let d : Nd := { n := n, t := t, slot := a.slot.toNat, img := (s.reg n).image }
    let l := (s.rt n t).accs
    s.ev.w = 0 → (s.reg n).st.toNat ∈ [4, 5, 6] → l[s.ev.k]? = some a → a.done = false → (∀ k b, l[k]? = some b → b.slot = a.slot → k = s.ev.k) →
    let gone (u : State) (b : MemAcc) : State :=
      ((u.modRt n t (fun r => { r with accs := r.accs.set s.ev.k b })).modReg n (fun r => { r with active := u.now n })).modRt n t
        (fun r => { r with accs := r.accs.erase b })
    let order (w : State) : State := if a.order then w.emit d 1 (orderTok a.scope) a.idx else w
    let ends (u : State) (b : MemAcc) : Prop := exec .memoryAccessPerformed s = .next (order (if a.store then gone u b else
      (gone u b).emit d 0 (if b.poison then poisonTok else if a.none then b.out else { b.out with pay := b.data }) a.idx))
    let held : Prop := a.where_ = 2 ∧ (s.clu c).inWin = true
    let tile := (s.reg n).absTile (BitVec.ofNat 8 a.tile)
    let loaded : MemAcc := { a with done := true, data := BitVec.ofNat 256 v, poison := bad }
    (held → exec .memoryAccessPerformed s = .next s) ∧ (¬held →
    (a.none = true → a.gapTok = false → ends s { a with done := true })
      ∧ (a.none = false → a.gapTok = false → a.store = true → a.where_ = 0 →
          ends (s.fabricStore n a.target.key a.data a.lanes a.scope) { a with done := true })
      ∧ (a.none = false → a.gapTok = false → a.store = true → a.where_ = 1 → ends ((laneRuns a.lanes).foldl (fun s r =>
          s.scrWrite c tile (a.addr + 4 * r.1) (4 * r.2) (a.data.toNat / 2 ^ (32 * r.1) % 2 ^ (32 * r.2)) false) s) { a with done := true })
      ∧ (a.none = false → a.gapTok = false → a.store = false →
          (a.where_ = 0 → s.fabricLoad c (quadOf ((s.reg n).absTile t)) (pointOf a.wide) a.target.key 32 = (u, v, bad) → ends u loaded)
          ∧ (a.where_ = 1 → s.scrRead c tile a.addr 32 = (u, v, bad) → ends u loaded)
          ∧ (2 ≤ a.where_.toNat → s.wsRead c (quarterOf ((s.reg n).absTile t)) a.addr 32 = (u, v, bad) → ends u loaded)))

/-- R233, R237, R340: TLD, TST, TLDS and TSTS with a go record, their tags as they must be and no fault, begin, and their record stays at
the head; a shape no record may have (IMAGE), a misaligned address or stride, a stride below the row and a scratchpad row outside the
region's own park the node and write nothing; a go record whose lanes are not valid completes with its ORDER token, once the tags are as
they must be. -/
def Rule.RowNodes : Prop :=
  ∀ (s : State) (b : BitVec 2) (r : BitVec 4) (n k c : BitVec 1) (sc : BitVec 3) (a : Token) (i : Nat),
    let d := s.nd
    let ops : List (Instr × RowOp) :=
      [(.tld b r n sc, { instr := .tld b r n sc, reg := r.toNat, store := false, scr := false, scope := sc, setShape := b == 1 })
       , (.tst r n sc k c, { instr := .tst r n sc k c, reg := r.toNat, acc := c == 1, keep := k == 1, store := true, scr := false, scope := sc })
       , (.tlds b r sc, { instr := .tlds b r sc, reg := r.toNat, store := false, scr := true, scope := sc, setShape := b == 1 })
       , (.tsts r sc k c, { instr := .tsts r sc k c, reg := r.toNat, acc := c == 1, keep := k == 1, store := true, scr := true, scope := sc })]
    s.Ready [0] [(0, a, i)] i → (s.rt d.n d.t).mops.any (fun m => m.slot.toNat == d.slot) = false →
    ∀ p ∈ ops,
      let o := p.2
      let lanes : BitVec 8 := if o.scr then 3 else 7
      let base := if o.scr then (a.lane 0).toNat else a.va.toNat
      let stride := (a.lane (if o.scr then 1 else 2)).toNat
      let shape := if o.setShape then d.const else (s.tm d o.reg).shape
      let rows := if o.acc then 32 else shRows shape
      let len := if o.acc then 256 else (shCols shape * shSb shape + 7) / 8
      let outside : Prop := ∃ q x, q < rows ∧ x < len ∧ x % 8 = 0 ∧ scrSpot d.img (base + q * stride + x) = none
      let parks (cause : BitVec 8) : Prop :=
        let va := BitVec.ofNat 64 base
        exec p.1 s = .next (s.acted (s.park d cause va 0 ((if o.store then 1 else 0) ||| (if !o.scr && s.hostTier (s.reg d.n).capt va then 4 else 0))))
      (s.matReady d (s.rowNeed d o) = false → exec p.1 s = .next s)
        ∧ (a.valid &&& lanes ≠ lanes → s.matReady d (s.rowNeed d o) = true → exec p.1 s = .next (s.fired ((s.popAt d 0).emit d 0 (orderTok sc) i)))
        ∧ (a.valid &&& lanes = lanes → s.matReady d (s.rowNeed d o) = true →
            (o.acc = false → shapeOk shape = false → exec p.1 s = .next (s.acted (s.park d 0x08 0 0 0)))
            ∧ ((o.acc = true ∨ shapeOk shape = true) →
                (base % 8 ≠ 0 ∨ stride % 8 ≠ 0 → parks 0x03)
                ∧ (base % 8 = 0 → stride % 8 = 0 →
                    (o.store = true → stride < len → parks 0x05)
                    ∧ ((o.store = true → len ≤ stride) →
                        (o.scr = true → outside → parks 0x05)
                        ∧ ((o.scr = true → ¬outside) → s.rowHeld d o a = false →
                            exec p.1 s = .next (s.acted (s.modRt d.n d.t (fun q => { q with mops := q.mops ++ [{
                              slot := BitVec.ofNat 3 d.slot, op := p.1, go := a, idx := i, due := s.now d.n + 1
                              regs := if o.acc then [] else [o.reg], acc := o.acc, rows := s.prog d }] })))))))) 

/-- R52, R237, R276, R278, R340, R372: an operation TLD, TST, TLDS or TSTS in progress performs one row at each MEMORY_ACCESS_PERFORMED of its
node.  Row q lies at the go record's address plus q strides and is the register's or acc's row as a bit string from bit 0 of its lowest
byte, zero in the pad bits of its last byte: a store writes those bytes and no other, a load those bits of the register and no other.
The record stays until the last row, when the tags change, its ORDER tokens leave and the token of the operation's scope goes out, POISON
where a row was read poisoned.  A row whose translation faults parks the node with the bytes of the rows before it in DONE and changes
nothing of it, the shape included.  Said where no error is injected, no access marks a dirty bitmap and no two bytes of a row share a place. -/
def Rule.RowTransfers : Prop :=
  ∀ (s u : State) (b : BitVec 2) (r : BitVec 4) (n k c : BitVec 1) (sc : BitVec 3) (m : MatOp) (keys : List (Nat × Nat)),
    let e := s.ev
    let d : Nd := { n := e.n, t := e.t, slot := e.s.toNat, img := (s.reg e.n).image }
    let R := r.toNat
    let cl := clusterOf d.n
    let tile := (s.reg d.n).absTile d.t
    let q := m.rows
    let calm (v : State) : Prop := ∀ x, v.module.armed x = false
    e.w ≠ 0 → (s.reg e.n).st.toNat ∈ [4, 5, 6] → (s.rt e.n e.t).parked.any (fun p => p.slot == e.s) = false →
    (s.rt e.n e.t).mops.find? (fun p => p.slot == e.s && decide (p.due ≤ s.now e.n)) = some m → calm s → calm u →
    let sets : Bool := b == 1
    let acc : Bool := c == 1
    let shape (load : Bool) := if load ∧ sets = true then d.const else (s.tm d R).shape
    let rows (load : Bool) := if !load ∧ acc = true then 32 else shRows (shape load)
    let bits (load : Bool) := if !load ∧ acc = true then 2048 else shCols (shape load) * shSb (shape load)
    let len (load : Bool) := (bits load + 7) / 8
    let base (scr : Bool) := if scr then (m.go.lane 0).toNat else m.go.va.toNat
    let stride (scr : Bool) := (m.go.lane (if scr then 1 else 2)).toNat
    let addr (scr : Bool) := base scr + q * stride scr
    let bit (v : State) (j : Nat) : Bool := if acc then (v.tmem d.n d.t).acc.getLsbD j else (v.treg d R).getLsbD j
    let stored (v : State) (x j : Nat) : Bool := decide (8 * x + j < bits false) && bit v (bits false * q + (8 * x + j))
    let after (load : Bool) (w : State) (bad : Bool) : State :=
      let w := if load ∧ sets = true ∧ q = 0 then w.setTm d R { w.tm d R with shape := d.const } else w
      let w := w.modReg d.n (fun g => { g with active := w.now d.n })
      if q + 1 = rows load then
        let w := (w.modRt d.n d.t (fun t => { t with mops := t.mops.filter (fun p => p.slot != m.slot) })).setProg d 0
        let w := if load then w.setTm d R { w.tm d R with full := true, cursor := 0, ncut := 0 }
          else if k = 1 then w
          else if acc then w.releaseAcc d false else w.setTm d R { w.tm d R with full := false }
        let w := if w.orderHead d = 0 then w else (w.popAt d 3).setCounts d [Nat.max (w.orderSeen d) (w.orderHead d)]
        (w.popAt d 0).emit d 0 (if m.capped || bad then poisonTok else orderTok sc) m.idx
      else w.modRt d.n d.t (fun t => { t with mops := t.mops.map (fun p => if p.slot == m.slot then { m with rows := q + 1, capped := m.capped || bad } else p) })
    let event := exec .memoryAccessPerformed s
    let places (l : Nat) : Prop := (∀ x, x < l → (s.scrPlace d (addr true + x)).isSome)
      ∧ ∀ x y, x < l → y < l → s.scrPlace d (addr true + x) = s.scrPlace d (addr true + y) → x = y
    let walk (store : Bool) := State.resolveRow (s.reg d.n).capt (if store then .write else .read) (.node ⟨d.n, d.t, e.s⟩)
      (rowPieces (addr false) (len (!store))) s
    let key (x : Nat) : Nat := (keys.getD (x / 8) (0, 0)).1 + x % 8
    (m.op = .tsts r sc k c → base true % 8 = 0 → stride true % 8 = 0 → places (len false) → (∀ t, Memory.wf ((s.clu cl).tile t).scr = true) →
        ∃ w, event = .next (after false w false) ∧ { w with clusters := s.clusters } = s ∧ (∀ j, j ≠ cl → w.clu j = s.clu j)
          ∧ { w.clu cl with tiles := (s.clu cl).tiles } = s.clu cl
          ∧ (∀ t, { (w.clu cl).tile t with scr := ((s.clu cl).tile t).scr, scrPoison := ((s.clu cl).tile t).scrPoison } = (s.clu cl).tile t)
          ∧ (∀ x p, x < len false → s.scrPlace d (addr true + x) = some p → ∀ j, j < 8 → (w.scrCell d.n p).getLsbD j = stored s x j)
          ∧ (∀ p, (∀ x, x < len false → s.scrPlace d (addr true + x) ≠ some p) → w.scrCell d.n p = s.scrCell d.n p))
      ∧ (m.op = .tlds b r sc → base true % 8 = 0 → stride true % 8 = 0 → (∀ x, x < len true → (s.scrPlace d (addr true + x)).isSome) →
        ∃ w bad, event = .next (after true w bad) ∧ { w with clusters := s.clusters } = s ∧ (∀ j, j ≠ cl → w.clu j = s.clu j)
          ∧ { w.clu cl with tiles := (s.clu cl).tiles } = s.clu cl ∧ (∀ t, t ≠ tile → (w.clu cl).tile t = (s.clu cl).tile t)
          ∧ { (w.clu cl).tile tile with treg := (s.tmem d.n d.t).treg, tregPoison := (s.tmem d.n d.t).tregPoison } = s.tmem d.n d.t
          ∧ (∀ p, p ≠ (s.tmem d.n d.t).tregBanks.phys R → Tab.get 0 (w.tmem d.n d.t).treg p = Tab.get 0 (s.tmem d.n d.t).treg p)
          ∧ (∀ x p, x < bits true → bits true * q + x < 32768 → s.scrPlace d (addr true + x / 8) = some p →
              (w.regBits d R).getLsbD (bits true * q + x) = (s.scrCell d.n p).getLsbD (x % 8))
          ∧ (∀ j, j < bits true * q ∨ bits true * (q + 1) ≤ j → (w.regBits d R).getLsbD j = (s.regBits d R).getLsbD j)
          ∧ (bad = true ↔ ∃ x p, x < len true ∧ s.scrPlace d (addr true + x) = some p ∧ p.2 / 8 ∈ ((s.clu cl).tile p.1).scrPoison))
      ∧ (m.op = .tld b r n sc →
        (walk false = (u, .ok keys) → (∀ p ∈ keys, p.1 % 8 = 0) →
          let load (x : Nat) := u.fabricLoad cl (quadOf tile) (pointOf (widthOf (Nat.max (sc.toNat + 1) (Nat.max (u.orderSeen d) (u.orderHead d)))))
            (keys.getD x (0, 0)).1 (keys.getD x (0, 0)).2
          ∃ w bad, event = .next (after true w bad) ∧ { w with clusters := u.clusters } = u
            ∧ (∀ p, p ≠ (u.tmem d.n d.t).tregBanks.phys R → Tab.get 0 (w.tmem d.n d.t).treg p = Tab.get 0 (u.tmem d.n d.t).treg p)
            ∧ (∀ x, x < bits true → bits true * q + x < 32768 →
                (w.regBits d R).getLsbD (bits true * q + x) = (load (x / 64)).2.1.testBit (x % 64))
            ∧ (∀ j, j < bits true * q ∨ bits true * (q + 1) ≤ j → (w.regBits d R).getLsbD j = (u.regBits d R).getLsbD j)
            ∧ (bad = true ↔ ∃ x, x < keys.length ∧ (load x).2.2 = true))
        ∧ (∀ f va, walk false = (u, .error (some (f, va))) → event = .next (u.park d f va (q * len true) (u.nodeFlags d false true va)))
        ∧ (walk false = (u, .error none) → event = .next u))
      ∧ (m.op = .tst r n sc k c →
        (walk true = (u, .ok keys) → (∀ p ∈ keys, p.1 % 8 = 0 ∧ (u.reg d.n).capt.marks p.1 = [] ∧ (s.reg d.n).capt.marks p.1 = []
            ∧ (u.l2Line cl (p.1 / 64)).marks = [] ∧ (u.l2Line cl (p.1 / 64)).dirty &&& ~~~(u.l2Line cl (p.1 / 64)).valid = 0) →
          Memory.wf u.mem = true → (∀ x y, x < len false → y < len false → key x = key y → x = y) →
          ∃ w, event = .next (after false w false) ∧ { w with clusters := u.clusters, mem := u.mem, poison := u.poison } = u
            ∧ (∀ x, x < len false → ∀ j, j < 8 → (w.sliceByte cl (key x)).getLsbD j = stored u x j
                ∧ (3 ≤ sc.toNat → (cellRead w.mem (key x)).getLsbD j = stored u x j))
            ∧ (∀ y, (∀ x, x < len false → key x ≠ y) → w.sliceByte cl y = u.sliceByte cl y ∧ cellRead w.mem y = cellRead u.mem y))
        ∧ (∀ f va, walk true = (u, .error (some (f, va))) → event = .next (u.park d f va (q * len false) (u.nodeFlags d true true va)))
        ∧ (walk true = (u, .error none) → event = .next u))

/-- R52, R282, R318: DONE takes an ORDER token at every slot it reads and emits one of the narrowest scope; ECMD takes the two halves of an entry
and emits them as two CMD tokens, FIRST and LAST, and owes one ORDER token more. -/
def Rule.OrderNodes : Prop :=
  ∀ (s : State) (h : BitVec 1) (ts : List Token) (a b : Token) (i : Nat),
    let d := s.nd
    let ks := if h = 1 then [0, 1, 2] else [0, 1]
    let hs : List Taken := (ks.zip ts).map (fun p => (p.1, p.2, i))
    (ts.length = ks.length → s.Stands ks hs → (∀ t ∈ ts, t.kind = 9) →
        let sc := ts.foldl (fun m t => Nat.min m (fld t.pay 0 3 : BitVec 3).toNat) 7
        exec (.done h) s = .next (s.fired ((s.popAll d ks).emit d 0 (orderTok (BitVec.ofNat 3 sc)) i)))
      ∧ (s.Ready [0, 1] [(0, a, i), (1, b, i)] i →
          let cmd (t : Token) (first : Bool) : Token := { pay := t.pay, side := mkSide 5 0 0 0 first (!first) 0 }
          exec .ecmd s = .next (s.fired ((((s.popAll d [0, 1]).emit d 0 (cmd a true) i).emit d 0 (cmd b false) i).setCounts d [(s.counts d).getD 0 0 + 1])))

/-! ## The matrix unit -/

/-- R218 to R225, R233 to R240: with a go record, no operation of its node in progress, its tags as Table 7.7 has them and its shapes and
types meeting the row, a matrix operation fires: TSHAPE and TPREC at once, TFILL and TACC take the record, TEMIT and TEPI emit their next
token, and TZERO, TMMA, TMOV, TCVT and TQUANT begin and hold their registers for their cycles. -/
def Rule.MatrixNodes : Prop :=
  ∀ (s : State) (t r q : BitVec 4) (b m : BitVec 2) (f k l j : BitVec 1) (a : Token) (i : Nat),
    let d := s.nd
    let R := r.toNat
    let Q := q.toNat
    let rt := s.rt d.n d.t
    let A := (s.tm d R).shape
    let B := (s.tm d Q).shape
    let x := sideOf d false [(0, a, i)]
    let done (v : State) : State := (v.addFl d.n x.2).emit d 0 (({ x.1 with valid := 1 } : Side).tok 0) i
    s.Ready [0] [(0, a, i)] i →
    let starts (own : Bool) (op : Instr) (need : MatNeed) (go : State → State) : Prop :=
      (own = true → rt.mops.any (fun m => m.slot.toNat == d.slot) = false) → s.matReady d need = true → need.ok = true →
      let reads := need.full ++ need.reads
      let u := reads.foldl (fun s q => s.tregRead (clusterOf d.n) ((s.reg d.n).absTile d.t) q) s
      reads.any (u.tregBad d) = false → (need.readsAcc = true → (u.tmem d.n d.t).accPoison = []) → exec op s = .next (s.fired (go u))
    let holds (op : Instr) (cycles : Nat) (regs : List Nat) (acc : Bool) (wa wb : Nat) (cap : Bool) (u : State) : State :=
      (u.popAt d 0).modRt d.n d.t (fun r => { r with mops := r.mops ++ [{
        slot := BitVec.ofNat 3 d.slot, op := op, go := a, idx := i, due := u.now d.n + cycles - 1, regs := regs, acc := acc
        wa := wa, wb := wb, capped := cap }] })
    let cycles (w : BitVec 32) (sb : Nat) : Nat := (shCount w * sb + 4095) / 4096 + 2
    let shape := if b = 1 then d.const else A
    starts true (.tshape r) { empty := [R], ok := shapeOk d.const } (fun u => done (((u.popAt d 0).setTreg d R 0).setTm d R { shape := d.const }))
      ∧ starts true .tprec {} (fun u => done ((u.popAt d 0).modRt d.n d.t (fun r => { r with prec := d.const })))
      ∧ starts true (.tzero b r f 0) { also := [R] } (holds (.tzero b r f 0) 2 [R] false 0 0 false)
      ∧ starts true (.tzero b r f 1) { useAcc := true, ok := accRecOk d.const } (holds (.tzero b r f 1) 2 [] true 0 0 false)
      ∧ starts true (.tfill t b r) { empty := [R], ok := fillType shape t && shapeOk shape } (fun u =>
          u.fillTake d t b R (if t = 13 then ((u.rt d.n d.t).queue (4 * d.slot)).headRec else [a]) a i)
      ∧ starts true (.tacc t f) { acc := some false, readsAcc := true, ok := if rt.accFp then t == 6 else t != 6 } (fun u =>
          let v := (u.popAt d 0).accTake d t a
          if 1024 ≤ rt.taccCur + elemCount t ∧ f = 1 then v.modRt d.n d.t (fun r => { r with accFull := true }) else v)
      ∧ starts true (.tmma r q l k j) { full := [R, Q], acc := some false, readsAcc := true, ok := mmaOk rt A B } (fun u =>
          let w := u.widths d (u.tm d R) (u.tm d Q)
          holds (.tmma r q l k j) ((shCols A + 15) / 16 * w.1 * w.2.1 + 6) [R, Q] true w.1 w.2.1 w.2.2 (if w.2.2 then u.raiseFlag d.n 4 else u))
      ∧ starts true (.tmov r q f k) { full := [R], empty := [Q] } (holds (.tmov r q f k) (cycles A (shSb A)) [R, Q] false 0 0 false)
      ∧ starts true (.tcvt r q k m) { full := [R], empty := [Q], ok := shRows A == shRows B && shCols A == shCols B }
          (holds (.tcvt r q k m) (cycles A (Nat.max (shSb A) (shSb B))) [R, Q] false 0 0 false)
      ∧ starts true (.tquant r q k) { full := [R], empty := [Q], ok := shFp A && (mxOf B).isSome && shRows A == shRows B && shCols A == shCols B
                                      && shCount A % 128 == 0 } (holds (.tquant r q k) (shCount A / 128 + 4) [R, Q] false 0 0 false)
      ∧ (∀ acc : Bool, l = (if acc then 1 else 0) →
          starts false (.temit t r k l) (if s.prog d ≠ 0 then { reads := if acc then [] else [R], readsAcc := acc }
              else if acc then { acc := some true, readsAcc := true, ok := if rt.accFp then t == 6 else t == 0 || t == 14 } else { full := [R], ok := emitType A t })
            (fun u =>
              let e := u.temitAll d t R acc
              u.emission d (.temit t r k l) t e.1 e.2.1 e.2.2 a i (if acc then [] else [R]) acc
                (fun v => if acc then v.releaseAcc d (k == 1) else v.releaseReg d R (k == 1))))
      ∧ starts false (.tepi t k l m) (if s.prog d ≠ 0 then { readsAcc := true } else { acc := some true, readsAcc := true }) (fun u =>
          let v := u.rt d.n d.t
          let xs := (cellsOf (u.tmem d.n d.t).acc).map (tepiCell t v.accFp v.accPoint (Fmt.f32.decode d.const.toNat) (l == 1) m)
          u.emission d (.tepi t k l m) t (emitToks t (xs.map (·.1))) 1 (xs.foldl (fun f x => f.or x.2) {}) a i [] true
            (fun v => v.releaseAcc d (k == 1)))

/-- R224, R226, R227, R236, R239, R377, Table 7.7: a matrix operation that is due completes: TMMA adds its products to the accumulator's cells, TMOV, TCVT
and TQUANT write B, TZERO zeroes; sources without KEEP become empty, and the completion token leaves on output 0, POISON in its place where the go record
was poisoned in an Electrum copy.  One that is not due stays. -/
def Rule.MatrixCompletes : Prop :=
  ∀ (s : State) (m : MatOp) (r q : BitVec 4) (b z : BitVec 2) (f k l j : BitVec 1),
    let n := s.ev.n
    let t := s.ev.t
    let d : Nd := { n := n, t := t, slot := s.ev.s.toNat, img := (s.reg n).image }
    let due (tmma : Bool) (p : MatOp) : Bool := p.slot == s.ev.s && timedOp p.op && isTmma p.op == tmma && decide (p.due ≤ s.now n)
    let u := (s.modRt n t (fun r => { r with mops := r.mops.filter (fun p => p.slot != m.slot) })).modReg n (fun r => { r with active := s.now n })
    let A := s.tm d r.toNat
    let B := s.tm d q.toNat
    let side := sideOf d false [(0, m.go, m.idx)]
    let sends (v : State) (valid : BitVec 8) (pay : Nat) : State :=
      (v.addFl d.n side.2).emit d 0 (if m.go.kind = 7 then poisonTok else ({ side.1 with valid := valid } : Side).tok (BitVec.ofNat 256 pay)) m.idx
    let keep (g : BitVec 1) (p : Nat) (v : State) : State := if g = 1 then v else v.setTm d p { v.tm d p with full := false }
    let elems := regElems A.shape (u.treg d r.toNat)
    let place (v : State) (out : List (Nat × Fl)) : State := ((v.addFl d.n (out.foldl (fun f x => f.or x.2) {})).setTreg d q.toNat
      (regPack B.shape (out.map (·.1)))).setTm d q.toNat { shape := B.shape, full := true }
    (s.reg n).st.toNat ∈ [4, 5, 6] →
    ((s.rt n t).mops.find? (due true) = none → exec .tmmaCompletion s = .next s)
      ∧ ((s.rt n t).mops.find? (due false) = none → exec .matrixOpCompletion s = .next s)
      ∧ ((s.rt n t).mops.find? (due true) = some m → m.op = .tmma r q l k j →
          let cells := cellsOf (u.tmem n t).acc
          let ys := regElems B.shape (u.treg d q.toNat)
          let out := if shFp A.shape then mmaFp A.shape B.shape m.wa m.wb elems ys cells (s.rt n t).accSeen
            else ((mmaInt (s.rt n t).accPoint A.shape B.shape m.wa m.wb elems ys cells).1,
              (mmaInt (s.rt n t).accPoint A.shape B.shape m.wa m.wb elems ys cells).2, (s.rt n t).accSeen)
          let v := keep k q.toNat (keep j r.toNat (((u.addFl n out.2.1).modTmem n t (fun x => { x with acc := ofCells out.1 })).modRt n t
            (fun x => { x with accSeen := out.2.2 })))
          exec .tmmaCompletion s = .next (sends (if l = 1 then v.modRt n t (fun x => { x with accFull := true }) else v) 1
            (m.wa + m.wb * 256 + if m.capped then 65536 else 0)))
      ∧ ((s.rt n t).mops.find? (due false) = some m →
          (m.op = .tzero b r f 1 → exec .matrixOpCompletion s = .next (sends ((u.modTmem n t (fun x => { x with acc := 0, accPoison := [] })).modRt n t
              (fun x => { x with accRec := d.const, accFull := false, accSeen := 0 })) 1 0))
          ∧ (m.op = .tzero b r f 0 → exec .matrixOpCompletion s = .next (sends ((u.setTreg d r.toNat 0).setTm d r.toNat
              { A with cursor := 0, ncut := 0, full := f == 1 }) 1 0))
          ∧ (m.op = .tcvt r q k z → exec .matrixOpCompletion s = .next (sends (keep k r.toNat (place u (elems.map (tcvtElem A.shape B.shape z)))) 1 0))
          ∧ (m.op = .tmov r q f k →
              let rows := shRows A.shape
              let cols := shCols A.shape
              let out := if f = 1 then (List.range (rows * cols)).map (fun e => elems.getD (e % rows * cols + e / rows) 0) else elems
              let shape := if f = 1 then shTrans A.shape else A.shape
              exec .matrixOpCompletion s = .next (sends (keep k r.toNat ((u.setTreg d q.toNat (regPack shape out)).setTm d q.toNat
                { shape := shape, full := true, cursor := 0, ncut := A.ncut })) 1 0))
          ∧ (∀ e, m.op = .tquant r q k → mxOf B.shape = some e →
              let xs := elems.map (shFmt A.shape).decode
              let scales := (List.range (shCount A.shape / 128)).map (fun k => blockScale e ((xs.drop (128 * k)).take 128))
              exec .matrixOpCompletion s = .next (sends (keep k r.toNat (place u (xs.zipIdx.map (fun x => quantElem e (scales.getD (x.2 / 128) 0) x.1))))
                (BitVec.ofNat 8 (2 ^ ((shCount A.shape / 128 + 3) / 4) - 1)) (scales.zipIdx.foldl (fun v x => v + x.1 * 2 ^ (8 * x.2)) 0))))

/-- R227: an integer TMMA adds to cell (i, j) of the accumulator the product of row i of A and column j of B, shifted to the accumulator's point
and bounded to 64 bits, and leaves every cell outside the result as it was. -/
def Obligations.MatrixProduct : Prop :=
  ∀ (p : Int) (sa sb : BitVec 32) (wa wb : Nat) (a b cells : List Nat),
    let m := shRows sa
    let n := shCols sb
    let k := shCols sa
    cells.length = 1024 → m ≤ 32 → n ≤ 32 → a.length = m * k → b.length = k * n →
    ∀ i j, i < 32 → j < 32 →
      let sum := ((List.range k).map (fun q => sigAt sa wa (a.getD (i * k + q) 0) * sigAt sb wb (b.getD (q * n + j) 0))).sum
      (mmaInt p sa sb wa wb a b cells).1.getD (32 * i + j) 0
        = if i < m ∧ j < n then (cellAdd p (shPoint sa) (shPoint sb) (cells.getD (32 * i + j) 0) sum).1 else cells.getD (32 * i + j) 0

/-! ## Electrum -/

/-- R268, R269, R380 to R382, R394: with its records there, NORM normalises the present elements, PERM permutes indices below its constant, CKSUM
adds a record to its checksum or combines two, CKCHK emits a true condition when two checksums match and faults the region with UNCORR when
they do not, and CAPQ reports the live banks of its tile. -/
def Rule.CheckNodes : Prop :=
  ∀ (s : State) (t : BitVec 4) (m : BitVec 2) (b : BitVec 2) (e : BitVec 1) (x y : Token) (i : Nat),
    let d := s.nd
    let r := s.reg d.n
    let two : List Taken := [(0, x, i), (1, y, i)]
    (s.Ready [0] [(0, x, i)] i →
        Fires s (exec (.norm t m) s) [0] [(0, x, i)] i false (if (x.elems t).all Option.isNone then (0, 0, {})
          else packFl t (normElems t m d.const.toNat (x.elems t)))
        ∧ (let n := d.const.toNat
           let h := permHalf n
           let els := (x.elems 1).map (fun x => match x with
             | none => (none, ({} : Fl))
             | some k => if n ≤ k then (none, { aovf := true }) else (some (cycleWalk r.seed r.epoch.toNat h n (2 ^ (2 * h)) k), {}))
           let p := packElems 1 (els.map (·.1))
           Fires s (exec .perm s) [0] [(0, x, i)] i false (p.1, p.2, els.foldl (fun f e => f.or e.2) {}))
        ∧ (let k := (x.elems t).foldl (fun k x => match x with | some v => k.add t v | none => k) (s.ckState d)
           let u := (((s.popAt d 0).emit d 0 x i).setNstate d (k.tok.pay.setWidth 512)).setCounts d [1, i]
           (¬(e = 1 ∧ x.last = true) → exec (.cksum t b 0 e) s = .next (s.fired u))
           ∧ (e = 1 → x.last = true → exec (.cksum t b 0 e) s = .next (s.fired (((u.emit d 1 (u.ckState d).tok i).setNstate d 0).setCounts d []))))
        ∧ (let c := clusterOf d.n
           let a := r.absTile d.t
           let live (u : BankUnit) : Nat := (s.bankSet u).live
           let counts := [live (.scratch c a), live (.treg c a), live (.quad c (quadOf a)), live (.l2 c (pageOf a)), live (.weight c (quarterOf a))
             , live (.llc (fld c 3 2))]
           Fires s (exec .capq s) [0] [(0, x, i)] i false (BitVec.ofNat 256 (counts.zipIdx.foldl (fun v p => v + p.1 * 2 ^ (32 * p.2)) 0), 0x3F, {})))
      ∧ (s.Ready [0, 1] two i →
          exec (.cksum t b 1 e) s = .next (s.fired ((s.popAll d [0, 1]).emit d 0 (((ckOf x).comb t (ckOf y)).tok) i))
          ∧ ((ckOf x).matches t (ckOf y) = true → exec (.ckchk t) s
              = .next (s.fired ((s.popAll d [0, 1]).emit d 0 { pay := 1, side := mkSide 8 0 0 0 false false 0xFF } i)))
          ∧ ((ckOf x).matches t (ckOf y) = false →
              let u := s.nodeFault d 0x09
              ((u.reg d.n).st.toNat ∈ [4, 5, 6] → exec (.ckchk t) s = .next (s.fired u))
                ∧ ((u.reg d.n).st.toNat ∉ [4, 5, 6] → exec (.ckchk t) s = .next (s.acted u))))

/-- R378, R379: VOTE with records at the three copies' slots that all agree emits one of them and takes the three; with one that differs from two
that agree it emits the agreed record, counts the disagreement of the third and reports it on output 1. -/
def Rule.VoteNode : Prop :=
  ∀ (s : State) (t : BitVec 4) (x y z : Token) (i : Nat),
    let d := s.nd
    s.nodeLive d = true → s.illAt d = false → d.ordered = false → (s.rt d.n d.t).ended.contains d.slot = false → (s.counts d).length ≤ 4 →
    s.headAt d 0 = some (x, i) → s.headAt d 1 = some (y, i) → s.headAt d 2 = some (z, i) → x.kind = 0 → y.kind = 0 → z.kind = 0 → i < 2 ^ 48 →
    let takes (k third : Nat) (v w : Token) (l : List Nat) : Prop := exec (.vote t) s = .next
      (let u := ((s.popAll d l).emit d 0 v i).popAt d third
       if w = v then u else
         let c := (List.range 4).map (fun k => (u.counts d).getD k 0)
         (u.setCounts d (c.set third (c.getD third 0 + 1) ++ (u.counts d).drop 4)).emit d 1 (dataTok (BitVec.ofNat 256 (i % 2 ^ 32 + k * 2 ^ 32)) 3) i)
    (x = y → (z = x ∨ z.crc ≠ x.crc) → takes 2 2 x z [0, 1])
      ∧ (x ≠ y → x = z → (y.crc ≠ x.crc) → takes 1 1 x y [0, 2])
      ∧ (x ≠ y → x ≠ z → y = z → (x.crc ≠ y.crc) → takes 0 0 y x [1, 2])
      ∧ (x ≠ y → x ≠ z → y ≠ z → exec (.vote t) s = .next (s.nodeFault d 0x09))


/-! ## Queues and ports -/

/-- R128, R52, R142: a token in flight reaches its queue once it is due, no earlier one to that queue is on its way and the queue has had no
arrival this cycle; the firing the cycle still owes comes first, which is none where the tile has fired; then the queue takes the token under
its record, flags and the gap counter of the region follow, an overrun faults the node, DATA at slot O faults it with IMAGE, and the queue has
had its arrival.  A token that is not due, or a second one in a cycle, changes nothing. -/
def Rule.QueueArrivals : Prop :=
  ∀ (s v : State) (f : Flight) (t : BitVec 8) (q : BitVec 5),
    let n := s.ev.n
    let r := s.reg n
    let k := s.ev.k
    r.flight[k]? = some f → f.dest = .queue t q →
    ((s.now n < f.due ∨ (∃ g ∈ r.flight.take k, g.dest = f.dest) ∨ s.hasArrived n t q.toNat = true) → exec .queueArrival s = .next s)
      ∧ (isCounter r.image t (q.toNat / 4) = false → (s.rt n t).lastCycle = some (s.now n) → s.fireFirst n t q.toNat = s)
      ∧ (f.due ≤ s.now n → (∀ g ∈ r.flight.take k, g.dest ≠ f.dest) → s.hasArrived n t q.toNat = false → s.fireFirst n t q.toNat = v → v.ev = s.ev →
          flightDue (v.now n) (v.reg n).flight k = some f →
          let r := v.reg n
          let u := (v.modReg n (fun r => { r with flight := r.flight.eraseIdx k })).modRt n t
            (fun x => { x with arrived := Tab.set x.arrived q.toNat (v.now n + 1) })
          let d : Nd := { n := n, t := t, slot := q.toNat / 4, img := r.image }
          let a := ((v.rt n t).queue q.toNat).arrive (queueRec r.image t q.toNat) (imgInvar r.image) r.seed
            (slotType r.image t (q.toNat / 4) (q.toNat % 4)) (v.now n) f.tok f.idx
          (q.toNat % 4 = 3 → f.tok.kind = kDATA → exec .queueArrival s = .next (u.nodeFault d cIMAGE))
          ∧ (¬(q.toNat % 4 = 3 ∧ f.tok.kind = kDATA) →
              (a.overrun = false → ∃ w, exec .queueArrival s = .next w ∧ (w.rt n t).queue q.toNat = a.q ∧ w.hasArrived n t q.toNat = true
                ∧ (w.reg n).flight = r.flight.eraseIdx k ∧ (w.reg n).active = v.now n ∧ SameMemory v w ∧ ∀ k, k ≠ n → w.thr k = v.thr k)
              ∧ (a.overrun = true → ∃ w, (w.rt n t).queue q.toNat = a.q ∧ SameMemory v w ∧ (∀ k, k ≠ n → w.thr k = v.thr k)
                  ∧ exec .queueArrival s = .next (w.nodeFault d cOVERRUN))))

/-- R118, R121, R122, R170, R355, R359, R384: what an ingress port does, whose region acts: with a marker in passage it emits MARK once and admits
nothing, but for the rest of an sd record it stands inside; with a node parked it does nothing; behind its END it emits DRAIN once it is asked
for; without credit it waits; with credit it admits the next token of its descriptor, or END behind the last; a fault of the read is the
region's, with HOSTT of an address in the host tier.  The replay buffer goes first, and behind it the END a bridge's port had admitted before
the replay.  That a port without its END stops once the period is DONE, unless a teardown is to follow, and goes on in DRAINING, that the
region is blamed at the port's tile, and what the port of a bridge that feeds no queue reads, are the model's choices (log 35, log 94, log 95). -/
def Rule.IngressAdmits : Prop :=
  ∀ (s u : State) (p : Port) (t : Token),
    let n := s.ev.n
    let r := s.reg n
    let v := p.snap
    let sends (x : State) (t : Token) (i : Nat) : Prop := exec .ingressAdmit s = .next (x.portEmit n p.id t i)
    let stays : Prop := exec .ingressAdmit s = .next s
    r.ports[s.ev.k]? = some p →
    ((p.kind.inward = false ∨ actsIn r.st = false) → stays)
      ∧ (p.kind.inward = true → actsIn r.st = true →
          (∀ m, r.mark = some m →
            (p.markSent = true → stays)
            ∧ (p.markSent = false → p.mid = false → sends (s.modPort n p (fun q => { q with markSent := true })) (markTok m.num) p.next)
            ∧ (p.markSent = false → p.mid = true → ∀ x, p.buf[p.taken]? = some x →
                (x.kind = kDATA ∧ x.first = false → exec .ingressAdmit s = .next (s.admitTok n p (portType r.image p.id) x))
                ∧ (¬(x.kind = kDATA ∧ x.first = false) → sends (s.modPort n p (fun q => { q with markSent := true })) (markTok m.num) p.next))
            ∧ (p.markSent = false → p.mid = true → p.buf[p.taken]? = none → p.kind = .bridgeIn → p.endKept = false →
                let b : Bridge := Tab.get {} s.bridges p.num
                (b.buffer.head (s.now n) = none → stays)
                ∧ (∀ x i, b.buffer.head (s.now n) = some (x, i) →
                    (x.kind = kDATA ∧ x.first = false → ∃ w c, w = { s with bridges := Tab.set s.bridges p.num c }
                      ∧ exec .ingressAdmit s = .next (w.admitTok n p (portType r.image p.id) x))
                    ∧ (¬(x.kind = kDATA ∧ x.first = false) → sends (s.modPort n p (fun q => { q with markSent := true })) (markTok m.num) p.next))))
          ∧ (r.mark = none → r.anyParked = true → stays)
          ∧ (r.mark = none → r.anyParked = false → p.endSent = true →
              (r.drainAsked = true ∧ p.drainSent = false →
                sends (s.modPort n p (fun q => { q with drainSent := true })) (drainTok (imgConfig r.image)) p.next)
              ∧ (¬(r.drainAsked = true ∧ p.drainSent = false) → stays))
          ∧ (r.mark = none → r.anyParked = false → p.endSent = false → (r.st = 5 ∧ r.newImage = none ∨ r.credit p = false) → stays)
          ∧ (r.mark = none → r.anyParked = false → p.endSent = false → ¬(r.st = 5 ∧ r.newImage = none) → r.credit p = true →
              (∀ x, p.buf[p.taken]? = some x → exec .ingressAdmit s = .next (s.admitTok n p (portType r.image p.id) x))
              ∧ (p.buf[p.taken]? = none → p.kind = .ingress → dscTokens v ≤ p.next →
                  sends (s.modPort n p (fun q => { q with endSent := true, endKept := q.endKept || q.kind == .bridgeIn })) (endTok r.newImage.isSome) 0)
              ∧ (p.buf[p.taken]? = none → p.kind = .ingress → p.next < dscTokens v →
                  (s.readToken n p p.next = (u, .ok t) → exec .ingressAdmit s = .next (u.admitTok n p (dscType v) t))
                  ∧ (s.readToken n p p.next = (u, .wait) → exec .ingressAdmit s = .next u)
                  ∧ (∀ c a w x, s.readToken n p p.next = (u, .bad c a w x) → exec .ingressAdmit s = .next (u.portBad n p.id c a w)))
              ∧ (p.buf[p.taken]? = none → p.kind = .bridgeIn → p.endKept = true →
                  sends (s.modPort n p (fun q => { q with endSent := true, endKept := q.endKept || q.kind == .bridgeIn })) (endTok r.newImage.isSome) 0)
              ∧ (p.buf[p.taken]? = none → p.kind = .bridgeIn → p.endKept = false →
                  let b : Bridge := Tab.get {} s.bridges p.num
                  (b.buffer.head (s.now n) = none → stays)
                  ∧ (∀ x i, b.buffer.head (s.now n) = some (x, i) → ∃ w c, w = { s with bridges := Tab.set s.bridges p.num c }
                      ∧ exec .ingressAdmit s = .next
                        (if x.kind = kEND then w.portEnd n p else w.admitTok n p (portType r.image p.id) x)))))

/-- R118, R120, R319, R372, Table 4.10's positions: what an egress port bound to a tensor does with a token that is due: DATA is written at its valid elements'
positions and POISON poisons every element position's word, each then advancing one position; GAP skips its count; END is the sink's report;
CTRL, ORDER, CMD and RESUME are a region fault of cause IMAGE.  A type of 4 bits writes its half of the byte and keeps the other as the slice
or an element before it in the token left it.  The pages are resolved before anything is written; a shadow port's lie in the buffer its
descriptor names and are the period's to publish; a fault is the region's, with WRITE of a write and HOSTT of an address in the host tier.  At
which tile a port's fault is, and that a shadow write outside its buffer is ACCESS at the descriptor's first element, are the model's
choices (log 35, log 93). -/
def Rule.EgressTokens : Prop :=
  ∀ (s u w : State) (f : Flight) (p : Port) (ks : List (List (Nat × Option Nat))),
    let n := s.ev.n
    let r := s.reg n
    let t := f.tok
    let v := p.snap
    let i := exec .egressToken s
    let taken (x : State) : State := x.modReg n (fun r => { r with flight := r.flight.eraseIdx s.ev.k, active := x.now n })
    let on (x : State) (g : Port → Port) : State := x.modPort n p g
    let ws := ((dscPositions v p.next).zip (t.elems (dscType v))).filterMap (fun e => e.2.map (fun x => (e.1, x)))
    let keys (l : List Nat) := State.elemKeys r.capt .write (dscShadow v) (.port n p.id false) v l s
    actsIn r.st = true → r.flight[s.ev.k]? = some f → f.due ≤ s.now n → (∀ g ∈ r.flight.take s.ev.k, g.dest ≠ f.dest) →
    f.dest = .port p.id → r.ports.find? (fun q => q.id == p.id && !q.kind.inward) = some p → p.kind = .egress →
    (t.kind = kGAP → i = .next (on (taken s) (fun q => { q with next := q.next + t.gapCount })))
      ∧ (t.kind = kEND → i = .next ((on (taken s) (fun q => { q with endSent := true })).sinkReport n))
      ∧ (t.kind = kDRAIN → i = .next (on (taken s) (fun q => { q with drainSent := true })))
      ∧ (t.kind = kMARK → i = .next (on (taken s) (fun q => { q with markSent := true })))
      ∧ (t.kind = kCTRL ∨ t.kind = kORDER ∨ t.kind = kCMD ∨ t.kind = kRESUME → i = .next (s.portFault n p.id cIMAGE 0))
      ∧ (t.kind = kDATA →
          (keys (ws.map (·.1)) = (u, .wait) → i = .next u)
          ∧ (∀ c a w x, keys (ws.map (·.1)) = (u, .bad c a w x) → i = .next (u.portBad n p.id c a w))
          ∧ (∀ c va b, keys (ws.map (·.1)) = (u, .ok ks) → u.shadowKeys r.capt v ks = (w, some (c, va, b)) → i = .next (w.portBad n p.id c va b))
          ∧ (keys (ws.map (·.1)) = (u, .ok ks) → u.shadowKeys r.capt v ks = (w, none) → dscHalf v = true →
              let put := (ks.zip ws).foldl (fun (y : State × List (Nat × Nat)) e =>
                let key := (e.1.map (·.1)).headD 0
                let old := y.1.keyOld (clusterOf n) y.2 key
                (old.1, y.2 ++ [(key, if dscHigh v e.2.1 then old.2 % 16 + 16 * e.2.2 else old.2 / 16 * 16 + e.2.2)])) (w, [])
              i = .next (taken (on ((put.1.keyWrite (clusterOf n) r.capt put.2).noteShadow n v ks) (fun q => { q with next := q.next + 1 }))))
          ∧ (keys (ws.map (·.1)) = (u, .ok ks) → u.shadowKeys r.capt v ks = (w, none) → dscHalf v = false →
              let bytes := (ks.zip ws).flatMap (fun e => e.1.zipIdx.map (fun k => (k.1.1, e.2.2 / 2 ^ (8 * k.2) % 256)))
              i = .next (taken (on ((w.keyWrite (clusterOf n) r.capt bytes).noteShadow n v ks) (fun q => { q with next := q.next + 1 })))))
      ∧ (t.kind = kPOISON →
          (keys (dscPositions v p.next) = (u, .wait) → i = .next u)
          ∧ (∀ c a w x, keys (dscPositions v p.next) = (u, .bad c a w x) → i = .next (u.portBad n p.id c a w))
          ∧ (∀ c va b, keys (dscPositions v p.next) = (u, .ok ks) → u.shadowKeys r.capt v ks = (w, some (c, va, b)) → i = .next (w.portBad n p.id c va b))
          ∧ (keys (dscPositions v p.next) = (u, .ok ks) → u.shadowKeys r.capt v ks = (w, none) →
              let mark (x : State) (key : Nat) : State :=
                (x.l2Get (clusterOf n) (key / 64)).1.l2Store (clusterOf n) (key / 64) (x.l2Get (clusterOf n) (key / 64)).2.data
                  (byteMask (key % 64 / 8 * 8) 8) true (r.capt.marks key)
              i = .next (taken (on (((ks.flatMap (fun l => l.map (·.1))).foldl mark w).noteShadow n v ks) (fun q => { q with next := q.next + 1 })))))

/-- R120, R121, R122, R309, R316, R322: once every sink has reported and no marker is in passage, a running period completes: the cluster's dirty
bytes are at their homes, the shadows are published, which is a region fault ACCESS where a bitmap that this marks is not allowed, and a fault of
its own cause where the descriptor of a buffer that a loaded save names still does not read, accesses
under the old translations and a host page of the completion word are waited for, the word [CONFIG, status 0, ENDs] is formed and kept, and
the region is DONE, or DRAINING when a drain was asked for; until then the event changes nothing.  DRAINING ends when the region is quiescent and DRAIN has reached
every sink.  A teardown's new image begins once every slot of the old one is free, its ingress having sent END and every node having emitted
its own, and no WLOAD runs where it takes a weight binding.  That the completion waits for a host page of its word, and that the shadows are
published before that wait, are the model's choices (log 48, log 65). -/
def Rule.PeriodEvents : Prop :=
  (∀ s u x : State,
    let n := s.ev.n
    let r := s.reg n
    let due : Prop := r.st = 4 ∧ r.running = true ∧ r.left = 0 ∧ r.mark = none
    (¬due → exec .periodCompletion s = .next s)
      ∧ (due → let home := s.writeBackAll (clusterOf n)
          let plain := home.modReg n (fun r => { r with unread := [] })
          let full := State.readUnread n r.unread plain
          let q := full.reg n
          (∀ line, (home.l2Line (clusterOf n) line).dirty = 0)
          ∧ (r.unread = [] → full = plain) ∧ (q.st ≠ 4 → home.publishAll n = full)
          ∧ (q.st = 4 → q.buffers.all q.capt.marksOk = false → home.publishAll n = full.regionFault n (full.originCoord n) 0x05 0)
          ∧ (q.st = 4 → q.buffers.all q.capt.marksOk = true → home.publishAll n = (q.buffers.foldl (fun x d => x.publish d (fun y => y.markAll d (q.capt.marks d))) full).modReg n
              (fun r' => { r' with shadow := [], published := if q.buffers = [] then r'.published else some (home.publishAll n).tick })
            ∧ ∀ d ∈ q.shadow.map (·.1), ∀ e ∈ (home.publishAll n).tlb, e.desc ≠ some d)
          ∧ (home.publishAll n = u →
              let old : Prop := ∃ t, (u.reg n).published = some t ∧ u.oldAccess t = true
              ((u.reg n).st ≠ 4 → exec .periodCompletion s = .next u)
              ∧ ((u.reg n).st = 4 → old → exec .periodCompletion s = .next u)
              ∧ ((u.reg n).st = 4 → ¬old → u.completionWaits n = (x, true) → exec .periodCompletion s = .next x)
              ∧ ((u.reg n).st = 4 → ¬old → u.completionWaits n = (x, false) → ∃ w, exec .periodCompletion s = .next w
                ∧ w = (x.finishPeriod n 0).modReg n (fun r => { r with st := if r.drainAsked then 6 else 5, published := none })
                ∧ (w.reg n).last = some (imgConfig r.image ++ 0#16 ++ r.ends) ∧ (w.reg n).running = false ∧ (w.reg n).shadow = []
                ∧ (w.reg n).st = if r.drainAsked then 6 else 5))))
  ∧ (∀ s : State,
    let n := s.ev.n
    let r := s.reg n
    let due : Prop := r.st = 6 ∧ s.quiescent n = true ∧ r.drainedAll = true
    (¬due → exec .drainedEvent s = .next s)
      ∧ (due → exec .drainedEvent s = .next (s.modReg n (fun r => { r with st := 7 }))))
  ∧ (∀ (s : State) (img : Nat),
    let n := s.ev.n
    let r := s.reg n
    let u := s.loadImage n img
    let torn : Prop := r.freed = true ∧ (∀ p ∈ r.ports, p.kind.inward = true → p.endSent = true)
      ∧ ∀ v ∈ imgNodes r.image, v.2 ∈ (Tab.get ({} : RTile) r.tiles v.1.toNat).ended
    (r.newImage = none ∨ ¬torn ∨ (r.st ≠ 5 ∧ r.st ≠ 7) → exec .teardownPeriodStart s = .next s)
      ∧ (r.newImage = some img → s.wloadRuns n img = true → exec .teardownPeriodStart s = .next s)
      ∧ (r.newImage = some img → torn → r.st = 5 ∨ r.st = 7 → s.wloadRuns n img = false →
          (bindingCheck (u.thr n) (u.reg n) = 0 → ∃ w, exec .teardownPeriodStart s = .next w ∧ (w.reg n).st = 4 ∧ (w.reg n).image = img
              ∧ (w.reg n).comp = r.comp ∧ (w.reg n).capt = (s.thr n).cred ∧ (w.reg n).ends = 0 ∧ (w.reg n).flags = 0 ∧ (w.reg n).left = imgSinks img
              ∧ (w.reg n).newImage = none)
          ∧ (bindingCheck (u.thr n) (u.reg n) ≠ 0 → exec .teardownPeriodStart s = .next u)))

/-- R96, R120, R284, R337: the completion store of a region: performed at its home, where it ends a WFE of the owner, when the page is the
owner's to write as captured; else dropped with a record of the fault, WRITE set; one that needs a host page waits for the host.  The end of
a period writes the cluster's dirty bytes back first, and keeps the word.  That the store waits for the host, and who waits, is the model's
choice (log 48, log 65), and STAGE and SLOT 0 of the origin's coordinate are too (log 92). -/
def Rule.CompletionStore : Prop :=
  ∀ (s u : State) (n : BitVec 9) (w : WordStore) (key : Nat) (x : Xl) (status : BitVec 16),
    (∀ c, s.resolve w.capt .write false w.va (.word n) = (u, .fault c) → s.storeWord n w = u.faultRecord n
        { addr := w.va, place := w.place.setWidth 64, cause := c, flags := if u.hostTier w.capt w.va then 5 else 1, space := u.spaceField w.capt })
      ∧ (s.resolve w.capt .write false w.va (.word n) = (u, .ok key x) →
          s.storeWord n w = (u.homeStore w.capt key 8 w.val.toNat).modThr n Thread.wake)
      ∧ (s.resolve w.capt .write false w.va (.word n) = (u, .wait) → s.storeWord n w = u.modThr n (fun t => { t with stores := t.stores ++ [w] }))
      ∧ (let r := s.reg n
         let home := s.writeBackAll (clusterOf n)
         let word : Word := imgConfig r.image ++ status ++ r.ends
         s.finishPeriod n status = (home.storeWord n { capt := r.capt, va := r.comp, val := word, place := s.originCoord n }).modReg n
             (fun r => { r with running := false, last := some word })
           ∧ ∀ line, (home.l2Line (clusterOf n) line).dirty = 0)

/-- R178, R180, R181: a region that runs or drains begins a sweep by itself after 2^20 still cycles with a sink yet to report, nothing parked and
no command outstanding; the sweep examines its pages one after another, each at one instant; then it writes a record for each blocked node
that has not parked since, and feeds no parked command port, at most 64, and one event on entry 15 when there is one, and the stillness is
counted afresh.  Else the event changes nothing.  What counts as a still cycle, and that the records are written at once, are the model's
choices (log 66, log 84). -/
def Rule.HangSweeps : Prop :=
  ∀ (s : State) (w : Sweep) (p : BitVec 4) (rest : List (BitVec 4)),
    let n := s.ev.n
    let m := s.thr n
    let r := s.reg n
    let due : Prop := (r.st = 4 ∨ r.st = 6) ∧ r.active + 2 ^ 20 ≤ s.now n ∧ r.left ≠ 0 ∧ r.anyParked = false ∧ r.cmds = []
    let blocked : List ((BitVec 8 × Nat) × Nat) :=
      ((imgNodes r.image).filter (fun v => regionPage v.1 == p.toNat)).filterMap (fun v => (s.blockedAt n v).map (fun x => (v, x)))
    let sweeps (x : Sweep) : Prop := ∃ t, exec .hangSweep s = .next t ∧ OnlyThread s t n { m with region := { r with sweep := some x } }
    (r.sweep = none → ¬due → exec .hangSweep s = .next s)
      ∧ (r.sweep = none → due → sweeps { asked := false, todo := r.sweepPages })
      ∧ (r.sweep = some w → w.asked = true → exec .hangSweep s = .next s)
      ∧ (r.sweep = some w → w.asked = false → w.todo = p :: rest → sweeps { w with todo := rest, found := w.found ++ blocked })
      ∧ (r.sweep = some w → w.asked = false → w.todo = [] →
          let l := (w.found.filter (fun x => (s.parkedAddr n x.1.1 (BitVec.ofNat 3 x.1.2)).isNone)).foldl
            (fun l x => insertBefore (fun x y => s.sweepBefore n x.1 y.1) x l) []
          let more := (if 64 < l.length then 2 ^ 8 else 0) + (if r.anyParked then 2 ^ 9 else 0)
          let u := (l.take 64).foldl (fun s p => s.faultRecord n
            { addr := BitVec.ofNat 64 (p.2 + more), place := (s.nodeCoord n p.1.1 p.1.2).setWidth 64, cause := 0x0B, space := s.spaceField r.capt }) s
          exec .hangSweep s = .next ((if l = [] then u else u.event n 15).modReg n (fun r => { r with sweep := none, active := u.now n })))

/-- R337, R346 to R349, Table 11.13: with nothing waiting nothing is written; with the queue of the thread off or full a record that must be kept
waits and another is lost; else the oldest waiting record is written at slot TAIL mod capacity, 32 bytes at the home, TAIL advances by one
and an event on entry 14 is raised; a write that faults drops the record, LOST and QERR say so, and one that needs a host page waits.  Those
behind the oldest stay waiting, and the event goes on with them in their order, as if they had waited alone: this is the model's, as is that a record
whose page the host is asked for keeps its place (log 66, log 84). -/
def Rule.DeferredRecords : Prop :=
  ∀ (s u : State) (r : FaultRec) (rest : List FaultRec) (key : Nat) (x : Xl),
    let n := s.ev.n
    let m := s.thr n
    let event := exec .faultRecordDeferred
    let cap := 16 * 2 ^ (fld m.faultqbase 0 4 : BitVec 4).toNat
    let tail : BitVec 32 := fld m.faultqtail 0 32
    let stuck : Prop := (fld m.faultqbase 12 40 : BitVec 40) = 0 ∨ cap ≤ (tail - fld m.faultqhead 0 32).toNat
    let va : Word := ((fld m.faultqbase 12 40 : BitVec 40).setWidth 64 <<< 12) + BitVec.ofNat 64 (32 * (tail.toNat % cap))
    let cr := { m.cred with pl := 1 }
    let l : BitVec 16 := fld m.faultqtail 48 16
    let lost (q : BitVec 1) : Word := (if l = 0xFFFF then l else l + 1) ++ 0#15 ++ q ++ tail
    let bytes := r.addr.toNat + r.place.toNat * 2 ^ 64 + r.done.toNat * 2 ^ 128 + r.cause.toNat * 2 ^ 192 + r.flags.toNat * 2 ^ 200
      + r.space.toNat * 2 ^ 208 + r.owner.toNat * 2 ^ 224 + r.detail.toNat * 2 ^ 240
    let goes (w : State) : Prop := event s = event w ∧ (rest = [] → event s = .next w) ∧ w.ev = s.ev ∧ (w.thr n).records = rest
    (m.records = [] → event s = .next s)
      ∧ (m.records = r :: rest → stuck → r.keep = true → event s = .next s)
      ∧ (m.records = r :: rest → stuck → r.keep = false →
          ∃ w, goes w ∧ OnlyThread s w n { m with records := rest, faultqtail := lost (fld m.faultqtail 32 1) })
      ∧ (m.records = r :: rest → ¬stuck →
          (s.resolve cr .write false va (.record n) = (u, .ok key x) →
            ∃ w, goes w ∧ w.mem = writeLE (u.markAll key (cr.marks key)).mem key 32 bytes
              ∧ (w.thr n).faultqtail = fld m.faultqtail 32 32 ++ (tail + 1)
              ∧ (r.event = true → (w.thr n).trig[14] = trigEvent m.trig[14]) ∧ (r.event = false → (w.thr n).trig = m.trig))
          ∧ (∀ c, s.resolve cr .write false va (.record n) = (u, .fault c) →
              ∃ w, goes w ∧ w.mem = u.mem ∧ (w.thr n).faultqtail = lost 1)
          ∧ (s.resolve cr .write false va (.record n) = (u, .wait) → event s = .next u))

/-! ## The host's translations -/

/-- A thread goes on after a page is granted: its word where it waits in one, else with the fetch of its next word (R351). -/
def goesOnFromHost (m : Thread) : Thread :=
  match m.wait with
  | .busy => { m with wait := .again }
  | .fetch => { m with wait := .none }
  | _ => m

/-- A thread whose access waits for the host takes the trap ATS with its address (R351). -/
def refusedByHost (va : Word) (m : Thread) : Thread :=
  if m.wait = .busy ∨ m.wait = .fetch then { trapped m cATS va m.pc with wait := .none } else m

/-- R324, R337 to R339: a translation completion drops its request, keeps the translations it brings in place of those they meet, and answers each that
waits: a thread goes on where the page is granted and traps ATS where it is not and no Page Request may be made, and else waits on behind one.  The response
to a Page Request answers its waiters too, and a Response Failure silences the function's requests until its capability is cleared and enabled
again; the function's next request is sent behind any other response.  An invalidation writes back what is dirty in its range, removes the
translations there, and is complete when no access that used one is on its way, what such an access has made dirty since being written back
first.  The write permission a completion grants and the keeping of a translation that grants nothing are the model's choices (log 5, log 59). -/
def Obligations.HostTranslations : Prop :=
  (∀ (s : State) (r : HostReq),
    let ok : Bool := s.ev.v == 0
    let es := atcEntries r.fn r.pasid (if ok then s.ev.x.toNat else noPages) 16 r.page
    s.ats[s.ev.k]? = some r →
      exec .atsTranslationCompletion s = .next (r.waiters.foldl (fun s w => s.answer r.fn r.pasid ok w)
        { s with
          ats := s.ats.eraseIdx s.ev.k
          atc := es ++ s.atc.filter (fun o => !es.any (fun e => o.meets e.fn e.pasid e.page (e.page + e.size))) }))
  ∧ (∀ (s : State) (fn : BitVec 6) (pasid : BitVec 20) (ok : Bool) (w : HostWaiter) (n : BitVec 9),
      w.who = .thread n →
      (s.atcGrants fn pasid w.ha w.write = true → s.answer fn pasid ok w = s.modThr n goesOnFromHost)
      ∧ (s.atcGrants fn pasid w.ha w.write = false → (ok = false ∨ fn ∉ s.priOn ∨ fn ∈ s.priOff) →
          s.answer fn pasid ok w = s.modThr n (refusedByHost w.va))
      ∧ (s.atcGrants fn pasid w.ha w.write = false → ok = true → fn ∈ s.priOn → fn ∉ s.priOff →
          ∃ q, s.answer fn pasid ok w = { s with pri := q, tick := (s.answer fn pasid ok w).tick }
            ∧ ∃ r ∈ q, r.fn = fn ∧ r.pasid = pasid ∧ r.page = w.ha - w.ha % 4096 ∧ r.write = w.write ∧ w ∈ r.waiters))
  ∧ (∀ (s : State) (r : HostReq),
    let code : BitVec 16 := if s.ev.v = 0 then 0 else if s.ev.v = 1 then 1 else 15
    s.pri[s.ev.k]? = some r →
      (r.sent = false → exec .prgResponse s = .next s)
      ∧ (r.sent = true → exec .prgResponse s = .next (r.waiters.foldl (fun s w => s.respond w code)
        { s with
          pri := if code = 15 ∨ r.fn ∈ s.priOff then s.pri.eraseIdx s.ev.k else sendNext r.fn (s.pri.eraseIdx s.ev.k)
          priOff := if code = 15 ∧ !s.priOff.contains r.fn then r.fn :: s.priOff else s.priOff }))
      ∧ (∀ n w, w.who = .thread n → s.respond w code = s.modThr n (if code = 0 then goesOnFromHost else refusedByHost w.va)))
  ∧ (∀ s : State, ∃ t, exec .priCapabilityEnable s = .next t ∧ t = { s with priOn := t.priOn, priOff := t.priOff }
      ∧ (∀ f, f ≠ s.ev.f → ((f ∈ t.priOn ↔ f ∈ s.priOn) ∧ (f ∈ t.priOff ↔ f ∈ s.priOff)))
      ∧ (s.ev.w = 1 → s.ev.f ∉ t.priOn ∧ t.priOff = s.priOff)
      ∧ (s.ev.w ≠ 1 → s.ev.f ∈ t.priOn ∧ (s.ev.f ∈ s.priOn → t.priOff = s.priOff) ∧ (s.ev.f ∉ s.priOn → s.ev.f ∉ t.priOff)))
  ∧ (∀ s : State,
      let pasid : BitVec 20 := fld s.ev.v 0 20
      let lo := s.ev.w.toNat
      let gone (e : AtcEntry) : Prop := e.fn = s.ev.f ∧ e.pasid = pasid ∧ e.page < lo + s.ev.k ∧ lo < e.page + e.size
      ∃ t, exec .atsInvalidateRequest s = .next t
        ∧ t = { s with atc := t.atc, invals := t.invals, clusters := t.clusters, mem := t.mem, poison := t.poison }
        ∧ (∀ e, e ∈ t.atc ↔ e ∈ s.atc ∧ ¬gone e)
        ∧ (∀ c line, hostKey s.ev.f pasid lo < 64 * line + 64 → 64 * line < hostKey s.ev.f pasid (lo + s.ev.k) → (t.l2Line c line).dirty = 0)
        ∧ t.invals = s.invals ++ [{ fn := s.ev.f, pasid := pasid, lo := lo, hi := lo + s.ev.k, stamp := s.tick }])
  ∧ (∀ (s : State) (i : Inval), s.invals[s.ev.k]? = some i →
      (s.usesHost i = true → exec .atsInvalidateCompletion s = .next s)
      ∧ (s.usesHost i = false → ∃ t, exec .atsInvalidateCompletion s = .next t
          ∧ t = { s with invals := s.invals.eraseIdx s.ev.k, clusters := t.clusters, mem := t.mem, poison := t.poison }
          ∧ ∀ c line, hostKey i.fn i.pasid i.lo < 64 * line + 64 → 64 * line < hostKey i.fn i.pasid i.hi → (t.l2Line c line).dirty = 0))

/-! ## Marker passage and pre-emption -/

/-- R356, R357: a node of a region with a marker in passage saves when MARK stands in every slot it reads, nothing of it is in progress and it
can no longer act, nor could once something else of its region moves or the memory it waits for answers: its MARKs are taken and MARK goes out behind its last emission on both outputs.  A SOURCE stops and saves at once, a
node that has saved does nothing more.  Which waits are for time alone is the model's reading (log 62). -/
def Rule.NodeMarks : Prop :=
  ∀ (s : State) (m : Passage),
    let n := s.ev.n
    let t := s.ev.t
    let k := s.ev.s.toNat
    let r := s.reg n
    let rt := s.rt n t
    let d : Nd := { n := n, t := t, slot := k, img := r.image }
    let c := opCode (opWord r.image t k)
    let slots := slotsRead r.image t k
    let saves (u : State) : Prop := exec .nodeMarkSave s = .next ((((slots.foldl (fun u j => u.modQueue n t (4 * k + j) Queue.unmark) u).emitAll d [0, 1]
      (markTok m.num) 0)).modRt n t (fun r => { r with marked := insertNat r.marked k }))
    let ready : Prop := (∀ j ∈ slots, s.markAt n (t, k) j = true) ∧ (∀ o ∈ rt.mops, o.slot.toNat ≠ k) ∧ (∀ a ∈ rt.accs, a.slot.toNat ≠ k)
      ∧ s.canAct n (t, k) = false ∧ s.onlyLatency n (t, k) = false ∧ (s.waitsOnTag n (t, k) = false ∨ s.onlyTagsWait n = true)
    let stays : Prop := exec .nodeMarkSave s = .next s
    (r.mark = none → stays)
      ∧ (r.mark = some m → actsIn r.st = true → isNode r.image t k = true →
          (k ∈ rt.marked → c ≠ 0x53 → stays)
          ∧ (k ∉ rt.marked → c ≠ 0x53 → c ≠ 0x56 → (ready → saves s) ∧ (¬ready → stays))
          ∧ (k ∉ rt.marked → c = 0x56 → ∀ p : ChainPos, p = Tab.get {} rt.chain k → p.owed = false →
              saves (s.modRt n t (fun r => { r with chain := Tab.set r.chain k { p with stopped := true } }))))

/-- R344, R355, R356, R360: passage is complete when every node has saved, MARK has reached every egress port and nothing but MARK is on its way:
the region of an RMARK is then SAVED with the state it came from; after 16,384 cycles, or with a node parked, it becomes an eviction.  Pre-emption
stops a thread whose save has been accepted at a boundary, a ticket kept and any other wait ended for its word to run again, and no answer of the
host to that word reaches it any more (R351); whether a WFE runs again (R360) or is past (R96) is open (log 81).  What a node with a parked access, a node
that waits and a marker overdue come to is the model's reading (log 33, log 62). -/
def Rule.Passages : Prop :=
  (∀ (s : State) (m : Passage),
    let n := s.ev.n
    let r := s.reg n
    let all : Prop := (∀ v ∈ imgNodes r.image, v.2 ∈ (Tab.get ({} : RTile) r.tiles v.1.toNat).marked)
      ∧ (∀ p ∈ r.ports, p.kind.inward = false → p.markSent = true) ∧ (∀ f ∈ r.flight, f.tok.kind = kMARK)
    (r.mark = none → exec .markerPassageComplete s = .next s ∧ exec .markerTimeout s = .next s)
      ∧ (r.mark = some m → ¬all → exec .markerPassageComplete s = .next s)
      ∧ (r.mark = some m → all → exec .markerPassageComplete s = .next (s.endPassage n .marker)
          ∧ (m.why = .rmark → actsIn r.st = true → ∃ t, exec .markerPassageComplete s = .next t ∧ (t.reg n).st = 8 ∧ (t.reg n).prev = r.st
              ∧ (t.reg n).mark = none ∧ (t.reg n).marker = m.num ∧ (t.reg n).image = r.image ∧ (t.reg n).claim = r.claim))
      ∧ (r.mark = some m → (m.start + 16384 ≤ s.now n ∨ r.anyParked = true) → exec .markerTimeout s = .next (s.endPassage n .eviction))
      ∧ (r.mark = some m → s.now n < m.start + 16384 → r.anyParked = false → exec .markerTimeout s = .next s))
  ∧ (∀ s : State,
    let m := s.thr s.ev.n
    let held : Prop := m.saver = none ∨ m.stopped = true ∨ m.undivided = true
    (held → exec .threadPreemption s = .next s)
      ∧ (¬held → ∃ t, exec .threadPreemption s = .next t
          ∧ OnlyThread { s with ats := t.ats, pri := t.pri } t s.ev.n { m with
              stopped := true
              wait := match m.wait with | .ticket e o k => .ticket e o k | _ => .none
              pc := if m.wait = .wfe ∧ Config.wfeEnds s.tick = true then m.pc + 4 else m.pc }
          ∧ (∀ q ∈ t.ats ++ t.pri, ∀ w ∈ q.waiters, w.who ≠ .thread s.ev.n ∧ w.who ≠ .maint s.ev.n)
          ∧ (∀ q ∈ s.ats, ∃ r ∈ t.ats, r.page = q.page ∧ ∀ w ∈ q.waiters, w.who ≠ .thread s.ev.n → w.who ≠ .maint s.ev.n → w ∈ r.waiters)))

/-- R110, R111: Nitinol moves a region to an origin where its tiles meet the footprint, and read the quarter's weights they read now, on pages no
other region holds, when that is a step of moves that
clear a rectangle a claim or a relaunch waits for, one region of a cluster at a time: one that does not run moves at once and keeps all but its origin, with no
injection armed; one that runs goes through a marker numbered 0.  Nothing else is moved, and nothing at all while nobody waits.  When Nitinol moves, and
that a move keeps the quarter, are the model's choices (log 32, log 33). -/
def Rule.NitinolMoves : Prop :=
  ∀ (s : State) (ps : List Nat),
    let n := s.ev.n
    let r := s.reg n
    let c := clusterOf n
    let may : Prop := s.moving c = false ∧ r.canMove = true ∧ s.ev.k < 16 ∧ s.ev.k ≠ r.origin.toNat ∧ (∀ p ∈ ps, p ∉ s.othersHold n)
      ∧ s.meets c r.image (claimW r.claim) (claimH r.claim) s.ev.k = true ∧ r.keepsQuarters s.ev.k = true ∧ ∃ e ∈ s.errands c, s.nearer c e (n, s.ev.k) = true
    let stays : Prop := exec .nitinolMove s = .next s
    (s.errands c = [] → stays)
      ∧ (rect (claimW r.claim) (claimH r.claim) s.ev.k = none → stays)
      ∧ (rect (claimW r.claim) (claimH r.claim) s.ev.k = some ps →
          (¬may → stays)
          ∧ (may → r.movable = true → s.module.injctl.getLsbD 63 = false →
              ∃ t, exec .nitinolMove s = .next t ∧ OnlyThread s { t with clusters := s.clusters } n
                { s.thr n with region := { r with origin := BitVec.ofNat 4 s.ev.k } })
          ∧ (may → r.movable = false → exec .nitinolMove s = .next
              (s.modReg n (fun r => { r with mark := some { num := 0, start := s.now n, why := .move (BitVec.ofNat 4 s.ev.k) } }))))

/-! ## Errors, banks and caches -/

/-- R373, R374, R398: a scrub of a row in service that finds a correctable error logs and counts it, and retires the bank when the count reaches
the threshold in force; one that finds an uncorrectable error logs it, poisons the word and retires the bank at once; one that finds nothing
changes nothing, with no injection armed.  An error in device memory is logged, poisons when it is uncorrectable, and retires nothing.  At a window boundary
every count is zero and the written values are in force. -/
def Rule.ErrorCounts : Prop :=
  (∀ s : State,
    let u := s.ev.u
    let p := s.ev.t.toNat
    let word := u.words * p + 4 * s.ev.k + s.ev.w.toNat % 4
    let kept := u.words * (s.bankSet u).stored p s.ev.k + 4 * s.ev.k + s.ev.w.toNat % 4
    let inService : Prop := p < u.banks ∧ 4 * s.ev.k < u.words ∧ p ∉ (s.bankSet u).retired
    let kind : BitVec 8 := BitVec.ofNat 8 u.kind
    let thr := s.module.thrNow
    s.ev.f = 0 →
    (¬inService → exec .scrubRow s = .next s)
      ∧ (inService → s.module.injctl.getLsbD 63 = false →
          (s.ev.v ≠ 1 → s.ev.v ≠ 2 → exec .scrubRow s = .next s)
          ∧ (s.ev.v = 1 →
              let n := Tab.get 0 (s.bankSet u).errs p + 1
              let x := (s.logErr 0 kind (u.loc word)).modBanks u (fun b => { b with errs := Tab.set b.errs p n })
              exec .scrubRow s = .next (if thr ≠ 0 ∧ thr ≤ n then x.retire u p else x))
          ∧ (s.ev.v = 2 → u.cache = false → exec .scrubRow s = .next (((s.logErr 1 kind (u.loc word)).poisonUnit u kept).retire u p))
          ∧ (s.ev.v = 2 → u.cache = true → exec .scrubRow s = .next
              (((s.poisonLine u p s.ev.x.toNat (s.ev.w.toNat % 8)).logErr 1 kind (u.loc word)).retire u p))))
  ∧ (∀ s : State,
    let word := s.ev.x.toNat % 2 ^ 42 / 8
    s.ev.f = 1 →
    (s.ev.v ≠ 1 → s.ev.v ≠ 2 → exec .scrubRow s = .next s)
      ∧ (s.ev.v = 1 → exec .scrubRow s = .next (s.logErr 0 6 (BitVec.ofNat 64 (8 * word))))
      ∧ (s.ev.v = 2 → exec .scrubRow s = .next (({ s with poison := insertNat s.poison word } : State).logErr 1 6 (BitVec.ofNat 64 (8 * word)))))
  ∧ (∀ s : State,
    let m := s.module
    let us := s.time / 1000
    (us / m.winNow * m.winNow ≤ m.winStart → exec .errorWindowBoundary s = .next s)
      ∧ (m.winStart < us / m.winNow * m.winNow → ∃ t, exec .errorWindowBoundary s = .next t
          ∧ t.module.winStart = us / m.winNow * m.winNow ∧ t.module.winNow = Nat.max 1 (fld m.errwindow 0 32 : BitVec 32).toNat
          ∧ t.module.thrNow = (fld m.errthresh 0 8 : BitVec 8).toNat ∧ (∀ k, Tab.get 0 t.module.laneErrs k = 0)
          ∧ (∀ u p, Tab.get 0 (t.bankSet u).errs p = 0) ∧ (∀ u, (t.bankSet u).map = (s.bankSet u).map ∧ (t.bankSet u).live = (s.bankSet u).live)
          ∧ t.threads = s.threads ∧ SameMemory s t))

/-- R388 to R392, R397: an evacuation copies one row a turn, paused for a weight store by a refresh window, and after the last row the map
sends the logical bank to its new physical bank and the old one leaves service; a cache's is emptied line by line in place of the copy.  A bank kept
readable for a region is released once no region needs it.  With no injection armed, that is all.  A region that waits for a rectangle seeks one
again.  When a row is copied, how a cache is emptied and when the region seeks are the model's choices (log 31, log 32). -/
def Rule.Evacuations : Prop :=
  (∀ (s : State) (e : Evac),
    let u := s.ev.u
    let b := s.bankSet u
    let paused : Prop := u.kind = 4 ∧ (s.clu u.cluster).inWin = true
    let on (x : Out) : Prop := exec .evacuationRowCopy s = x
    let ends (mapped : List Nat → Prop) : Prop := ∃ t, on (.next t) ∧ mapped (t.bankSet u).map ∧ (t.bankSet u).evac = none ∧ (t.bankSet u).live = b.live
      ∧ e.main ∈ (t.bankSet u).retired ∧ (∀ p ∈ e.parts, p.1 ∈ (t.bankSet u).retired) ∧ ∀ p ∈ b.retired, p ∈ (t.bankSet u).retired
    (b.evac = none → b.held = [] ∨ s.stopped u (b.live + 1) ≠ [] → on (.next s))
      ∧ (b.evac = none → b.held ≠ [] → s.stopped u (b.live + 1) = [] → on (.next (s.modBanks u (fun b => b.release u))))
      ∧ (b.evac = some e → paused → on (.next s))
      ∧ (b.evac = some e → ¬paused → u.cache = false → s.module.injctl.getLsbD 63 = false →
          (e.cursor + 1 < u.rows → on (.next (s.modBanks u (fun b => { b with evac := some { e with cursor := e.cursor + 1 } }))))
          ∧ (u.rows ≤ e.cursor + 1 → b.waiting = [] → ends (fun m => m = b.map.set e.logical e.dest)))
      ∧ (b.evac = some e → u.cache = true →
          (∀ l rest, s.linesFrom u e.cursor = l :: rest →
            on (.next ((s.emptyLine u l).modBanks u (fun b => { b with evac := some { e with cursor := l + 1 } }))))
          ∧ (s.linesFrom u e.cursor = [] → b.waiting = [] → ends (fun m =>
              if u.kind = 5 then m = b.map.map (fun x => if x = e.main ∨ x ∈ e.parts.map (·.1) then e.dest else x) else m = b.map.set e.logical e.dest))))
  ∧ (∀ s : State,
    let r := s.reg s.ev.n
    (r.st = 8 ∧ r.retry = true → exec .invarRelaunchRetry s = .next (s.relaunch s.ev.n))
      ∧ (¬(r.st = 8 ∧ r.retry = true) → exec .invarRelaunchRetry s = .next s))

/-- R388, R391: what a retirement does to a bank map with no evacuation in progress, whose highest logical bank is served by a bank of its own that is
in service: the live count falls by one, and the logical bank the retired bank
held, if it is below the new count, is evacuated to the bank that served the highest; a vanished bank is retired, a cache's once it is
emptied.  The logical bank of a retired LLC bank goes to a bank that survives.  Which one that is, and that a cache's bank is emptied before it leaves
service, are the model's choices (log 31). -/
def Rule.BankRetirement : Prop :=
  ∀ (u : BankUnit) (b : BankSet) (p q : Nat), b.evac = none → b.waiting = [] → 0 < b.live → b.map.findIdx? (· == p) = some q →
    b.phys (b.live - 1) ∉ b.retired ++ b.held ++ b.map.take (b.live - 1) →
    let c := b.retire u p
    c.live = b.live - 1 ∧ c.map = b.map
      ∧ (u.kind ≠ 5 → q < b.live - 1 → c.evac = some { logical := q, dest := b.phys (b.live - 1), main := p } ∧ c.retired = b.retired)
      ∧ (u.cache = false → b.live - 1 ≤ q → c.evac = none ∧ c.retired = b.retired ++ [p])
      ∧ (u.cache = true → u.kind ≠ 5 → b.live - 1 ≤ q → c.evac = some { logical := q, dest := p, main := p } ∧ c.retired = b.retired)
      ∧ (u.kind = 5 → c.retired = b.retired ∧ ∃ d, c.evac = some { logical := q, dest := d, main := p } ∧ (d = p ∨ d ∉ p :: b.retired))

/-- R271, R325, R375, R398: a slice may write back a line at any time, and drop it once clean; a translation entry may be dropped at any time; a
flit that fails its CRC is logged and counted for its lane, which is retired when the count reaches the threshold in force; one that passes soundly
changes nothing with no injection armed.  How lanes are numbered and logged is the model's choice (log 61). -/
def Rule.CachesAndLanes : Prop :=
  (∀ s : State,
    let c := s.ev.c
    let line := s.ev.k
    let l := s.l2Line c line
    (l.valid = 0 → l.dirty = 0) →
    ∃ t, exec .l2Eviction s = .next t ∧ t = { s with clusters := t.clusters, mem := t.mem, poison := t.poison } ∧ (t.l2Line c line).dirty = 0
      ∧ (∀ j, j ≠ line → t.l2Line c j = s.l2Line c j)
      ∧ (s.ev.w ≠ 1 → (t.l2Line c line).valid = l.valid ∧ (t.l2Line c line).data = l.data)
      ∧ (s.ev.w = 1 → (t.l2Line c line).valid = 0)
      ∧ (Memory.wf s.mem = true → l.marks = [] → ∀ a,
          cellRead t.mem a = if a / 64 = line ∧ l.dirty.getLsbD (a % 64) = true then fld l.data (8 * (a % 64)) 8 else cellRead s.mem a))
  ∧ (∀ s : State, exec .translationEntryDrop s = .next { s with tlb := s.tlb.eraseIdx s.ev.k })
  ∧ (∀ s : State,
    let lane := s.ev.s.toNat
    let key := 8 * s.ev.k + lane
    let n := Tab.get 0 s.module.laneErrs key + 1
    let dies : Prop := s.module.thrNow ≠ 0 ∧ s.module.thrNow ≤ n ∧ key ∉ s.module.laneDead
    (20 ≤ s.ev.k → exec .linkCrcRetransmit s = .next s)
      ∧ (s.ev.k < 20 → s.module.injctl.getLsbD 63 = false → s.ev.v = 1 → exec .linkCrcRetransmit s = .next s)
      ∧ (s.ev.k < 20 → s.module.injctl.getLsbD 63 = false → s.ev.v ≠ 1 → ∃ t, exec .linkCrcRetransmit s = .next t
          ∧ t = { s with module := t.module } ∧ Tab.get 0 t.module.laneErrs key = n
          ∧ t.module.logNext = s.module.logNext + (if dies then 2 else 1)
          ∧ (t.module.log[0]?).map (fun r => (r.kind, r.struct)) = some (if dies then 2 else 0, 7)
          ∧ (∀ j, j ∈ t.module.laneDead ↔ j ∈ s.module.laneDead ∨ (dies ∧ j = key))))

/-- R311, R375, R380, R398: a flit of a peer, 256 bytes of its source, a chunk's checksum or 256 bytes of what it runs, is kept behind those that have
come, under its module, engine and offset, and changes nothing else when no injection is armed; a port with no lane left brings none.  How the
bytes of a peer come and that they are kept is the model's choice (log 52, log 61). -/
def Rule.LinkFlits : Prop :=
  ∀ s : State,
    let entry := s.ev.w.getLsbD 17
    let p : Piece := {
      modNo := fld s.ev.w 0 16, engine := s.ev.c, offset := s.ev.k, data := s.ev.x, sum := s.ev.w.getLsbD 16 && !entry, entry := entry }
    let port := s.ev.t.toNat / 8 % 16
    let down : Prop := ∀ l, l < 8 → 8 * port + l ∈ s.module.laneDead
    (down → exec .solwenLinkFlit s = .next s)
      ∧ (¬down → s.module.injctl.getLsbD 63 = false →
          exec .solwenLinkFlit s = .next { s with module := { s.module with pieces := s.module.pieces ++ [p] } })

/-! ## The module -/

/-- R273: a cluster's refresh window begins when it is due and ends 1125 reference cycles later, the next being due 72,000 cycles after it began;
before that the events change nothing. -/
def Rule.RefreshWindows : Prop :=
  ∀ s : State,
    let c := s.clu s.ev.c
    let start : Prop := c.inWin = false ∧ c.refNext ≤ s.cycle
    let stop : Prop := c.inWin = true ∧ c.refNext ≤ s.cycle
    (start → ∃ t, exec .refreshWindowStart s = .next t ∧ t = { s with clusters := t.clusters }
        ∧ t.clu s.ev.c = { c with inWin := true, refNext := c.refNext + 1125 } ∧ ∀ k, k ≠ s.ev.c → t.clu k = s.clu k)
      ∧ (¬start → exec .refreshWindowStart s = .next s)
      ∧ (stop → ∃ t, exec .refreshWindowEnd s = .next t ∧ t = { s with clusters := t.clusters }
          ∧ t.clu s.ev.c = { c with inWin := false, refNext := c.refNext + (72000 - 1125) } ∧ ∀ k, k ≠ s.ev.c → t.clu k = s.clu k)
      ∧ (¬stop → exec .refreshWindowEnd s = .next s)

/-- R401, R402, Table 14.2: a reading of 115 degrees trips; one below moves the cluster to the band of its temperature when that is hotter, one band up when the package drew more than
1800 W, and down only once the temperature is 3 degrees below the band's lower edge; CAP and BUDGET are the band's.  Where power and temperature both
ask for a hotter band the model takes the reading of log 40, which this statement leaves out. -/
def Rule.ThermalBands : Prop :=
  ∀ s : State,
    let c := s.clu s.ev.c
    let t := s.ev.temp
    let hot (b : Nat) : Prop := match b with | 0 => t < 85 | 1 => 85 ≤ t ∧ t < 95 | 2 => 95 ≤ t ∧ t < 105 | _ => 105 ≤ t ∧ t < 115
    let goes (b : Nat) (cap : BitVec 11) (budget : BitVec 8) : Prop := ∃ u, exec .thermalSample s = .next u
      ∧ u = { s with clusters := u.clusters, module := { s.module with power := s.ev.k } }
      ∧ u.clu s.ev.c = { c with band := BitVec.ofNat 2 b, cap := cap, budget := budget } ∧ ∀ k, k ≠ s.ev.c → u.clu k = s.clu k
    let takes (b : Nat) : Prop := match b with | 0 => goes 0 0 255 | 1 => goes 1 64 192 | 2 => goes 2 16 128 | _ => goes 3 4 64
    (s.ev.k ≤ 1800 → ∀ b, b ≤ 3 → hot b → c.band.toNat ≤ b → takes b)
      ∧ (s.ev.k ≤ 1800 → c.band = 1 → 82 ≤ t → t < 85 → takes 1)
      ∧ (s.ev.k ≤ 1800 → c.band = 2 → 92 ≤ t → t < 95 → takes 2)
      ∧ (s.ev.k ≤ 1800 → c.band = 3 → 102 ≤ t → t < 105 → takes 3)
      ∧ (s.ev.k ≤ 1800 → c.band = 1 → t < 82 → takes 0)
      ∧ (s.ev.k ≤ 1800 → c.band = 2 → 85 ≤ t → t < 92 → takes 1)
      ∧ (s.ev.k ≤ 1800 → c.band = 3 → 95 ≤ t → t < 102 → takes 2)
      ∧ (1800 < s.ev.k → ∀ b, b ≤ 3 → hot b → b ≤ c.band.toNat → takes (Nat.min 3 (c.band.toNat + 1)))
      ∧ (115 ≤ t → exec .thermalSample s = exec .thermalTrip s)

/-- R400, R402, R404, R406: module reset leaves every context empty except thread 0, which is halted, every bank map, cache, register and
translation as at reset, and keeps memory, the error log and the firmware slots; the slot UPDATE wrote, else the active one, is booted when it verifies, else
the other with the failure logged, else none.  At 115 degrees a sensor's trip is logged and the module is reset; a rail below its minimum holds the module
in reset, where nothing is checked or logged, until every rail has been good for 10 ms, and the module then leaves it as after reset.  That memory keeps its contents and the clock starts at the release
are the model's choices (log 41, log 85). -/
def Rule.ModuleResets : Prop :=
  (∀ s : State,
    let m := s.module
    let ok (k : Nat) : Bool := Config.slotVerifies (Tab.get ({} : Slot) m.slots k).digest
    let first := m.fresh.getD m.active
    (m.held = true → exec .moduleReset s = .next s) ∧ (m.held = false →
    ∃ t, exec .moduleReset s = .next t
      ∧ t.threads = [(0, { run := .halted })] ∧ (t.thr 0).run = .halted ∧ (∀ n, n ≠ 0 → (t.thr n).run = .empty)
      ∧ t.clusters = [] ∧ t.tlb = [] ∧ t.spaces = [] ∧ t.atc = [] ∧ t.flits = [] ∧ t.bridges = [] ∧ t.doorbells = []
      ∧ t.cycle = 0 ∧ t.module.held = false ∧ t.module.rails = m.rails
      ∧ t.mem = s.mem ∧ t.module.modNo = 0xFFFF ∧ t.module.laneDead = [] ∧ t.module.llc = [] ∧ t.module.slots = m.slots ∧ t.module.cobalt = none
      ∧ (ok first = true → t.module.active = first ∧ t.module.firmware = true ∧ t.module.log = m.log)
      ∧ (ok first = false → (t.module.log[0]?).map (·.kind) = some 4
          ∧ (ok (1 - first) = true → t.module.active = 1 - first ∧ t.module.firmware = true ∧ t.module.logNext = m.logNext + 1)
          ∧ (ok (1 - first) = false → t.module.firmware = false ∧ t.module.logNext = m.logNext + 2))))
  ∧ (∀ s : State, (s.ev.temp < 115 → exec .thermalTrip s = .next s)
      ∧ (115 ≤ s.ev.temp → exec .thermalTrip s = exec .moduleReset (s.logErr 3 0 (s.ev.c.setWidth 64 <<< 41))
          ∧ (((s.logErr 3 0 (s.ev.c.setWidth 64 <<< 41)).module.log[0]?).map (fun r => (r.kind, r.time))) = some (3, s.time)))
  ∧ (∀ (s : State),
      let rail : BitVec 2 := fld s.ev.s 0 2
      let m := s.module
      let holds (h : Bool) : Prop := ∃ rs, exec .railUndervoltage s = .next { s with module := { m with rails := rs, held := h } }
        ∧ ∀ r, r ∈ rs ↔ r ∈ m.rails ∨ r = rail
      (s.ev.v = 0 → holds true)
      ∧ (s.ev.v ≠ 0 → holds m.held)
      ∧ (rail ∈ m.rails → exec .railRecovery s = .next { s with module := { m with rails := m.rails.erase rail, goodSince := s.cycle } })
      ∧ (rail ∉ m.rails → m.held = true → m.rails = [] → m.goodSince + 22500000 ≤ s.cycle →
          exec .railRecovery s = exec .moduleReset { s with module := { m with held := false } })
      ∧ (rail ∉ m.rails → (m.held = false ∨ m.rails ≠ [] ∨ s.cycle < m.goodSince + 22500000) → exec .railRecovery s = .next s))

/-- R403, R405 to R407, Table 14.3: Cobalt runs a command of the physical function when none is running: IDENT, ATTEST and a LOGREAD of a record it
holds answer 0 with their result; UPDATE writes the inactive slot when the signature holds, else answers BADSIG and logs it; START sets thread 0
to PL 2, IE 0, SPACE 0, PARTITION 0, PTBASE and PC as given and makes it ready; SETMOD sets the module number, or is BUSY while a collective runs; RESET is
module reset and answers 0; any other opcode is BADCMD.  While one runs each is answered BUSY and does nothing.  The end of a command answers it.  How long
a command runs, what START leaves of the context, what SETMOD waits for and the fields of a log record are the model's choices
(log 61, log 68, log 82). -/
def Rule.CobaltCommands : Prop :=
  (∀ (s : State),
    let m := s.module
    let runs (u : State) (op : BitVec 8) (status : Word) (result : Nat) : State :=
      { u with module := { u.module with cobalt := some { op := op, status := status, result := result } } }
    let op : BitVec 8 := fld s.ev.v 0 8
    let listed : Prop := 1 ≤ op.toNat ∧ op.toNat ≤ 7
    m.held = false → m.firmware = true → s.ev.f = 0 →
    (∀ a, m.cobalt = some a → ∀ p ∈ [(Instr.ident, 1), (.attest, 2), (.logread, 3), (.update, 4), (.start, 5), (.setmod, 6), (.reset, 7)],
        exec p.1 s = .next { s with module := { m with answer := some { op := p.2, status := 1 } } })
      ∧ (m.cobalt = none →
          exec .ident s = .next (runs s 1 0 (Config.identity.toNat % 2 ^ 384 + (m.version 0).toNat * 2 ^ 384 + (m.version 1).toNat * 2 ^ 448))
          ∧ exec .attest s = .next (runs s 2 0 (Config.attest (fld s.ev.x 0 256) (Tab.get ({} : Slot) m.slots m.active).digest s.capacities).toNat)
          ∧ (∀ r, m.log.find? (fun r => r.index == (fld s.ev.v 8 56 : BitVec 56).toNat) = some r → exec .logread s = .next (runs s 3 0 r.bytes))
          ∧ (let addr := (fld s.ev.x 0 64 : BitVec 64).toNat
             let image := (List.range (fld s.ev.x 64 64 : BitVec 64).toNat).map (fun k => cellRead s.mem (hostKey 0 0 (addr + k)))
             (Config.signatureOk image = true → exec .update s = .next (runs { s with module := { m with
                slots := Tab.set m.slots (1 - m.active) { digest := Config.imageDigest image }, fresh := some (1 - m.active) } } 4 0 0))
             ∧ (Config.signatureOk image = false → exec .update s = .next (runs (s.logErr 4 0 (BitVec.ofNat 64 (1 - m.active))) 4 3 0)))
          ∧ (∃ t, exec .start s = .next t
              ∧ t.module = { m with started := true, cobalt := some { op := 5, status := 0 } } ∧ (∀ k, k ≠ 0 → t.thr k = s.thr k)
              ∧ (t.thr 0).run = .ready ∧ (t.thr 0).pc = fld s.ev.x 0 64 &&& ~~~3 ∧ (t.thr 0).space = 0 ∧ (t.thr 0).partition = 0
              ∧ (fld (t.thr 0).status 0 2 : BitVec 2) = 2 ∧ (fld (t.thr 0).status 4 1 : BitVec 1) = 0
              ∧ (t.thr 0).ptbase = masked (s.thr 0).ptbase (fld s.ev.x 64 64) 0x3FFFFFF0000 ∧ SameMemory s t)
          ∧ (s.collecting = true → exec .setmod s = .next (runs s 6 1 0))
          ∧ (s.collecting = false → exec .setmod s = .next (runs { s with module := { m with modNo := fld s.ev.v 8 16 } } 6 0 0))
          ∧ (∃ t, exec .moduleReset s = .next t ∧ exec .reset s = .next { t with module := { t.module with answer := some { op := 7, status := 0 } } }
              ∧ t.threads = [(0, { run := .halted })] ∧ t.clusters = [] ∧ t.tlb = [] ∧ t.flits = [] ∧ t.cycle = 0 ∧ t.mem = s.mem
              ∧ t.module.cobalt = none ∧ t.module.modNo = 0xFFFF ∧ t.module.slots = m.slots)
          ∧ (¬listed → exec .unassignedCobaltOpcode s = .next (runs s op 2 0))))
  ∧ (∀ s : State, (s.module.cobalt = none → exec .cobaltCommandDone s = .next s)
      ∧ (∀ a, s.module.cobalt = some a → exec .cobaltCommandDone s = .next { s with module := { s.module with cobalt := none, answer := some a } }))

/-- R406, R408: the host's accesses through BAR0: a write of the GDDR tier is performed at its home, byte for byte, and a read answers the home's bytes with no
injection armed; a doorbell's DEST keeps its 11 bits, a write of DISCARDS clears the count, and a 64-bit write of FLIT is a flit; DEST and DISCARDS read as they
stand, FLIT and the reserved bytes as 0.  An access of no
window changes nothing. -/
def Rule.HostAccess : Prop :=
  ∀ s : State,
    let a := s.ev.k
    let n := if s.ev.t = 0 then 256 else s.ev.t.toNat
    let base := 0x4000000000
    let door (f off : Nat) : Prop := a = base + 32 * f + off ∧ f < 33 ∧ s.ev.w = 1
    let i := exec .bar0Access s
    (a + n ≤ Config.gddrBytes → s.ev.w = 1 → ∃ t, i = .next t ∧ t = { s with mem := writeLE s.mem a n (s.ev.x.toNat % 2 ^ (8 * n)), poison := t.poison })
      ∧ (a + n ≤ Config.gddrBytes → s.ev.w ≠ 1 → s.module.injctl.getLsbD 63 = false → ∃ t, i = .next t ∧ t = { s with hostValue := t.hostValue }
          ∧ ∀ j, j < n → fld t.hostValue (8 * j) 8 = cellRead s.mem (a + j))
      ∧ (∀ f, s.ev.w ≠ 1 → f < 33 →
          let d : Doorbell := Tab.get {} s.doorbells f
          let reads (off bytes v : Nat) : Prop := a = base + 32 * f + off → n = bytes → i = .next { s with hostValue := BitVec.ofNat 2048 v }
          reads 0 8 d.dest.toNat ∧ reads 8 8 0 ∧ reads 16 4 d.discards.toNat ∧ reads 20 4 0 ∧ reads 24 8 0)
      ∧ (∀ f, door f 0 → n = 8 → ∃ t, i = .next t ∧ t = { s with doorbells := t.doorbells }
          ∧ (Tab.get {} t.doorbells f : Doorbell) = { (Tab.get {} s.doorbells f : Doorbell) with dest := fld s.ev.x 0 11 }
          ∧ ∀ j, j ≠ f → (Tab.get {} t.doorbells j : Doorbell) = Tab.get {} s.doorbells j)
      ∧ (∀ f, door f 8 → n = 8 → i = .next (s.doorbellFlit (BitVec.ofNat 6 f) 8 (fld s.ev.x 0 64)))
      ∧ (∀ f, door f 16 → n = 4 → ∃ t, i = .next t ∧ t = { s with doorbells := t.doorbells }
          ∧ (Tab.get {} t.doorbells f : Doorbell) = { (Tab.get {} s.doorbells f : Doorbell) with discards := 0 }
          ∧ ∀ j, j ≠ f → (Tab.get {} t.doorbells j : Doorbell) = Tab.get {} s.doorbells j)
      ∧ (Config.gddrBytes < a + n → (a < base ∨ base + 32 * 33 < a + n) → i = .next s)

/-! ## Alignment and the frame of a firing -/

/-- R121, R130, R177: how a node with two aligned inputs and no ORDER input pairs its heads: two ENDs send END on and end the node; the earlier
of two records is discarded and its index goes on as an uncompensated gap of one; a gap that covers the smallest index is consumed up to the other
head's index and goes on as a gap, with a record at its own first index discarded.  Nothing fires in these cases. -/
def Rule.Alignment : Prop :=
  ∀ (s : State) (t : BitVec 4) (m : BitVec 2) (x : BitVec 1) (a b : Token) (i j : Nat),
    let d := s.nd
    let ops := [Instr.iadd t 0 x, .isub t 0 x, .imul t 0 x, .imulh t 0, .iand t 0, .ior t 0, .ixor t 0, .ishl t 0, .ishr t 0, .isha t 0
      , .icmpeq t 0, .icmpne t 0, .icmplt t 0, .icmple t 0, .faddNode t 0 m, .fsubNode t 0 m, .fmulNode t 0 m, .fcmpeqNode t 0, .fcmpltNode t 0
      , .fcmpleNode t 0]
    let dat (t : Token) : Prop := t.kind = kDATA
    let queue (u : State) (k : Nat) (f : Queue → Queue) : State := u.modQueue d.n d.t (4 * d.slot + k) f
    let goes (u : State) : Prop := ∀ op ∈ ops, exec op s = .next (s.acted u)
    s.nodeLive d = true → s.illAt d = false → d.ordered = false → s.headAt d 0 = some (a, i) → s.headAt d 1 = some (b, j) →
    (a.kind = kEND → b.kind = kEND →
        goes (((s.popAll d [0, 1]).emit d 0 (endTok (a.pay.getLsbD 0 || b.pay.getLsbD 0)) 0).modRt d.n d.t
          (fun r => { r with ended := insertNat r.ended d.slot })))
      ∧ (dat a → (dat b ∧ i < j ∨ b.kind = kGAP ∧ i < b.gapFirst ∨ b.kind = kEND) →
          goes ((((queue s 0 (fun q => q.discard (d.qrec 0) i)).sawGap d.n).emitGap d [0] i 1 false)))
      ∧ (dat b → (dat a ∧ j < i ∨ a.kind = kGAP ∧ j < a.gapFirst ∨ a.kind = kEND) →
          goes ((((queue s 1 (fun q => q.discard (d.qrec 1) j)).sawGap d.n).emitGap d [0] j 1 false)))
      ∧ (a.kind = kGAP → dat b → a.gapFirst < j →
          let n := Nat.min a.gapCount (j - a.gapFirst)
          goes ((queue s 0 (fun q => q.eatGap (d.qrec 0) n)).emitGap d [0] a.gapFirst n a.gapComp))
      ∧ (a.kind = kGAP → dat b → a.gapFirst = j →
          goes ((queue (queue s 0 (fun q => q.eatGap (d.qrec 0) 1)) 1 (fun q => q.discard (d.qrec 1) j)).emitGap d [0] j 1 a.gapComp))
      ∧ (a.kind = kGAP → b.kind = kGAP → a.gapFirst = b.gapFirst →
          let n := Nat.min a.gapCount b.gapCount
          goes ((queue (queue s 0 (fun q => q.eatGap (d.qrec 0) n)) 1 (fun q => q.eatGap (d.qrec 1) n)).emitGap d [0] a.gapFirst n (a.gapComp && b.gapComp)))
      ∧ (a.kind = kMARK ∨ b.kind = kMARK → (∀ c ∈ [a, b], c.kind = kMARK ∨ dat c ∨ c.kind = kGAP ∨ c.kind = kEND) → ∀ op ∈ ops, exec op s = .next s)

/-- What a firing of a node leaves alone (the frame of every statement that says Fires): every byte of memory, every other thread and region, every
cluster and the module, and of its own region all but the tiles' queues, the tokens on their way, the channel positions, the sticky flags and the cycle of its last
activity. -/
def Rule.FiringFrame : Prop :=
  ∀ (s : State) (ks : List Nat) (fl : Fl) (t : Token) (i : Nat),
    let d := s.nd
    let u := s.fired (((s.popAll d ks).addFl d.n fl).emit d 0 t i)
    let r := s.reg d.n
    let v := u.reg d.n
    OnlyThread s u d.n { s.thr d.n with region :=
        { r with tiles := v.tiles, flight := v.flight, pos := v.pos, flags := v.flags, active := s.now d.n } }
      ∧ SameMemory s u ∧ (∀ k, r.flags.getLsbD k = true → v.flags.getLsbD k = true)
      ∧ (∀ x, x ≠ d.t.toNat → (Tab.get {} v.tiles x : RTile) = Tab.get {} r.tiles x)
      ∧ r.flight <+: v.flight

/-! ## Words, steps and the whole machine -/

/-- R26 to R31: every well-formed control instruction has one word, which decodes to it, and a word that decodes to an instruction is that instruction's
word; every other word is ILLEGAL's. -/
def Obligations.ControlEncoding : Prop :=
  (∀ i : Instr, i.wf = true → i.isControl = true → ∃ w, encode i = some w ∧ decodeControl w = i)
  ∧ (∀ (w : BitVec 32) (i : Instr), decodeControl w = i → i = .illegalWord w ∨ (i.wf = true ∧ i.isControl = true ∧ encode i = some w))

/-- R33, R35: every well-formed operation has one word, which decodes to it, and a word that decodes to an operation is that operation's word. -/
def Obligations.OperationEncoding : Prop :=
  (∀ i : Instr, i.wf = true → i.isOperation = true → ∃ w, encode i = some w ∧ decodeOperation w = some i)
  ∧ (∀ (w : BitVec 32) (i : Instr), decodeOperation w = some i → i.wf = true ∧ i.isOperation = true ∧ encode i = some w)

/-- Words the spec writes out decode to the instructions it names: Table 2.2 and the examples of R69 to R95, R104, R126, R289, R303, R352 for
control words, R39, R232, R242 and R274 for operation words; the two empty slots' words are no operations. -/
def Obligations.DecodedWords : Prop :=
  decodeControl 0x00642800 = .add 3 4 5 ∧ decodeControl 0x1060FFFE = .addi 3 0 0xFFFE ∧ decodeControl 0x50C26010 = .ld 6 2 3 0x10
    ∧ decodeControl 0x70E00900 = .srd 7 0x090 ∧ decodeControl 0x70050411 = .swr 5 0x041 ∧ decodeControl 0x60600180 = .rwait 3
    ∧ decodeControl 0x40603FFE = .br 3 0 1 0x1FFE ∧ decodeControl 0x74003800 = .trap 7 ∧ decodeControl 0x74000001 = .sysret
    ∧ decodeControl 0x68642800 = .tdset 3 4 5 ∧ decodeControl 0x58853000 = .bind 4 5 6 ∧ decodeControl 0x64653800 = .enq 3 5 7
    ∧ decodeControl 0x78640002 = .spgen 3 4 ∧ decodeControl 0xFFFFFFFF = .illegalWord 0xFFFFFFFF
    ∧ decodeOperation 0x20610000 = some (.faddNode 6 1 0) ∧ decodeOperation 0x23710000 = some (.ffmaNode 7 1 0)
    ∧ decodeOperation 0xFF000000 = none ∧ decodeOperation 0x19000000 = none

/-- R22, R65, R66, R68, R129: a step takes the first turn of the agenda, its cycles having passed, and does nothing more for a unit that is held in reset.  A
core's turn goes to the first ready context from the one after the last that issued: where its word's line is in the instruction cache that word issues and its
instruction is executed, or the trap of its fetch is taken; else the line is brought in and the turn goes to the contexts after it.  A thread that waits in a word
looks at that word again.  A tile's turn runs exec of the node it chooses, an event's turn exec of the event.  That turns come by an agenda, each when
its cycles have passed, and which turns there are, are the model's form of the machine (log 3, log 69), and so are the clauses on them; that a tile
first looks at slot 0 is log 88. -/
def Obligations.StepRunsDecoded : Prop :=
  (∀ (s u v : State) (tn : Turn) (rest : List Turn) (k : BitVec 7) (before after : List Nat) (x key w : Nat) (bad : Bool) (xl : Xl),
    let p : State := { s.pass tn.delay with agenda := rest, tick := s.tick + 1 }
    let c : BitVec 5 := fld k 2 5
    let own := (fld k 0 2 : BitVec 2).toNat
    let thread (x : Nat) : BitVec 9 := BitVec.ofNat 9 (4 * k.toNat + x)
    let q : State := { p with cur := thread x }
    let word : BitVec 32 := BitVec.ofNat 32 w
    let issued (t : State) : State := t.modClu c (fun g => { g with turn := Tab.set g.turn own x, issued := Tab.set g.issued own (t.cycleOf c + 1) })
    s.agenda = tn :: rest → tn.move = .core k → p.module.held = false → p.module.firmware = true →
    Tab.get 0 (p.clu c).issued own ≤ p.cycleOf c →
    [1, 2, 3, 4].map (fun j => (Tab.get 3 (p.clu c).turn own + j) % 4) = before ++ x :: after →
    (∀ y ∈ before, (p.thr (thread y)).ready = false) → (p.thr (thread x)).ready = true → (p.thr (thread x)).deliverable = false →
    (q.resolve q.me.cred .fetch false q.me.pc (.thread (thread x)) = (u, .ok key xl) → u.instLoad k key = (v, w, bad) →
        (u.hasInst k key = true → bad = false → step s = exec (decodeControl word) ((issued v).modMe (fun t => { t with word := some word })))
        ∧ (u.hasInst k key = true → bad = true → step s = .next (issued (v.trap cUNCORR q.me.pc)))
        ∧ (u.hasInst k key = false → step s = (match State.issueFrom k after v with | (t, some i) => exec i t | (t, none) => .next t)))
      ∧ (∀ cause, q.resolve q.me.cred .fetch false q.me.pc (.thread (thread x)) = (u, .fault cause) →
          step s = .next (issued (u.trap cause q.me.pc))))
  ∧ (∀ (s : State) (tn : Turn) (rest : List Turn) (n : BitVec 9) (w : BitVec 32),
    let p : State := { s.pass tn.delay with agenda := rest, tick := s.tick + 1 }
    s.agenda = tn :: rest → tn.move = .look n → p.module.held = false → p.module.firmware = true → (p.thr n).looks = true → (p.thr n).word = some w →
    step s = exec (decodeControl w) (({ p with cur := n } : State).modMe (fun t =>
      { t with word := some w, wait := match t.wait with | .reissue | .again => .none | x => x })))
  ∧ (∀ (s : State) (tn : Turn) (rest : List Turn) (n : BitVec 9) (t : TileNo) (k : Nat) (i : Instr),
    let p : State := { s.pass tn.delay with agenda := rest, tick := s.tick + 1 }
    let r := p.reg n
    let rt := p.rt n t
    let order := ([1, 2, 3, 4, 5, 6, 7, 8].map (fun j => (rt.last + j) % 8)).filter (fun k => isNode r.image t k && !isCounter r.image t k)
    s.agenda = tn :: rest → tn.move = .tile n t → p.module.held = false → p.module.firmware = true →
    rt.lastCycle ≠ some (p.now n) → order.find? (fun k => p.canAct n (t, k)) = some k →
    opAt r.image t k = some i → step s = exec i ((p.modRt n t (fun x => { x with last := k, lastCycle := some (p.now n) })).at n (t, k)))
  ∧ (∀ (s : State) (tn : Turn) (rest : List Turn) (i : Instr) (e : Event),
    let p : State := { s.pass tn.delay with agenda := rest, tick := s.tick + 1 }
    s.agenda = tn :: rest → tn.move = .event i e → encode i = none → p.module.lets (.event i e) = true → step s = exec i { p with ev := e })
  ∧ (∀ (s : State) (tn : Turn) (rest : List Turn),
    let p : State := { s.pass tn.delay with agenda := rest, tick := s.tick + 1 }
    s.agenda = tn :: rest → p.module.lets tn.move = false → step s = .next p)

/-- R2, the model's own form: every step keeps memory in its canonical form, addresses rising and no byte listed that reads as an unlisted one, whatever
instruction or event it brings. -/
def Obligations.MemoryStaysCanonical : Prop :=
  ∀ s t : State, Memory.wf s.mem = true → step s = .next t → Memory.wf t.mem = true

/-- R63, R79 to R101, R109, R321 to R346, R374, R398, R406, R407: what reset leaves: every context empty but thread 0's, which is halted, the registers at the values
their tables give, no translation, binding, chain, region or claim, generations and counters zero; and memory in its canonical form.  The general registers
and the PC have no reset value in the spec and are left out (log 2). -/
def Obligations.ResetState : Prop :=
  let s := State.reset
  (s.thr 0).run = .halted ∧ (∀ n, n ≠ 0 → (s.thr n).run = .empty)
    ∧ (∀ n, let m := s.thr n
        m.status = 2 ∧ (∀ q ∈ plainRegs, q.get m = 0) ∧ m.space = 0 ∧ m.dirtygran = 16 ∧ m.partition = 0 ∧ m.faultqbase = 0
        ∧ m.mbox = Vector.replicate 4 [] ∧ m.lost = Vector.replicate 4 0 ∧ m.binds = [] ∧ m.held = [] ∧ m.tensors = [] ∧ m.claim = none
        ∧ m.chains = [] ∧ m.region.st = 0 ∧ m.records = [])
    ∧ (∀ c, let k := s.clu c
        k.ceil = 15 ∧ k.bound = 8 ∧ k.cap = 0 ∧ k.budget = 255 ∧ k.score = [] ∧ k.l2 = [] ∧ k.inWin = false)
    ∧ (∀ n, (s.gen n).gen = 0) ∧ s.tlb = [] ∧ s.atc = [] ∧ s.flits = [] ∧ s.cycle = 0
    ∧ s.module.errwindow = 1000000 ∧ s.module.errthresh = 4 ∧ s.module.injaddr = 0 ∧ s.module.injctl = 0 ∧ s.module.modNo = 0xFFFF
    ∧ (∀ u, (s.bankSet u).map = List.range u.banks ∧ (s.bankSet u).live = u.banks ∧ (s.bankSet u).retired = [])
    ∧ Memory.wf s.mem = true

/-! ## Completion: the words, nodes and events of chapters whose statements have many cases, each in one plain case -/

/-- R113, R114, R122, R120: with the region in a state that allows it, an aligned image that reads and passes the loader's checks, and no WLOAD running where it
would bind, RLOAD and RSWAP complete with status 0, the region LOADED with that image, and RSWAP.td with the image to follow; RSTART completes with
status 0 and the region RUNNING where its completion address is aligned and resolves and its ports are bound. -/
def Rule.RegionWordsComplete : Prop :=
  ∀ (s u : State) (d a : BitVec 5) (img key : Nat) (x : Xl),
    let r := s.me.region
    let va := s.rd a
    let completes (i : Instr) (holds : Region → Prop) : Prop := ∃ t, exec i s = .next t ∧ t.rd d = 0 ∧ t.me.pc = s.pc + 4 ∧ t.me.wait = .none
      ∧ SameMemory u t ∧ (∀ n, n ≠ s.cur → t.thr n = s.thr n) ∧ holds t.me.region
    (va.toNat % 64 = 0 → s.readImage va = (u, .ok img) → u.loadCheck s.cur img = none → u.wloadRuns s.cur img = false →
        (r.st = 2 → completes (.rload d a) (fun q => q.st = 3 ∧ q.image = img))
        ∧ (r.st = 3 ∨ r.st = 7 → completes (.rswap d a) (fun q => q.st = 3 ∧ q.image = img))
        ∧ (r.st = 4 → imgInvar r.image = false → (∀ p ∈ r.ports, p.kind = .ingress ∨ p.kind = .bridgeIn → p.endSent = false) →
            completes (.rswapTd d a) (fun q => q.st = 4 ∧ q.image = r.image ∧ q.newImage = some img)))
      ∧ (r.st = 3 ∨ r.st = 7 ∨ r.st = 5 ∧ imgInvar r.image = false → va.toNat % 8 = 0 →
          s.resolve s.me.cred .read false va (.thread s.cur) = (u, .ok key x) → bindingCheck s.me r = 0 →
          completes (.rstart d a) (fun q => q.st = 4 ∧ q.running = true ∧ q.comp = va))

/-- R297, R303 to R306: on an engine that g[a] names, each chain word completes in its plain case: ENQ.open of a header that reads where there is no chain and
room for one, ENQ.shut with nothing outstanding, ENQ of an aligned entry that the walk reaches, ENQ.resume above user level of a halted chain whose
writes are made, CWAIT with no more outstanding than it asks for, CSEQ. -/
def Rule.ChainWordsComplete : Prop :=
  ∀ (s u w : State) (d a b : BitVec 5) (n : BitVec 6) (c : Chain) (key pa v : Nat) (x : Xl) (start : Word) (js : List Job),
    let e : BitVec 5 := fld (s.rd a) 0 5
    let h := s.rd b
    let m : BitVec 9 := fld (s.rd b) 0 9
    let left (c : Chain) : Nat := (c.enq - c.seq) + if c.openb then 1 else 0
    let completes (i : Instr) (value : Nat) (holds : State → Prop) : Prop := ∃ t, exec i s = .next t
      ∧ t.rd d = (if d = 0 then 0 else BitVec.ofNat 64 value) ∧ t.me.pc = s.pc + 4 ∧ t.me.wait = .none ∧ holds t
    (s.rd a).toNat < 32 → (s.rd a).toNat % 8 ≠ 7 → s.me.wait = .none →
    (s.chainOf s.cur e = none → (s.threads.filter (fun p => Tab.has p.2.chains e.toNat)).length < 32 → h.toNat % 64 = 0 →
        s.resolve s.me.cred .read false h (.thread s.cur) = (u, .ok key x) → x.target = .device pa → u.l1Load (coreOf s.cur) key 64 = (w, v, false) →
        completes (.enqOpen d a b) 0 (fun t => (t.chainOf s.cur e).map (fun c => (c.header, c.jobs, c.halted)) = some (h, [], false)))
      ∧ (s.chainOf s.cur e = some c →
          (left c = 0 → completes (.enqShut d a) 0 (fun t => t.chainOf s.cur e = none))
          ∧ (h.toNat % 64 = 0 → (s.writeBackAll (clusterOf s.cur)).walkStart c = (u, .ok start) → State.walkChain c.capt h 4096 start u = (w, .ok js) →
              ∃ k, completes (.enq d a b) (k * 2 ^ 32) (fun t => (t.chainOf s.cur e).map (fun c => (c.last, c.jobs)) = some (h, c.jobs ++ js)))
          ∧ (¬(n = 0 ∧ c.openb = true) → c.halted = false → left c ≤ n.toNat → completes (.cwait d a n) (left c * 2 ^ 32) (fun _ => True))
          ∧ completes (.cseq d a) c.seq (fun _ => True))
      ∧ ((fld s.me.status 0 2 : BitVec 2) ≠ 0 → s.chainOf m e = some c → c.halted = true → c.owed = [] →
          (s.setThr m { s.thr m with chains := Tab.set (s.thr m).chains e.toNat { c with
            halted := false, jobs := c.jobs.map (fun j => match j.st with | .faulted _ => { j with st := .queued, order := true } | _ => j) }
            }).engStore c.capt (c.header + 0x18) 4 c.cause.toNat = (u, none) →
          completes (.enqResume d a b) (left c * 2 ^ 32) (fun t => (t.chainOf m e).map (fun c => c.halted) = some false))

/-- R366, R367: above user level CTXSAVE of another context of the caller's reach that it has stopped, with no region, no chain and nothing
waiting, completes with the area's length once the area is written, and CTXLOAD of an area without region and chains that reads and has no
wrong field completes with status 0 in an empty context, its registers loaded. -/
def Rule.ContextWordsComplete : Prop :=
  ∀ (s u : State) (d a b : BitVec 5) (v : Nat) (poison : List Nat),
    let m := s.me
    let n : BitVec 9 := fld (s.rd a) 0 9
    let area := s.rd b
    let t := s.thr n
    let stopped := (s.stopChains n).loseRecords n
    let base : Word := (fld area 12 52 : BitVec 52) ++ 0#12
    (fld m.status 0 2 : BitVec 2) ≠ 0 → (fld (s.rd a) 9 55 : BitVec 55) = 0 → n ≠ s.cur → (fld area 0 12 : BitVec 12) = 0 →
    ((fld m.partition 26 6 : BitVec 6) = 0 ∨ (clIn m.partition (clusterOf n) = true ∧ t.partition = m.partition)) →
    (t.saver = some s.cur → t.stopped = true → t.stores = [] → t.records = [] → t.chains = [] → t.region.st = 0 →
        stopped.areaWrite m.cred area 0 0x2000 (areaHeader 1 0x2000 n.toNat + stopped.threadBytes n) [] (.thread s.cur) = (u, .ok) →
        ∃ y, exec (.ctxsave d a b) s = .next y ∧ y.rd d = (if d = 0 then 0 else 0x200000000000) ∧ y.me.pc = s.pc + 4
          ∧ (y.thr n).run = .empty ∧ (y.thr n).partition = t.partition)
      ∧ (t.run = .empty → State.areaRead m.cred base (.thread s.cur) 2 0 s = (u, .ok v poison) →
          at_ v 6 2 / 2 % 2 = 0 → (∀ c ∈ areaFields v 0x2000 false, c.1 = true) → at_ v 0x208 8 % 4 ≤ (fld m.status 0 2 : BitVec 2).toNat →
          chainRecords v = [] →
          ∃ y, exec (.ctxload d a b) s = .next y ∧ y.rd d = 0 ∧ y.me.pc = s.pc + 4
            ∧ (y.thr n).run = (if at_ v 0x2A8 8 / 16 % 2 = 1 then .halted else .ready)
            ∧ ∀ k : BitVec 5, k ≠ 0 → (y.thr n).rd k = BitVec.ofNat 64 (at_ v (0x100 + 8 * k.toNat) 8))

/-- R237, R276, R282, R318: with its record, or its records, at the slots it reads, a row operation without a fault begins, or where a lane of
the go record is not valid emits its ORDER token at once; DONE emits an ORDER token of the narrowest scope it has taken; ECMD emits the two halves of its entry. -/
def Rule.RowAndOrderNodesComplete : Prop :=
  ∀ (s : State) (b : BitVec 2) (r : BitVec 4) (n k c h : BitVec 1) (sc : BitVec 3) (a a' : Token) (i : Nat),
    let d := s.nd
    let ops : List (Instr × RowOp) :=
      [(.tld b r n sc, { instr := .tld b r n sc, reg := r.toNat, store := false, scr := false, scope := sc, setShape := b == 1 })
       , (.tst r n sc k c, { instr := .tst r n sc k c, reg := r.toNat, acc := c == 1, keep := k == 1, store := true, scr := false, scope := sc })
       , (.tlds b r sc, { instr := .tlds b r sc, reg := r.toNat, store := false, scr := true, scope := sc, setShape := b == 1 })
       , (.tsts r sc k c, { instr := .tsts r sc k c, reg := r.toNat, acc := c == 1, keep := k == 1, store := true, scr := true, scope := sc })]
    let completes (op : Instr) (u : State) : Prop := exec op s = .next (s.fired u)
    let slots := if h = 1 then [0, 1, 2] else [0, 1]
    let order (t : Token) : Prop := t.kind = kORDER
    (s.Ready [0] [(0, a, i)] i → (s.rt d.n d.t).mops = [] → ∀ p ∈ ops, s.matReady d (s.rowNeed d p.2) = true →
        (a.valid &&& 7 = 7 → (s.rowNeed d p.2).ok = true → s.rowFault d p.2 a = none → s.rowHeld d p.2 a = false →
            ∃ t, exec p.1 s = .next t ∧ (t.rt d.n d.t).mops = [{
              slot := BitVec.ofNat 3 d.slot, op := p.1, go := a, idx := i, due := s.now d.n + 1
              regs := if p.2.acc then [] else [p.2.reg], acc := p.2.acc, rows := s.prog d }])
        ∧ (a.valid.getLsbD 0 = false → completes p.1 ((s.popAt d 0).emit d 0 (orderTok sc) i)))
      ∧ (order a → order a' → s.Stands slots (slots.map (fun k => (k, if k = 1 then a' else a, i))) →
          completes (.done h) ((s.popAll d slots).emit d 0
            (orderTok (BitVec.ofNat 3 (Nat.min (fld a.pay 0 3 : BitVec 3).toNat (fld a'.pay 0 3 : BitVec 3).toNat))) i))
      ∧ (s.Ready [0, 1] [(0, a, i), (1, a', i)] i →
          completes .ecmd ((((s.popAll d [0, 1]).emit d 0 { pay := a.pay, side := mkSide 5 0 0 0 true false 0 } i).emit d 0
            { pay := a'.pay, side := mkSide 5 0 0 0 false true 0 } i).setCounts d [(s.counts d).getD 0 0 + 1]))

/-- R250 to R253, R267 to R269, R378, R381, R382, R394: with a record at each slot it reads, a conversion whose types have the same number of elements, SDENC and SDDEC
of 32-bit integers, NORM, PERM, CKSUM, CKCHK of equal checksums, CAPQ, and VOTE of three equal records complete: the record is taken and one token of its index
goes out on output 0. -/
def Rule.NodesComplete : Prop :=
  ∀ (s : State) (t sf : BitVec 4) (x : BitVec 1) (m bm : BitVec 2) (g : BitVec 6) (c : BitVec 8) (a b : Token) (i : Nat),
    let d := s.nd
    let q (u : State) : Queue := (u.rt d.n d.t).queue (4 * d.slot)
    let completes (op : Instr) (took : State) (sent : Token → Prop) : Prop := ∃ u tok, exec op s = .next u ∧ sent tok
      ∧ (u.reg d.n).flight = ((s.emit d 0 tok i).reg d.n).flight ∧ q u = q took ∧ SameMemory s u ∧ ∀ n, n ≠ d.n → u.thr n = s.thr n
    let data (tok : Token) : Prop := tok.kind = kDATA
    let whole := s.modQueue d.n d.t (4 * d.slot) (fun q => q.discard (d.qrec 0) i)
    i < 2 ^ 48 →
    (s.Ready [0] [(0, a, i)] i → s.prog d = 0 →
        (elemCount sf = elemCount t → completes (.cvt t sf 0 0 x m) (s.popAt d 0) data ∧ completes (.csc t sf 0 0 m) (s.popAt d 0) data)
        ∧ (elemCount (fld d.const 0 4) = elemCount t → completes (.cvtsr t g c) (s.popAt d 0) data)
        ∧ completes (.sdenc 0 0 0 g) (s.popAt d 0) data
        ∧ ((q s).headRec.length ≤ (g.toNat + 16) / 16 → completes (.sddec 0 0 0 g) whole data)
        ∧ completes (.norm t m) (s.popAt d 0) data ∧ completes .perm (s.popAt d 0) data ∧ completes .capq (s.popAt d 0) data
        ∧ completes (.cksum t bm 0 0) (s.popAt d 0) (fun tok => tok = a))
      ∧ (s.Ready [0, 1] [(0, a, i), (1, b, i)] i →
          completes (.cksum t bm 1 0) (s.popAt d 0) data
          ∧ ((ckOf a).matches t (ckOf b) = true → completes (.ckchk t) (s.popAt d 0) (fun tok => tok.kind = kCTRL ∧ tok.pay.getLsbD 0 = true)))
      ∧ (s.nodeLive d = true → s.illAt d = false → d.ordered = false → (s.rt d.n d.t).ended.contains d.slot = false → (s.counts d).length ≤ 4 →
          a.kind = kDATA → (∀ k ∈ [0, 1, 2], s.headAt d k = some (a, i)) → completes (.vote t) (s.popAt d 0) (fun tok => tok = a))

/-- R178, R302, R319, R346, R403, R406: the events of these rules complete in their plain cases: a batch that is done counts up SEQ, the first half of a command is taken into
its port, a still region begins its sweep, a waiting record is written and gone, and a RESET that Cobalt takes resets the module. -/
def Rule.EventsComplete : Prop :=
  ∀ (s u w : State) (c : Chain) (j : Job) (f : Flight) (p : BitVec 14) (q : Port) (r : FaultRec) (key : Nat) (x : Xl),
    let n := s.ev.n
    let e := s.ev.c
    let m := s.thr n
    let completes (i : Instr) (holds : State → Prop) : Prop := ∃ t, exec i s = .next t ∧ holds t
    (s.chainOf n e = some c → c.batch.getLast? = some j → c.batch.all (fun j => j.st == .done) = true → j.raw.getLsbD 8 = true → m.frozen = false →
        c.owed = [] →
        let c' : Chain := { c with seq := c.seq + 1, jobs := c.jobs.drop c.batch.length, cursor := fld j.raw 0x180 64 }
        (s.setThr n { m with chains := Tab.set m.chains e.toNat c' }).engStore c.capt (c.header + 0x10) 8 j.addr.toNat = (u, none) →
        u.engStore c.capt (c.header + 8) 8 ((c.seq + 1) % 2 ^ 64) = (w, none) →
        completes .batchCompletion (fun t => t.chainOf n e = some c'))
      ∧ (m.region.flight[s.ev.k]? = some f → f.dest = .port p → m.region.ports.find? (fun q => q.id == p && q.kind == .command) = some q →
          actsIn m.region.st = true → f.due ≤ s.now n → f.tok.kind = kCMD → (∀ g ∈ m.region.flight.take s.ev.k, g.dest ≠ f.dest) → m.region.cmds = [] → q.half = none →
          completes .commandPortReceive (fun t => (t.reg n).flight = m.region.flight.eraseIdx s.ev.k ∧
            ((t.reg n).ports.find? (fun q => q.id == p && q.kind == .command)).map (·.half) = some (some (f.tok, f.idx))))
      ∧ (m.region.sweep = none → m.region.st = 4 → m.region.active + 2 ^ 20 ≤ s.now n → m.region.left ≠ 0 → m.region.anyParked = false → m.region.cmds = [] →
          completes .hangSweep (fun t => (t.reg n).sweep = some { asked := false, todo := m.region.sweepPages }))
      ∧ (m.records = [r] → (fld m.faultqbase 12 40 : BitVec 40) ≠ 0 → fld m.faultqtail 0 32 = (fld m.faultqhead 0 32 : BitVec 32) →
          s.resolve { m.cred with pl := 1 } .write false
            (((fld m.faultqbase 12 40 : BitVec 40).setWidth 64 <<< 12)
              + BitVec.ofNat 64 (32 * ((fld m.faultqtail 0 32 : BitVec 32).toNat % (16 * 2 ^ (fld m.faultqbase 0 4 : BitVec 4).toNat)))) (.record n) = (u, .ok key x) →
          completes .faultRecordDeferred (fun t => (t.thr n).records = [] ∧ (fld (t.thr n).faultqtail 0 32 : BitVec 32) = fld m.faultqtail 0 32 + 1))
      ∧ (s.module.held = false → s.module.firmware = true → s.ev.f = 0 → s.module.cobalt = none →
          completes .reset (fun t => (t.thr 0).run = .halted ∧ (∀ k, k ≠ 0 → (t.thr k).run = .empty) ∧ t.clusters = [] ∧ t.cycle = 0 ∧ t.mem = s.mem
            ∧ t.module.answer = some { op := 7, status := 0 }))

/-! ## Obligations of several parts -/

/-- The integer control words that write one register: the three-register forms, the bit counts and the immediates: each part says its rules. -/
def Obligations.IntegerArithmetic : Prop := Rule.IntegerWords ∧ Rule.BitCountWords ∧ Rule.ImmediateWords

/-- The floating-point control words: those that round once, those that are exact, and the conversion: each part says its rules. -/
def Obligations.FloatWords : Prop := Rule.RoundedFloatWords ∧ Rule.ExactFloatWords ∧ Rule.ConvertWord

/-- Branches, jumps and calls: each part says its rules. -/
def Obligations.BranchesAndJumps : Prop := Rule.BranchWord ∧ Rule.JumpWords

/-- The words that take a trap by themselves, and the return from one: each part says its rules. -/
def Obligations.TrapsAndReturn : Prop := Rule.TrapWord ∧ Rule.IllegalWord ∧ Rule.SysretWord

/-- HALT and WFE, and what ends a WFE: each part says its rules. -/
def Obligations.HaltAndWaitForEvent : Prop := Rule.HaltAndWait ∧ Rule.WaitEnds

/-- Writes of a thread's system registers, STATUS among them: each part says its rules. -/
def Obligations.ThreadRegisterWrites : Prop := Rule.SystemRegisterWrites ∧ Rule.GuardedRegisterWrites ∧ Rule.StatusWrites

/-- Writes of the registers of a cluster and of the module, by a word or as a step of their own: each part says its rules. -/
def Obligations.ClusterAndModuleWrites : Prop := Rule.SharedRegisterWrites ∧ Rule.RegisterWriteStep

/-- Sending to a mailbox, receiving from one, the arrival of a flit and the doorbells: each part says its rules.  That a flit is on its way until an
event brings it, in order among those of one sender and mailbox, is the model's choice (log 10), and so are the clauses on flits in flight. -/
def Obligations.Mailboxes : Prop := Rule.MailboxSend ∧ Rule.MailboxReceive ∧ Rule.FlitArrival ∧ Rule.Doorbells

/-- Translation and the walk of the tables: each part says its rules. -/
def Obligations.AddressTranslation : Prop := Rule.Translation ∧ Rule.TableWalk

/-- Loads and stores, and their traps: each part says its rules. -/
def Obligations.LoadsAndStores : Prop := Rule.LoadWord ∧ Rule.StoreWord ∧ Rule.LoadStoreTraps

/-- Acquiring and releasing a bound object, and the traps of both: each part says its rules. -/
def Obligations.AcquireAndRelease : Prop := Rule.AcquireWords ∧ Rule.ReleaseWord ∧ Rule.AcquireTraps

/-- Claims and their admission: each part says its rules. -/
def Obligations.ClaimsAndArbiter : Prop := Rule.ClaimWord ∧ Rule.ArbiterAdmission

/-- Loading an image and starting a period: each part says its rules. -/
def Obligations.LoadAndStart : Prop := Rule.LoadRegionWords ∧ Rule.StartWord

/-- The tensor table and the bindings of ports to tensors, bridges and command ports: each part says its rules. -/
def Obligations.TensorsAndBindings : Prop := Rule.TensorWords ∧ Rule.TensorBindings ∧ Rule.BridgeBindings

/-- The words that free, kill, sweep, post, mark and replay a region: each part says its rules. -/
def Obligations.EndingAndMarkingWords : Prop := Rule.FreeKillWords ∧ Rule.SweepPostMarkReplay

/-- The words of the engines' chains: each part says its rules. -/
def Obligations.ChainAndEnqueueWords : Prop := Rule.ChainWords ∧ Rule.EnqueueWords

/-- The start of a chain entry and its sectors: each part says its rules. -/
def Obligations.EntryExecution : Prop := Rule.EntryStart ∧ Rule.EntrySteps

/-- The end of a batch, and a command's arrival at its port: each part says its rules. -/
def Obligations.BatchesAndCommands : Prop := Rule.BatchCompletes ∧ Rule.CommandReceive

/-- The words that invalidate translations and publish buffers, and their waits: each part says its rules. -/
def Obligations.TranslationControl : Prop := Rule.TranslationWords ∧ Rule.TranslationWaits

/-- Conversions of elements and the encoding of signed digits: each part says its rules. -/
def Obligations.ConversionAndEncoding : Prop := Rule.ConversionNodes ∧ Rule.SignedDigitEncode

/-- The nodes that steer a stream and those that start one: each part says its rules. -/
def Obligations.SteeringAndSources : Prop := Rule.SteerNodes ∧ Rule.SourceNodes

/-- The memory nodes and the performance of their accesses: each part says its rules. -/
def Obligations.MemoryAccessNodes : Prop := Rule.MemoryNodes ∧ Rule.MemoryPerforms

/-- The row operations of the tile registers, and the ordering and command nodes: each part says its rules. -/
def Obligations.RowsAndOrder : Prop := Rule.RowNodes ∧ Rule.RowTransfers ∧ Rule.OrderNodes

/-- Matrix operations and their completion: each part says its rules. -/
def Obligations.MatrixOperations : Prop := Rule.MatrixNodes ∧ Rule.MatrixCompletes

/-- Checksums, capacity reads and the vote: each part says its rules. -/
def Obligations.ChecksAndVote : Prop := Rule.CheckNodes ∧ Rule.VoteNode

/-- The arrival of a token at a queue, the alignment of heads and the frame of a firing: each part says its rules. -/
def Obligations.QueuesAndAlignment : Prop := Rule.QueueArrivals ∧ Rule.Alignment ∧ Rule.FiringFrame

/-- What ports admit and what they do with the tokens that reach them: each part says its rules. -/
def Obligations.PortTokens : Prop := Rule.IngressAdmits ∧ Rule.EgressTokens

/-- The end of a period, a drain and a teardown: each part says its rules. -/
def Obligations.PeriodsEnd : Prop := Rule.PeriodEvents ∧ Rule.CompletionStore

/-- Hang sweeps, and the records that waited for room: each part says its rules. -/
def Obligations.SweepsAndRecords : Prop := Rule.HangSweeps ∧ Rule.DeferredRecords

/-- Markers in passage, pre-emption and the moves of Nitinol: each part says its rules. -/
def Obligations.MarkersAndMoves : Prop := Rule.NodeMarks ∧ Rule.Passages ∧ Rule.NitinolMoves

/-- Errors and their counts, the retirement of banks and their evacuation: each part says its rules. -/
def Obligations.ErrorsAndBanks : Prop := Rule.ErrorCounts ∧ Rule.BankRetirement ∧ Rule.Evacuations

/-- What caches, lanes and links do at any time: each part says its rules. -/
def Obligations.CachesLanesAndLinks : Prop := Rule.CachesAndLanes ∧ Rule.LinkFlits

/-- Refresh windows, thermal bands and module reset: each part says its rules. -/
def Obligations.RefreshHeatAndReset : Prop := Rule.RefreshWindows ∧ Rule.ThermalBands ∧ Rule.ModuleResets

/-- Cobalt's commands and the host's accesses: each part says its rules. -/
def Obligations.HostCommands : Prop := Rule.CobaltCommands ∧ Rule.HostAccess

/-- The words that save and load a context area: each part says its rules. -/
def Obligations.ContextWords : Prop := Rule.SaveWord ∧ Rule.LoadContextWord

/-- Words of regions, chains and contexts complete in their plain cases: each part says its rules. -/
def Obligations.RegionAndChainWordsComplete : Prop := Rule.RegionWordsComplete ∧ Rule.ChainWordsComplete ∧ Rule.ContextWordsComplete

/-- Nodes and events complete in their plain cases: each part says its rules. -/
def Obligations.NodesAndEventsComplete : Prop := Rule.NodesComplete ∧ Rule.RowAndOrderNodesComplete ∧ Rule.EventsComplete
end

