-- ==== Sys2Proof/Laws/State.lean ====
section
/-! SUPPORT. What each update of the state leaves as it was, field by field. -/

namespace Sys2Proof.Machine

/-! ## `setThr` -/

@[simp] theorem State.setThr_agenda (s : State) (n : BitVec 9) (t : Thread) : (s.setThr n t).agenda = s.agenda := rfl
@[simp] theorem State.setThr_cur (s : State) (n : BitVec 9) (t : Thread) : (s.setThr n t).cur = s.cur := rfl
@[simp] theorem State.setThr_focus (s : State) (n : BitVec 9) (t : Thread) : (s.setThr n t).focus = s.focus := rfl
@[simp] theorem State.setThr_ev (s : State) (n : BitVec 9) (t : Thread) : (s.setThr n t).ev = s.ev := rfl
@[simp] theorem State.setThr_tick (s : State) (n : BitVec 9) (t : Thread) : (s.setThr n t).tick = s.tick := rfl
@[simp] theorem State.setThr_cycle (s : State) (n : BitVec 9) (t : Thread) : (s.setThr n t).cycle = s.cycle := rfl
@[simp] theorem State.setThr_mem (s : State) (n : BitVec 9) (t : Thread) : (s.setThr n t).mem = s.mem := rfl
@[simp] theorem State.setThr_poison (s : State) (n : BitVec 9) (t : Thread) : (s.setThr n t).poison = s.poison := rfl
@[simp] theorem State.setThr_spaces (s : State) (n : BitVec 9) (t : Thread) : (s.setThr n t).spaces = s.spaces := rfl
@[simp] theorem State.setThr_tlb (s : State) (n : BitVec 9) (t : Thread) : (s.setThr n t).tlb = s.tlb := rfl
@[simp] theorem State.setThr_atc (s : State) (n : BitVec 9) (t : Thread) : (s.setThr n t).atc = s.atc := rfl
@[simp] theorem State.setThr_ats (s : State) (n : BitVec 9) (t : Thread) : (s.setThr n t).ats = s.ats := rfl
@[simp] theorem State.setThr_pri (s : State) (n : BitVec 9) (t : Thread) : (s.setThr n t).pri = s.pri := rfl
@[simp] theorem State.setThr_priOn (s : State) (n : BitVec 9) (t : Thread) : (s.setThr n t).priOn = s.priOn := rfl
@[simp] theorem State.setThr_priOff (s : State) (n : BitVec 9) (t : Thread) : (s.setThr n t).priOff = s.priOff := rfl
@[simp] theorem State.setThr_invals (s : State) (n : BitVec 9) (t : Thread) : (s.setThr n t).invals = s.invals := rfl
@[simp] theorem State.setThr_clusters (s : State) (n : BitVec 9) (t : Thread) : (s.setThr n t).clusters = s.clusters := rfl
@[simp] theorem State.setThr_flits (s : State) (n : BitVec 9) (t : Thread) : (s.setThr n t).flits = s.flits := rfl
@[simp] theorem State.setThr_doorbells (s : State) (n : BitVec 9) (t : Thread) : (s.setThr n t).doorbells = s.doorbells := rfl
@[simp] theorem State.setThr_bridges (s : State) (n : BitVec 9) (t : Thread) : (s.setThr n t).bridges = s.bridges := rfl
@[simp] theorem State.setThr_claims (s : State) (n : BitVec 9) (t : Thread) : (s.setThr n t).claims = s.claims := rfl
@[simp] theorem State.setThr_savedRegions (s : State) (n : BitVec 9) (t : Thread) : (s.setThr n t).savedRegions = s.savedRegions := rfl
@[simp] theorem State.setThr_savedChains (s : State) (n : BitVec 9) (t : Thread) : (s.setThr n t).savedChains = s.savedChains := rfl
@[simp] theorem State.setThr_hostValue (s : State) (n : BitVec 9) (t : Thread) : (s.setThr n t).hostValue = s.hostValue := rfl
@[simp] theorem State.setThr_module (s : State) (n : BitVec 9) (t : Thread) : (s.setThr n t).module = s.module := rfl

/-! ## `modThr` -/

@[simp] theorem State.modThr_agenda (s : State) (n : BitVec 9) (f : Thread → Thread) : (s.modThr n f).agenda = s.agenda := rfl
@[simp] theorem State.modThr_cur (s : State) (n : BitVec 9) (f : Thread → Thread) : (s.modThr n f).cur = s.cur := rfl
@[simp] theorem State.modThr_focus (s : State) (n : BitVec 9) (f : Thread → Thread) : (s.modThr n f).focus = s.focus := rfl
@[simp] theorem State.modThr_ev (s : State) (n : BitVec 9) (f : Thread → Thread) : (s.modThr n f).ev = s.ev := rfl
@[simp] theorem State.modThr_tick (s : State) (n : BitVec 9) (f : Thread → Thread) : (s.modThr n f).tick = s.tick := rfl
@[simp] theorem State.modThr_cycle (s : State) (n : BitVec 9) (f : Thread → Thread) : (s.modThr n f).cycle = s.cycle := rfl
@[simp] theorem State.modThr_mem (s : State) (n : BitVec 9) (f : Thread → Thread) : (s.modThr n f).mem = s.mem := rfl
@[simp] theorem State.modThr_poison (s : State) (n : BitVec 9) (f : Thread → Thread) : (s.modThr n f).poison = s.poison := rfl
@[simp] theorem State.modThr_spaces (s : State) (n : BitVec 9) (f : Thread → Thread) : (s.modThr n f).spaces = s.spaces := rfl
@[simp] theorem State.modThr_tlb (s : State) (n : BitVec 9) (f : Thread → Thread) : (s.modThr n f).tlb = s.tlb := rfl
@[simp] theorem State.modThr_atc (s : State) (n : BitVec 9) (f : Thread → Thread) : (s.modThr n f).atc = s.atc := rfl
@[simp] theorem State.modThr_ats (s : State) (n : BitVec 9) (f : Thread → Thread) : (s.modThr n f).ats = s.ats := rfl
@[simp] theorem State.modThr_pri (s : State) (n : BitVec 9) (f : Thread → Thread) : (s.modThr n f).pri = s.pri := rfl
@[simp] theorem State.modThr_priOn (s : State) (n : BitVec 9) (f : Thread → Thread) : (s.modThr n f).priOn = s.priOn := rfl
@[simp] theorem State.modThr_priOff (s : State) (n : BitVec 9) (f : Thread → Thread) : (s.modThr n f).priOff = s.priOff := rfl
@[simp] theorem State.modThr_invals (s : State) (n : BitVec 9) (f : Thread → Thread) : (s.modThr n f).invals = s.invals := rfl
@[simp] theorem State.modThr_clusters (s : State) (n : BitVec 9) (f : Thread → Thread) : (s.modThr n f).clusters = s.clusters := rfl
@[simp] theorem State.modThr_flits (s : State) (n : BitVec 9) (f : Thread → Thread) : (s.modThr n f).flits = s.flits := rfl
@[simp] theorem State.modThr_doorbells (s : State) (n : BitVec 9) (f : Thread → Thread) : (s.modThr n f).doorbells = s.doorbells := rfl
@[simp] theorem State.modThr_bridges (s : State) (n : BitVec 9) (f : Thread → Thread) : (s.modThr n f).bridges = s.bridges := rfl
@[simp] theorem State.modThr_claims (s : State) (n : BitVec 9) (f : Thread → Thread) : (s.modThr n f).claims = s.claims := rfl
@[simp] theorem State.modThr_savedRegions (s : State) (n : BitVec 9) (f : Thread → Thread) : (s.modThr n f).savedRegions = s.savedRegions := rfl
@[simp] theorem State.modThr_savedChains (s : State) (n : BitVec 9) (f : Thread → Thread) : (s.modThr n f).savedChains = s.savedChains := rfl
@[simp] theorem State.modThr_hostValue (s : State) (n : BitVec 9) (f : Thread → Thread) : (s.modThr n f).hostValue = s.hostValue := rfl
@[simp] theorem State.modThr_module (s : State) (n : BitVec 9) (f : Thread → Thread) : (s.modThr n f).module = s.module := rfl

/-! ## `modMe` -/

@[simp] theorem State.modMe_agenda (s : State) (f : Thread → Thread) : (s.modMe f).agenda = s.agenda := rfl
@[simp] theorem State.modMe_cur (s : State) (f : Thread → Thread) : (s.modMe f).cur = s.cur := rfl
@[simp] theorem State.modMe_focus (s : State) (f : Thread → Thread) : (s.modMe f).focus = s.focus := rfl
@[simp] theorem State.modMe_ev (s : State) (f : Thread → Thread) : (s.modMe f).ev = s.ev := rfl
@[simp] theorem State.modMe_tick (s : State) (f : Thread → Thread) : (s.modMe f).tick = s.tick := rfl
@[simp] theorem State.modMe_cycle (s : State) (f : Thread → Thread) : (s.modMe f).cycle = s.cycle := rfl
@[simp] theorem State.modMe_mem (s : State) (f : Thread → Thread) : (s.modMe f).mem = s.mem := rfl
@[simp] theorem State.modMe_poison (s : State) (f : Thread → Thread) : (s.modMe f).poison = s.poison := rfl
@[simp] theorem State.modMe_spaces (s : State) (f : Thread → Thread) : (s.modMe f).spaces = s.spaces := rfl
@[simp] theorem State.modMe_tlb (s : State) (f : Thread → Thread) : (s.modMe f).tlb = s.tlb := rfl
@[simp] theorem State.modMe_atc (s : State) (f : Thread → Thread) : (s.modMe f).atc = s.atc := rfl
@[simp] theorem State.modMe_ats (s : State) (f : Thread → Thread) : (s.modMe f).ats = s.ats := rfl
@[simp] theorem State.modMe_pri (s : State) (f : Thread → Thread) : (s.modMe f).pri = s.pri := rfl
@[simp] theorem State.modMe_priOn (s : State) (f : Thread → Thread) : (s.modMe f).priOn = s.priOn := rfl
@[simp] theorem State.modMe_priOff (s : State) (f : Thread → Thread) : (s.modMe f).priOff = s.priOff := rfl
@[simp] theorem State.modMe_invals (s : State) (f : Thread → Thread) : (s.modMe f).invals = s.invals := rfl
@[simp] theorem State.modMe_clusters (s : State) (f : Thread → Thread) : (s.modMe f).clusters = s.clusters := rfl
@[simp] theorem State.modMe_flits (s : State) (f : Thread → Thread) : (s.modMe f).flits = s.flits := rfl
@[simp] theorem State.modMe_doorbells (s : State) (f : Thread → Thread) : (s.modMe f).doorbells = s.doorbells := rfl
@[simp] theorem State.modMe_bridges (s : State) (f : Thread → Thread) : (s.modMe f).bridges = s.bridges := rfl
@[simp] theorem State.modMe_claims (s : State) (f : Thread → Thread) : (s.modMe f).claims = s.claims := rfl
@[simp] theorem State.modMe_savedRegions (s : State) (f : Thread → Thread) : (s.modMe f).savedRegions = s.savedRegions := rfl
@[simp] theorem State.modMe_savedChains (s : State) (f : Thread → Thread) : (s.modMe f).savedChains = s.savedChains := rfl
@[simp] theorem State.modMe_hostValue (s : State) (f : Thread → Thread) : (s.modMe f).hostValue = s.hostValue := rfl
@[simp] theorem State.modMe_module (s : State) (f : Thread → Thread) : (s.modMe f).module = s.module := rfl

/-! ## `modReg` -/

@[simp] theorem State.modReg_agenda (s : State) (n : BitVec 9) (f : Region → Region) : (s.modReg n f).agenda = s.agenda := rfl
@[simp] theorem State.modReg_cur (s : State) (n : BitVec 9) (f : Region → Region) : (s.modReg n f).cur = s.cur := rfl
@[simp] theorem State.modReg_focus (s : State) (n : BitVec 9) (f : Region → Region) : (s.modReg n f).focus = s.focus := rfl
@[simp] theorem State.modReg_ev (s : State) (n : BitVec 9) (f : Region → Region) : (s.modReg n f).ev = s.ev := rfl
@[simp] theorem State.modReg_tick (s : State) (n : BitVec 9) (f : Region → Region) : (s.modReg n f).tick = s.tick := rfl
@[simp] theorem State.modReg_cycle (s : State) (n : BitVec 9) (f : Region → Region) : (s.modReg n f).cycle = s.cycle := rfl
@[simp] theorem State.modReg_mem (s : State) (n : BitVec 9) (f : Region → Region) : (s.modReg n f).mem = s.mem := rfl
@[simp] theorem State.modReg_poison (s : State) (n : BitVec 9) (f : Region → Region) : (s.modReg n f).poison = s.poison := rfl
@[simp] theorem State.modReg_spaces (s : State) (n : BitVec 9) (f : Region → Region) : (s.modReg n f).spaces = s.spaces := rfl
@[simp] theorem State.modReg_tlb (s : State) (n : BitVec 9) (f : Region → Region) : (s.modReg n f).tlb = s.tlb := rfl
@[simp] theorem State.modReg_atc (s : State) (n : BitVec 9) (f : Region → Region) : (s.modReg n f).atc = s.atc := rfl
@[simp] theorem State.modReg_ats (s : State) (n : BitVec 9) (f : Region → Region) : (s.modReg n f).ats = s.ats := rfl
@[simp] theorem State.modReg_pri (s : State) (n : BitVec 9) (f : Region → Region) : (s.modReg n f).pri = s.pri := rfl
@[simp] theorem State.modReg_priOn (s : State) (n : BitVec 9) (f : Region → Region) : (s.modReg n f).priOn = s.priOn := rfl
@[simp] theorem State.modReg_priOff (s : State) (n : BitVec 9) (f : Region → Region) : (s.modReg n f).priOff = s.priOff := rfl
@[simp] theorem State.modReg_invals (s : State) (n : BitVec 9) (f : Region → Region) : (s.modReg n f).invals = s.invals := rfl
@[simp] theorem State.modReg_clusters (s : State) (n : BitVec 9) (f : Region → Region) : (s.modReg n f).clusters = s.clusters := rfl
@[simp] theorem State.modReg_flits (s : State) (n : BitVec 9) (f : Region → Region) : (s.modReg n f).flits = s.flits := rfl
@[simp] theorem State.modReg_doorbells (s : State) (n : BitVec 9) (f : Region → Region) : (s.modReg n f).doorbells = s.doorbells := rfl
@[simp] theorem State.modReg_bridges (s : State) (n : BitVec 9) (f : Region → Region) : (s.modReg n f).bridges = s.bridges := rfl
@[simp] theorem State.modReg_claims (s : State) (n : BitVec 9) (f : Region → Region) : (s.modReg n f).claims = s.claims := rfl
@[simp] theorem State.modReg_savedRegions (s : State) (n : BitVec 9) (f : Region → Region) : (s.modReg n f).savedRegions = s.savedRegions := rfl
@[simp] theorem State.modReg_savedChains (s : State) (n : BitVec 9) (f : Region → Region) : (s.modReg n f).savedChains = s.savedChains := rfl
@[simp] theorem State.modReg_hostValue (s : State) (n : BitVec 9) (f : Region → Region) : (s.modReg n f).hostValue = s.hostValue := rfl
@[simp] theorem State.modReg_module (s : State) (n : BitVec 9) (f : Region → Region) : (s.modReg n f).module = s.module := rfl

/-! ## `put` -/

@[simp] theorem State.put_agenda (s : State) (d : BitVec 5) (v : Word) : (s.put d v).agenda = s.agenda := rfl
@[simp] theorem State.put_cur (s : State) (d : BitVec 5) (v : Word) : (s.put d v).cur = s.cur := rfl
@[simp] theorem State.put_focus (s : State) (d : BitVec 5) (v : Word) : (s.put d v).focus = s.focus := rfl
@[simp] theorem State.put_ev (s : State) (d : BitVec 5) (v : Word) : (s.put d v).ev = s.ev := rfl
@[simp] theorem State.put_tick (s : State) (d : BitVec 5) (v : Word) : (s.put d v).tick = s.tick := rfl
@[simp] theorem State.put_cycle (s : State) (d : BitVec 5) (v : Word) : (s.put d v).cycle = s.cycle := rfl
@[simp] theorem State.put_mem (s : State) (d : BitVec 5) (v : Word) : (s.put d v).mem = s.mem := rfl
@[simp] theorem State.put_poison (s : State) (d : BitVec 5) (v : Word) : (s.put d v).poison = s.poison := rfl
@[simp] theorem State.put_spaces (s : State) (d : BitVec 5) (v : Word) : (s.put d v).spaces = s.spaces := rfl
@[simp] theorem State.put_tlb (s : State) (d : BitVec 5) (v : Word) : (s.put d v).tlb = s.tlb := rfl
@[simp] theorem State.put_atc (s : State) (d : BitVec 5) (v : Word) : (s.put d v).atc = s.atc := rfl
@[simp] theorem State.put_ats (s : State) (d : BitVec 5) (v : Word) : (s.put d v).ats = s.ats := rfl
@[simp] theorem State.put_pri (s : State) (d : BitVec 5) (v : Word) : (s.put d v).pri = s.pri := rfl
@[simp] theorem State.put_priOn (s : State) (d : BitVec 5) (v : Word) : (s.put d v).priOn = s.priOn := rfl
@[simp] theorem State.put_priOff (s : State) (d : BitVec 5) (v : Word) : (s.put d v).priOff = s.priOff := rfl
@[simp] theorem State.put_invals (s : State) (d : BitVec 5) (v : Word) : (s.put d v).invals = s.invals := rfl
@[simp] theorem State.put_clusters (s : State) (d : BitVec 5) (v : Word) : (s.put d v).clusters = s.clusters := rfl
@[simp] theorem State.put_flits (s : State) (d : BitVec 5) (v : Word) : (s.put d v).flits = s.flits := rfl
@[simp] theorem State.put_doorbells (s : State) (d : BitVec 5) (v : Word) : (s.put d v).doorbells = s.doorbells := rfl
@[simp] theorem State.put_bridges (s : State) (d : BitVec 5) (v : Word) : (s.put d v).bridges = s.bridges := rfl
@[simp] theorem State.put_claims (s : State) (d : BitVec 5) (v : Word) : (s.put d v).claims = s.claims := rfl
@[simp] theorem State.put_savedRegions (s : State) (d : BitVec 5) (v : Word) : (s.put d v).savedRegions = s.savedRegions := rfl
@[simp] theorem State.put_savedChains (s : State) (d : BitVec 5) (v : Word) : (s.put d v).savedChains = s.savedChains := rfl
@[simp] theorem State.put_hostValue (s : State) (d : BitVec 5) (v : Word) : (s.put d v).hostValue = s.hostValue := rfl
@[simp] theorem State.put_module (s : State) (d : BitVec 5) (v : Word) : (s.put d v).module = s.module := rfl

/-! ## `advance` -/

@[simp] theorem State.advance_agenda (s : State) : (s.advance).agenda = s.agenda := rfl
@[simp] theorem State.advance_cur (s : State) : (s.advance).cur = s.cur := rfl
@[simp] theorem State.advance_focus (s : State) : (s.advance).focus = s.focus := rfl
@[simp] theorem State.advance_ev (s : State) : (s.advance).ev = s.ev := rfl
@[simp] theorem State.advance_tick (s : State) : (s.advance).tick = s.tick := rfl
@[simp] theorem State.advance_cycle (s : State) : (s.advance).cycle = s.cycle := rfl
@[simp] theorem State.advance_mem (s : State) : (s.advance).mem = s.mem := rfl
@[simp] theorem State.advance_poison (s : State) : (s.advance).poison = s.poison := rfl
@[simp] theorem State.advance_spaces (s : State) : (s.advance).spaces = s.spaces := rfl
@[simp] theorem State.advance_tlb (s : State) : (s.advance).tlb = s.tlb := rfl
@[simp] theorem State.advance_atc (s : State) : (s.advance).atc = s.atc := rfl
@[simp] theorem State.advance_ats (s : State) : (s.advance).ats = s.ats := rfl
@[simp] theorem State.advance_pri (s : State) : (s.advance).pri = s.pri := rfl
@[simp] theorem State.advance_priOn (s : State) : (s.advance).priOn = s.priOn := rfl
@[simp] theorem State.advance_priOff (s : State) : (s.advance).priOff = s.priOff := rfl
@[simp] theorem State.advance_invals (s : State) : (s.advance).invals = s.invals := rfl
@[simp] theorem State.advance_clusters (s : State) : (s.advance).clusters = s.clusters := rfl
@[simp] theorem State.advance_flits (s : State) : (s.advance).flits = s.flits := rfl
@[simp] theorem State.advance_doorbells (s : State) : (s.advance).doorbells = s.doorbells := rfl
@[simp] theorem State.advance_bridges (s : State) : (s.advance).bridges = s.bridges := rfl
@[simp] theorem State.advance_claims (s : State) : (s.advance).claims = s.claims := rfl
@[simp] theorem State.advance_savedRegions (s : State) : (s.advance).savedRegions = s.savedRegions := rfl
@[simp] theorem State.advance_savedChains (s : State) : (s.advance).savedChains = s.savedChains := rfl
@[simp] theorem State.advance_hostValue (s : State) : (s.advance).hostValue = s.hostValue := rfl
@[simp] theorem State.advance_module (s : State) : (s.advance).module = s.module := rfl

/-! ## `stay` -/

@[simp] theorem State.stay_agenda (s : State) (w : Wait) : (s.stay w).agenda = s.agenda := rfl
@[simp] theorem State.stay_cur (s : State) (w : Wait) : (s.stay w).cur = s.cur := rfl
@[simp] theorem State.stay_focus (s : State) (w : Wait) : (s.stay w).focus = s.focus := rfl
@[simp] theorem State.stay_ev (s : State) (w : Wait) : (s.stay w).ev = s.ev := rfl
@[simp] theorem State.stay_tick (s : State) (w : Wait) : (s.stay w).tick = s.tick := rfl
@[simp] theorem State.stay_cycle (s : State) (w : Wait) : (s.stay w).cycle = s.cycle := rfl
@[simp] theorem State.stay_mem (s : State) (w : Wait) : (s.stay w).mem = s.mem := rfl
@[simp] theorem State.stay_poison (s : State) (w : Wait) : (s.stay w).poison = s.poison := rfl
@[simp] theorem State.stay_spaces (s : State) (w : Wait) : (s.stay w).spaces = s.spaces := rfl
@[simp] theorem State.stay_tlb (s : State) (w : Wait) : (s.stay w).tlb = s.tlb := rfl
@[simp] theorem State.stay_atc (s : State) (w : Wait) : (s.stay w).atc = s.atc := rfl
@[simp] theorem State.stay_ats (s : State) (w : Wait) : (s.stay w).ats = s.ats := rfl
@[simp] theorem State.stay_pri (s : State) (w : Wait) : (s.stay w).pri = s.pri := rfl
@[simp] theorem State.stay_priOn (s : State) (w : Wait) : (s.stay w).priOn = s.priOn := rfl
@[simp] theorem State.stay_priOff (s : State) (w : Wait) : (s.stay w).priOff = s.priOff := rfl
@[simp] theorem State.stay_invals (s : State) (w : Wait) : (s.stay w).invals = s.invals := rfl
@[simp] theorem State.stay_clusters (s : State) (w : Wait) : (s.stay w).clusters = s.clusters := rfl
@[simp] theorem State.stay_flits (s : State) (w : Wait) : (s.stay w).flits = s.flits := rfl
@[simp] theorem State.stay_doorbells (s : State) (w : Wait) : (s.stay w).doorbells = s.doorbells := rfl
@[simp] theorem State.stay_bridges (s : State) (w : Wait) : (s.stay w).bridges = s.bridges := rfl
@[simp] theorem State.stay_claims (s : State) (w : Wait) : (s.stay w).claims = s.claims := rfl
@[simp] theorem State.stay_savedRegions (s : State) (w : Wait) : (s.stay w).savedRegions = s.savedRegions := rfl
@[simp] theorem State.stay_savedChains (s : State) (w : Wait) : (s.stay w).savedChains = s.savedChains := rfl
@[simp] theorem State.stay_hostValue (s : State) (w : Wait) : (s.stay w).hostValue = s.hostValue := rfl
@[simp] theorem State.stay_module (s : State) (w : Wait) : (s.stay w).module = s.module := rfl

/-! ## `goto` -/

@[simp] theorem State.goto_agenda (s : State) (p : Word) : (s.goto p).agenda = s.agenda := rfl
@[simp] theorem State.goto_cur (s : State) (p : Word) : (s.goto p).cur = s.cur := rfl
@[simp] theorem State.goto_focus (s : State) (p : Word) : (s.goto p).focus = s.focus := rfl
@[simp] theorem State.goto_ev (s : State) (p : Word) : (s.goto p).ev = s.ev := rfl
@[simp] theorem State.goto_tick (s : State) (p : Word) : (s.goto p).tick = s.tick := rfl
@[simp] theorem State.goto_cycle (s : State) (p : Word) : (s.goto p).cycle = s.cycle := rfl
@[simp] theorem State.goto_mem (s : State) (p : Word) : (s.goto p).mem = s.mem := rfl
@[simp] theorem State.goto_poison (s : State) (p : Word) : (s.goto p).poison = s.poison := rfl
@[simp] theorem State.goto_spaces (s : State) (p : Word) : (s.goto p).spaces = s.spaces := rfl
@[simp] theorem State.goto_tlb (s : State) (p : Word) : (s.goto p).tlb = s.tlb := rfl
@[simp] theorem State.goto_atc (s : State) (p : Word) : (s.goto p).atc = s.atc := rfl
@[simp] theorem State.goto_ats (s : State) (p : Word) : (s.goto p).ats = s.ats := rfl
@[simp] theorem State.goto_pri (s : State) (p : Word) : (s.goto p).pri = s.pri := rfl
@[simp] theorem State.goto_priOn (s : State) (p : Word) : (s.goto p).priOn = s.priOn := rfl
@[simp] theorem State.goto_priOff (s : State) (p : Word) : (s.goto p).priOff = s.priOff := rfl
@[simp] theorem State.goto_invals (s : State) (p : Word) : (s.goto p).invals = s.invals := rfl
@[simp] theorem State.goto_clusters (s : State) (p : Word) : (s.goto p).clusters = s.clusters := rfl
@[simp] theorem State.goto_flits (s : State) (p : Word) : (s.goto p).flits = s.flits := rfl
@[simp] theorem State.goto_doorbells (s : State) (p : Word) : (s.goto p).doorbells = s.doorbells := rfl
@[simp] theorem State.goto_bridges (s : State) (p : Word) : (s.goto p).bridges = s.bridges := rfl
@[simp] theorem State.goto_claims (s : State) (p : Word) : (s.goto p).claims = s.claims := rfl
@[simp] theorem State.goto_savedRegions (s : State) (p : Word) : (s.goto p).savedRegions = s.savedRegions := rfl
@[simp] theorem State.goto_savedChains (s : State) (p : Word) : (s.goto p).savedChains = s.savedChains := rfl
@[simp] theorem State.goto_hostValue (s : State) (p : Word) : (s.goto p).hostValue = s.hostValue := rfl
@[simp] theorem State.goto_module (s : State) (p : Word) : (s.goto p).module = s.module := rfl

/-! ## `trap` -/

@[simp] theorem State.trap_agenda (s : State) (c : BitVec 8) (v : Word) : (s.trap c v).agenda = s.agenda := rfl
@[simp] theorem State.trap_cur (s : State) (c : BitVec 8) (v : Word) : (s.trap c v).cur = s.cur := rfl
@[simp] theorem State.trap_focus (s : State) (c : BitVec 8) (v : Word) : (s.trap c v).focus = s.focus := rfl
@[simp] theorem State.trap_ev (s : State) (c : BitVec 8) (v : Word) : (s.trap c v).ev = s.ev := rfl
@[simp] theorem State.trap_tick (s : State) (c : BitVec 8) (v : Word) : (s.trap c v).tick = s.tick := rfl
@[simp] theorem State.trap_cycle (s : State) (c : BitVec 8) (v : Word) : (s.trap c v).cycle = s.cycle := rfl
@[simp] theorem State.trap_mem (s : State) (c : BitVec 8) (v : Word) : (s.trap c v).mem = s.mem := rfl
@[simp] theorem State.trap_poison (s : State) (c : BitVec 8) (v : Word) : (s.trap c v).poison = s.poison := rfl
@[simp] theorem State.trap_spaces (s : State) (c : BitVec 8) (v : Word) : (s.trap c v).spaces = s.spaces := rfl
@[simp] theorem State.trap_tlb (s : State) (c : BitVec 8) (v : Word) : (s.trap c v).tlb = s.tlb := rfl
@[simp] theorem State.trap_atc (s : State) (c : BitVec 8) (v : Word) : (s.trap c v).atc = s.atc := rfl
@[simp] theorem State.trap_ats (s : State) (c : BitVec 8) (v : Word) : (s.trap c v).ats = s.ats := rfl
@[simp] theorem State.trap_pri (s : State) (c : BitVec 8) (v : Word) : (s.trap c v).pri = s.pri := rfl
@[simp] theorem State.trap_priOn (s : State) (c : BitVec 8) (v : Word) : (s.trap c v).priOn = s.priOn := rfl
@[simp] theorem State.trap_priOff (s : State) (c : BitVec 8) (v : Word) : (s.trap c v).priOff = s.priOff := rfl
@[simp] theorem State.trap_invals (s : State) (c : BitVec 8) (v : Word) : (s.trap c v).invals = s.invals := rfl
@[simp] theorem State.trap_clusters (s : State) (c : BitVec 8) (v : Word) : (s.trap c v).clusters = s.clusters := rfl
@[simp] theorem State.trap_flits (s : State) (c : BitVec 8) (v : Word) : (s.trap c v).flits = s.flits := rfl
@[simp] theorem State.trap_doorbells (s : State) (c : BitVec 8) (v : Word) : (s.trap c v).doorbells = s.doorbells := rfl
@[simp] theorem State.trap_bridges (s : State) (c : BitVec 8) (v : Word) : (s.trap c v).bridges = s.bridges := rfl
@[simp] theorem State.trap_claims (s : State) (c : BitVec 8) (v : Word) : (s.trap c v).claims = s.claims := rfl
@[simp] theorem State.trap_savedRegions (s : State) (c : BitVec 8) (v : Word) : (s.trap c v).savedRegions = s.savedRegions := rfl
@[simp] theorem State.trap_savedChains (s : State) (c : BitVec 8) (v : Word) : (s.trap c v).savedChains = s.savedChains := rfl
@[simp] theorem State.trap_hostValue (s : State) (c : BitVec 8) (v : Word) : (s.trap c v).hostValue = s.hostValue := rfl
@[simp] theorem State.trap_module (s : State) (c : BitVec 8) (v : Word) : (s.trap c v).module = s.module := rfl

/-! ## `event` -/

@[simp] theorem State.event_agenda (s : State) (n : BitVec 9) (i : BitVec 4) : (s.event n i).agenda = s.agenda := rfl
@[simp] theorem State.event_cur (s : State) (n : BitVec 9) (i : BitVec 4) : (s.event n i).cur = s.cur := rfl
@[simp] theorem State.event_focus (s : State) (n : BitVec 9) (i : BitVec 4) : (s.event n i).focus = s.focus := rfl
@[simp] theorem State.event_ev (s : State) (n : BitVec 9) (i : BitVec 4) : (s.event n i).ev = s.ev := rfl
@[simp] theorem State.event_tick (s : State) (n : BitVec 9) (i : BitVec 4) : (s.event n i).tick = s.tick := rfl
@[simp] theorem State.event_cycle (s : State) (n : BitVec 9) (i : BitVec 4) : (s.event n i).cycle = s.cycle := rfl
@[simp] theorem State.event_mem (s : State) (n : BitVec 9) (i : BitVec 4) : (s.event n i).mem = s.mem := rfl
@[simp] theorem State.event_poison (s : State) (n : BitVec 9) (i : BitVec 4) : (s.event n i).poison = s.poison := rfl
@[simp] theorem State.event_spaces (s : State) (n : BitVec 9) (i : BitVec 4) : (s.event n i).spaces = s.spaces := rfl
@[simp] theorem State.event_tlb (s : State) (n : BitVec 9) (i : BitVec 4) : (s.event n i).tlb = s.tlb := rfl
@[simp] theorem State.event_atc (s : State) (n : BitVec 9) (i : BitVec 4) : (s.event n i).atc = s.atc := rfl
@[simp] theorem State.event_ats (s : State) (n : BitVec 9) (i : BitVec 4) : (s.event n i).ats = s.ats := rfl
@[simp] theorem State.event_pri (s : State) (n : BitVec 9) (i : BitVec 4) : (s.event n i).pri = s.pri := rfl
@[simp] theorem State.event_priOn (s : State) (n : BitVec 9) (i : BitVec 4) : (s.event n i).priOn = s.priOn := rfl
@[simp] theorem State.event_priOff (s : State) (n : BitVec 9) (i : BitVec 4) : (s.event n i).priOff = s.priOff := rfl
@[simp] theorem State.event_invals (s : State) (n : BitVec 9) (i : BitVec 4) : (s.event n i).invals = s.invals := rfl
@[simp] theorem State.event_clusters (s : State) (n : BitVec 9) (i : BitVec 4) : (s.event n i).clusters = s.clusters := rfl
@[simp] theorem State.event_flits (s : State) (n : BitVec 9) (i : BitVec 4) : (s.event n i).flits = s.flits := rfl
@[simp] theorem State.event_doorbells (s : State) (n : BitVec 9) (i : BitVec 4) : (s.event n i).doorbells = s.doorbells := rfl
@[simp] theorem State.event_bridges (s : State) (n : BitVec 9) (i : BitVec 4) : (s.event n i).bridges = s.bridges := rfl
@[simp] theorem State.event_claims (s : State) (n : BitVec 9) (i : BitVec 4) : (s.event n i).claims = s.claims := rfl
@[simp] theorem State.event_savedRegions (s : State) (n : BitVec 9) (i : BitVec 4) : (s.event n i).savedRegions = s.savedRegions := rfl
@[simp] theorem State.event_savedChains (s : State) (n : BitVec 9) (i : BitVec 4) : (s.event n i).savedChains = s.savedChains := rfl
@[simp] theorem State.event_hostValue (s : State) (n : BitVec 9) (i : BitVec 4) : (s.event n i).hostValue = s.hostValue := rfl
@[simp] theorem State.event_module (s : State) (n : BitVec 9) (i : BitVec 4) : (s.event n i).module = s.module := rfl

/-! ## `modClu` -/

@[simp] theorem State.modClu_agenda (s : State) (c : BitVec 5) (f : Cluster → Cluster) : (s.modClu c f).agenda = s.agenda := rfl
@[simp] theorem State.modClu_cur (s : State) (c : BitVec 5) (f : Cluster → Cluster) : (s.modClu c f).cur = s.cur := rfl
@[simp] theorem State.modClu_focus (s : State) (c : BitVec 5) (f : Cluster → Cluster) : (s.modClu c f).focus = s.focus := rfl
@[simp] theorem State.modClu_ev (s : State) (c : BitVec 5) (f : Cluster → Cluster) : (s.modClu c f).ev = s.ev := rfl
@[simp] theorem State.modClu_tick (s : State) (c : BitVec 5) (f : Cluster → Cluster) : (s.modClu c f).tick = s.tick := rfl
@[simp] theorem State.modClu_cycle (s : State) (c : BitVec 5) (f : Cluster → Cluster) : (s.modClu c f).cycle = s.cycle := rfl
@[simp] theorem State.modClu_mem (s : State) (c : BitVec 5) (f : Cluster → Cluster) : (s.modClu c f).mem = s.mem := rfl
@[simp] theorem State.modClu_poison (s : State) (c : BitVec 5) (f : Cluster → Cluster) : (s.modClu c f).poison = s.poison := rfl
@[simp] theorem State.modClu_spaces (s : State) (c : BitVec 5) (f : Cluster → Cluster) : (s.modClu c f).spaces = s.spaces := rfl
@[simp] theorem State.modClu_tlb (s : State) (c : BitVec 5) (f : Cluster → Cluster) : (s.modClu c f).tlb = s.tlb := rfl
@[simp] theorem State.modClu_atc (s : State) (c : BitVec 5) (f : Cluster → Cluster) : (s.modClu c f).atc = s.atc := rfl
@[simp] theorem State.modClu_ats (s : State) (c : BitVec 5) (f : Cluster → Cluster) : (s.modClu c f).ats = s.ats := rfl
@[simp] theorem State.modClu_pri (s : State) (c : BitVec 5) (f : Cluster → Cluster) : (s.modClu c f).pri = s.pri := rfl
@[simp] theorem State.modClu_priOn (s : State) (c : BitVec 5) (f : Cluster → Cluster) : (s.modClu c f).priOn = s.priOn := rfl
@[simp] theorem State.modClu_priOff (s : State) (c : BitVec 5) (f : Cluster → Cluster) : (s.modClu c f).priOff = s.priOff := rfl
@[simp] theorem State.modClu_invals (s : State) (c : BitVec 5) (f : Cluster → Cluster) : (s.modClu c f).invals = s.invals := rfl
@[simp] theorem State.modClu_threads (s : State) (c : BitVec 5) (f : Cluster → Cluster) : (s.modClu c f).threads = s.threads := rfl
@[simp] theorem State.modClu_flits (s : State) (c : BitVec 5) (f : Cluster → Cluster) : (s.modClu c f).flits = s.flits := rfl
@[simp] theorem State.modClu_doorbells (s : State) (c : BitVec 5) (f : Cluster → Cluster) : (s.modClu c f).doorbells = s.doorbells := rfl
@[simp] theorem State.modClu_bridges (s : State) (c : BitVec 5) (f : Cluster → Cluster) : (s.modClu c f).bridges = s.bridges := rfl
@[simp] theorem State.modClu_claims (s : State) (c : BitVec 5) (f : Cluster → Cluster) : (s.modClu c f).claims = s.claims := rfl
@[simp] theorem State.modClu_savedRegions (s : State) (c : BitVec 5) (f : Cluster → Cluster) : (s.modClu c f).savedRegions = s.savedRegions := rfl
@[simp] theorem State.modClu_savedChains (s : State) (c : BitVec 5) (f : Cluster → Cluster) : (s.modClu c f).savedChains = s.savedChains := rfl
@[simp] theorem State.modClu_hostValue (s : State) (c : BitVec 5) (f : Cluster → Cluster) : (s.modClu c f).hostValue = s.hostValue := rfl
@[simp] theorem State.modClu_module (s : State) (c : BitVec 5) (f : Cluster → Cluster) : (s.modClu c f).module = s.module := rfl

/-! ## `setL2` -/

@[simp] theorem State.setL2_agenda (s : State) (c : BitVec 5) (k : Nat) (l : Line) : (s.setL2 c k l).agenda = s.agenda := rfl
@[simp] theorem State.setL2_cur (s : State) (c : BitVec 5) (k : Nat) (l : Line) : (s.setL2 c k l).cur = s.cur := rfl
@[simp] theorem State.setL2_focus (s : State) (c : BitVec 5) (k : Nat) (l : Line) : (s.setL2 c k l).focus = s.focus := rfl
@[simp] theorem State.setL2_ev (s : State) (c : BitVec 5) (k : Nat) (l : Line) : (s.setL2 c k l).ev = s.ev := rfl
@[simp] theorem State.setL2_tick (s : State) (c : BitVec 5) (k : Nat) (l : Line) : (s.setL2 c k l).tick = s.tick := rfl
@[simp] theorem State.setL2_cycle (s : State) (c : BitVec 5) (k : Nat) (l : Line) : (s.setL2 c k l).cycle = s.cycle := rfl
@[simp] theorem State.setL2_mem (s : State) (c : BitVec 5) (k : Nat) (l : Line) : (s.setL2 c k l).mem = s.mem := rfl
@[simp] theorem State.setL2_poison (s : State) (c : BitVec 5) (k : Nat) (l : Line) : (s.setL2 c k l).poison = s.poison := rfl
@[simp] theorem State.setL2_spaces (s : State) (c : BitVec 5) (k : Nat) (l : Line) : (s.setL2 c k l).spaces = s.spaces := rfl
@[simp] theorem State.setL2_tlb (s : State) (c : BitVec 5) (k : Nat) (l : Line) : (s.setL2 c k l).tlb = s.tlb := rfl
@[simp] theorem State.setL2_atc (s : State) (c : BitVec 5) (k : Nat) (l : Line) : (s.setL2 c k l).atc = s.atc := rfl
@[simp] theorem State.setL2_ats (s : State) (c : BitVec 5) (k : Nat) (l : Line) : (s.setL2 c k l).ats = s.ats := rfl
@[simp] theorem State.setL2_pri (s : State) (c : BitVec 5) (k : Nat) (l : Line) : (s.setL2 c k l).pri = s.pri := rfl
@[simp] theorem State.setL2_priOn (s : State) (c : BitVec 5) (k : Nat) (l : Line) : (s.setL2 c k l).priOn = s.priOn := rfl
@[simp] theorem State.setL2_priOff (s : State) (c : BitVec 5) (k : Nat) (l : Line) : (s.setL2 c k l).priOff = s.priOff := rfl
@[simp] theorem State.setL2_invals (s : State) (c : BitVec 5) (k : Nat) (l : Line) : (s.setL2 c k l).invals = s.invals := rfl
@[simp] theorem State.setL2_threads (s : State) (c : BitVec 5) (k : Nat) (l : Line) : (s.setL2 c k l).threads = s.threads := rfl
@[simp] theorem State.setL2_flits (s : State) (c : BitVec 5) (k : Nat) (l : Line) : (s.setL2 c k l).flits = s.flits := rfl
@[simp] theorem State.setL2_doorbells (s : State) (c : BitVec 5) (k : Nat) (l : Line) : (s.setL2 c k l).doorbells = s.doorbells := rfl
@[simp] theorem State.setL2_bridges (s : State) (c : BitVec 5) (k : Nat) (l : Line) : (s.setL2 c k l).bridges = s.bridges := rfl
@[simp] theorem State.setL2_claims (s : State) (c : BitVec 5) (k : Nat) (l : Line) : (s.setL2 c k l).claims = s.claims := rfl
@[simp] theorem State.setL2_savedRegions (s : State) (c : BitVec 5) (k : Nat) (l : Line) : (s.setL2 c k l).savedRegions = s.savedRegions := rfl
@[simp] theorem State.setL2_savedChains (s : State) (c : BitVec 5) (k : Nat) (l : Line) : (s.setL2 c k l).savedChains = s.savedChains := rfl
@[simp] theorem State.setL2_hostValue (s : State) (c : BitVec 5) (k : Nat) (l : Line) : (s.setL2 c k l).hostValue = s.hostValue := rfl
@[simp] theorem State.setL2_module (s : State) (c : BitVec 5) (k : Nat) (l : Line) : (s.setL2 c k l).module = s.module := rfl

/-! ## `modL1` -/

@[simp] theorem State.modL1_agenda (s : State) (k : BitVec 7) (f : Tab Line → Tab Line) : (s.modL1 k f).agenda = s.agenda := rfl
@[simp] theorem State.modL1_cur (s : State) (k : BitVec 7) (f : Tab Line → Tab Line) : (s.modL1 k f).cur = s.cur := rfl
@[simp] theorem State.modL1_focus (s : State) (k : BitVec 7) (f : Tab Line → Tab Line) : (s.modL1 k f).focus = s.focus := rfl
@[simp] theorem State.modL1_ev (s : State) (k : BitVec 7) (f : Tab Line → Tab Line) : (s.modL1 k f).ev = s.ev := rfl
@[simp] theorem State.modL1_tick (s : State) (k : BitVec 7) (f : Tab Line → Tab Line) : (s.modL1 k f).tick = s.tick := rfl
@[simp] theorem State.modL1_cycle (s : State) (k : BitVec 7) (f : Tab Line → Tab Line) : (s.modL1 k f).cycle = s.cycle := rfl
@[simp] theorem State.modL1_mem (s : State) (k : BitVec 7) (f : Tab Line → Tab Line) : (s.modL1 k f).mem = s.mem := rfl
@[simp] theorem State.modL1_poison (s : State) (k : BitVec 7) (f : Tab Line → Tab Line) : (s.modL1 k f).poison = s.poison := rfl
@[simp] theorem State.modL1_spaces (s : State) (k : BitVec 7) (f : Tab Line → Tab Line) : (s.modL1 k f).spaces = s.spaces := rfl
@[simp] theorem State.modL1_tlb (s : State) (k : BitVec 7) (f : Tab Line → Tab Line) : (s.modL1 k f).tlb = s.tlb := rfl
@[simp] theorem State.modL1_atc (s : State) (k : BitVec 7) (f : Tab Line → Tab Line) : (s.modL1 k f).atc = s.atc := rfl
@[simp] theorem State.modL1_ats (s : State) (k : BitVec 7) (f : Tab Line → Tab Line) : (s.modL1 k f).ats = s.ats := rfl
@[simp] theorem State.modL1_pri (s : State) (k : BitVec 7) (f : Tab Line → Tab Line) : (s.modL1 k f).pri = s.pri := rfl
@[simp] theorem State.modL1_priOn (s : State) (k : BitVec 7) (f : Tab Line → Tab Line) : (s.modL1 k f).priOn = s.priOn := rfl
@[simp] theorem State.modL1_priOff (s : State) (k : BitVec 7) (f : Tab Line → Tab Line) : (s.modL1 k f).priOff = s.priOff := rfl
@[simp] theorem State.modL1_invals (s : State) (k : BitVec 7) (f : Tab Line → Tab Line) : (s.modL1 k f).invals = s.invals := rfl
@[simp] theorem State.modL1_threads (s : State) (k : BitVec 7) (f : Tab Line → Tab Line) : (s.modL1 k f).threads = s.threads := rfl
@[simp] theorem State.modL1_flits (s : State) (k : BitVec 7) (f : Tab Line → Tab Line) : (s.modL1 k f).flits = s.flits := rfl
@[simp] theorem State.modL1_doorbells (s : State) (k : BitVec 7) (f : Tab Line → Tab Line) : (s.modL1 k f).doorbells = s.doorbells := rfl
@[simp] theorem State.modL1_bridges (s : State) (k : BitVec 7) (f : Tab Line → Tab Line) : (s.modL1 k f).bridges = s.bridges := rfl
@[simp] theorem State.modL1_claims (s : State) (k : BitVec 7) (f : Tab Line → Tab Line) : (s.modL1 k f).claims = s.claims := rfl
@[simp] theorem State.modL1_savedRegions (s : State) (k : BitVec 7) (f : Tab Line → Tab Line) : (s.modL1 k f).savedRegions = s.savedRegions := rfl
@[simp] theorem State.modL1_savedChains (s : State) (k : BitVec 7) (f : Tab Line → Tab Line) : (s.modL1 k f).savedChains = s.savedChains := rfl
@[simp] theorem State.modL1_hostValue (s : State) (k : BitVec 7) (f : Tab Line → Tab Line) : (s.modL1 k f).hostValue = s.hostValue := rfl
@[simp] theorem State.modL1_module (s : State) (k : BitVec 7) (f : Tab Line → Tab Line) : (s.modL1 k f).module = s.module := rfl

/-! ## `modInst` -/

@[simp] theorem State.modInst_agenda (s : State) (k : BitVec 7) (f : Tab Line → Tab Line) : (s.modInst k f).agenda = s.agenda := rfl
@[simp] theorem State.modInst_cur (s : State) (k : BitVec 7) (f : Tab Line → Tab Line) : (s.modInst k f).cur = s.cur := rfl
@[simp] theorem State.modInst_focus (s : State) (k : BitVec 7) (f : Tab Line → Tab Line) : (s.modInst k f).focus = s.focus := rfl
@[simp] theorem State.modInst_ev (s : State) (k : BitVec 7) (f : Tab Line → Tab Line) : (s.modInst k f).ev = s.ev := rfl
@[simp] theorem State.modInst_tick (s : State) (k : BitVec 7) (f : Tab Line → Tab Line) : (s.modInst k f).tick = s.tick := rfl
@[simp] theorem State.modInst_cycle (s : State) (k : BitVec 7) (f : Tab Line → Tab Line) : (s.modInst k f).cycle = s.cycle := rfl
@[simp] theorem State.modInst_mem (s : State) (k : BitVec 7) (f : Tab Line → Tab Line) : (s.modInst k f).mem = s.mem := rfl
@[simp] theorem State.modInst_poison (s : State) (k : BitVec 7) (f : Tab Line → Tab Line) : (s.modInst k f).poison = s.poison := rfl
@[simp] theorem State.modInst_spaces (s : State) (k : BitVec 7) (f : Tab Line → Tab Line) : (s.modInst k f).spaces = s.spaces := rfl
@[simp] theorem State.modInst_tlb (s : State) (k : BitVec 7) (f : Tab Line → Tab Line) : (s.modInst k f).tlb = s.tlb := rfl
@[simp] theorem State.modInst_atc (s : State) (k : BitVec 7) (f : Tab Line → Tab Line) : (s.modInst k f).atc = s.atc := rfl
@[simp] theorem State.modInst_ats (s : State) (k : BitVec 7) (f : Tab Line → Tab Line) : (s.modInst k f).ats = s.ats := rfl
@[simp] theorem State.modInst_pri (s : State) (k : BitVec 7) (f : Tab Line → Tab Line) : (s.modInst k f).pri = s.pri := rfl
@[simp] theorem State.modInst_priOn (s : State) (k : BitVec 7) (f : Tab Line → Tab Line) : (s.modInst k f).priOn = s.priOn := rfl
@[simp] theorem State.modInst_priOff (s : State) (k : BitVec 7) (f : Tab Line → Tab Line) : (s.modInst k f).priOff = s.priOff := rfl
@[simp] theorem State.modInst_invals (s : State) (k : BitVec 7) (f : Tab Line → Tab Line) : (s.modInst k f).invals = s.invals := rfl
@[simp] theorem State.modInst_threads (s : State) (k : BitVec 7) (f : Tab Line → Tab Line) : (s.modInst k f).threads = s.threads := rfl
@[simp] theorem State.modInst_flits (s : State) (k : BitVec 7) (f : Tab Line → Tab Line) : (s.modInst k f).flits = s.flits := rfl
@[simp] theorem State.modInst_doorbells (s : State) (k : BitVec 7) (f : Tab Line → Tab Line) : (s.modInst k f).doorbells = s.doorbells := rfl
@[simp] theorem State.modInst_bridges (s : State) (k : BitVec 7) (f : Tab Line → Tab Line) : (s.modInst k f).bridges = s.bridges := rfl
@[simp] theorem State.modInst_claims (s : State) (k : BitVec 7) (f : Tab Line → Tab Line) : (s.modInst k f).claims = s.claims := rfl
@[simp] theorem State.modInst_savedRegions (s : State) (k : BitVec 7) (f : Tab Line → Tab Line) : (s.modInst k f).savedRegions = s.savedRegions := rfl
@[simp] theorem State.modInst_savedChains (s : State) (k : BitVec 7) (f : Tab Line → Tab Line) : (s.modInst k f).savedChains = s.savedChains := rfl
@[simp] theorem State.modInst_hostValue (s : State) (k : BitVec 7) (f : Tab Line → Tab Line) : (s.modInst k f).hostValue = s.hostValue := rfl
@[simp] theorem State.modInst_module (s : State) (k : BitVec 7) (f : Tab Line → Tab Line) : (s.modInst k f).module = s.module := rfl

/-! ## `modQuad` -/

@[simp] theorem State.modQuad_agenda (s : State) (c : BitVec 5) (q : BitVec 6) (f : Tab Line → Tab Line) : (s.modQuad c q f).agenda = s.agenda := rfl
@[simp] theorem State.modQuad_cur (s : State) (c : BitVec 5) (q : BitVec 6) (f : Tab Line → Tab Line) : (s.modQuad c q f).cur = s.cur := rfl
@[simp] theorem State.modQuad_focus (s : State) (c : BitVec 5) (q : BitVec 6) (f : Tab Line → Tab Line) : (s.modQuad c q f).focus = s.focus := rfl
@[simp] theorem State.modQuad_ev (s : State) (c : BitVec 5) (q : BitVec 6) (f : Tab Line → Tab Line) : (s.modQuad c q f).ev = s.ev := rfl
@[simp] theorem State.modQuad_tick (s : State) (c : BitVec 5) (q : BitVec 6) (f : Tab Line → Tab Line) : (s.modQuad c q f).tick = s.tick := rfl
@[simp] theorem State.modQuad_cycle (s : State) (c : BitVec 5) (q : BitVec 6) (f : Tab Line → Tab Line) : (s.modQuad c q f).cycle = s.cycle := rfl
@[simp] theorem State.modQuad_mem (s : State) (c : BitVec 5) (q : BitVec 6) (f : Tab Line → Tab Line) : (s.modQuad c q f).mem = s.mem := rfl
@[simp] theorem State.modQuad_poison (s : State) (c : BitVec 5) (q : BitVec 6) (f : Tab Line → Tab Line) : (s.modQuad c q f).poison = s.poison := rfl
@[simp] theorem State.modQuad_spaces (s : State) (c : BitVec 5) (q : BitVec 6) (f : Tab Line → Tab Line) : (s.modQuad c q f).spaces = s.spaces := rfl
@[simp] theorem State.modQuad_tlb (s : State) (c : BitVec 5) (q : BitVec 6) (f : Tab Line → Tab Line) : (s.modQuad c q f).tlb = s.tlb := rfl
@[simp] theorem State.modQuad_atc (s : State) (c : BitVec 5) (q : BitVec 6) (f : Tab Line → Tab Line) : (s.modQuad c q f).atc = s.atc := rfl
@[simp] theorem State.modQuad_ats (s : State) (c : BitVec 5) (q : BitVec 6) (f : Tab Line → Tab Line) : (s.modQuad c q f).ats = s.ats := rfl
@[simp] theorem State.modQuad_pri (s : State) (c : BitVec 5) (q : BitVec 6) (f : Tab Line → Tab Line) : (s.modQuad c q f).pri = s.pri := rfl
@[simp] theorem State.modQuad_priOn (s : State) (c : BitVec 5) (q : BitVec 6) (f : Tab Line → Tab Line) : (s.modQuad c q f).priOn = s.priOn := rfl
@[simp] theorem State.modQuad_priOff (s : State) (c : BitVec 5) (q : BitVec 6) (f : Tab Line → Tab Line) : (s.modQuad c q f).priOff = s.priOff := rfl
@[simp] theorem State.modQuad_invals (s : State) (c : BitVec 5) (q : BitVec 6) (f : Tab Line → Tab Line) : (s.modQuad c q f).invals = s.invals := rfl
@[simp] theorem State.modQuad_threads (s : State) (c : BitVec 5) (q : BitVec 6) (f : Tab Line → Tab Line) : (s.modQuad c q f).threads = s.threads := rfl
@[simp] theorem State.modQuad_flits (s : State) (c : BitVec 5) (q : BitVec 6) (f : Tab Line → Tab Line) : (s.modQuad c q f).flits = s.flits := rfl
@[simp] theorem State.modQuad_doorbells (s : State) (c : BitVec 5) (q : BitVec 6) (f : Tab Line → Tab Line) : (s.modQuad c q f).doorbells = s.doorbells := rfl
@[simp] theorem State.modQuad_bridges (s : State) (c : BitVec 5) (q : BitVec 6) (f : Tab Line → Tab Line) : (s.modQuad c q f).bridges = s.bridges := rfl
@[simp] theorem State.modQuad_claims (s : State) (c : BitVec 5) (q : BitVec 6) (f : Tab Line → Tab Line) : (s.modQuad c q f).claims = s.claims := rfl
@[simp] theorem State.modQuad_savedRegions (s : State) (c : BitVec 5) (q : BitVec 6) (f : Tab Line → Tab Line) : (s.modQuad c q f).savedRegions = s.savedRegions := rfl
@[simp] theorem State.modQuad_savedChains (s : State) (c : BitVec 5) (q : BitVec 6) (f : Tab Line → Tab Line) : (s.modQuad c q f).savedChains = s.savedChains := rfl
@[simp] theorem State.modQuad_hostValue (s : State) (c : BitVec 5) (q : BitVec 6) (f : Tab Line → Tab Line) : (s.modQuad c q f).hostValue = s.hostValue := rfl
@[simp] theorem State.modQuad_module (s : State) (c : BitVec 5) (q : BitVec 6) (f : Tab Line → Tab Line) : (s.modQuad c q f).module = s.module := rfl

/-! ## `logErr` -/

@[simp] theorem State.logErr_agenda (s : State) (k z : BitVec 8) (l : Word) : (s.logErr k z l).agenda = s.agenda := rfl
@[simp] theorem State.logErr_cur (s : State) (k z : BitVec 8) (l : Word) : (s.logErr k z l).cur = s.cur := rfl
@[simp] theorem State.logErr_focus (s : State) (k z : BitVec 8) (l : Word) : (s.logErr k z l).focus = s.focus := rfl
@[simp] theorem State.logErr_ev (s : State) (k z : BitVec 8) (l : Word) : (s.logErr k z l).ev = s.ev := rfl
@[simp] theorem State.logErr_tick (s : State) (k z : BitVec 8) (l : Word) : (s.logErr k z l).tick = s.tick := rfl
@[simp] theorem State.logErr_cycle (s : State) (k z : BitVec 8) (l : Word) : (s.logErr k z l).cycle = s.cycle := rfl
@[simp] theorem State.logErr_mem (s : State) (k z : BitVec 8) (l : Word) : (s.logErr k z l).mem = s.mem := rfl
@[simp] theorem State.logErr_poison (s : State) (k z : BitVec 8) (l : Word) : (s.logErr k z l).poison = s.poison := rfl
@[simp] theorem State.logErr_spaces (s : State) (k z : BitVec 8) (l : Word) : (s.logErr k z l).spaces = s.spaces := rfl
@[simp] theorem State.logErr_tlb (s : State) (k z : BitVec 8) (l : Word) : (s.logErr k z l).tlb = s.tlb := rfl
@[simp] theorem State.logErr_atc (s : State) (k z : BitVec 8) (l : Word) : (s.logErr k z l).atc = s.atc := rfl
@[simp] theorem State.logErr_ats (s : State) (k z : BitVec 8) (l : Word) : (s.logErr k z l).ats = s.ats := rfl
@[simp] theorem State.logErr_pri (s : State) (k z : BitVec 8) (l : Word) : (s.logErr k z l).pri = s.pri := rfl
@[simp] theorem State.logErr_priOn (s : State) (k z : BitVec 8) (l : Word) : (s.logErr k z l).priOn = s.priOn := rfl
@[simp] theorem State.logErr_priOff (s : State) (k z : BitVec 8) (l : Word) : (s.logErr k z l).priOff = s.priOff := rfl
@[simp] theorem State.logErr_invals (s : State) (k z : BitVec 8) (l : Word) : (s.logErr k z l).invals = s.invals := rfl
@[simp] theorem State.logErr_threads (s : State) (k z : BitVec 8) (l : Word) : (s.logErr k z l).threads = s.threads := rfl
@[simp] theorem State.logErr_clusters (s : State) (k z : BitVec 8) (l : Word) : (s.logErr k z l).clusters = s.clusters := rfl
@[simp] theorem State.logErr_flits (s : State) (k z : BitVec 8) (l : Word) : (s.logErr k z l).flits = s.flits := rfl
@[simp] theorem State.logErr_doorbells (s : State) (k z : BitVec 8) (l : Word) : (s.logErr k z l).doorbells = s.doorbells := rfl
@[simp] theorem State.logErr_bridges (s : State) (k z : BitVec 8) (l : Word) : (s.logErr k z l).bridges = s.bridges := rfl
@[simp] theorem State.logErr_claims (s : State) (k z : BitVec 8) (l : Word) : (s.logErr k z l).claims = s.claims := rfl
@[simp] theorem State.logErr_savedRegions (s : State) (k z : BitVec 8) (l : Word) : (s.logErr k z l).savedRegions = s.savedRegions := rfl
@[simp] theorem State.logErr_savedChains (s : State) (k z : BitVec 8) (l : Word) : (s.logErr k z l).savedChains = s.savedChains := rfl
@[simp] theorem State.logErr_hostValue (s : State) (k z : BitVec 8) (l : Word) : (s.logErr k z l).hostValue = s.hostValue := rfl

end Sys2Proof.Machine
end

