-- ==== Sys2Proof/Laws/Thread.lean ====
section
/-! SUPPORT. Reading back what is written: tables, threads, clusters and general registers, and the shared ways a control word
ends. -/

namespace Sys2Proof.Machine

/-! ## Threads and clusters -/

@[simp] theorem State.thr_setThr (s : State) (n : BitVec 9) (t : Thread) : (s.setThr n t).thr n = t := by
  simp [State.thr, State.setThr, Tab.get_set]

theorem State.thr_setThr_ne (s : State) {n m : BitVec 9} (t : Thread) (h : m ≠ n) : (s.setThr n t).thr m = s.thr m := by
  simp [State.thr, State.setThr, Tab.get_set_ne _ _ _ (fun e => h (BitVec.eq_of_toNat_eq e))]

@[simp] theorem State.thr_modThr (s : State) (n : BitVec 9) (f : Thread → Thread) : (s.modThr n f).thr n = f (s.thr n) := by
  simp [State.modThr]

theorem State.thr_modThr_ne (s : State) {n m : BitVec 9} (f : Thread → Thread) (h : m ≠ n) :
    (s.modThr n f).thr m = s.thr m := by
  simp [State.modThr, s.thr_setThr_ne _ h]

@[simp] theorem State.me_modMe (s : State) (f : Thread → Thread) : (s.modMe f).me = f s.me := by
  simp [State.modMe, State.me, State.modThr]

@[simp] theorem State.clu_modClu (s : State) (c : BitVec 5) (f : Cluster → Cluster) : (s.modClu c f).clu c = f (s.clu c) := by
  simp [State.clu, State.modClu, Tab.get_set]

theorem State.clu_modClu_ne (s : State) {c k : BitVec 5} (f : Cluster → Cluster) (h : k ≠ c) :
    (s.modClu c f).clu k = s.clu k := by
  simp [State.clu, State.modClu, Tab.get_set_ne _ _ _ (fun e => h (BitVec.eq_of_toNat_eq e))]

/-! ## General registers (R61) -/

@[simp] theorem Thread.rd_zero (t : Thread) : t.rd 0#5 = 0 := by simp [Thread.rd]

theorem Thread.rd_wr (t : Thread) (d r : BitVec 5) (v : Word) : (t.wr d v).rd r = if r = d ∧ r ≠ 0 then v else t.rd r := by
  by_cases hr : r = 0#5
  · subst hr; simp
  · by_cases hd : d = 0#5
    · subst hd; simp [Thread.wr, hr]
    · by_cases h : r = d
      · subst h; simp [Thread.wr, Thread.rd, hd]
      · have e : d.toNat ≠ r.toNat := fun e => h (BitVec.eq_of_toNat_eq e).symm
        simp [Thread.wr, Thread.rd, hr, hd, h, e]

/-- A register is read from the register file alone. -/
theorem Thread.rd_congr {t u : Thread} (h : t.g = u.g) (r : BitVec 5) : t.rd r = u.rd r := by simp [Thread.rd, h]

/-- Writing a register changes the register file alone. -/
theorem Thread.wr_eq (t : Thread) (d : BitVec 5) (v : Word) : t.wr d v = { t with g := (t.wr d v).g } := by
  unfold Thread.wr; split <;> rfl

/-! ## How control words end -/

theorem OnlyThread.mem {s t : State} {n : BitVec 9} {m : Thread} (h : OnlyThread s t n m) : t.mem = s.mem :=
  show ({ t with threads := s.threads } : State).mem = s.mem by rw [h.2.2]

theorem OnlyThread.cur {s t : State} {n : BitVec 9} {m : Thread} (h : OnlyThread s t n m) : t.cur = s.cur :=
  show ({ t with threads := s.threads } : State).cur = s.cur by rw [h.2.2]

theorem OnlyMe.me {s t : State} {m : Thread} (h : OnlyMe s t m) : t.me = m := by
  rw [State.me, OnlyThread.cur h]; exact h.1

/-- Two changes of the running thread's context are one. -/
theorem OnlyMe.trans {s t u : State} {m k : Thread} (h : OnlyMe s t m) (g : OnlyMe t u k) : OnlyMe s u k := by
  have hc := OnlyThread.cur h
  refine ⟨hc ▸ g.1, fun n hn => (g.2.1 n (hc ▸ hn)).trans (h.2.1 n hn), ?_⟩
  have e : ({ u with threads := s.threads } : State) = { ({ u with threads := t.threads } : State) with threads := s.threads } := rfl
  rw [e, g.2.2]; exact h.2.2

/-- A change of one thread's context changes nothing else. -/
theorem onlyThread_modThr (s : State) (n : BitVec 9) (f : Thread → Thread) : OnlyThread s (s.modThr n f) n (f (s.thr n)) :=
  ⟨s.thr_modThr n f, fun _ h => s.thr_modThr_ne f h, rfl⟩

/-- A change of the running thread's context changes nothing else. -/
theorem onlyMe_modMe (s : State) (f : Thread → Thread) : OnlyMe s (s.modMe f) (f s.me) :=
  ⟨s.me_modMe f, fun _ h => s.thr_modThr_ne f h, rfl⟩

/-- A word that changes the running thread's context alone. -/
theorem becomes_modMe (s : State) (f : Thread → Thread) : Becomes s (.next (s.modMe f)) (f s.me) :=
  ⟨_, rfl, onlyMe_modMe s f⟩

/-- A word that changes the running thread's context twice. -/
theorem becomes_modMe_modMe (s : State) (f g : Thread → Thread) : Becomes s (.next ((s.modMe f).modMe g)) (g (f s.me)) := by
  have h := (onlyMe_modMe s f).trans (onlyMe_modMe (s.modMe f) g)
  rw [State.me_modMe] at h
  exact ⟨_, rfl, h⟩

/-- A word that writes a register and the PC. -/
theorem writes_modMe (s : State) (d : BitVec 5) (v p : Word) :
    Writes s (.next (s.modMe (fun t => { t.wr d v with pc := p }))) d v p := by
  refine ⟨_, rfl, fun r => ?_, ?_⟩
  · simp only [State.rd, State.me_modMe]
    exact (Thread.rd_congr rfl r).trans (Thread.rd_wr _ d r v)
  · have h := onlyMe_modMe s (fun t => { t.wr d v with pc := p })
    refine ⟨?_, h.2⟩
    show State.me _ = _
    rw [State.me_modMe, Thread.wr_eq]

/-- `put` writes a register and goes on with the next word. -/
theorem writes_put (s : State) (d : BitVec 5) (v : Word) : Writes s (.next (s.put d v)) d v (s.pc + 4) := by
  have h := writes_modMe s d v (s.pc + 4)
  have e : s.put d v = s.modMe (fun t => { t.wr d v with pc := s.pc + 4 }) := by
    simp only [State.put, State.modMe, State.modThr, State.pc, State.me]
  rw [e]; exact h

/-- A word that goes on with the next word and changes nothing else writes `g0`. -/
theorem writes_goto (s : State) (p : Word) : Writes s (.next (s.modMe (fun t => { t with pc := p }))) 0 0 p := by
  refine ⟨_, rfl, fun r => ?_, ?_⟩
  · simp only [State.rd, State.me_modMe]
    rw [if_neg (by simp)]; exact Thread.rd_congr rfl r
  · have h := onlyMe_modMe s (fun t => { t with pc := p })
    exact ⟨by show State.me _ = _; rw [State.me_modMe], h.2⟩

/-- The trap sequence of R353 on the running thread. -/
theorem traps_trap (s : State) (c : BitVec 8) (v : Word) : Traps s (.next (s.trap c v)) c v := by
  have h := becomes_modMe s (fun t => t.trapTo c v t.pc)
  exact h

end Sys2Proof.Machine
end

