-- ==== Sys2Proof/Laws/Memory.lean ====
section
/-! SUPPORT. Memory: reading after writing, the canonical form, and what the operations at the home leave as it was. -/

namespace Sys2Proof.Machine

/-! ## The canonical form -/

/-- The bound of a canonical list may be lowered. -/
theorem cellsAbove_weaken {m : Memory} {lo k : Nat} (h : cellsAbove (some k) m = true) (hk : lo ≤ k) : cellsAbove (some lo) m = true := by
  cases m with
  | nil => rfl
  | cons p r =>
    obtain ⟨a, b⟩ := p
    simp only [cellsAbove, Bool.and_eq_true, decide_eq_true_eq] at h ⊢
    exact ⟨⟨by omega, h.1.2⟩, h.2⟩

/-- A canonical list is canonical with no bound. -/
theorem cellsAbove_none {m : Memory} {lo : Option Nat} (h : cellsAbove lo m = true) : Memory.wf m = true := by
  cases m with
  | nil => rfl
  | cons p r =>
    obtain ⟨a, b⟩ := p
    simp only [Memory.wf, cellsAbove, Bool.and_eq_true] at h ⊢
    exact ⟨⟨trivial, h.1.2⟩, h.2⟩

theorem cellWrite_above (m : Memory) (lo : Nat) (k : Nat) (v : Byte) (h : cellsAbove (some lo) m = true) (hk : lo < k) :
    cellsAbove (some lo) (cellWrite m k v) = true := by
  induction m generalizing lo with
  | nil =>
    simp only [cellWrite]
    split
    · rfl
    · rename_i hv; simp [cellsAbove, hk, hv]
  | cons p r ih =>
    obtain ⟨a, b⟩ := p
    simp only [cellsAbove, Bool.and_eq_true, decide_eq_true_eq] at h
    simp only [cellWrite]
    split
    · split
      · simp only [cellsAbove, Bool.and_eq_true, decide_eq_true_eq]; exact ⟨⟨h.1.1, h.1.2⟩, h.2⟩
      · rename_i hka hv
        simp only [cellsAbove, Bool.and_eq_true, decide_eq_true_eq, bne_iff_ne, ne_eq]
        exact ⟨⟨hk, hv⟩, ⟨hka, by simpa using h.1.2⟩, h.2⟩
    · split
      · rename_i hka he
        subst he
        split
        · exact cellsAbove_weaken h.2 (Nat.le_of_lt h.1.1)
        · rename_i hv
          simp only [cellsAbove, Bool.and_eq_true, decide_eq_true_eq, bne_iff_ne, ne_eq]
          exact ⟨⟨hk, hv⟩, h.2⟩
      · simp only [cellsAbove, Bool.and_eq_true, decide_eq_true_eq]
        exact ⟨⟨h.1.1, h.1.2⟩, ih a h.2 (by omega)⟩

/-- Writing a byte keeps the canonical form. -/
theorem cellWrite_wf (m : Memory) (k : Nat) (v : Byte) (h : Memory.wf m = true) : Memory.wf (cellWrite m k v) = true := by
  cases m with
  | nil =>
    simp only [cellWrite]
    split
    · rfl
    · rename_i hv; simp [Memory.wf, cellsAbove, hv]
  | cons p r =>
    obtain ⟨a, b⟩ := p
    simp only [Memory.wf, cellsAbove, Bool.and_eq_true] at h
    simp only [cellWrite]
    split
    · split
      · simp only [Memory.wf, cellsAbove, Bool.and_eq_true]; exact ⟨⟨trivial, h.1.2⟩, h.2⟩
      · rename_i hka hv
        simp only [Memory.wf, cellsAbove, Bool.and_eq_true, decide_eq_true_eq, bne_iff_ne, ne_eq]
        exact ⟨⟨trivial, hv⟩, ⟨hka, by simpa using h.1.2⟩, h.2⟩
    · split
      · split
        · exact cellsAbove_none h.2
        · rename_i hka he hv
          subst he
          simp only [Memory.wf, cellsAbove, Bool.and_eq_true, bne_iff_ne, ne_eq]
          exact ⟨⟨trivial, hv⟩, h.2⟩
      · simp only [Memory.wf, cellsAbove, Bool.and_eq_true]
        exact ⟨⟨trivial, h.1.2⟩, cellWrite_above _ _ _ _ h.2 (by omega)⟩

/-- Writing a number keeps the canonical form. -/
theorem writeLE_wf (m : Memory) (a n v : Nat) (h : Memory.wf m = true) : Memory.wf (writeLE m a n v) = true := by
  induction n generalizing m a v with
  | zero => exact h
  | succ n ih => exact ih _ _ _ (cellWrite_wf _ _ _ h)

/-- Writing masked bytes keeps the canonical form. -/
theorem writeMasked_wf (m : Memory) (a n v k : Nat) (h : Memory.wf m = true) : Memory.wf (writeMasked m a n v k) = true := by
  induction n generalizing m a v k with
  | zero => exact h
  | succ n ih =>
    refine ih _ _ _ _ ?_
    split
    · exact cellWrite_wf _ _ _ h
    · exact h

/-- The memory of the machine after reset has the canonical form. -/
theorem reset_wf : Memory.wf State.reset.mem = true := rfl

/-! ## Reading after writing -/

/-- Below the bound of a canonical list every byte reads as unlisted. -/
theorem cellRead_below {m : Memory} {lo k : Nat} (h : cellsAbove (some lo) m = true) (hk : k ≤ lo) :
    cellRead m k = Config.unlistedByte := by
  cases m with
  | nil => rfl
  | cons p r =>
    obtain ⟨a, b⟩ := p
    simp only [cellsAbove, Bool.and_eq_true, decide_eq_true_eq] at h
    simp only [cellRead]
    rw [if_neg (by omega), if_pos (by omega)]

/-- A byte written reads back, and every other byte reads as before. -/
theorem cellRead_cellWrite (m : Memory) (k j : Nat) (v : Byte) (h : Memory.wf m = true) :
    cellRead (cellWrite m k v) j = if j = k then v else cellRead m j := by
  induction m with
  | nil =>
    simp only [cellWrite]
    split
    · rename_i hv; subst hv; simp [cellRead]
    · simp only [cellRead]
      by_cases e : j = k
      · subst e; simp
      · rw [if_neg (Ne.symm e), if_neg e, ite_self]
  | cons p r ih =>
    obtain ⟨a, b⟩ := p
    simp only [Memory.wf, cellsAbove, Bool.and_eq_true] at h
    have ih := ih (cellsAbove_none h.2)
    simp only [cellWrite]
    split
    · rename_i hka
      split
      · rename_i hv; subst hv
        by_cases e : j = k
        · subst e; simp only [cellRead, if_true]; rw [if_neg (by omega), if_pos hka]
        · rw [if_neg e]
      · by_cases e : j = k
        · subst e; simp [cellRead]
        · rw [if_neg e]; simp only [cellRead]; rw [if_neg (Ne.symm e)]
          by_cases hj : j < k
          · rw [if_pos hj, if_neg (by omega), if_pos (by omega)]
          · rw [if_neg hj]
    · split
      · rename_i hka he
        subst he
        split
        · rename_i hv; subst hv
          by_cases e : j = k
          · subst e; rw [if_pos rfl]; exact cellRead_below h.2 (Nat.le_refl _)
          · rw [if_neg e]; simp only [cellRead]; rw [if_neg (Ne.symm e)]
            by_cases hj : j < k
            · rw [if_pos hj]; exact cellRead_below h.2 (Nat.le_of_lt hj)
            · rw [if_neg hj]
        · by_cases e : j = k
          · subst e; simp [cellRead]
          · rw [if_neg e]; simp only [cellRead]; rw [if_neg (Ne.symm e), if_neg (Ne.symm e)]
      · rename_i hka he
        simp only [cellRead]
        by_cases e : j = k
        · subst e; rw [if_neg (Ne.symm he), if_neg (by omega), ih]; simp
        · rw [if_neg e]; split
          · rfl
          · split
            · rfl
            · rw [ih, if_neg e]

/-- A number written reads back byte by byte, and every byte outside it reads as before. -/
theorem cellRead_writeLE (m : Memory) (a n v j : Nat) (h : Memory.wf m = true) :
    cellRead (writeLE m a n v) j = if a ≤ j ∧ j < a + n then BitVec.ofNat 8 (v / 256 ^ (j - a)) else cellRead m j := by
  induction n generalizing m a v with
  | zero => simp only [writeLE]; rw [if_neg (by omega)]
  | succ n ih =>
    simp only [writeLE]
    rw [ih _ _ _ (cellWrite_wf _ _ _ h), cellRead_cellWrite _ _ _ _ h]
    by_cases e : j = a
    · subst e
      rw [if_neg (by omega), if_pos rfl, if_pos (by omega)]; simp
    · rw [if_neg e]
      by_cases hj : a + 1 ≤ j ∧ j < a + 1 + n
      · rw [if_pos hj, if_pos (by omega), Nat.div_div_eq_div_mul]
        obtain ⟨d, rfl⟩ := Nat.exists_eq_add_of_le hj.1
        rw [show a + 1 + d - (a + 1) = d by omega, show a + 1 + d - a = d + 1 by omega, Nat.pow_succ, Nat.mul_comm]
      · rw [if_neg hj, if_neg (by omega)]

/-- Masked bytes read back, and every byte outside the mask reads as before. -/
theorem cellRead_writeMasked (m : Memory) (a n v k j : Nat) (h : Memory.wf m = true) :
    cellRead (writeMasked m a n v k) j =
      if a ≤ j ∧ j < a + n ∧ k / 2 ^ (j - a) % 2 = 1 then BitVec.ofNat 8 (v / 256 ^ (j - a)) else cellRead m j := by
  induction n generalizing m a v k with
  | zero => simp only [writeMasked]; rw [if_neg (by omega)]
  | succ n ih =>
    have hw : Memory.wf (if k % 2 = 1 then cellWrite m a (BitVec.ofNat 8 v) else m) = true := by
      split
      · exact cellWrite_wf _ _ _ h
      · exact h
    have hr : cellRead (if k % 2 = 1 then cellWrite m a (BitVec.ofNat 8 v) else m) j
        = if j = a ∧ k % 2 = 1 then BitVec.ofNat 8 v else cellRead m j := by
      by_cases hk : k % 2 = 1
      · simp only [hk, if_true, and_true]; exact cellRead_cellWrite _ _ _ _ h
      · simp [hk]
    simp only [writeMasked]
    rw [ih _ _ _ _ hw, hr]
    by_cases e : j = a
    · subst e
      rw [if_neg (by omega)]
      by_cases hk : k % 2 = 1
      · rw [if_pos ⟨rfl, hk⟩, if_pos ⟨by omega, by omega, by simpa using hk⟩]; simp
      · rw [if_neg (by simp [hk]), if_neg (by simp [hk])]
    · rw [if_neg (show ¬(j = a ∧ k % 2 = 1) from fun q => e q.1)]
      by_cases hj : a + 1 ≤ j
      · obtain ⟨d, rfl⟩ := Nat.exists_eq_add_of_le hj
        rw [show a + 1 + d - (a + 1) = d by omega, show a + 1 + d - a = d + 1 by omega]
        rw [Nat.div_div_eq_div_mul, Nat.div_div_eq_div_mul, Nat.pow_succ', Nat.pow_succ']
        by_cases hd : a + 1 + d < a + 1 + n
        · by_cases hm : k / (2 * 2 ^ d) % 2 = 1
          · rw [if_pos ⟨by omega, hd, hm⟩, if_pos ⟨by omega, by omega, hm⟩]
          · rw [if_neg (by simp [hm]), if_neg (by simp [hm])]
        · rw [if_neg (by omega), if_neg (by omega)]
      · rw [if_neg (by omega), if_neg (by omega)]

/-! ## The home -/

/-- The injector's hook changes the poison marks and the module alone. -/
theorem State.injectHome_eq (s : State) (pa n : Nat) : ∃ p m, s.injectHome pa n = { s with poison := p, module := m } := by
  unfold State.injectHome
  dsimp only
  split
  · split
    · exact ⟨_, _, rfl⟩
    · split <;> exact ⟨_, _, rfl⟩
  · exact ⟨_, _, rfl⟩

/-- A read at the home changes the poison marks and the module alone. -/
theorem State.homeRead_eq (s : State) (pa n : Nat) : ∃ p m, (s.homeRead pa n).1 = { s with poison := p, module := m } :=
  s.injectHome_eq pa n

/-! ## Reading several bytes -/

/-- A read of n + k bytes is a read of n and of the k behind them. -/
theorem readLE_add (m : Memory) (a n k : Nat) : readLE m a (n + k) = readLE m a n + 256 ^ n * readLE m (a + n) k := by
  induction n generalizing a with
  | zero => simp [readLE]
  | succ n ih => rw [show n + 1 + k = (n + k) + 1 by omega]; simp only [readLE, ih]; rw [show a + 1 + n = a + (n + 1) by omega]; ring

/-- A read of n bytes is below 256^n. -/
theorem readLE_lt (m : Memory) (a n : Nat) : readLE m a n < 256 ^ n := by
  induction n generalizing a with
  | zero => simp [readLE]
  | succ n ih => have := ih (a + 1); have := (cellRead m a).isLt; simp only [readLE, pow_succ]; omega

end Sys2Proof.Machine
end

