-- ==== Sys2Proof/Laws/Translate.lean ====
section
/-! SUPPORT. What translating an address can change: memory (A and D bits), its poison marks, the translation cache, the requests to
the host and the injector. -/

namespace Sys2Proof.Machine

/-- From s to t no more has changed than translating can change, and memory keeps its canonical form. -/
def XlOnly (s t : State) : Prop :=
  ∃ m p l a d, t = { s with mem := m, poison := p, tlb := l, ats := a, module := d } ∧ (Memory.wf s.mem = true → Memory.wf m = true)

theorem XlOnly.refl (s : State) : XlOnly s s := ⟨_, _, _, _, _, rfl, id⟩

theorem XlOnly.trans {s t u : State} (h : XlOnly s t) (k : XlOnly t u) : XlOnly s u := by
  obtain ⟨_, _, _, _, _, rfl, h⟩ := h
  obtain ⟨_, _, _, _, _, rfl, k⟩ := k
  exact ⟨_, _, _, _, _, rfl, fun w => k (h w)⟩

theorem XlOnly.threads {s t : State} (h : XlOnly s t) : t.threads = s.threads := by
  obtain ⟨_, _, _, _, _, rfl, _⟩ := h; rfl

theorem XlOnly.clusters {s t : State} (h : XlOnly s t) : t.clusters = s.clusters := by
  obtain ⟨_, _, _, _, _, rfl, _⟩ := h; rfl

theorem XlOnly.cur {s t : State} (h : XlOnly s t) : t.cur = s.cur := by
  obtain ⟨_, _, _, _, _, rfl, _⟩ := h; rfl

theorem XlOnly.thr {s t : State} (h : XlOnly s t) (n : BitVec 9) : t.thr n = s.thr n := by
  simp only [State.thr, h.threads]

theorem XlOnly.me {s t : State} (h : XlOnly s t) : t.me = s.me := by simp only [State.me, h.cur, h.thr]

theorem homeRead_xlOnly (s : State) (pa n : Nat) : XlOnly s (s.homeRead pa n).1 := by
  obtain ⟨p, m, h⟩ := s.homeRead_eq pa n
  rw [h]; exact ⟨_, _, _, _, _, rfl, id⟩

theorem touchPte_xlOnly (s : State) (l : Leaf) (k : Access) : XlOnly s (s.touchPte l k) :=
  ⟨_, _, _, _, _, rfl, writeLE_wf _ _ _ _⟩

theorem walk_xlOnly (cr : Capt) (va : Word) (ls : List (Nat × Nat × Nat)) (a : Nat) (s : State) :
    XlOnly s (State.walk cr va ls a s).1 := by
  induction ls generalizing a s with
  | nil => exact XlOnly.refl s
  | cons p r ih =>
    obtain ⟨lvl, lo, n⟩ := p
    unfold State.walk
    have hr := homeRead_xlOnly s (a + 8 * (va.toNat / 2 ^ lo % 2 ^ n)) 8
    dsimp only
    split
    · exact XlOnly.refl s
    · split
      · exact hr
      · split
        · exact hr
        · split
          · split <;> exact hr
          · split
            · exact hr
            · exact hr.trans (ih _ _)

theorem walkFromBase_xlOnly (s : State) (cr : Capt) (va : Word) : XlOnly s (s.walkFromBase cr va).1 := walk_xlOnly _ _ _ _ _

theorem descriptor_xlOnly (s : State) (cr : Capt) (b : Nat) : XlOnly s (s.descriptor cr b).1 := by
  unfold State.descriptor
  split
  · exact XlOnly.refl s
  · have hw := walkFromBase_xlOnly s cr (BitVec.ofNat 64 (b * 64))
    dsimp only
    generalize s.walkFromBase cr (BitVec.ofNat 64 (b * 64)) = q at hw ⊢
    obtain ⟨u, _ | l⟩ := q
    · exact hw
    · dsimp only
      split
      · exact hw
      · have := (hw.trans (touchPte_xlOnly u l .read)).trans (homeRead_xlOnly _ (leafDevice l (BitVec.ofNat 64 (b * 64))) 64)
        split <;> exact this

theorem bufferTarget_xlOnly (s : State) (cr : Capt) (l : Leaf) (sh : Bool) (va : Word) :
    XlOnly s (s.bufferTarget cr l sh va).1 := by
  unfold State.bufferTarget
  have hw := descriptor_xlOnly s cr (fld l.pte 32 32).toNat
  dsimp only
  generalize s.descriptor cr (fld l.pte 32 32).toNat = q at hw ⊢
  obtain ⟨u, _ | d⟩ := q
  · exact hw
  · dsimp only
    split <;> exact hw

theorem cacheXl_xlOnly (s : State) (cr : Capt) (k : Access) (l : Leaf) (x : Xl) (e : TlbEntry) :
    XlOnly s (s.cacheXl cr k l x e).1 := by
  unfold State.cacheXl
  split
  · exact XlOnly.refl s
  · exact ⟨_, _, _, _, _, rfl, writeLE_wf _ _ _ _⟩

/-- Forming a translation. -/
theorem form_xlOnly (s : State) (cr : Capt) (k : Access) (sh : Bool) (va : Word) (l : Leaf) :
    XlOnly s (s.form cr k sh va l).1 := by
  unfold State.form
  extract_lets off low
  split
  · exact XlOnly.refl s
  · split
    · exact cacheXl_xlOnly _ _ _ _ _ _
    · have hw := bufferTarget_xlOnly s cr l sh va
      generalize s.bufferTarget cr l sh va = q at hw ⊢
      obtain ⟨u, _ | d⟩ := q
      · exact hw
      · exact hw.trans (cacheXl_xlOnly _ _ _ _ _ _)
    · exact cacheXl_xlOnly _ _ _ _ _ _

/-- Translating an address. -/
theorem translate_xlOnly (s : State) (cr : Capt) (k : Access) (sh : Bool) (va : Word) : XlOnly s (s.translate cr k sh va).1 := by
  unfold State.translate
  split
  · exact XlOnly.refl s
  · split
    · exact XlOnly.refl s
    · have hw := walkFromBase_xlOnly s cr va
      generalize s.walkFromBase cr va = q at hw ⊢
      obtain ⟨u, _ | l⟩ := q
      · exact hw
      · exact hw.trans (form_xlOnly _ _ _ _ _ _)

theorem askAts_xlOnly (s : State) (fn : BitVec 6) (pasid : BitVec 20) (w : HostWaiter) : XlOnly s (s.askAts fn pasid w) := by
  unfold State.askAts
  dsimp only
  split <;> exact ⟨_, _, _, _, _, rfl, id⟩

/-- Resolving an address. -/
theorem resolve_xlOnly (s : State) (cr : Capt) (k : Access) (sh : Bool) (va : Word) (w : Waiter) :
    XlOnly s (s.resolve cr k sh va w).1 := by
  unfold State.resolve
  have hw := translate_xlOnly s cr k sh va
  generalize s.translate cr k sh va = q at hw ⊢
  obtain ⟨u, _ | x⟩ := q
  · exact hw
  · dsimp only
    split
    · split <;> exact hw
    · split
      · exact hw
      · exact hw.trans (askAts_xlOnly _ _ _ _)

end Sys2Proof.Machine
end

