-- ==== Sys2Proof/Laws/Cache.lean ====
section
/-! SUPPORT. The cluster's slices and a core's own copies: what each operation leaves in them and in memory. -/

namespace Sys2Proof.Machine

/-! ## Tables -/

theorem Tab.get_del {α : Type} (d : α) (m : Tab α) (k j : Nat) : Tab.get d (Tab.del m k) j = if j = k then d else Tab.get d m j := by
  induction m with
  | nil => simp [Tab.del, Tab.get]
  | cons p r ih =>
    obtain ⟨i, v⟩ := p
    simp only [Tab.del] at ih ⊢
    by_cases h : i = k
    · subst h
      simp only [List.filter_cons, bne_self_eq_false, Bool.false_eq_true, if_false, ih, Tab.get]
      by_cases e : j = i
      · simp [e]
      · rw [if_neg e, if_neg e, if_neg (Ne.symm e)]
    · have hb : (i != k) = true := by simpa using h
      simp only [List.filter_cons, hb, if_true, Tab.get]
      by_cases e : i = j
      · subst e; simp [h]
      · rw [if_neg e, if_neg e, ih]

/-- A key with an entry is found among the table's pairs. -/
theorem Tab.get_mem {α : Type} (d : α) (m : Tab α) (k : Nat) : Tab.get d m k = d ∨ (k, Tab.get d m k) ∈ m := by
  induction m with
  | nil => simp [Tab.get]
  | cons p r ih =>
    obtain ⟨i, v⟩ := p
    simp only [Tab.get]
    by_cases h : i = k
    · subst h; simp
    · rw [if_neg h]; rcases ih with h' | h'
      · exact Or.inl h'
      · exact Or.inr (List.mem_cons_of_mem _ h')

/-! ## Lines of a slice -/

theorem State.l2Line_setL2 (s : State) (c : BitVec 5) (k j : Nat) (l : Line) :
    (s.setL2 c k l).l2Line c j = if j = k then (if l.valid = 0 then {} else l) else s.l2Line c j := by
  simp only [State.l2Line, State.setL2, State.clu_modClu]
  split
  · rw [Tab.get_del]
  · by_cases h : j = k
    · subst h; rw [if_pos rfl, Tab.get_set]
    · rw [if_neg h, Tab.get_set_ne _ _ _ h]

/-- Only the slices of the cluster change, and of memory no more than a bitmap. -/
theorem State.setL2_shape (s : State) (c : BitVec 5) (k : Nat) (l : Line) :
    s.setL2 c k l = { s with clusters := (s.setL2 c k l).clusters } := rfl

/-- The state with other clusters, memory and poison marks. -/
def CacheOnly (s t : State) : Prop :=
  ∃ m p c, t = { s with mem := m, poison := p, clusters := c } ∧ (Memory.wf s.mem = true → Memory.wf m = true)

theorem CacheOnly.refl (s : State) : CacheOnly s s := ⟨_, _, _, rfl, id⟩

theorem CacheOnly.trans {s t u : State} (h : CacheOnly s t) (k : CacheOnly t u) : CacheOnly s u := by
  obtain ⟨_, _, _, rfl, h⟩ := h
  obtain ⟨_, _, _, rfl, k⟩ := k
  exact ⟨_, _, _, rfl, fun w => k (h w)⟩

theorem CacheOnly.threads {s t : State} (h : CacheOnly s t) : t.threads = s.threads := by
  obtain ⟨_, _, _, rfl, _⟩ := h; rfl

theorem CacheOnly.cur {s t : State} (h : CacheOnly s t) : t.cur = s.cur := by
  obtain ⟨_, _, _, rfl, _⟩ := h; rfl

theorem CacheOnly.thr {s t : State} (h : CacheOnly s t) (n : BitVec 9) : t.thr n = s.thr n := by
  simp only [State.thr, h.threads]

theorem CacheOnly.me {s t : State} (h : CacheOnly s t) : t.me = s.me := by simp only [State.me, h.cur, h.thr]

theorem markOne_mem (s : State) (pa : Nat) (m : Nat × Nat) : ∃ x, s.markOne pa m = { s with mem := x } ∧ (Memory.wf s.mem = true → Memory.wf x = true) :=
  ⟨_, rfl, writeLE_wf _ _ _ _⟩

theorem markAll_mem (s : State) (pa : Nat) (ms : List (Nat × Nat)) :
    ∃ x, s.markAll pa ms = { s with mem := x } ∧ (Memory.wf s.mem = true → Memory.wf x = true) := by
  induction ms generalizing s with
  | nil => exact ⟨_, rfl, id⟩
  | cons m r ih =>
    obtain ⟨x, hx, wx⟩ := markOne_mem s pa m
    obtain ⟨y, hy, wy⟩ := ih (s.markOne pa m)
    refine ⟨y, ?_, fun w => wy (by rw [hx]; exact wx w)⟩
    show (s.markOne pa m).markAll pa r = _
    rw [hy, hx]

/-- A marked bitmap's bytes outside the marked dword read as before. -/
theorem markAll_read (s : State) (pa : Nat) (ms : List (Nat × Nat)) (b : Nat) (hw : Memory.wf s.mem = true)
    (h : ∀ m ∈ ms, ¬(m.1 + 8 * (pa / 2 ^ m.2 / 64) ≤ b ∧ b < m.1 + 8 * (pa / 2 ^ m.2 / 64) + 8)) :
    cellRead (s.markAll pa ms).mem b = cellRead s.mem b := by
  induction ms generalizing s with
  | nil => rfl
  | cons m r ih =>
    obtain ⟨x, hx, wx⟩ := markOne_mem s pa m
    have hm := h m (List.mem_cons_self)
    have := ih (s.markOne pa m) (by rw [hx]; exact wx hw) (fun q hq => h q (List.mem_cons_of_mem _ hq))
    show cellRead ((s.markOne pa m).markAll pa r).mem b = _
    rw [this]
    show cellRead (writeLE s.mem _ 8 _) b = _
    rw [cellRead_writeLE _ _ _ _ _ hw, if_neg hm]

theorem homeMerge_shape (s : State) (line : Nat) (l : Line) (m : BitVec 64) : CacheOnly s (s.homeMerge line l m) := by
  unfold State.homeMerge
  dsimp only
  split
  · exact ⟨_, _, _, rfl, writeMasked_wf _ _ _ _ _⟩
  · obtain ⟨x, hx, wx⟩ := markAll_mem { s with
        mem := writeMasked s.mem (64 * line) 64 l.data.toNat m.toNat
        poison := (List.range 8).foldl (fun p k =>
          if (anyWords m).getLsbD k then
            (if l.poison.getLsbD k then insertNat p (8 * line + k)
             else if (fullWords m).getLsbD k then p.filter (· != 8 * line + k) else p)
          else p) s.poison } (64 * line) l.marks
    rw [hx]
    exact ⟨_, _, _, rfl, fun w => wx (writeMasked_wf _ _ _ _ _ w)⟩

/-- Masked bytes of a line reach the home; the home's other bytes, but for bitmaps the line marks, read as before. -/
theorem homeMerge_read (s : State) (line : Nat) (l : Line) (m : BitVec 64) (b : Nat) (hw : Memory.wf s.mem = true)
    (h : ∀ q ∈ l.marks, ¬(q.1 + 8 * (64 * line / 2 ^ q.2 / 64) ≤ b ∧ b < q.1 + 8 * (64 * line / 2 ^ q.2 / 64) + 8)) :
    cellRead (s.homeMerge line l m).mem b =
      if 64 * line ≤ b ∧ b < 64 * line + 64 ∧ m.getLsbD (b - 64 * line) = true then fld l.data (8 * (b - 64 * line)) 8 else cellRead s.mem b := by
  have key : cellRead (writeMasked s.mem (64 * line) 64 l.data.toNat m.toNat) b =
      if 64 * line ≤ b ∧ b < 64 * line + 64 ∧ m.getLsbD (b - 64 * line) = true then fld l.data (8 * (b - 64 * line)) 8 else cellRead s.mem b := by
    rw [cellRead_writeMasked _ _ _ _ _ _ hw]
    have e1 : m.getLsbD (b - 64 * line) = true ↔ m.toNat / 2 ^ (b - 64 * line) % 2 = 1 := by
      rw [BitVec.getLsbD, Nat.testBit_eq_decide_div_mod_eq]; simp
    have e2 : BitVec.ofNat 8 (l.data.toNat / 256 ^ (b - 64 * line)) = fld l.data (8 * (b - 64 * line)) 8 := by
      apply BitVec.eq_of_toNat_eq
      rw [show (256 : Nat) = 2 ^ 8 by rfl, ← Nat.pow_mul]
      simp [Nat.shiftRight_eq_div_pow]
    rw [e2]; simp only [e1]
  unfold State.homeMerge
  dsimp only
  split
  · exact key
  · rw [markAll_read _ _ _ _ (writeMasked_wf _ _ _ _ _ hw) h]; exact key

theorem setL2_cacheOnly (s : State) (c : BitVec 5) (k : Nat) (l : Line) : CacheOnly s (s.setL2 c k l) := ⟨_, _, _, rfl, id⟩

theorem writeBack_shape (s : State) (c : BitVec 5) (line : Nat) : CacheOnly s (s.writeBack c line) := by
  unfold State.writeBack
  dsimp only
  split
  · exact CacheOnly.refl s
  · exact (homeMerge_shape s line _ _).trans (setL2_cacheOnly _ _ _ _)

theorem homeMerge_clu (s : State) (line : Nat) (l : Line) (m : BitVec 64) : (s.homeMerge line l m).clusters = s.clusters := by
  unfold State.homeMerge
  dsimp only
  split
  · rfl
  · obtain ⟨x, hx, _⟩ := markAll_mem { s with
        mem := writeMasked s.mem (64 * line) 64 l.data.toNat m.toNat
        poison := (List.range 8).foldl (fun p k =>
          if (anyWords m).getLsbD k then
            (if l.poison.getLsbD k then insertNat p (8 * line + k)
             else if (fullWords m).getLsbD k then p.filter (· != 8 * line + k) else p)
          else p) s.poison } (64 * line) l.marks
    rw [hx]

/-- After a line is written back it has no dirty byte; no other line changes. -/
theorem writeBack_l2 (s : State) (c : BitVec 5) (line j : Nat) :
    (s.writeBack c line).l2Line c j = if j = line ∧ (s.l2Line c line).dirty ≠ 0 then
      (if (s.l2Line c line).valid = 0 then {} else { s.l2Line c line with dirty := 0, marks := [] }) else s.l2Line c j := by
  unfold State.writeBack
  dsimp only
  split
  · rename_i h; rw [if_neg (by simp [h])]
  · rename_i h
    rw [State.l2Line_setL2]
    by_cases e : j = line
    · subst e; rw [if_pos rfl]; exact (if_pos ⟨rfl, h⟩).symm
    · rw [if_neg e, if_neg (fun q => e q.1)]
      simp only [State.l2Line, State.clu, homeMerge_clu]

theorem writeBack_dirty (s : State) (c : BitVec 5) (line j : Nat) :
    ((s.writeBack c line).l2Line c j).dirty = if j = line then 0 else (s.l2Line c j).dirty := by
  rw [writeBack_l2]
  by_cases e : j = line
  · subst e
    by_cases h : (s.l2Line c j).dirty = 0
    · rw [if_neg (by simp [h]), if_pos rfl, h]
    · rw [if_pos ⟨rfl, h⟩, if_pos rfl]; split <;> rfl
  · rw [if_neg (fun q => e q.1), if_neg e]

theorem dropClean_shape (s : State) (c : BitVec 5) (line : Nat) : ∃ k, s.dropClean c line = { s with clusters := k } := by
  unfold State.dropClean
  dsimp only
  split <;> exact ⟨_, rfl⟩

theorem dropClean_l2 (s : State) (c : BitVec 5) (line j : Nat) :
    (s.dropClean c line).l2Line c j = if j = line ∧ (s.l2Line c line).valid ≠ 0 then
      (if (s.l2Line c line).valid &&& (s.l2Line c line).dirty = 0 then {}
        else { s.l2Line c line with valid := (s.l2Line c line).valid &&& (s.l2Line c line).dirty }) else s.l2Line c j := by
  unfold State.dropClean
  dsimp only
  split
  · rename_i h; rw [if_neg (by simp [h])]
  · rename_i h
    rw [State.l2Line_setL2]
    by_cases e : j = line
    · subst e; rw [if_pos rfl]; exact (if_pos ⟨rfl, h⟩).symm
    · rw [if_neg e, if_neg (fun q => e q.1)]

/-! ## Sweeps over a slice -/

/-- Writing lines back one after another. -/
theorem writeBacks_shape (c : BitVec 5) (ls : List Nat) (s : State) : CacheOnly s (ls.foldl (fun s k => s.writeBack c k) s) := by
  induction ls generalizing s with
  | nil => exact CacheOnly.refl s
  | cons k r ih => exact (writeBack_shape s c k).trans (ih _)

theorem writeBacks_dirty (c : BitVec 5) (ls : List Nat) (s : State) (j : Nat) :
    ((ls.foldl (fun s k => s.writeBack c k) s).l2Line c j).dirty = if j ∈ ls then 0 else (s.l2Line c j).dirty := by
  induction ls generalizing s with
  | nil => simp
  | cons k r ih =>
    rw [List.foldl_cons, ih, writeBack_dirty]
    by_cases h : j ∈ r
    · rw [if_pos h, if_pos (List.mem_cons_of_mem _ h)]
    · rw [if_neg h]
      by_cases e : j = k
      · rw [if_pos e, if_pos (by simp [e])]
      · rw [if_neg e, if_neg (by simp [e, h])]

/-- Dropping clean bytes of lines one after another. -/
theorem dropCleans_shape (c : BitVec 5) (ls : List Nat) (s : State) :
    ∃ k, ls.foldl (fun s k => s.dropClean c k) s = { s with clusters := k } := by
  induction ls generalizing s with
  | nil => exact ⟨_, rfl⟩
  | cons k r ih =>
    obtain ⟨x, hx⟩ := dropClean_shape s c k
    obtain ⟨y, hy⟩ := ih (s.dropClean c k)
    refine ⟨y, ?_⟩
    rw [List.foldl_cons, hy, hx]

end Sys2Proof.Machine
end

