-- ==== Sys2Proof/Tests/Slice0.lean ====
section
/-! SUPPORT. The model's own tests: ill-formed terms that the checks of WellFormed refuse, words of the spec that the decoder reads,
one-step tests of fixed values, and a state that meets the hypotheses of each statement. -/

namespace Sys2Proof.Tests
set_option Elab.async false
open Sys2Proof.Machine

/-! ## Ill-formed terms are refused (R27 to R31, R153, R243, R245, R274) -/

theorem test_wf_refuses_float_format : (Instr.fadd 3 4 5 3 0).wf = false ∧ (Instr.fmin 3 4 5 7).wf = false := by decide
theorem test_wf_refuses_rounding : (Instr.fsqrt 3 4 0 5).wf = false ∧ (Instr.ffma 3 4 5 1 7).wf = false := by decide
theorem test_wf_refuses_convert_code : (Instr.fcvt 3 4 3 0 0).wf = false ∧ (Instr.fcvt 3 4 0x10 0 0).wf = false
    ∧ (Instr.fcvt 3 4 8 0 0).wf = false := by decide
theorem test_wf_refuses_branch_condition : (Instr.br 3 4 6 0).wf = false := by decide
theorem test_wf_refuses_load_store_size : (Instr.ld 3 4 7 0).wf = false ∧ (Instr.st 3 4 4 0).wf = false := by decide
theorem test_wf_refuses_fence_scope : (Instr.fence 4).wf = false := by decide
theorem test_wf_refuses_status_selector : (Instr.rstat 3 4).wf = false := by decide
theorem test_wf_refuses_integer_type : (Instr.iadd 6 0 0).wf = false ∧ (Instr.iand 7 0).wf = false := by decide
theorem test_wf_refuses_float_type : (Instr.faddNode 0 0 0).wf = false ∧ (Instr.fexp2 4 0).wf = false := by decide
theorem test_wf_refuses_second_operand : (Instr.iadd 0 3 0).wf = false ∧ (Instr.sel 0 3).wf = false := by decide
theorem test_wf_refuses_saturation_width : (Instr.isat 4 0).wf = false ∧ (Instr.isat 4 9).wf = false := by decide
theorem test_wf_refuses_part : (Instr.cvt 7 6 0 1 0 0).wf = true ∧ (Instr.cvt 7 6 0 2 0 0).wf = false
    ∧ (Instr.cvt 6 7 1 1 0 0).wf = false := by decide
theorem test_wf_refuses_small_float_source : (Instr.qconv 9 0).wf = false ∧ (Instr.qmax 6 6).wf = false := by decide
theorem test_wf_refuses_broadcast_element : (Instr.bcast 14 4).wf = false := by decide
theorem test_wf_refuses_combination : (Instr.xred 0 3).wf = false := by decide
theorem test_wf_refuses_chain_slot : (Instr.chain 1 0).wf = false := by decide
theorem test_wf_refuses_event_number : (Instr.sink 0 1 10).wf = false ∧ (Instr.gapc 0 1 15).wf = false ∧ (Instr.gapc 0 0 15).wf = true := by decide
theorem test_wf_refuses_memory_scope : (Instr.gld 0 0 0 2).wf = false ∧ (Instr.gld 0 0 1 6).wf = false := by decide
theorem test_wf_refuses_row_source : (Instr.tld 0 0 0 0).wf = false ∧ (Instr.tst 1 0 0 0 1).wf = false := by decide
theorem test_wf_refuses_fill_type : (Instr.tfill 15 1 0).wf = false := by decide
theorem test_wf_refuses_close_of_one_register : (Instr.tmma 2 2 0 1 0).wf = false ∧ (Instr.tmma 2 2 0 1 1).wf = true := by decide
theorem test_wf_refuses_checksum_operand : (Instr.cksum 0 0 0 0).wf = false := by decide

/-! ## Words written out from the spec's encodings decode to the instructions they stand for -/

/-- Table 2.2: OP [31:26], d [25:21], a [20:16], b [15:11], FN [10:0]: 000000 00011 00100 00101 00000000000. -/
theorem test_decode_add : decodeControl 0b00000000011001000010100000000000 = .add 3 4 5 := by decide
/-- MULDIV is OP 1, DIV its FN 3. -/
theorem test_decode_div : decodeControl 0b00000100011001000010100000000011 = .div 3 4 5 := by decide
/-- Table 2.2's FLT example: rounding 1 in [5:3], format 0 in [2:0] of FN's low bits. -/
theorem test_decode_fadd : decodeControl 0x08642820 = .fadd 3 4 5 0 1 := by decide
/-- OP 4 with i16 −2. -/
theorem test_decode_addi : decodeControl 0b00010000011000001111111111111110 = .addi 3 0 0xFFFE := by decide
theorem test_decode_branch : decodeControl 0x40603FFE = .br 3 0 1 0x1FFE ∧ decodeControl 0x40858008 = .br 4 5 4 8 := by decide
theorem test_decode_jump : decodeControl 0x47FFFFFD = .jmp 0x3FFFFFD ∧ decodeControl 0x48000064 = .call 0x64
    ∧ decodeControl 0x4C010000 = .jr 0 1 := by decide
theorem test_decode_load : decodeControl 0x50C26010 = .ld 6 2 3 0x10 := by decide
theorem test_decode_store : decodeControl 0x54E25FF8 = .st 7 2 2 0x1FF8 := by decide
theorem test_decode_sync : decodeControl 0x58853001 = .unbind 4 5 6 ∧ decodeControl 0x58040002 = .acqx 4
    ∧ decodeControl 0x58040004 = .rel 4 := by decide
theorem test_decode_region : decodeControl 0x60640000 = .rclaim 3 4 0 ∧ decodeControl 0x606638C0 = .rfeed 3 6 7
    ∧ decodeControl 0x60600180 = .rwait 3 := by decide
theorem test_decode_tensor : decodeControl 0x68642840 = .tdget 3 4 5 ∧ decodeControl 0x68640080 = .tdclr 3 4 := by decide
theorem test_decode_queue : decodeControl 0x64650040 = .cwait 3 5 0 ∧ decodeControl 0x64650080 = .cseq 3 5
    ∧ decodeControl 0x646800C0 = .pub 3 8 := by decide
theorem test_decode_system : decodeControl 0x70050411 = .swr 5 0x041 ∧ decodeControl 0x74000001 = .sysret := by decide
theorem test_decode_translation : decodeControl 0x78040000 = .tlbinvs 4 ∧ decodeControl 0x78042801 = .tlbinva 4 5
    ∧ decodeControl 0x78640002 = .spgen 3 4 := by decide
/-- Words that are no instruction: an unassigned OP, a bit set where a field must be zero, a condition of no branch. -/
theorem test_decode_illegal : decodeControl 0xFFFFFFFF = .illegalWord 0xFFFFFFFF ∧ decodeControl 0x00642FFF = .illegalWord 0x00642FFF
    ∧ decodeControl 0x4060DFFE = .illegalWord 0x4060DFFE := by decide

/-- R39 and R242: FADD of f32 with a constant, FFMA of bf16. -/
theorem test_decode_float_node : decodeOperation 0x20610000 = some (.faddNode 6 1 0)
    ∧ decodeOperation 0x23710000 = some (.ffmaNode 7 1 0) := by decide
theorem test_decode_convert_node : decodeOperation 0x30736100 = some (.cvt 7 6 0 1 0 0) := by decide
theorem test_decode_memory_node : decodeOperation 0x60630042 = some (.gld 6 0 1 2) ∧ decodeOperation 0x61600044 = some (.gst 6 0 1 4)
    ∧ decodeOperation 0x67F00000 = some (.done 0) := by decide
theorem test_decode_matrix_node : decodeOperation 0x77F32304 = some (.tmma 2 3 1 0 0)
    ∧ decodeOperation 0x73030001 = some (.temit 0 0 0 1) ∧ decodeOperation 0x72D12000 = some (.tfill 13 1 2) := by decide
theorem test_decode_no_node : decodeOperation 0xFF000000 = none ∧ decodeOperation 0x19000000 = none := by decide

/-! ## States for the tests -/

/-- Thread 0 ready at host level with these registers. -/
def ready (g : List (BitVec 5 × Word)) : State :=
  State.reset.modThr 0 (fun t => { g.foldl (fun t p => t.wr p.1 p.2) t with run := .ready })

/-- The translation of addresses 0 to 65535 of space 0 to the first bytes of memory. -/
def window : TlbEntry := { space := 0, gen := 0, base := 0, size := 65536, target := .device 0, user := true, write := true
                           dirtied := true, desc := none, shadow := false }

/-- And addresses 0 to 65535 of its space mapped to the first bytes of memory. -/
def mapped (g : List (BitVec 5 × Word)) : State := { ready g with tlb := [window] }

/-- The running thread changed. -/
def me (s : State) (f : Thread → Thread) : State := s.modMe f

/-- The running thread's region. -/
def region (s : State) (r : Region) : State := me s (fun t => { t with region := r })

/-- Does the outcome go on, in a state that passes? -/
def after (o : Out) (p : State → Bool) : Bool := match o with | .next t => p t | _ => false

/-- Does the outcome leave this value in register 3? -/
def gives (i : Instr) (s : State) (v : Word) : Bool := after (exec i s) (fun t => t.rd 3 == v && t.pc == s.pc + 4)

/-- Is a trap of this cause taken? -/
def traps (i : Instr) (s : State) (c : Word) (info : Word) : Bool :=
  after (exec i s) (fun t => t.me.trapcause == c && t.me.trapinfo == info && t.me.trappc == s.pc)

/-- Is this the status word of the answer, in register 3? -/
def answers (i : Instr) (s : State) (code detail : Nat) : Bool := gives i s (BitVec.ofNat 64 (detail * 2 ^ 32 + code))

/-- Does an address translate to this one? -/
def leads (s : State) (k : Access) (va : Word) (pa : Nat) : Bool :=
  match s.translate s.me.cred k false va with | (_, .ok x) => x.target == .device pa && s.me.cred.marksOk pa | _ => false

/-- Does an address resolve to this key? -/
def resolves (s : State) (c : Capt) (k : Access) (va : Word) (w : Waiter) (key : Nat) : Bool :=
  match s.resolve c k false va w with | (_, .ok p _) => p == key | _ => false

/-- Does a step go on to a state that passes? -/
def stepTo (s : State) (p : State → Bool) : Bool := after (step s) p

/-! ## Integer words (R69 to R72): expected values by hand from Tables 3.4 and 3.5 -/

theorem test_add_wraps : gives (.add 3 4 5) (ready [(4, -1), (5, 2)]) 1 = true := by decide +kernel
theorem test_add_zero_register : after (exec (.add 0 4 4) (ready [(4, 7)])) (fun t => t.rd 0 == 0) = true := by decide +kernel
theorem test_sub_source_is_destination : gives (.sub 3 3 4) (ready [(3, 5), (4, 7)]) (-2) = true := by decide +kernel
theorem test_bitwise : (gives (.and 3 4 5) (ready [(4, 12), (5, 10)]) 8 && gives (.or 3 4 5) (ready [(4, 12), (5, 10)]) 14
    && gives (.xor 3 4 5) (ready [(4, 12), (5, 10)]) 6 && gives (.andn 3 4 5) (ready [(4, 12), (5, 10)]) 4) = true := by decide +kernel
theorem test_shifts_take_six_bits : (gives (.shl 3 4 5) (ready [(4, 1), (5, 65)]) 2 && gives (.shr 3 4 5) (ready [(4, -1), (5, 63)]) 1
    && gives (.sha 3 4 5) (ready [(4, -8), (5, 65)]) (-4)) = true := by decide +kernel
theorem test_compares_signed : (gives (.slt 3 4 5) (ready [(4, -1), (5, 1)]) 1 && gives (.sltn 3 4 5) (ready [(4, -1), (5, 1)]) 0
    && gives (.min 3 4 5) (ready [(4, -1), (5, 1)]) (-1) && gives (.max 3 4 5) (ready [(4, -1), (5, 1)]) 1
    && gives (.minn 3 4 5) (ready [(4, -1), (5, 1)]) 1 && gives (.maxn 3 4 5) (ready [(4, -1), (5, 1)]) (-1)) = true := by decide +kernel
theorem test_bit_counts : (gives (.clz 3 4) (ready []) 64 && gives (.clz 3 4) (ready [(4, 1)]) 63
    && gives (.popc 3 4) (ready [(4, -1)]) 64) = true := by decide +kernel
theorem test_multiply_high : (gives (.mul 3 4 5) (ready [(4, -3), (5, 5)]) (-15) && gives (.mulh 3 4 5) (ready [(4, -1), (5, 1)]) (-1)
    && gives (.mulhn 3 4 5) (ready [(4, -1), (5, 2)]) 1) = true := by decide +kernel
theorem test_divide_by_zero : (gives (.div 3 4 5) (ready [(4, 7)]) (-1) && gives (.divn 3 4 5) (ready [(4, 7)]) (-1)
    && gives (.rem 3 4 5) (ready [(4, 7)]) 7 && gives (.remn 3 4 5) (ready [(4, 7)]) 7) = true := by decide +kernel
theorem test_divide_overflows : (gives (.div 3 4 5) (ready [(4, 0x8000000000000000), (5, -1)]) 0x8000000000000000
    && gives (.rem 3 4 5) (ready [(4, 0x8000000000000000), (5, -1)]) 0 && gives (.div 3 4 5) (ready [(4, -7), (5, 2)]) (-3)
    && gives (.rem 3 4 5) (ready [(4, -7), (5, 2)]) (-1)) = true := by decide +kernel
theorem test_immediates : (gives (.addi 3 4 0xFFFE) (ready [(4, 1)]) (-1) && gives (.andi 3 4 0x8000) (ready [(4, -1)]) 0x8000
    && gives (.ori 3 4 0x5678) (ready [(4, 0x12340000)]) 0x12345678 && gives (.xori 3 4 1) (ready [(4, 1)]) 0
    && gives (.ldhi 3 0x8000) (ready []) 0xFFFFFFFF80000000 && gives (.slti 3 4 0xFFFF) (ready [(4, -2)]) 1) = true := by decide +kernel
theorem test_shift_immediates : (gives (.shli 3 4 63) (ready [(4, 3)]) 0x8000000000000000 && gives (.shri 3 4 63) (ready [(4, -1)]) 1
    && gives (.shai 3 4 63) (ready [(4, 0x8000000000000000)]) (-1)) = true := by decide +kernel

/-! ## Floating-point words (R207 to R211): 1 is 0x3F800000, 2^−24 is 0x33800000 in f32 -/

/-- A value in register 3, and `FPCTL` after. -/
def fp (i : Instr) (s : State) (v ctl : Word) : Bool := after (exec i s) (fun t => t.rd 3 == v && t.me.fpctl == ctl)

/-- Half of the last place rounds to even, and up under RUP; inexact is bit 6 of `FPCTL`. -/
theorem test_fadd_rounds : (fp (.fadd 3 4 5 0 0) (ready [(4, 0x3F800000), (5, 0x33800000)]) 0x3F800000 0x40
    && fp (.fadd 3 4 5 0 3) (ready [(4, 0x3F800000), (5, 0x33800000)]) 0x3F800001 0x40
    && fp (.fsub 3 4 5 0 0) (ready [(4, 0x3F800000), (5, 0x3F800000)]) 0 0) = true := by decide +kernel
/-- Rounding code 4 takes the mode of `FPCTL`, 3 being RUP. -/
theorem test_fadd_dynamic : fp (.fadd 3 4 5 0 4) (me (ready [(4, 0x3F800000), (5, 0x33800000)]) (fun t => { t with fpctl := 3 }))
    0x3F800001 0x43 = true := by decide +kernel
/-- The largest f32 doubled overflows to infinity: overflow and inexact. -/
theorem test_fmul_overflows : fp (.fmul 3 4 5 0 0) (ready [(4, 0x7F7FFFFF), (5, 0x40000000)]) 0x7F800000 0x60 = true := by decide +kernel
/-- 2·3 + 1 = 7, exactly: g[d] is the addend. -/
theorem test_ffma : fp (.ffma 3 4 5 0 0) (ready [(3, 0x3F800000), (4, 0x40000000), (5, 0x40400000)]) 0x40E00000 0 = true := by decide +kernel
theorem test_reciprocals : (fp (.frcp 3 4 0 0) (ready [(4, 0x40000000)]) 0x3F000000 0
    && fp (.fsqrt 3 4 0 0) (ready [(4, 0x40800000)]) 0x40000000 0 && fp (.frsq 3 4 0 0) (ready [(4, 0x40800000)]) 0x3F000000 0
    && fp (.fsqrt 3 4 0 0) (ready [(4, 0xBF800000)]) 0x7FC00000 0x10) = true := by decide +kernel
/-- −0 is before +0; a NaN is canonical. -/
theorem test_fmin_fmax : (fp (.fmin 3 4 5 0) (ready [(5, 0x80000000)]) 0x80000000 0 && fp (.fmax 3 4 5 0) (ready [(4, 0x80000000)]) 0 0
    && fp (.fmax 3 4 5 0) (ready [(4, 0x7FA00000), (5, 0x3F800000)]) 0x7FC00000 0) = true := by decide +kernel
theorem test_fabs_fneg : (fp (.fabs 3 4 0) (ready [(4, 0xBF800000)]) 0x3F800000 0
    && fp (.fneg 3 4 0) (ready [(4, 0x3F800000)]) 0xBF800000 0) = true := by decide +kernel
theorem test_fcompare_unordered : (fp (.fcmpeq 3 4 5 0) (ready [(4, 0x7FC00000), (5, 0x7FC00000)]) 0 0
    && fp (.fcmplt 3 4 5 0) (ready [(4, 0xBF800000), (5, 0x3F800000)]) 1 0 && fp (.fcmple 3 4 5 0) (ready [(4, 0x80000000)]) 1 0) = true := by
  decide +kernel
/-- NaN to i32 is 0 and invalid; 2^31 is bounded; 2^24 + 1 from i32 rounds. -/
theorem test_fcvt : (fp (.fcvt 3 4 0x14 0 0) (ready [(4, 0x7FC00000)]) 0 0x10 && fp (.fcvt 3 4 0x14 0 0) (ready [(4, 0x4F000000)]) 0x7FFFFFFF 0x10
    && fp (.fcvt 3 4 4 0 0) (ready [(4, 0x1000001)]) 0x4B800000 0x40) = true := by decide +kernel

/-! ## Control transfer and traps (R73 to R75, R93 to R96, R353) -/

theorem test_branch_back : after (exec (.br 3 0 1 0x1FFE) (me (ready [(3, 1)]) (fun t => { t with pc := 0x100 }))) (fun t => t.pc == 0xF8) = true := by
  decide +kernel
theorem test_branch_not_taken : after (exec (.br 4 5 2 4) (ready [(4, 1), (5, -1)])) (fun t => t.pc == 4) = true := by decide +kernel
theorem test_jump_and_call : (after (exec (.jmp 0x3FFFFFD) (me (ready []) (fun t => { t with pc := 0x100 }))) (fun t => t.pc == 0xF4)
    && after (exec (.call 0x64) (me (ready []) (fun t => { t with pc := 0x100 }))) (fun t => t.pc == 0x290 && t.rd 1 == 0x104)) = true := by decide +kernel
theorem test_jr_same_register : after (exec (.jr 4 4) (ready [(4, 0x200)])) (fun t => t.pc == 0x200 && t.rd 4 == 4) = true := by decide +kernel
theorem test_jr_misaligned : traps (.jr 3 4) (ready [(4, 0x202)]) 3 0x202 = true := by decide +kernel
/-- TRAP 7 returns past itself, at level 2 with PPL 2. -/
theorem test_trap : after (exec (.trap 7) (me (ready []) (fun t => { t with trapvec := 0x4000, status := 0x12, pc := 0x20 })))
    (fun t => t.pc == 0x4000 && t.me.trappc == 0x24 && t.me.trapcause == 0x10 && t.me.trapinfo == 7 && t.me.status == 0x2A) = true := by decide +kernel
/-- To user level: IE from PIE, TRAPCAUSE and TRAPINFO cleared. -/
theorem test_sysret : after (exec .sysret (me (ready []) (fun t => { t with status := 0x22, trappc := 0x80, trapcause := 1, trapinfo := 9 })))
    (fun t => t.pc == 0x80 && t.me.trapcause == 0 && t.me.trapinfo == 0 && t.me.status == 0x30) = true := by decide +kernel
theorem test_sysret_misaligned : traps .sysret (me (ready []) (fun t => { t with trappc := 0x82 })) 3 0x82 = true := by decide +kernel
theorem test_halt : after (exec .halt (ready [])) (fun t => t.me.run == .halted) = true := by decide +kernel
theorem test_wfe : after (exec .wfe (ready [])) (fun t => t.me.wait == .wfe && t.pc == 0) = true := by decide +kernel
theorem test_illegal_word : traps (.illegalWord 0xFFFFFFFF) (ready []) 1 0xFFFFFFFF = true := by decide +kernel

/-! ## System registers, mailboxes, triggers -/

theorem test_srd : gives (.srd 3 0x002) (ready []) 2 = true := by decide +kernel
theorem test_srd_level : traps (.srd 3 0x010) (me (ready []) (fun t => { t with status := 0 })) 2 0x010 = true := by decide +kernel
/-- PL is kept, PPL 3 exceeds it and is kept too, IE and PIE are set. -/
theorem test_swr_status : after (exec (.swr 4 0x002) (ready [(4, 0x3C)])) (fun t => t.me.status == 0x32) = true := by decide +kernel
theorem test_sset_sclr : (after (exec (.sset 3 4 0x0A0) (me (ready [(4, 6)]) (fun t => { t with seed := 3 }))) (fun t => t.rd 3 == 3 && t.me.seed == 7)
    && after (exec (.sclr 3 4 0x0A0) (me (ready [(4, 6)]) (fun t => { t with seed := 3 }))) (fun t => t.rd 3 == 3 && t.me.seed == 1)) = true := by
  decide +kernel
theorem test_mailbox_send : after (exec (.swr 4 0x041) (me (ready [(4, 9)]) (fun t => { t with mboxdest := 0x205 })))
    (fun t => t.flits == [⟨0, 5, 1, 9⟩]) = true := by decide +kernel
theorem test_mailbox_receive : after (exec (.srd 3 0x049) (me (ready []) (fun t => { t with mbox := t.mbox.set 1 [7, 8] })))
    (fun t => t.rd 3 == 7 && t.me.mbox[1] == [8]) = true := by decide +kernel
theorem test_register_steps : (after (exec .sysregWrite { ready [] with ev := { k := 0x0A1, v := 5 } }) (fun t => t.me.epoch == 5)
    && after (exec .statusWrite { ready [] with ev := { v := 0x30 } }) (fun t => t.me.status == 0x32)
    && after (exec .mboxoutWrite { ready [] with ev := { v := 5 } }) (fun t => t.flits == [⟨0, 0, 0, 5⟩])
    && after (exec .injctlWrite { ready [] with ev := { v := 0x8000000000000000 } }) (fun t => t.module.injctl == 0x8000000000000000)) = true := by
  decide +kernel
theorem test_mailbox_read_step : after (exec .mboxinRead { me (ready []) (fun t => { t with mbox := t.mbox.set 2 [7] }) with ev := { k := 2, w := 3 } })
    (fun t => t.rd 3 == 7 && t.me.mbox[2] == []) = true := by decide +kernel
/-- A flit to an empty context is lost. -/
theorem test_flit_arrival : (after (exec .mboxFlitArrival { ready [] with flits := [⟨4, 0, 1, 9⟩] })
      (fun t => t.me.mbox[1] == [9] && t.me.trig[11] == 0x1000000000000 && t.flits == [])
    && after (exec .mboxFlitArrival { ready [] with flits := [⟨4, 7, 1, 9⟩] }) (fun t => (t.thr 7).lost[1] == 1)) = true := by decide +kernel
theorem test_doorbell : (after (exec .doorbellFlit { ready [] with ev := { k := 8, v := 6 }, doorbells := [(0, { dest := 0x403 })] })
      (fun t => t.flits == [⟨512, 3, 2, 6⟩])
    && after (exec .discardsWrite { ready [] with doorbells := [(0, { discards := 4 })] }) (fun t => Tab.get {} t.doorbells 0 == ({} : Doorbell))) = true := by
  decide +kernel
/-- Entry 3 with two events pending and its handler at word 0x100. -/
def triggered : State := me (ready []) (fun t => { t with
  status := 0x10, pc := 0x40, trig := (t.trig.set 3 0x0502800000000100) })
theorem test_trigger_delivery : after (exec .triggerDelivery triggered) (fun t => t.pc == 0x400 && t.me.trappc == 0x40 && t.me.trapcause == 0x0C
    && t.me.trapinfo == 0x10503 && t.me.status == 0x20 && t.me.trig[3] == 0x0501800000000100) = true := by decide +kernel
theorem test_wait_ends : after (exec .wfeSpuriousEnd (me (ready []) (fun t => { t with wait := .wfe }))) (fun t => t.pc == 4) = true := by decide +kernel

theorem witness_SystemRegisterWrites : ∃ q ∈ plainRegs, q.level ≤ (fld (ready []).me.status 0 2 : BitVec 2).toNat ∧ q.level = 1 := by decide +kernel
theorem witness_SystemRegisterReads : ∃ r : BitVec 12, sysLevels r = none := ⟨0x0FF, by decide⟩
theorem witness_SystemRegisterLevels_read : let s := me (ready []) (fun t => { t with status := 0 })
    sysLevels 0x010 = some (1, some 1) ∧ (fld s.me.status 0 2 : BitVec 2).toNat < 1 := by decide +kernel
theorem witness_SystemRegisterLevels_write : ∃ r : BitVec 12, ∃ l, sysLevels r = some (l, none) ∧ ¬(0x48 ≤ r.toNat ∧ r.toNat ≤ 0x4B) := ⟨0x000, _, rfl, by decide⟩
theorem witness_MailboxSend_barred : let m := (me (ready []) (fun t => { t with partition := 0x100004000000, status := 0 })).me
    (fld m.partition 26 6 : BitVec 6) ≠ 0 ∧ (fld m.status 0 2 : BitVec 2).toNat < 2
      ∧ m.partition.getLsbD (32 + (clusterOf (fld m.mboxdest 0 9)).toNat) = false := by decide +kernel
theorem witness_FlitArrival : let s : State := { ready [] with flits := [⟨4, 0, 1, 9⟩], ev := { k := 0 } }
    s.flits[s.ev.k]? = some ⟨4, 0, 1, 9⟩ ∧ ∀ g ∈ s.flits.take s.ev.k, ¬(g.src = 4 ∧ g.dest = 0 ∧ g.box = 1) := by decide +kernel
theorem witness_Doorbells : let s : State := { ready [] with ev := { k := 8, f := 1 } }
    s.ev.f.toNat ≤ 32 ∧ s.ev.k = 8 ∧ ¬(s.ev.f = 0 ∨ s.fnMask s.ev.f (clusterOf (fld (Tab.get ({} : Doorbell) s.doorbells 1).dest 0 9)) = true) := by
  decide +kernel
theorem witness_TriggerDelivery : let m := (triggered.thr triggered.ev.n)
    m.run = .ready ∧ fld m.status 4 1 = 1#1 ∧ fld m.status 0 2 = 0#2 ∧ m.saver = none ∧ m.wait = .none ∧ trigV m.trig[3] = true
      ∧ trigPend m.trig[3] ≠ 0 ∧ ∀ j : Fin 16, j < 3 → ¬(trigV m.trig[j] = true ∧ trigPend m.trig[j] ≠ 0) := by decide +kernel
theorem witness_WaitEnds : let s := me (ready []) (fun t => { t with wait := .wfe })
    (s.thr s.ev.n).wait = .wfe := by decide +kernel

/-! ## Translation, loads and stores -/

/-- The state with little-endian values in memory: address, length, value. -/
def put (s : State) (l : List (Nat × Nat × Nat)) : State := { s with mem := l.foldl (fun m p => writeLE m p.1 p.2.1 p.2.2) s.mem }

/-- A level 3 entry at 0 that leads to a table at 0x1000, whose first entry is a leaf of 1 GiB at 0. -/
def tables (leaf : Nat) : State := put (ready []) [(0, 8, 0x1001), (0x1000, 8, leaf)]

/-- A write of a page that permits it sets A and D in the leaf (bits 4 and 5). -/
theorem test_table_walk : (match (tables 0xF).resolve (tables 0xF).me.cred .write false 0x200 (.thread 0) with
    | (t, .ok key _) => key == 0x200 && readLE t.mem 0x1000 8 == 0x3F | _ => false) = true := by decide +kernel
theorem test_table_walk_denied : (match (tables 0xB).resolve (tables 0xB).me.cred .write false 0x200 (.thread 0) with
    | (_, .fault c) => c == 5 | _ => false) = true := by decide +kernel
theorem test_load_extends : (gives (.ld 3 4 0 0) (put (mapped [(4, 0x100)]) [(0x100, 1, 0x80)]) (-128)
    && gives (.ld 3 4 4 0x1FFF) (put (mapped [(4, 0x101)]) [(0x100, 1, 0x80)]) 0x80
    && gives (.ld 3 4 2 0) (put (mapped [(4, 0x100)]) [(0x100, 4, 0x89ABCDEF)]) 0xFFFFFFFF89ABCDEF) = true := by decide +kernel
theorem test_load_misaligned : traps (.ld 3 4 3 4) (mapped [(4, 0x100)]) 3 0x104 = true := by decide +kernel
theorem test_load_poisoned : traps (.ld 3 4 3 0) { mapped [(4, 0x100)] with poison := [0x20] } 9 0x100 = true := by decide +kernel
theorem test_store_bytes : after (exec (.st 5 4 1 2) (mapped [(4, 0x100), (5, 0x12345678)]))
    (fun t => t.coreByte 0 0x102 == 0x78 && t.coreByte 0 0x103 == 0x56 && t.coreByte 0 0x104 == 0) = true := by decide +kernel
theorem test_store_high_address : traps (.st 5 4 0 0) (mapped [(4, 0x10000000000000)]) 5 0x10000000000000 = true := by decide +kernel

theorem witness_Translation : let s := mapped []
    (fld (0x100 : Word) 52 12 : BitVec 12) = 0 ∧ s.me.cred.spaceOk = true
      ∧ s.tlb.find? (fun e => e.serves s s.me.cred .write false 0x100) = some window ∧ window.target = .device 0
      ∧ s.me.cred.paOk 0x100 = true ∧ s.me.cred.marksOk 0x100 = true := by decide +kernel
theorem witness_Translation_outside : let s : State := { ready [] with tlb := [{ window with target := .device (2 ^ 41) }] }
    (s.tlb.find? (fun e => e.serves s s.me.cred .write false 0x100)).isSome = true ∧ s.me.cred.paOk (2 ^ 41 + 0x100) = false := by decide +kernel
theorem witness_TableWalk : let s := tables 0xF; let c := s.me.cred; let e : Word := 0x1001; let f : Word := 0xF
    (fld (0x200 : Word) 52 12 : BitVec 12) = 0 ∧ c.spaceOk = true ∧ s.tlb.find? (fun e => e.serves s c .write false 0x200) = none
      ∧ (fld c.ptbase 16 26 : BitVec 26).toNat * 65536 = 0 ∧ c.paOk 0 = true ∧ (s.homeRead 0 8).2 = (e.toNat, false)
      ∧ e.getLsbD 0 = true ∧ e.getLsbD 1 = false ∧ e.getLsbD 7 = false ∧ (fld e 40 24 : BitVec 24) = 0
      ∧ (fld e 6 1 : BitVec 1).toNat * 2 ^ 40 + (fld e 8 32 : BitVec 32).toNat * 256 = 0x1000 ∧ c.paOk 0x1000 = true
      ∧ ((s.homeRead 0 8).1.homeRead 0x1000 8).2 = (f.toNat, false) ∧ f.getLsbD 0 = true ∧ f.getLsbD 1 = true ∧ f.getLsbD 2 = true
      ∧ (fld f 7 1 : BitVec 1) = 0 ∧ (fld f 8 8 : BitVec 8) = 0 ∧ (fld f 16 24 : BitVec 24) = 0 ∧ (fld f 40 24 : BitVec 24) = 0
      ∧ c.paOk 0x200 = true ∧ c.marksOk 0x200 = true := by decide +kernel
theorem witness_LoadWord : let s := mapped [(4, 0x100)]
    (s.rd 4).toNat % 8 = 0 ∧ resolves s s.me.cred .read 0x100 (.thread s.cur) 0x100 = true
      ∧ (s.l1Load (coreOf s.cur) 0x100 8).2.2 = false := by decide +kernel
theorem witness_StoreWord : let s := mapped [(4, 0x100)]
    (s.rd 4).toNat % 8 = 0 ∧ resolves s s.me.cred .write 0x100 (.thread s.cur) 0x100 = true ∧ Memory.wf s.mem = true := by decide +kernel

/-! ## Bindings, synchronisation, fences and atomics -/

theorem test_bind_unbind : (after (exec (.bind 4 5 6) (ready [(4, 0x1000), (5, 0x2000), (6, 64)])) (fun t => t.me.binds == [⟨0x1000, 0x2000, 64⟩])
    && after (exec (.unbind 4 5 6) (me (ready [(4, 0x1000), (5, 0x2000), (6, 64)]) (fun t => { t with binds := [⟨0x1000, 0x2000, 64⟩] })))
      (fun t => t.me.binds == [])
    && traps (.bind 4 5 6) (ready [(4, 0x1000), (5, 0x2000), (6, 0x100000040)]) 5 0x100000040) = true := by decide +kernel
/-- Table 9.5: NEXT at 0, SERVING at 4, VERSION at 8, OWNER at 0x10, SHARERS at 0x14. -/
theorem test_acqx : after (exec (.acqx 4) (mapped [(4, 0x1000)]))
    (fun t => readLE t.mem 0x1000 4 == 1 && readLE t.mem 0x1010 4 == 1 && t.me.held == [(0x1000, true)]) = true := by decide +kernel
theorem test_acqs : after (exec (.acqs 4) (mapped [(4, 0x1000)]))
    (fun t => readLE t.mem 0x1000 4 == 1 && readLE t.mem 0x1004 4 == 1 && readLE t.mem 0x1014 4 == 1 && t.me.held == [(0x1000, false)]) = true := by
  decide +kernel
theorem test_acqx_waits : after (exec (.acqx 4) (put (mapped [(4, 0x1000)]) [(0x1000, 4, 1)]))
    (fun t => readLE t.mem 0x1000 4 == 2 && t.me.wait == .ticket true 0x1000 1 && t.pc == 0) = true := by decide +kernel
theorem test_rel_exclusive : after (exec (.rel 4) (me (put (mapped [(4, 0x1000)]) [(0x1000, 4, 1), (0x1010, 4, 1)])
      (fun t => { t with held := [(0x1000, true)] })))
    (fun t => readLE t.mem 0x1004 4 == 1 && readLE t.mem 0x1008 8 == 1 && readLE t.mem 0x1010 4 == 0 && t.me.held == []) = true := by decide +kernel
theorem test_fence_writes_back : after (exec (.fence 1) ((mapped []).modClu 0 (fun c => { c with l2 := [(4, { data := 0xAB, valid := 1, dirty := 1 })] })))
    (fun t => readLE t.mem 0x100 1 == 0xAB && (t.l2Line 0 4).valid == 0) = true := by decide +kernel
theorem test_atomics : (after (exec (.aadd 3 4 5 0) (put (mapped [(4, 0x100), (5, 7)]) [(0x100, 4, 0xFFFFFFFE)]))
      (fun t => t.rd 3 == 0xFFFFFFFE && readLE t.mem 0x100 8 == 5)
    && after (exec (.amin 3 4 5 0) (put (mapped [(4, 0x100), (5, 7)]) [(0x100, 4, 0xFFFFFFFE)])) (fun t => readLE t.mem 0x100 4 == 0xFFFFFFFE)
    && after (exec (.aminn 3 4 5 0) (put (mapped [(4, 0x100), (5, 7)]) [(0x100, 4, 0xFFFFFFFE)])) (fun t => readLE t.mem 0x100 4 == 7)
    && after (exec (.axchg 3 4 5 1) (put (mapped [(4, 0x100), (5, 7)]) [(0x100, 8, 9)])) (fun t => t.rd 3 == 9 && readLE t.mem 0x100 8 == 7)) = true := by
  decide +kernel
theorem test_compare_and_swap : (after (exec (.acas 3 4 5 1) (put (mapped [(3, 9), (4, 0x100), (5, 7)]) [(0x100, 8, 9)]))
      (fun t => t.rd 3 == 9 && readLE t.mem 0x100 8 == 7)
    && after (exec (.acas 3 4 5 1) (put (mapped [(3, 8), (4, 0x100), (5, 7)]) [(0x100, 8, 9)])) (fun t => t.rd 3 == 9 && readLE t.mem 0x100 8 == 9)) = true := by
  decide +kernel

theorem witness_BindWords : let s := ready [(4, 0x1000), (5, 0x2000), (6, 64)]
    (s.rd 4).toNat % 64 = 0 ∧ (s.rd 5).toNat % 64 = 0 ∧ (s.rd 6).toNat % 64 = 0 ∧ s.rd 6 ≠ 0 ∧ (s.rd 6).toNat ≤ 2 ^ 32
      ∧ (⟨s.rd 4, s.rd 5, s.rd 6⟩ : Bind) ∉ s.me.binds ∧ s.me.binds.length < 16 := by decide +kernel
/-- The length 2^32 is allowed: the boundary of R289. -/
theorem witness_BindWords_longest : ((0x100000000 : Word).toNat % 64 = 0 ∧ (0x100000000 : Word).toNat ≤ 2 ^ 32) := by decide
theorem witness_AcquireWords : let s := mapped [(4, 0x1000)]; let took := s.homeStore s.me.cred 0x1000 4 1
    s.me.wait = .none ∧ (s.rd 4).toNat % 64 = 0 ∧ leads s .write 0x1000 0x1000 = true ∧ s.me.held = [] ∧ (s.homeRead 0x1000 64).2.2 = false
      ∧ readLE s.mem 0x1000 4 = 0 ∧ readLE took.mem 0x1004 4 = 0 ∧ readLE took.mem 0x1014 4 = 0 ∧ (took.boundTo 0x1000).2.asked = false := by decide +kernel
theorem witness_AcquireTraps : let s := mapped [(4, 0x1000)]; let p : State := { s with poison := [0x200] }
    s.me.wait = .none ∧ (s.rd 4).toNat % 64 = 0 ∧ leads s .write 0x1000 0x1000 = true ∧ s.me.held = [] ∧ (p.homeRead 0x1000 64).2.2 = true
      ∧ (match s.translate s.me.cred .write false 0x10000000000000 with | (_, .error c) => c == 5 | _ => false) = true
      ∧ traps (.acqs 4) p 9 0x1000 = true ∧ traps (.rel 4) (mapped [(4, 0x1001)]) 3 0x1001 = true := by decide +kernel
theorem witness_ReleaseWord : let s := me (mapped [(4, 0x1000)]) (fun t => { t with held := [(0x1000, true)] })
    leads s .write 0x1000 0x1000 = true ∧ (s.homeRead 0x1000 64).2.2 = false ∧ (s.boundTo 0x1000).2.asked = false
      ∧ ((0x1000 : Word), true) ∈ s.me.held := by decide +kernel
theorem witness_AtomicWords : let s := mapped [(4, 0x100)]
    (s.rd 4).toNat % 8 = 0 ∧ leads s .write 0x100 0x100 = true
      ∧ (((s.dropL1In (coreOf s.cur) [(0x100, 0x140)]).dropClean (clusterOf s.cur) 4).homeRead 0x100 8).2.2 = false := by decide +kernel

/-! ## Regions -/

/-- A region in a state. -/
def at_ (st : BitVec 4) : Region := { st := st }

/-- An image of one page without a node: channel 0 enters tile (0, 0) by its ingress port and leaves by its egress port (0x0067). -/
def through : Nat := fieldsAt [fieldAt 0 4 0x30344541, fieldAt 4 2 1, fieldAt 0xE 2 1, fieldAt 0x28 8 (imgLength 1 1),
  recordsAt 64 1024 (List.replicate 16 (recordsAt 0 4 (List.replicate 8 0xFF000000))), fieldAt (64 + 0x180) 2 1, fieldAt (64 + 0x188) 2 0x0067]

/-- A descriptor of one dimension of 8 f32 at 0x8000, to be read or written. -/
def tensor (bits : Nat) : Nat := fieldsAt [fieldAt 0 8 0x8000, fieldAt 8 1 6, fieldAt 9 1 1, fieldAt 0xA 1 bits,
  fieldAt 0x10 4 8, fieldAt 0x14 4 1, fieldAt 0x18 4 1, fieldAt 0x1C 4 1, fieldAt 0x20 4 4]

/-- Both ports bound to entries of the tensor table. -/
def bound : List Port := [{ id := 0, kind := .ingress, num := 1 }, { id := 0, kind := .egress, num := 2 }]

/-- A region with that image loaded and bound. -/
def loaded (st : BitVec 4) (g : List (BitVec 5 × Word)) : State :=
  me (mapped g) (fun t => { t with
    region := { st := st, image := through, ports := bound }
    tensors := [(1, BitVec.ofNat 512 (tensor 1)), (2, BitVec.ofNat 512 (tensor 2))] })

theorem test_region_refusals : (answers (.rload 3 4) (ready []) 0x101 0 && answers (.rload 3 4) (region (ready []) (at_ 3)) 0x102 0
    && answers (.rdrain 3) (region (ready []) (at_ 3)) 0x102 0 && answers (.rkill 3) (region (ready []) (at_ 3)) 0x102 0) = true := by decide +kernel
theorem test_rclaim_refused : (answers (.rclaim 3 4 1) (ready [(4, 0x3000)]) 0x103 0 && answers (.rclaim 3 4 0) (region (ready []) (at_ 3)) 0x102 0) = true := by
  decide +kernel
/-- A free cluster's arbiter would admit the claim at once; without such a cycle it is pending (log 83). -/
theorem test_rclaim_enters : let s := (ready [(4, 0x60)]).enterClaim 0 0x60
    s.me.region.st = 1 ∧ s.me.claim = some ⟨0x60, 0, 0⟩ ∧ (s.arbiter 0).me.region.st = 2 := by decide +kernel

/-- Thread 0 waits in RCLAIM for one page. -/
def claiming : State := me (ready []) (fun t => { t with claim := some ⟨0x60, 0, 0⟩, region := at_ 1, wait := .claim 3 })
theorem test_arbiter : after (exec .arbiterCycle claiming)
    (fun t => t.me.region.st == 2 && t.me.region.origin == 0 && t.rd 3 == 0 && t.pc == 4 && t.me.claim == none) = true := by decide +kernel
theorem witness_ArbiterAdmission : let s := claiming
    s.threads.all (fun p => !(clusterOf (BitVec.ofNat 9 p.1) == 0 && p.2.region.st == 8 && !p.2.region.placed)) = true
      ∧ s.eligible 0 0x60 = some 0 ∧ s.me.claim = some ⟨0x60, 0, 0⟩ ∧ s.me.region.st = 1 ∧ s.blocking 0 = none
      ∧ (s.ranked 0).find? (fun p => (s.eligible 0 p.2.word).isSome) = some (0, ⟨0x60, 0, 0⟩) := by decide +kernel
theorem witness_ClaimWord : let s := ready [(4, 0x60)]; let w := s.rd 4
    s.me.region.st.toNat ≤ 1 ∧ (fld w 14 50 : BitVec 50) = 0 ∧ ¬(w.getLsbD 12 = true ∧ w.getLsbD 13 = true)
      ∧ (fld s.me.status 0 2 : BitVec 2) ≠ 0 ∧ (fld s.me.partition 26 6 : BitVec 6) = 0 := by decide +kernel

/-- An image whose first bytes are no MAGIC answers IMAGE at offset 0. -/
theorem test_rload_no_image : answers (.rload 3 4) (region (mapped [(4, 0x1000)]) (at_ 2)) 8 0 = true := by decide +kernel
theorem test_rfeed_rtap : (after (exec (.rtap 3 4 5) (loaded 3 [(5, 7)])) (fun t => t.rd 3 == 0
      && t.me.region.ports == [{ id := 0, kind := .ingress, num := 1 }, { id := 0, kind := .egress, num := 7 }])
    && answers (.rfeed 3 4 5) (loaded 3 [(4, 1), (5, 7)]) 0x103 0) = true := by decide +kernel
theorem test_bridge_bindings : (after (exec (.rfeedBridge 3 4 5) (loaded 3 [(5, 9)])) (fun t => t.rd 3 == 0
      && (Tab.get ({} : Bridge) t.bridges 9).consumer == some (0, 0))
    && after (exec (.rtapBridge 3 4 5) (loaded 3 [(5, 9)])) (fun t => t.rd 3 == 0
      && (Tab.get ({} : Bridge) t.bridges 9).producer == some (0, 0))) = true := by decide +kernel
/-- The start captures SEED and counts one sink to report. -/
theorem test_rstart : after (exec (.rstart 3 4) (me (loaded 3 [(4, 0x40)]) (fun t => { t with seed := 5 }))) (fun t => t.rd 3 == 0
    && t.me.region.st == 4 && t.me.region.seed == 5 && t.me.region.left == 1 && t.me.region.comp == 0x40) = true := by decide +kernel
theorem test_rstart_unbound : answers (.rstart 3 4) (region (mapped [(4, 0x40)]) { st := 3, image := through }) 0x104 0 = true := by decide +kernel
theorem test_rdrain_rwait_rstat : (after (exec (.rdrain 3) (loaded 5 [])) (fun t => t.rd 3 == 0 && t.me.region.st == 6)
    && gives (.rwait 3) (region (ready []) { st := 5, last := some 0x700000001 }) 0x700000001
    && after (exec (.rwait 3) (region (ready []) { st := 4, running := true })) (fun t => t.me.wait == .reissue)
    && gives (.rstat 3 0) (region (ready []) { st := 5, flags := 3 }) 0x30005) = true := by decide +kernel
theorem test_rwait_drained : (gives (.rwaitDrained 3) (region (ready []) { st := 7, last := some 0x700000001 }) 0x700000001
    && after (exec (.rwaitDrained 3) (region (ready []) { st := 5, last := some 1 })) (fun t => t.me.wait == .reissue)) = true := by decide +kernel
theorem test_rfree : after (exec (.rfree 3) ((region (ready []) { st := 5, claim := 0 }).modClu 0 (fun c => { c with used := 1 })))
    (fun t => t.rd 3 == 0 && t.me.region == {}) = true := by decide +kernel
/-- The completion word: CONFIG 0, status KILLED, no END. -/
theorem test_rkill : after (exec (.rkill 3) (region (mapped []) { st := 4, running := true, image := through, comp := 0x40 }))
    (fun t => t.rd 3 == 0 && t.me.region.st == 9 && t.me.region.last == some 0xA00000000) = true := by decide +kernel
theorem test_rswap_td_late : answers (.rswapTd 3 4) (region (mapped []) { st := 4, image := through, ports := [{ id := 0, kind := .ingress, num := 1, endSent := true }] }) 0x105 0 = true := by decide +kernel
theorem test_rsweep_rpost : (after (exec (.rsweep 3) (region (mapped []) { st := 4, image := through })) (fun t => t.me.wait == .inside
      && answers (.rsweep 3) t 0 0)
    && traps (.rpost 3 4) (me (ready []) (fun t => { t with status := 0 })) 2 0) = true := by decide +kernel
theorem test_rmark : after (exec (.rmark 3 4) (me (mapped [(4, 9)]) (fun t => { t with ctxbase := 0x4000, region := { st := 4, image := through } })))
    (fun t => t.me.wait == .inside && (t.me.region.mark).map (·.num) == some 9) = true := by decide +kernel
theorem test_rreplay : after (exec (.rreplay 3) (loaded 9 [])) (fun t => t.rd 3 == 0 && t.me.region.st == 4 && t.me.region.running) = true := by decide +kernel
theorem test_rswap : answers (.rswap 3 4) (region (mapped [(4, 0x1000)]) (at_ 7)) 8 0 = true := by decide +kernel

/-- One thread with a region in this state, and the image's bytes in memory. -/
def imageAt (st : BitVec 4) (m : Memory) : State := { me (mapped []) (fun t => { t with region := { st := st } }) with mem := m }

theorem imageAt_resolve (st : BitVec 4) (m : Memory) (k : Nat) (h : k < 65536) (w : Waiter) :
    (imageAt st m).resolve (imageAt st m).me.cred .read false (BitVec.ofNat 64 k) w = (imageAt st m, .ok k ⟨.device k, none⟩) := by
  have hm : (imageAt st m).me.cred = { pl := 2, dirtygran := 16 } := by
    show (imageAt 2 []).me.cred = _
    decide +kernel
  have hk : (BitVec.ofNat 64 k).toNat = k := by simp; omega
  have hg : ((imageAt st m).gen 0).gen = 0 := rfl
  have hs : window.serves (imageAt st m) { pl := 2, dirtygran := 16 } .read false k = true := by
    simp [TlbEntry.serves, window, h, Capt.spnum, hg]
  have ht : (imageAt st m).tlb.find? (fun e => e.serves (imageAt st m) { pl := 2, dirtygran := 16 } .read false k) = some window := by
    show [window].find? _ = _
    rw [List.find?_cons, hs]
  have hp : (({ pl := 2, dirtygran := 16 } : Capt).paOk k) = true := by
    have h0 : k / 2 ^ 40 = 0 := by omega
    have h1 : k < Config.gddrBytes := by unfold Config.gddrBytes; omega
    have ht : tierOk k = true := by unfold tierOk; rw [h0]; exact decide_eq_true h1
    simp [Capt.paOk, Capt.checked, ht]
  have hf : ¬(fld (BitVec.ofNat 64 k) 52 12 ≠ 0 ∨ !({ pl := 2, dirtygran := 16 } : Capt).spaceOk) := by
    have : (fld (BitVec.ofNat 64 k) 52 12 : BitVec 12) = 0 := by
      apply BitVec.eq_of_toNat_eq
      rw [BitVec.extractLsb'_toNat, hk, Nat.shiftRight_eq_div_pow, Nat.div_eq_of_lt (by omega)]
      rfl
    simp [this]; decide
  rw [hm]
  simp only [State.resolve, State.translate, if_neg hf, hk, ht, window, Target.at, Xl.check, Nat.zero_add, Nat.sub_zero, hp, if_true]
  simp

theorem readHome_image (st : BitVec 4) (m : Memory) (n k : Nat) (h : k + 64 * n ≤ 65536) (h64 : k % 64 = 0) :
    State.readHome n (BitVec.ofNat 64 k) (imageAt st m) = (imageAt st m, .ok (readLE m k (64 * n))) := by
  induction n generalizing k with
  | zero => rfl
  | succ n ih =>
    have hr : (imageAt st m).homeRead k 64 = (imageAt st m, readLE m k 64, false) := by
      have ha : (imageAt st m).module.armed 0 = false := by
        show Module.armed {} 0 = false
        decide
      simp only [State.homeRead, State.injectHome, ha, Bool.false_eq_true, false_and, if_false]
      rfl
    have hadd : BitVec.ofNat 64 k + 64 = BitVec.ofNat 64 (k + 64) := by
      rw [BitVec.ofNat_add]; rfl
    simp only [State.readHome, imageAt_resolve st m k (by omega), hr, hadd, ih (k + 64) (by omega) (by omega)]
    rw [show 64 * (n + 1) = 64 + 64 * n by omega, readLE_add, show (2:Nat) ^ 512 = 256 ^ 64 by decide +kernel, Nat.mul_comm (256 ^ 64)]

theorem readLE_written (n v a : Nat) : readLE (writeLE [] 0 n v) a (n - a) = v / 256 ^ a % 256 ^ (n - a) := by
  obtain ⟨r, hr⟩ : ∃ r, r = n - a := ⟨_, rfl⟩
  rw [← hr]
  induction r generalizing a with
  | zero => simp [readLE, Nat.mod_one]
  | succ r ih =>
    rw [readLE, cellRead_writeLE _ _ _ _ _ (by decide), if_pos (by omega), ih (a + 1) (by omega), BitVec.toNat_ofNat, Nat.sub_zero, pow_succ 256 r, pow_succ 256 a,
      ← Nat.div_div_eq_div_mul, mul_comm (256 ^ r), Nat.mod_mul]

theorem readImage_through (st : BitVec 4) : (imageAt st (writeLE [] 0 16448 through)).readImage 0 = (imageAt st (writeLE [] 0 16448 through), .ok through) := by
  generalize hm : writeLE [] 0 16448 through = m
  have hw : readLE m 0 16448 = through := by
    rw [← hm]
    have := readLE_written 16448 through 0
    rw [Nat.sub_zero] at this
    rw [this]; decide +kernel
  have h1 : readLE m 0 64 = through % 2 ^ 512 := by
    have : readLE m 0 16448 % 256 ^ 64 = readLE m 0 64 := by
      rw [show 16448 = 64 + 16384 by rfl, readLE_add, Nat.add_mul_mod_self_left, Nat.mod_eq_of_lt (readLE_lt _ _ _)]
    rw [← this, hw]; decide +kernel
  have hh := readHome_image st m 1 0 (by omega) rfl
  have hi := readHome_image st m 257 0 (by omega) rfl
  have hc : (headerCheck (through % 2 ^ 512)).isSome = false := by decide +kernel
  have hl : imgLength (imgW (through % 2 ^ 512)) (imgH (through % 2 ^ 512)) / 64 = 257 := by decide +kernel
  have z : (0 : Word) = BitVec.ofNat 64 0 := rfl
  rw [z]
  simp only [State.readImage, hh, Nat.mul_one, h1, hc, hl, hi, hw, Bool.false_eq_true, if_false]

theorem imageAt_checks (st : BitVec 4) (h : st ∈ [2, 3, 4, 7]) (m : Memory) :
    (imageAt st m).loadCheck (imageAt st m).cur through = none ∧ (imageAt st m).wloadRuns (imageAt st m).cur through = false := by
  have h' : ∀ st ∈ [(2 : BitVec 4), 3, 4, 7], (imageAt st []).loadCheck 0 through = none ∧ (imageAt st []).wloadRuns 0 through = false := by decide +kernel
  exact h' st h

theorem witness_LoadRegionWords : ∀ st ∈ [(2 : BitVec 4), 3, 4, 7], ∃ s : State, s.me.region.st = st ∧ (s.rd 4).toNat % 64 = 0
    ∧ s.readImage (s.rd 4) = (s, .ok through) ∧ s.loadCheck s.cur through = none ∧ s.wloadRuns s.cur through = false
    ∧ imgInvar s.me.region.image = false ∧ s.me.region.ports = [] :=
  fun st h => ⟨_, rfl, rfl, readImage_through st, (imageAt_checks st h _).1, (imageAt_checks st h _).2, show imgInvar 0 = false by decide, rfl⟩
theorem witness_LoadRegionWords_bad : (match (imageAt 2 []).readImage 0 with | (u, .ok i) => u.loadCheck 0 i == some (8, 0) | _ => false) = true := by
  decide +kernel
theorem witness_StartWord : let s := loaded 3 [(4, 0x40)]
    s.me.region.st = 3 ∧ (s.rd 4).toNat % 8 = 0 ∧ resolves s s.me.cred .read 0x40 (.thread s.cur) 0x40 = true ∧ bindingCheck s.me s.me.region = 0 := by
  decide +kernel
theorem witness_TensorBindings : let s := loaded 3 [(5, 1)]
    s.me.region.st = 3 ∧ (fld (s.rd 4) 0 14 : BitVec 14) ∈ ingressPorts s.me.region.image ∧ (fld (s.rd 4) 14 50 : BitVec 50) = 0
      ∧ Tab.has s.me.tensors 1 = true ∧ (Tab.get 0 s.me.tensors 1 : BitVec 512).getLsbD 80 = true := by decide +kernel
theorem witness_BridgeBindings : let s := loaded 3 [(5, 9)]
    s.me.region.st = 3 ∧ (0 : BitVec 14) ∈ egressPorts s.me.region.image ∧ (Tab.get ({} : Bridge) s.bridges 9).live = false := by decide +kernel
theorem witness_FreeKillWords : (loaded 5 []).me.region.st.toNat ∈ [0, 1, 2, 3, 5, 7, 9] ∧ (loaded 4 []).me.region.st.toNat ∈ [4, 6, 8] := by decide +kernel
/-- Page 0 is examined, then the sweep has nothing left. -/
def sweeping (l : List (BitVec 4)) : State := me (loaded 4 []) (fun t => { t with wait := .inside, region := { t.region with sweep := some { asked := true, todo := l } } })
theorem witness_SweepPostMarkReplay : let s := me (loaded 4 []) (fun t => { t with ctxbase := 0x4000 }); let t := loaded 9 []
    s.me.region.sweep = none ∧ s.me.region.mark = none ∧ s.me.region.anyParked = false ∧ s.me.wait ≠ .inside ∧ (fld s.me.ctxbase 12 40 : BitVec 40) ≠ 0
      ∧ (sweeping [0]).me.wait = .inside ∧ ((sweeping [0]).me.region.sweep).map (·.todo) = some [0] ∧ ((sweeping []).me.region.sweep).map (fun w => (w.asked, w.todo, w.found)) = some (true, [], [])
      ∧ t.me.region.ports.any (fun p => p.kind == .bridgeIn) = false ∧ t.me.region.placed = true
      ∧ t.loadCheck t.cur t.me.region.image = none ∧ t.wloadRuns t.cur t.me.region.image = false := by
  refine ⟨?_, ?_, ?_, ?_, ?_, ?_, ?_, ?_, ?_, ?_, ?_, ?_⟩ <;> decide +kernel
theorem witness_TensorWords : let s := put (mapped [(4, 1), (5, 0x100)]) [(0x100, 64, tensor 1)]
    (s.rd 4).toNat < 64 ∧ (s.rd 5).toNat % 64 = 0 ∧ resolves s s.me.cred .read 0x100 (.thread s.cur) 0x100 = true
      ∧ (s.l1Load (coreOf s.cur) 0x100 64).2 = (tensor 1, false) ∧ dscOk (BitVec.ofNat 512 (tensor 1)) = true
      ∧ resolves s s.me.cred .write 0x100 (.thread s.cur) 0x100 = true := by decide +kernel
theorem test_tensor_words : (after (exec (.tdset 3 4 5) (put (mapped [(4, 1), (5, 0x100)]) [(0x100, 64, tensor 1)]))
      (fun t => t.rd 3 == 0 && (Tab.get 0 t.me.tensors 1 : BitVec 512).toNat == tensor 1)
    && answers (.tdset 3 4 5) (mapped [(4, 1), (5, 0x100)]) 0x103 0 && answers (.tdget 3 4 5) (mapped [(4, 1), (5, 0x100)]) 0x104 0
    && after (exec (.tdclr 3 4) (loaded 3 [(4, 1)])) (fun t => t.rd 3 == 0 && !Tab.has t.me.tensors 1)) = true := by decide +kernel

/-! ## Chains, engines, translations and contexts -/

/-- A chain of the running thread on engine 0. -/
def withChain (c : Chain) (g : List (BitVec 5 × Word)) : State := me (mapped g) (fun t => { t with chains := [(0, c)] })

/-- A chain whose header is at 0x1000 and whose next entry is at 0x2000. -/
def idle : Chain := { header := 0x1000, cursor := 0x2000, capt := (mapped []).me.cred }

/-- An entry: opcode, source, destination, length, CLOSE set. -/
def entry (op src dst len : Nat) : BitVec 512 :=
  BitVec.ofNat 512 (fieldsAt [fieldAt 0 1 op, fieldAt 1 1 1, fieldAt 8 8 src, fieldAt 0x10 8 dst, fieldAt 0x18 8 len])

/-- A chain with one entry at 0x2000. -/
def busy (raw : BitVec 512) (st : JobSt) : Chain :=
  { idle with last := 0x2000, enq := 1, jobs := [{ addr := 0x2000, raw := raw, st := st }] }

/-- FIRST and SEQ of the header are taken. -/
theorem test_enq_open : after (exec (.enqOpen 3 4 5) (put (mapped [(5, 0x1000)]) [(0x1000, 8, 0x2000), (0x1008, 8, 7)])) (fun t => t.rd 3 == 0
    && t.chainOf 0 0 == some { idle with enq := 7, seq := 7 }) = true := by decide +kernel
theorem test_enq : after (exec (.enq 3 4 5) (put (withChain idle [(5, 0x2000)]) [(0x2000, 2, 0x100)])) (fun t => t.rd 3 == 0x100000000
    && (t.chainOf 0 0).map (fun c => (c.enq, c.openb, c.jobs.length)) == some (1, false, 1)) = true := by decide +kernel
theorem test_enq_unreached : answers (.enq 3 4 5) (put (withChain idle [(5, 0x3000)]) [(0x2000, 2, 0x100)]) 0x103 0 = true := by decide +kernel
theorem test_chain_words : (answers (.enq 3 4 5) (mapped []) 0x107 0 && answers (.enqOpen 3 4 5) (withChain idle []) 0x102 0
    && after (exec (.enqShut 3 4) (withChain idle [])) (fun t => t.rd 3 == 0 && t.chainOf 0 0 == none)
    && answers (.cwait 3 4 1) (withChain (busy (entry 0 0 0 0) .queued) []) 0 1
    && after (exec (.cwait 3 4 0) (withChain (busy (entry 0 0 0 0) .queued) [])) (fun t => t.me.wait == .reissue)
    && gives (.cseq 3 4) (withChain { idle with enq := 5, seq := 5 } []) 5) = true := by decide +kernel
theorem test_enq_resume : (after (exec (.enqResume 3 4 5) (withChain { busy (entry 0 0 0 0) (.faulted 4) with halted := true, cause := 4 } []))
      (fun t => (t.chainOf 0 0).map (fun c => (c.halted, c.jobs.map (·.st))) == some (false, [.queued]))
    && traps (.enqResume 3 4 5) (me (withChain idle []) (fun t => { t with status := 0 })) 2 0) = true := by decide +kernel

/-- An entry's PROGRESS is at 0x38, its ESTATE at 0x3C, DONE being 0x100. -/
theorem test_nop_entry : (after (exec .engineSector (put (withChain (busy (entry 0 0 0 0) .queued) []) [(0x2000, 2, 0x100)]))
      (fun t => readLE t.mem 0x203C 4 == 0x100)
    && after (exec .nop (put (withChain (busy (entry 0 0 0 0) .queued) []) [(0x2000, 2, 0x100)]))
      (fun t => readLE t.mem 0x203C 4 == 0x100)) = true := by decide +kernel
theorem test_copy_sector : after (exec .copy (put (withChain (busy (entry 1 0x3000 0x4000 128) .running) []) [(0x3000, 64, 0xABCDEF)]))
    (fun t => (t.coreByte 0 0x4000 == 0xEF) && (t.coreByte 0 0x4002 == 0xAB)
      && ((t.chainOf 0 0).bind (fun c => c.jobs.head?)).map (·.prog) == some 1) = true := by decide +kernel
theorem test_other_opcode : after (exec .gather (withChain (busy (entry 1 0x3000 0x4000 128) .running) []))
    (fun t => t == withChain (busy (entry 1 0x3000 0x4000 128) .running) []) = true := by decide +kernel
/-- DONEPTR at 0x10 of the header, SEQ at 8. -/
theorem test_batch_completion : after (exec .batchCompletion (withChain (busy (entry 0 0 0 0) .done) []))
    (fun t => readLE t.mem 0x1010 8 == 0x2000 && readLE t.mem 0x1008 8 == 1 && (t.chainOf 0 0).map (fun c => (c.seq, c.jobs)) == some (1, [])) = true := by
  decide +kernel

/-- Ranks of a collective of one, in module 0 on engine 0: the ring descriptor at 0x6000 holds N 1, RANK 0 and the entry 0. -/
def alone (op : Nat) : State :=
  let raw := BitVec.ofNat 512 (fieldsAt [fieldAt 0 1 op, fieldAt 1 1 1, fieldAt 2 1 0, fieldAt 8 8 0x3000, fieldAt 0x10 8 0x4000, fieldAt 0x18 8 64
    , fieldAt 0x20 8 0x6000, fieldAt 0x28 4 64])
  let s := put (withChain (busy raw .running) []) [(0x3000, 64, 0xABCDEF), (0x6000, 8, 1)]
  { s with module := { s.module with modNo := 0 } }
theorem test_collective_of_one : (after (exec .allred (alone 0x20)) (fun t => t.coreByte 0 0x4000 == 0xEF)
    && after (exec .allgath (alone 0x22)) (fun t => t.coreByte 0 0x4002 == 0xAB)
    && after (exec .redscat (alone 0x21)) (fun t => t.coreByte 0 0x4001 == 0xCD)) = true := by decide +kernel

theorem witness_ChainWords_open : let s := put (mapped [(5, 0x1000)]) [(0x1000, 8, 0x2000), (0x1008, 8, 7)]
    (s.rd 4).toNat < 32 ∧ (s.rd 4).toNat % 8 ≠ 7 ∧ s.chainOf s.cur 0 = none ∧ (s.threads.filter (fun p => Tab.has p.2.chains 0)).length < 32
      ∧ (s.rd 5).toNat % 64 = 0 ∧ resolves s s.me.cred .read 0x1000 (.thread s.cur) 0x1000 = true
      ∧ (s.l1Load (coreOf s.cur) 0x1000 64).2 = (0x2000 + 7 * 2 ^ 64, false) := by decide +kernel
theorem witness_ChainWords_held : let s := withChain (busy (entry 0 0 0 0) .queued) []
    s.chainOf s.cur 0 = some (busy (entry 0 0 0 0) .queued) ∧ (busy (entry 0 0 0 0) .queued).halted = false
      ∧ (busy (entry 0 0 0 0) .queued).enq - (busy (entry 0 0 0 0) .queued).seq = 1 := by decide +kernel
theorem witness_EnqueueWords : let s := put (withChain idle [(5, 0x2000)]) [(0x2000, 2, 0x100)]
    s.chainOf s.cur 0 = some idle ∧ (s.rd 5).toNat % 64 = 0
      ∧ (match (s.writeBackAll (clusterOf s.cur)).walkStart idle with
        | (u, .ok a) => a == 0x2000 && (match State.walkChain idle.capt 0x2000 4096 a u with | (_, .ok js) => js.length == 1 | _ => false)
        | _ => false) = true := by decide +kernel
theorem witness_EnqueueWords_resume : let c := { busy (entry 0 0 0 0) (.faulted 4) with halted := true, cause := 4 }
    let s := withChain c []
    (fld s.me.status 0 2 : BitVec 2) ≠ 0 ∧ s.chainOf (fld (s.rd 5) 0 9) 0 = some c ∧ c.halted = true ∧ c.owed = []
      ∧ ((s.setThr 0 { s.thr 0 with chains := Tab.set (s.thr 0).chains 0 { c with halted := false, jobs := c.jobs.map (fun j =>
          match j.st with | .faulted _ => { j with st := .queued, order := true } | _ => j) } }).engStore c.capt (c.header + 0x18) 4 4).2 = none := by
  decide +kernel
theorem witness_EntryStart : let s := put (withChain (busy (entry 0 0 0 0) .queued) []) [(0x2000, 2, 0x100)]
    let r : JobRef := ⟨0, 0, 0, false⟩
    (s.jobAt r).map (·.st) = some .queued ∧ (match s.fetchEntry r { addr := 0x2000, raw := entry 0 0 0 0 } with
      | (t, .ok i) => ((t.modJob r (fun _ => i)).entryStart (t.jobCred r) 0 i.raw).2.isNone && (t.takeScore r i).isSome
      | _ => false) = true := by decide +kernel
theorem witness_EntrySteps : let s := put (withChain (busy (entry 1 0x3000 0x4000 128) .running) []) [(0x3000, 64, 0xABCDEF)]
    let r : JobRef := ⟨0, 0, 0, false⟩
    (s.jobAt r).map (·.st) = some .running ∧ (match s.jobAt r with
      | some j => !s.scoreHeld j && (match s.engRead (s.jobCred r) (r.waiter j) 0x3000 with
        | (u, .ok _) => (match u.engPlace (s.jobCred r) (r.waiter j) j.raw 0x4000 with | (_, .ok _) => true | _ => false)
        | _ => false)
      | none => false) = true := by decide +kernel
theorem witness_CollectiveSteps : let s := alone 0x20; let r : JobRef := ⟨0, 0, 0, false⟩
    (match s.jobAt r with
      | some j => j.st == .running && !s.scoreHeld j && (match s.ringOf r j with
        | (t, .ok g) => !t.collDown g (r.engine j) && (match State.gatherLocals j g r (List.range g.entries.length) t with
          | (u, some all) => all.all (fun l => l.2) && (match State.sharesFit g.entries.length (all.map (fun l => l.1)) u with
            | (v, true) => (match State.sources g (all.map (fun l => l.1)) j.raw 0 1 (List.range g.entries.length) v with
              | (w, .ok xs) => (match w.summed g (all.map (fun l => l.1)) j.raw 0 64 xs with
                | some ys => (reduceChunk j.raw 64 0 w.tick ys).2
                | none => false)
              | _ => false)
            | _ => false)
          | _ => false)
        | _ => false)
      | none => false) = true := by decide +kernel
theorem witness_BatchCompletes : let c := busy (entry 0 0 0 0) .done; let s := withChain c []
    s.chainOf 0 0 = some c ∧ c.batch.getLast? = c.jobs.head? ∧ c.batch.all (fun j => j.st == .done) = true ∧ (s.thr 0).frozen = false ∧ c.owed = []
      ∧ (c.jobs.head?).map (fun j => j.raw.getLsbD 8) = some true
      ∧ ((s.setThr 0 { s.thr 0 with chains := Tab.set (s.thr 0).chains 0 { c with seq := 1, jobs := [], cursor := 0 } }).engStore c.capt 0x1010 8 0x2000).2 = none := by
  decide +kernel

theorem test_translation_words : (after (exec (.tlbinvs 4) (mapped [])) (fun t => t.tlb == [] && t.pc == 4)
    && after (exec (.tlbinva 4 5) (mapped [(5, 0x10000)])) (fun t => t.tlb == [window])
    && after (exec (.tlbinva 4 5) (mapped [(5, 0xFFFF)])) (fun t => t.tlb == [])
    && after (exec (.spgen 3 4) (mapped [])) (fun t => t.rd 3 == 1 && (t.gen 0).gen == 1)
    && traps (.spgen 3 4) (mapped [(4, 0x1000)]) 5 0x1000) = true := by decide +kernel
/-- Buffer 0x40, whose descriptor is at 0x1000: VISIBLE at 0x20 flips, the count at 0x28 rises and is returned. -/
theorem test_pub : after (exec (.pub 3 4) (put (mapped [(4, 0x40)]) [(0x1008, 8, 64), (0x1021, 1, 1), (0x1028, 8, 6)]))
    (fun t => t.rd 3 == 0x700000000 && readLE t.mem 0x1020 1 == 1 && readLE t.mem 0x1028 8 == 7) = true := by decide +kernel
theorem witness_TranslationWords : let s := mapped [(4, 0x40)]
    s.me.wait = .none ∧ (fld s.me.status 0 2 : BitVec 2) ≠ 0 ∧ (s.rd 4).toNat < 4096 ∧ s.oldAccess s.tick = false
      ∧ (s.gen 0x40).count ≠ 15 ∧ leads s .read 0x1000 0x1000 = true ∧ s.me.cred.marksOk 0x1000 = true := by decide +kernel
theorem witness_TranslationWaits : let s := me (mapped []) (fun t => { t with wait := .drain 0 0 })
    s.me.wait = .drain 0 0 ∧ s.oldAccess 0 = false := by decide +kernel

/-- Thread 4 is halted, with 7 in register 5, its save accepted from thread 0 and at its boundary. -/
def saving : State := (mapped [(4, 4), (5, 0x4000)]).modThr 4 (fun t => { t.wr 5 7 with run := .halted, saver := some 0, stopped := true })
theorem test_ctxsave_accepted : after (exec (.ctxsave 3 4 5) ((mapped [(4, 4), (5, 0x4000)]).modThr 4 (fun t => { t with run := .halted })))
    (fun t => t.me.wait == .inside && (t.thr 4).saver == some 0) = true := by decide +kernel
theorem witness_SaveWord : let s := saving
    (fld s.me.status 0 2 : BitVec 2) ≠ 0 ∧ (fld s.me.partition 26 6 : BitVec 6) = 0 ∧ (s.thr 4).saver = some s.cur ∧ (s.thr 4).stopped = true ∧ (s.thr 4).stores = []
      ∧ (s.thr 4).records = [] ∧ (s.thr 4).region.st.toNat ∈ [0, 1, 2, 8, 9]
      ∧ (match ((s.stopChains 4).loseRecords 4).savedSection 4 with
        | (u, .ok sec p) => (match (u.noteChains 4).areaWrite u.me.cred 0x4000 0 0x2000 (areaHeader 1 0x2000 4 + u.threadBytes 4 + sec % 2 ^ 65536) p (.thread u.cur) with
          | (_, .ok) => true | _ => false)
        | _ => false) = true := by decide +kernel

/-- The area of an empty context at 0x4000, with 7 in register 5. -/
def area : State := put (mapped [(4, 4), (5, 0x4000)]) [(0x4000, 4, 0x31585443), (0x4004, 2, 1), (0x4006, 2, 1), (0x4008, 8, 0x2000), (0x4128, 8, 7)]
theorem test_ctxload_no_magic : answers (.ctxload 3 4 5) (mapped [(4, 4), (5, 0x4000)]) 0x103 0 = true := by decide +kernel
theorem witness_LoadContextWord : let s := area
    (fld (s.rd 5) 1 11 : BitVec 11) = 0 ∧ (fld (s.rd 4) 9 55 : BitVec 55) = 0 ∧ (s.rd 5).getLsbD 0 = false ∧ (fld s.me.status 0 2 : BitVec 2) ≠ 0
      ∧ (fld s.me.partition 26 6 : BitVec 6) = 0 ∧ (s.thr 4).run = .empty
      ∧ (match State.areaRead s.me.cred 0x4000 (.thread s.cur) 2 0 s with
        | (_, .ok v _) => bytesOf v 6 2 / 2 % 2 == 0 && (areaFields v 0x2000 false).all (·.1) && chainRecords v == [] && bytesOf v 0x208 8 % 4 == 0
        | _ => false) = true := by decide +kernel
/-- The same area with a region section of no blocks: its LENGTH is 0. -/
def regionArea : State := put area [(0x4006, 2, 3), (0x4008, 8, 0), (0x6008, 1, 5)]
theorem witness_LoadContextWord_region : let s := regionArea
    (match State.areaRead s.me.cred 0x4000 (.thread s.cur) 2 0 s with
      | (u, .ok v _) => bytesOf v 6 2 / 2 % 2 == 1 && (match State.areaRead s.me.cred 0x4000 (.thread s.cur) 1 2 u with
        | (_, .ok h _) => pagesFrom 3 (areaLength (v + h) true) == 0 && (areaFields (v + h) (areaLength (v + h) true) true).all (·.1)
            && (regionFields (v + h)).all (·.1)
        | _ => false)
      | _ => false) = true := by decide +kernel
theorem witness_SaveWord_rested : let s := saving.modReg 4 (fun r => { r with st := 3, image := 0 })
    let v := (s.faultRecord 4 { place := zext (s.originCoord 4) 64, cause := 0x0E, space := s.spaceField (s.reg 4).capt }).save 4 .marker false
    (s.thr 4).saver = some s.cur ∧ (s.thr 4).stopped = true ∧ (s.thr 4).records = [] ∧ (s.reg 4).st = 3 ∧ (v.thr 4).records = [] ∧ (v.reg 4).st = 8 := by decide +kernel
theorem witness_ContextWordsComplete : let s := saving; let v := (s.stopChains 4).loseRecords 4
    (s.thr 4).chains = [] ∧ (s.thr 4).region.st = 0
      ∧ (match v.areaWrite s.me.cred 0x4000 0 0x2000 (areaHeader 1 0x2000 4 + v.threadBytes 4) [] (.thread s.cur) with | (_, .ok) => true | _ => false) = true := by
  decide +kernel

/-! ## Operation words -/

/-- An image of one page whose node 0 of tile (0, 0) is an operation with a constant; its outputs leave by egress ports of channels 0 and
32 (switch words 0x0087 and 0x2087). -/
def image (i : Instr) (k : Nat) : Nat := fieldsAt [fieldAt 0 4 0x30344541, fieldAt 4 2 1, fieldAt 0xE 2 2, fieldAt 0x28 8 (imgLength 1 1),
  recordsAt 64 1024 ((List.range 16).map (fun t => recordsAt 0 4 ((List.range 8).map (fun s =>
    if t = 0 ∧ s = 0 then ((encode i).getD 0).toNat else 0xFF000000)))),
  fieldAt (64 + 0x20) 4 k, fieldAt (64 + 0x180) 2 2, fieldAt (64 + 0x188) 2 0x0087, fieldAt (64 + 0x18A) 2 0x2087]

/-- That node in focus in a running region of thread 0, with a tile of these contents. -/
def nodeWith (i : Instr) (k : Nat) (t : RTile) (heads : List (Nat × Token × Nat)) : State :=
  let s := region (mapped []) { st := 4, image := image i k, running := true, left := 2, capt := (mapped []).me.cred, tiles := [(0, { t with
    queues := heads.map (fun h => (h.1, { items := [{ tok := h.2.1, idx := h.2.2, ctl := decide (h.2.1.kind ≠ 0) }] })) })] }
  { s with cycle := 10 }.at 0 (0, 0)

/-- A node with records at its slots and nothing else. -/
def node (i : Instr) (k : Nat) (heads : List (Nat × Token × Nat)) : State := nodeWith i k {} heads

/-- The tokens that leave: payload, KIND, VALID and index. -/
def emits (i : Instr) (s : State) (l : List (Nat × Nat × BitVec 8 × Nat)) : Bool :=
  after (exec i s) (fun t => (t.reg 0).flight.map (fun f => (f.tok.pay.toNat, f.tok.kind, f.tok.valid, f.idx)) == l)

/-- A node with records at A and B of index 4 emits one of index 4. -/
def two (i : Instr) (a b : Nat) (v : BitVec 8) (r : Nat) (rv : BitVec 8) : Bool :=
  emits i (node i 0 [(0, dataTok (BitVec.ofNat 256 a) v, 4), (1, dataTok (BitVec.ofNat 256 b) v, 4)]) [(r, 0, rv, 4)]

/-- And one with a record at A alone. -/
def one (i : Instr) (k a : Nat) (v : BitVec 8) (r : Nat) (rv : BitVec 8) : Bool :=
  emits i (node i k [(0, dataTok (BitVec.ofNat 256 a) v, 4)]) [(r, 0, rv, 4)]

/-- A slot-C record that is a true condition. -/
def go : Token := { pay := 1, side := mkSide 8 0 0 0 false false 1 }

theorem test_iadd : (two (.iadd 0 0 0) 0x200000001 0x20000000A 3 0x40000000B 3 && two (.isub 0 0 0) 1 2 1 0xFFFFFFFF 1
    && two (.imul 0 0 0) 0x10000 0x10001 1 0x10000 1) = true := by decide +kernel
/-- 127 + 1 in i8 is bounded to 127; AOVF is flag bit 3. -/
theorem test_iadd_saturates : after (exec (.iadd 4 0 1) (node (.iadd 4 0 1) 0 [(0, dataTok 0x7F 1, 4), (1, dataTok 0x01 1, 4)]))
    (fun t => (t.reg 0).flags == 8 && (t.reg 0).flight.map (·.tok.pay) == [0x7F]) = true := by decide +kernel
theorem test_integer_elements : (two (.imulh 0 0) 0x80000000 2 1 0xFFFFFFFF 1 && two (.imin 0 0) 0xFFFFFFFF 1 1 0xFFFFFFFF 1
    && two (.imax 0 0) 0xFFFFFFFF 1 1 1 1 && two (.isha 0 0) 0x80000000 33 1 0xC0000000 1 && two (.ishl 0 0) 3 31 1 0x80000000 1
    && two (.icmplt 0 0) 0xFFFFFFFF 1 1 1 1 && two (.icmplt 1 0) 0xFFFFFFFF 1 1 0 1 && two (.icmpne 0 0) 5 5 1 0 1) = true := by decide +kernel
theorem test_one_operand : (one (.iabs 0 0) 0 0xFFFFFFFF 1 1 1 && one (.ineg 2 0) 0 1 1 0xFFFF 1 && one (.inot 0) 0 0xF 1 0xFFFFFFF0 1
    && one (.clzNode 2) 0 0x00010000 1 0x000F0010 1 && one (.popcNode 0) 0 0xFF 1 8 1 && one (.isat 0 8) 0 300 1 127 1) = true := by decide +kernel
theorem test_three_operands : (emits (.imad 0 0 0) (node (.imad 0 0 0) 0 [(0, dataTok 3 1, 4), (1, dataTok 5 1, 4), (2, dataTok 7 1, 4)]) [(22, 0, 1, 4)]
    && emits (.sel 0 0) (node (.sel 0 0) 0 [(0, dataTok 3 1, 4), (1, dataTok 5 1, 4), (2, go, 4)]) [(3, 0, 1, 4)]
    && emits (.iclamp 0 0) (node (.iclamp 0 0) 0 [(0, dataTok 9 1, 4), (1, dataTok 2 1, 4), (2, dataTok 7 1, 4)]) [(7, 0, 1, 4)]) = true := by decide +kernel
/-- An element absent from one operand is absent from the result. -/
theorem test_absent_element : emits (.iadd 0 0 0) (node (.iadd 0 0 0) 0 [(0, dataTok 0x200000001 3, 4), (1, dataTok 0x200000001 1, 4)]) [(2, 0, 1, 4)] = true := by
  decide +kernel
theorem test_float_elements : (two (.faddNode 6 0 0) 0x3F800000 0x3F800000 1 0x40000000 1 && two (.fmulNode 6 0 0) 0x40000000 0x40400000 1 0x40C00000 1
    && two (.fcmpltNode 6 0) 0x80000000 0 1 0 1 && two (.fminNode 6 0) 0x80000000 0 1 0x80000000 1 && one (.fnegNode 6) 0 0x3F800000 1 0xBF800000 1) = true := by
  decide +kernel
/-- 2^1 = 2, log2 8 = 3, 1/√4 = 1/2, in f32. -/
theorem test_float_functions : (one (.fexp2 6 0) 0 0x3F800000 1 0x40000000 1 && one (.flog2 6 0) 0 0x41000000 1 0x40400000 1
    && one (.frsqNode 6 0) 0 0x40800000 1 0x3F000000 1 && one (.fsqrtNode 6 0) 0 0x40800000 1 0x40000000 1
    && one (.frcpNode 6 0) 0 0x40000000 1 0x3F000000 1) = true := by decide +kernel
theorem test_ffma_node : emits (.ffmaNode 6 0 0) (node (.ffmaNode 6 0 0) 0 [(0, dataTok 0x40000000 1, 4), (1, dataTok 0x40400000 1, 4), (2, dataTok 0x3F800000 1, 4)])
    [(0x40E00000, 0, 1, 4)] = true := by decide +kernel
/-- i32 to i16, PART 1: the elements of token 5 go to elements 8 and 9 of token 2; token 4 leaves nothing. -/
theorem test_convert_part : (emits (.cvt 2 0 0 1 1 0) (node (.cvt 2 0 0 1 1 0) 0 [(0, dataTok 0x600000005 3, 5)]) [(0x60005 * 2 ^ 128, 0, 0x10, 2)]
    && emits (.cvt 2 0 0 1 1 0) (node (.cvt 2 0 0 1 1 0) 0 [(0, dataTok 0x600000005 3, 4)]) []) = true := by decide +kernel
theorem test_vector_nodes : (one (.rsum 0 0) 0 (1 + 2 * 2 ^ 32 + 3 * 2 ^ 64) 7 6 3 && one (.rmax 0) 0 (0xFFFFFFFF + 2 * 2 ^ 32) 3 2 3
    && one (.rmin 0) 0 (0xFFFFFFFF + 2 * 2 ^ 32) 3 0xFFFFFFFFFFFFFFFF 3 && two (.xred 0 0) 3 4 1 7 1
    && one (.bcast 0 1) 0 (9 * 2 ^ 32) 3 ((List.range 8).foldl (fun v k => v + 9 * 2 ^ (32 * k)) 0) 0xFF
    && one (.shuf 0) 0x88888801 (5 + 6 * 2 ^ 32) 3 (6 + 5 * 2 ^ 32) 3) = true := by decide +kernel
/-- R204's case: +∞, 1.0, −∞ and a NaN sum to the canonical NaN with invalid set in either order. -/
theorem test_sum_of_both_infinities : ([[0x7F800000, 0x3F800000, 0xFF800000, 0x7FC00001], [0x7FC00001, 0xFF800000, 0x3F800000, 0x7F800000]].all (fun l =>
    (let r := treeOf (combineOpt 0 6) (l.map (fun x => { v := some x })); r.v == some 0x7FC00000 && r.fl.inv)
    && (let r := l.foldl (fun (a : BitVec 64 × Fl) x => (let y := addLane 6 a.1 x 0; (y.1, a.2.or y.2))) (0x80000000, {}); fld r.1 0 32 == 0x7FC00000 && r.2.inv))) = true := by
  decide +kernel
theorem test_pack_unpack : (emits (.pack 0) (node (.pack 0) 0 [(0, dataTok 5 1, 4), (1, dataTok (7 * 2 ^ 32) 2, 4)]) [(0x700000005, 0, 3, 4)]
    && emits (.unpack 0 1) (node (.unpack 0 1) 0 [(0, dataTok 0x700000005 3, 4)]) [(5, 0, 1, 4), (0x700000000, 0, 2, 4)]) = true := by decide +kernel
theorem test_steering : (emits (.gate 0 0) (node (.gate 0 0) 0 [(0, dataTok 5 1, 4), (2, go, 4)]) [(5, 0, 1, 4)]
    && emits (.gate 0 1) (node (.gate 0 1) 0 [(0, dataTok 5 1, 4), (2, go, 4)]) []
    && emits (.steer 0) (node (.steer 0) 0 [(0, dataTok 5 1, 4), (2, go, 4)]) [(5, 0, 1, 4)]
    && emits (.merge 0 1) (node (.merge 0 1) 0 [(0, dataTok 5 1, 4), (2, go, 4)]) [(5, 0, 1, 4)]
    && emits (.join 0 0) (node (.join 0 0) 0 [(0, dataTok 5 1, 4), (1, dataTok 6 1, 4)]) [(5, 0, 1, 4), (6, 0, 1, 4)]
    && emits (.repl 0 1) (node (.repl 0 1) 0 [(0, dataTok 5 1, 4)]) [(5, 0, 1, 8)]) = true := by decide +kernel
/-- An uncontrolled MERGE numbers its records from its own count. -/
theorem test_merge_renumbers : emits (.merge 0 0) (node (.merge 0 0) 0 [(1, dataTok 5 1, 4)]) [(5, 0, 1, 0)] = true := by decide +kernel
theorem test_sources : (emits (.source 0 1 2) (node (.source 0 1 2) 9 []) [((List.range 8).foldl (fun v k => v + 9 * 2 ^ (32 * k)) 0, 0, 0xFF, 0)]
    && after (exec (.sink 0 0 0) (node (.sink 0 0 0) 0 [(0, endTok false, 0)])) (fun t => (t.reg 0).left == 1 && (t.reg 0).ends == 1)) = true := by
  decide +kernel
theorem test_sums : (emits (.accum 0 1) (node (.accum 0 1) 0 [(0, dataTok 5 1 true true, 4)]) [(5, 0, 1, 4)]
    && emits (.wsum 0 1) (node (.wsum 0 1) 0 [(0, { pay := 5, side := mkSide 0 2 0 0 true true 1 }, 4)]) [(20, 0, 1, 4)]
    && emits (.wcnt 1) (node (.wcnt 1) 0 [(0, { pay := 5, side := mkSide 0 2 1 0 true true 1 }, 4)]) [(8 + 2 ^ 96, 0, 0xF, 4)]
    && emits (.gapc 0 0 0) (node (.gapc 0 0 0) 0 [(0, dataTok 5 1, 4)]) [(5, 0, 1, 4)]) = true := by decide +kernel
theorem test_order_nodes : (emits (.done 0) (node (.done 0) 0 [(0, orderTok 4, 4), (1, orderTok 2, 4)]) [(2, 9, 0xFF, 4)]
    && emits .ecmd (node .ecmd 0 [(0, dataTok 5 1, 4), (1, dataTok 6 1, 4)]) [(5, 5, 0, 4), (6, 5, 0, 4)]) = true := by decide +kernel
/-- A fault-free vote takes the copies that agree; slot C differs and is counted. -/
theorem test_vote : after (exec (.vote 0) (node (.vote 0) 0 [(0, dataTok 5 1, 4), (1, dataTok 5 1, 4), (2, dataTok 6 1, 4)]))
    (fun t => ((t.reg 0).flight.map (fun f => (f.tok.pay.toNat, f.idx))) == [(5, 4), (4 + 2 * 2 ^ 32, 4)] && (t.counts t.nd).getD 2 0 == 1) = true := by
  decide +kernel
theorem test_perm_is_below : after (exec .perm (node .perm 100 [(0, dataTok 7 1, 4)])) (fun t => (t.reg 0).flight.all (fun f => decide (f.tok.pay.toNat < 100))
    && (t.reg 0).flight.length == 1) = true := by decide +kernel
/-- A checksum of one record of i32, and a match that fails with UNCORR parks no token. -/
theorem test_checksums : (after (exec (.cksum 0 3 0 0) (node (.cksum 0 3 0 0) 0 [(0, dataTok 5 1, 4)])) (fun t => (t.reg 0).flight.map (·.tok.pay.toNat) == [5]
      && (t.nstate t.nd) != 0)
    && emits (.ckchk 0) (node (.ckchk 0) 0 [(0, dataTok 5 1, 4), (1, dataTok 5 1, 4)]) [(1, 8, 0xFF, 4)]
    && emits (.ckchk 0) (node (.ckchk 0) 0 [(0, dataTok 5 1, 4), (1, dataTok 6 1, 4)]) []) = true := by decide +kernel
theorem test_two_ends : after (exec (.iadd 0 0 0) (node (.iadd 0 0 0) 0 [(0, endTok false, 0), (1, endTok false, 0)]))
    (fun t => ((t.reg 0).flight.map (fun f => f.tok.kind)) == [2] && (t.rt 0 0).ended == [0]) = true := by decide +kernel

/-- A node whose heads are one record is ready. -/
theorem ready_of (s : State) (ks : List Nat) (hs : List Taken) (i : Nat)
    (h : s.nodeLive s.nd = true ∧ s.illAt s.nd = false ∧ hs.map (·.1) = ks ∧ (∀ h ∈ hs, s.headAt s.nd h.1 = some h.2) ∧ s.nd.ordered = false
      ∧ ∀ h ∈ hs, h.2.2 = i ∧ (h.2.1.kind = kDATA ∨ h.1 = 2 ∧ h.2.1.kind = kCTRL)) : s.Ready ks hs i :=
  ⟨⟨h.1, h.2.1, h.2.2.1, h.2.2.2.1, fun e => absurd (h.2.2.2.2.1.symm.trans e) (by decide)⟩, h.2.2.2.2.2⟩

theorem witness_IntegerNodes : (node (.imad 0 0 0) 0 [(0, dataTok 3 1, 4), (1, dataTok 5 1, 4), (2, dataTok 7 1, 4)]).Ready (ewSlots 0 true)
    [(0, dataTok 3 1, 4), (1, dataTok 5 1, 4), (2, dataTok 7 1, 4)] 4 := ready_of _ _ _ _ (by decide +kernel)
theorem witness_FloatNodes : (node (.faddNode 6 0 0) 0 [(0, dataTok 3 1, 4), (1, dataTok 5 1, 4)]).Ready (ewSlots 0 false)
    [(0, dataTok 3 1, 4), (1, dataTok 5 1, 4)] 4 := ready_of _ _ _ _ (by decide +kernel)
theorem witness_ConversionNodes : (node (.cvt 2 0 0 1 1 0) 0 [(0, dataTok 3 1, 4)]).Ready [0] [(0, dataTok 3 1, 4)] 4 := ready_of _ _ _ _ (by decide +kernel)
theorem witness_SignedDigitEncode : let s := node (.sdenc 0 0 0 7) 0 [(0, dataTok 3 1, 4)]
    s.Ready [0] [(0, dataTok 3 1, 4)] 4 ∧ s.prog s.nd = 0 := ⟨ready_of _ _ _ _ (by decide +kernel), by decide +kernel⟩
theorem witness_SignedDigitEncode_next : let s := nodeWith (.sdenc 0 0 0 20) 0 { prog := [(0, 1)], nstate := [(0, 3)], win := [(0, [(mkSide 0 0 0 0 true true 1).toNat, 4])] } []
    s.prog s.nd ≠ 0 ∧ s.nodeLive s.nd = true ∧ (s.counts s.nd).getD 1 0 = 4 := by decide +kernel
theorem witness_QuantiseNodes : let s := node (.qmax 6 9) 0 [(0, dataTok 3 1, 4)]
    s.Ready [0] [(0, dataTok 3 1, 4)] 4 ∧ (fields (s.nstate s.nd)).getD 0 0 = 0 := ⟨ready_of _ _ _ _ (by decide +kernel), by decide +kernel⟩
theorem witness_QuantiseNodes_scale : let s := node (.qconv 9 6) 0 [(0, dataTok 3 1, 4), (1, dataTok 5 1, 0)]
    s.Stands [0, 1] [(0, dataTok 3 1, 4), (1, dataTok 5 1, 0)] ∧ (s.counts s.nd).getD 0 0 = 0 :=
  ⟨⟨by decide +kernel, by decide +kernel, rfl, by decide +kernel, fun h => absurd h (by decide +kernel)⟩, by decide +kernel⟩
theorem witness_VectorNodes : (node (.pack 0) 0 [(0, dataTok 5 1, 4), (1, dataTok 6 2, 4)]).Ready [0, 1] [(0, dataTok 5 1, 4), (1, dataTok 6 2, 4)] 4 :=
  ready_of _ _ _ _ (by decide +kernel)
theorem witness_SteerNodes : (node (.steer 0) 0 [(0, dataTok 5 1, 4), (2, go, 4)]).Ready [0, 2] [(0, dataTok 5 1, 4), (2, go, 4)] 4 :=
  ready_of _ _ _ _ (by decide +kernel)
theorem witness_SteerNodes_merge : let s := node (.merge 0 0) 0 [(1, dataTok 5 1, 4)]
    s.prog s.nd = 0 ∧ s.Ready [1] [(1, dataTok 5 1, 4)] 4 ∧ s.headAt s.nd 0 = none := ⟨by decide +kernel, ready_of _ _ _ _ (by decide +kernel), by decide +kernel⟩
theorem witness_SourceNodes : let s := node (.source 0 1 2) 9 []; let c := s.chainPos s.nd
    s.nodeLive s.nd = true ∧ c.ended = false ∧ c.stopped = false ∧ (s.reg 0).start + c.iter ≤ s.now 0 ∧ c.iter ≠ 3 := by decide +kernel
theorem witness_SourceNodes_chain : let s := node (.chain 3 3) 0 []; let c := s.chainPos s.nd; let r := chainRec s.nd.img 0 0
    (s.reg 0).st.toNat ∈ [4, 5, 6] ∧ r.getLsbD 47 = false ∧ r.getLsbD 46 = false ∧ (s.rt 0 0).marked.contains 0 = false ∧ c.ended = false
      ∧ c.stopped = false ∧ c.owed = false ∧ c.ready ≤ s.now 0 := by decide +kernel
theorem witness_SumNodes : (node (.win 0) 4 [(0, dataTok 5 1, 4)]).Ready [0] [(0, dataTok 5 1, 4)] 4 := ready_of _ _ _ _ (by decide +kernel)
theorem witness_OrderNodes : (node (.done 0) 0 [(0, orderTok 4, 4), (1, orderTok 2, 4)]).Stands [0, 1] [(0, orderTok 4, 4), (1, orderTok 2, 4)] :=
  ⟨by decide +kernel, by decide +kernel, rfl, by decide +kernel, fun h => absurd h (by decide +kernel)⟩
theorem witness_CheckNodes : let s := node (.ckchk 0) 0 [(0, dataTok 5 1, 4), (1, dataTok 5 1, 4)]
    s.Ready [0, 1] [(0, dataTok 5 1, 4), (1, dataTok 5 1, 4)] 4 ∧ (ckOf (dataTok 5 1)).matches 0 (ckOf (dataTok 5 1)) = true
      ∧ (ckOf (dataTok 5 1)).matches 0 (ckOf (dataTok 6 1)) = false := ⟨ready_of _ _ _ _ (by decide +kernel), by decide +kernel, by decide +kernel⟩
theorem witness_VoteNode : let s := node (.vote 0) 0 [(0, dataTok 5 1, 4), (1, dataTok 5 1, 4), (2, dataTok 6 1, 4)]
    s.nodeLive s.nd = true ∧ s.nd.ordered = false ∧ (s.rt 0 0).ended.contains 0 = false ∧ (s.counts s.nd).length ≤ 4
      ∧ s.headAt s.nd 0 = some (dataTok 5 1, 4) ∧ s.headAt s.nd 1 = some (dataTok 5 1, 4) ∧ s.headAt s.nd 2 = some (dataTok 6 1, 4)
      ∧ (dataTok 6 1).crc ≠ (dataTok 5 1).crc := by decide +kernel
theorem witness_Alignment : let s := node (.iadd 0 0 0) 0 [(0, dataTok 5 1, 4), (1, dataTok 6 1, 7)]
    s.nodeLive s.nd = true ∧ s.nd.ordered = false ∧ s.headAt s.nd 0 = some (dataTok 5 1, 4) ∧ s.headAt s.nd 1 = some (dataTok 6 1, 7) := by decide +kernel
theorem test_alignment_discards : emits (.iadd 0 0 0) (node (.iadd 0 0 0) 0 [(0, dataTok 5 1, 4), (1, dataTok 6 1, 7)]) [(4 + 2 ^ 64, 1, 0, 4)] = true := by
  decide +kernel

/-! ## Memory nodes and the matrix unit -/

/-- GLD of 32 bytes at 0x100 issues one access, which then performs. -/
def loading : State := put (node (.gld 0 0 0 0) 0 [(0, dataTok 0x100 3, 4)]) [(0x100, 4, 77)]
theorem test_gld : (match exec (.gld 0 0 0 0) loading with
    | .next t => (t.rt 0 0).accs.length == 1 && after (exec .memoryAccessPerformed t) (fun u => (u.reg 0).flight.map (fun f => (f.tok.pay.toNat, f.idx)) == [(77, 4)]
        && (u.rt 0 0).accs == [])
    | _ => false) = true := by decide +kernel
theorem test_gst : (match exec (.gst 0 0 1 3) (node (.gst 0 0 1 3) 0 [(0, dataTok 0x100 3, 4), (1, dataTok 0x1122334455667788 1, 4)]) with
    | .next t => after (exec .memoryAccessPerformed t) (fun u => u.coreByte 0 0x100 == 0x88 && u.coreByte 0 0x103 == 0x55 && u.coreByte 0 0x104 == 0
        && (u.reg 0).flight.map (fun f => f.tok.kind) == [9])
    | _ => false) = true := by decide +kernel
theorem test_gld_misaligned_parks : after (exec (.gld 0 0 0 0) (node (.gld 0 0 0 0) 0 [(0, dataTok 0x104 3, 4)])) (fun t => (t.rt 0 0).parked.length == 1
    && (t.rt 0 0).accs == []) = true := by decide +kernel
theorem witness_MemoryNodes : let s := loading
    (s.Ready [0] [(0, dataTok 0x100 3, 4)] 4 ∧ (s.rt 0 0).accs.any (fun y => y.slot.toNat == 0 && !y.done) = false) ∧ (fld (dataTok 0x100 3).valid 0 2 : BitVec 2) = 3
      ∧ resolves s (s.reg 0).capt .read 0x100 (.node ⟨0, 0, 0⟩) 0x100 = true
      ∧ (s.resolve (s.reg 0).capt .read false 0x10000000000000 (.node ⟨0, 0, 0⟩)).2 = .fault 5 :=
  ⟨⟨ready_of _ _ _ _ (by decide +kernel), by decide +kernel⟩, by decide +kernel, by decide +kernel, by decide +kernel⟩
/-- The image's SCRBANKS is 1. -/
def storing : State := (node (.sst 0 0 0 0) 0 [(0, dataTok 0x20 1, 4), (1, dataTok 7 1, 4)]).modReg 0 (fun r => { r with image := r.image + fieldAt 0x20 1 1 })
  |>.at 0 (0, 0)
theorem witness_MemoryNodes_store : let s := storing
    s.Ready [0, 1] [(0, dataTok 0x20 1, 4), (1, dataTok 7 1, 4)] 4 ∧ (dataTok 0x20 1).valid.getLsbD 0 = true ∧ scrSpot s.nd.img 0x20 = some (0, 0x20)
      ∧ s.scoreHolds 0 ((s.reg 0).absTile 0) 0x20 0x40 = false ∧ (scrSpot s.nd.img 0xFFFFFFE0).isNone = true ∧ (s.clu 0).inWin = false :=
  ⟨ready_of _ _ _ _ (by decide +kernel), by decide +kernel⟩
theorem witness_MemoryPerforms : (match exec (.gld 0 0 0 0) loading with
    | .next s => (match (s.rt 0 0).accs with
      | [a] => !a.done && !a.none && !a.gapTok && !a.store && a.where_ == 0 && s.ev.w == 0 && (s.reg 0).st == 4
          && (s.fabricLoad 0 (quadOf ((s.reg 0).absTile 0)) (pointOf a.wide) a.target.key 32).2 == (77, false)
      | _ => false)
    | _ => false) = true := by decide +kernel

/-- A node of the matrix unit with a go record, registers 2 and 3 full of 16 × 16 elements. -/
def matrix (i : Instr) (k : Nat) : State := nodeWith i k { tmeta := [(2, { shape := 0x03CF00E0, full := true }), (3, { shape := 0x03CF00E0, full := true })] }
  [(0, dataTok 0 7, 4)]
theorem witness_MatrixNodes : let s := matrix (.tmma 2 3 1 0 0) 0
    s.Ready [0] [(0, dataTok 0 7, 4)] 4 ∧ s.matReady s.nd { full := [2, 3], acc := some false } = true
      ∧ mmaOk (s.rt 0 0) (s.tm s.nd 2).shape (s.tm s.nd 3).shape = true ∧ (s.rt 0 0).mops.any (fun m => m.slot.toNat == 0) = false
      ∧ (let u := [2, 3].foldl (fun s q => s.tregRead 0 ((s.reg 0).absTile 0) q) s; [2, 3].any (u.tregBad s.nd) = false ∧ (u.tmem 0 0).accPoison = []) :=
  ⟨ready_of _ _ _ _ (by decide +kernel), by decide +kernel, by decide +kernel, by decide +kernel, by decide +kernel⟩
/-- TMOV of register 2 into register 5 holds both and is due after its cycles; then it completes and its token leaves. -/
theorem test_tmov : (match exec (.tmov 2 5 0 0) (matrix (.tmov 2 5 0 0) 0) with
    | .next t => (t.rt 0 0).mops.map (·.regs) == [[2, 5]] && after (exec .matrixOpCompletion { t with cycle := 1000 }) (fun u =>
        (u.tm u.nd 5).full && !(u.tm u.nd 2).full && (u.tm u.nd 5).shape == 0x03CF00E0 && (u.reg 0).flight.length == 1)
    | _ => false) = true := by decide +kernel
theorem test_tprec_tshape : (after (exec .tprec (matrix .tprec 0x11)) (fun t => (t.rt 0 0).prec == 0x11)
    && after (exec (.tshape 4) (matrix (.tshape 4) 0x03CF00E0)) (fun t => (t.tm t.nd 4).shape == 0x03CF00E0 && !(t.tm t.nd 4).full)) = true := by decide +kernel
theorem witness_MatrixCompletes : (match exec (.tmov 2 5 0 0) (matrix (.tmov 2 5 0 0) 0) with
    | .next t => [4, 5, 6].contains (t.reg 0).st.toNat && ((t.rt 0 0).mops.head?).map (fun m => timedOp m.op && decide (m.due ≤ 1000)) == some true
    | _ => false) = true := by decide +kernel
theorem witness_MatrixProduct : (List.replicate 1024 0).length = 1024 ∧ shRows 0x03CF00E0 ≤ 32 ∧ shCols 0x03CF00E0 ≤ 32 := by decide +kernel
/-- Register 2 holds two rows of three 4-bit elements, 0xDEF and 0xABC; the image's SCRBANKS is 1; the go record's lanes are as given. -/
def rowsOf (i : Instr) (k : Nat) (go : Nat) : State :=
  ((nodeWith i k { tmeta := [(2, { shape := 0x00420060, full := true })] } [(0, dataTok (BitVec.ofNat 256 go) 7, 4)]).modReg 0 (fun r =>
    { r with image := r.image + fieldAt 0x20 1 1 })).modTmem 0 0 (fun m => { m with treg := [(2, 0xABCDEF)], scr := writeLE m.scr 0x80 2 0xF321 })
  |>.at 0 (0, 0)
/-- The operation begins; then the event of its node performs a row. -/
def begun (i : Instr) (k : Nat) (go : Nat) : State :=
  match exec i (rowsOf i k go) with | .next t => { t with cycle := 20, ev := { w := 1 } } | _ => ready []
/-- TSTS at 0x40 with a stride of 0x40: each event stores one row, its pad bits zero, and the last sends the ORDER token. -/
theorem test_tsts_rows : after (exec .memoryAccessPerformed (begun (.tsts 2 3 1 0) 0 (0x40 + 0x40 * 2 ^ 32))) (fun t =>
    readLE (t.tmem 0 0).scr 0x40 3 == 0xDEF && readLE (t.tmem 0 0).scr 0x80 2 == 0xF321 && (t.rt 0 0).mops.map (·.rows) == [1] && (t.reg 0).flight == []
    && after (exec .memoryAccessPerformed { t with ev := { w := 1 } }) (fun u => readLE (u.tmem 0 0).scr 0x80 2 == 0xABC && (u.rt 0 0).mops == []
        && (u.reg 0).flight.map (fun f => (f.tok.kind, f.idx)) == [(9, 4)] && (u.headAt u.nd 0).isNone)) = true := by decide +kernel
/-- TLD with BMODE 1 of the same shape into register 4: the shape stands from the first row on. -/
theorem test_tld_row : after (exec .memoryAccessPerformed (put (begun (.tld 1 4 0 3) 0x00420060 (0x100 + 0x40 * 2 ^ 64)) [(0x100, 2, 0xF321)])) (fun t =>
    t.regBits t.nd 4 == 0x321 && (t.tm t.nd 4).shape == 0x00420060 && !(t.tm t.nd 4).full && (t.rt 0 0).mops.map (·.rows) == [1]) = true := by decide +kernel
/-- A row whose page is not there parks the node, with nothing done and the shape as it was. -/
theorem test_tld_row_faults : after (exec .memoryAccessPerformed (begun (.tld 1 4 0 3) 0x00420060 (0x10000000000000 + 0x40 * 2 ^ 64))) (fun t =>
    (t.rt 0 0).parked.map (·.done) == [0] && (t.tm t.nd 4).shape == (({} : TregMeta).shape)) = true := by decide +kernel
theorem witness_RowTransfers : let s := begun (.tsts 2 3 1 0) 0 (0x40 + 0x40 * 2 ^ 32)
    ((s.rt 0 0).mops.find? (fun p => p.slot == s.ev.s && decide (p.due ≤ s.now 0))).map (fun m => (m.op, m.rows, (m.go.lane 0).toNat, (m.go.lane 1).toNat))
        = some (.tsts 2 3 1 0, 0, 0x40, 0x40)
      ∧ s.ev.w ≠ 0 ∧ (s.reg 0).st.toNat ∈ [4, 5, 6] ∧ (s.rt 0 0).parked = [] ∧ s.module.injctl.getLsbD 63 = false
      ∧ s.scrPlace s.nd 0x40 = some ((s.reg 0).absTile 0, 0x40) ∧ s.scrPlace s.nd 0x41 = some ((s.reg 0).absTile 0, 0x41)
      ∧ Memory.wf ((s.clu 0).tile ((s.reg 0).absTile 0)).scr = true := by decide +kernel
theorem witness_RowTransfers_memory : let s := begun (.tst 2 0 3 1 0) 0 (0x100 + 0x40 * 2 ^ 64)
    (match State.resolveRow (s.reg 0).capt .write (.node ⟨0, 0, 0⟩) (rowPieces 0x100 2) s with
      | (u, .ok keys) => keys == [(0x100, 2)] && (u.reg 0).capt.marks 0x100 == [] && (u.l2Line 0 4).marks == [] && (u.l2Line 0 4).dirty == 0 && Memory.wf u.mem
      | _ => false) = true ∧ ((s.rt 0 0).mops.head?).map (·.op) = some (.tst 2 0 3 1 0) := by decide +kernel
theorem witness_RowNodes : let s := matrix (.tld 1 4 0 0) 0x03CF00E0
    let o : RowOp := { instr := .tld 1 4 0 0, reg := 4, store := false, scr := false, scope := 0, setShape := true }
    s.Ready [0] [(0, dataTok 0 7, 4)] 4 ∧ (s.rt 0 0).mops.any (fun m => m.slot.toNat == 0) = false ∧ s.matReady s.nd (s.rowNeed s.nd o) = true
      ∧ (s.rowNeed s.nd o).ok = true ∧ s.rowFault s.nd o (dataTok 0 7) = none ∧ s.rowHeld s.nd o (dataTok 0 7) = false :=
  ⟨ready_of _ _ _ _ (by decide +kernel), by decide +kernel⟩

/-! ## Queues, ports and periods -/

/-- A token on its way to slot A of node 0. -/
def arriving : State := region { mapped [] with cycle := 10 } { st := 4, image := image (.sink 0 0 0) 0, running := true, flight := [{ dest := .queue 0 0, tok := dataTok 5 1, idx := 4, due := 3 }] }
theorem test_queue_arrival : after (exec .queueArrival arriving) (fun t => (t.reg 0).flight == [] && ((t.rt 0 0).queue 0).items.map (·.idx) == [4]) = true := by
  decide +kernel
theorem witness_QueueArrivals : let s := arriving; let v := s.fireFirst 0 0 0; let f : Flight := { dest := .queue 0 0, tok := dataTok 5 1, idx := 4, due := 3 }
    (s.reg 0).flight[s.ev.k]? = some f ∧ 3 ≤ s.now 0 ∧ s.hasArrived 0 0 0 = false ∧ v.ev = s.ev ∧ flightDue (v.now 0) (v.reg 0).flight 0 = some f
      ∧ (((v.rt 0 0).queue 0).arrive (queueRec (v.reg 0).image 0 0) false 0 (slotType (v.reg 0).image 0 0 0) (v.now 0) (dataTok 5 1) 4).overrun = false := by
  decide +kernel

/-- A running region whose two ports are open: 8 f32 at 0x8000 to read, as many to write. -/
def open_ : List Port := [{ id := 0, kind := .ingress, num := 1, snap := BitVec.ofNat 512 (tensor 1) }
                          , { id := 0, kind := .egress, num := 2, snap := BitVec.ofNat 512 (tensor 2) }]
def flowing (f : List Flight) (p : List Port) : State :=
  put (region { mapped [] with cycle := 10 } { st := 4, image := through, running := true, left := 1, ports := p, flight := f, capt := (mapped []).me.cred }) [(0x8000, 8, 0x4000000040A00000)]
/-- The first token of the tensor goes toward the egress port, two switches away. -/
theorem test_ingress : after (exec .ingressAdmit (flowing [] open_)) (fun t => ((t.reg 0).flight.map (fun f => (f.tok.pay.toNat, f.tok.kind, f.idx)))
    == [(0x4000000040A00000, 0, 0)]) = true := by decide +kernel
theorem witness_IngressAdmits : let s := flowing [] open_
    (match (s.reg 0).ports with
      | p :: _ => p.kind.inward && actsIn (s.reg 0).st && (s.reg 0).mark.isNone && !(s.reg 0).anyParked && !p.endSent && (s.reg 0).credit p
          && p.buf == [] && decide (p.next < dscTokens p.snap) && (match s.readToken 0 p 0 with | (_, .ok _) => true | _ => false)
      | _ => false) = true := by decide +kernel
/-- A marker waits for the end of a record that a bridge port is part-way through (R359). -/
theorem test_ingress_mid : let p (x : Token) : List Port := [{ id := 0, kind := .bridgeIn, num := 1, mid := true, buf := [x] }]
    let s (x : Token) := (flowing [] (p x)).modReg 0 (fun r => { r with mark := some { num := 9, start := 0, why := .rmark } })
    (after (exec .ingressAdmit (s (dataTok 5 1))) (fun t => (t.reg 0).flight.map (fun f => f.tok.kind) == [0])
      && after (exec .ingressAdmit (s (dataTok 5 1 true))) (fun t => (t.reg 0).flight.map (fun f => f.tok.kind) == [4])) = true := by decide +kernel
/-- Token 0 of a port is written at positions 0 to 7 of its tensor. -/
def leaving (t : Token) : State := flowing [{ dest := .port 0, tok := t, idx := 0, due := 3 }] open_
theorem test_egress_data : after (exec .egressToken (leaving (dataTok 0x99 1))) (fun t => t.coreByte 0 0x8000 == 0x99 && t.coreByte 0 0x8004 == 0
    && (t.reg 0).flight == []) = true := by decide +kernel
theorem test_egress_end : after (exec .egressToken (leaving (endTok false))) (fun t => (t.reg 0).left == 0 && (t.reg 0).ends == 1) = true := by decide +kernel
theorem test_egress_command_is_illegal : after (exec .egressToken (leaving (bareTok 5 0))) (fun t => (t.reg 0).left == 1 && t.me.records.length + t.me.faultqtail.toNat != 0)
    = true := by decide +kernel
theorem witness_EgressTokens : let s := leaving (dataTok 0x99 1); let p := (s.reg 0).ports.getLast?
    actsIn (s.reg 0).st = true ∧ 3 ≤ s.now 0 ∧ (s.reg 0).ports.find? (fun q => q.id == 0 && !q.kind.inward) = p ∧ p.map (·.kind) = some .egress
      ∧ dscHalf (BitVec.ofNat 512 (tensor 2)) = false
      ∧ (match State.elemKeys (s.reg 0).capt .write (dscShadow (BitVec.ofNat 512 (tensor 2))) (.port 0 0 false) (BitVec.ofNat 512 (tensor 2)) [0] s with
        | (u, .ok ks) => (u.shadowKeys (s.reg 0).capt (BitVec.ofNat 512 (tensor 2)) ks).2.isNone | _ => false) = true := by decide +kernel

/-- A period whose one sink has reported. -/
def finished : State := region (mapped []) { st := 4, image := through, running := true, left := 0, ends := 1, comp := 0x40, capt := (mapped []).me.cred }
theorem test_period_completion : after (exec .periodCompletion finished) (fun t => (t.reg 0).st == 5 && readLE t.mem 0x40 8 == 1 && (t.reg 0).last == some 1) = true := by
  decide +kernel
theorem witness_PeriodEvents : let s := finished; let u := (s.writeBackAll 0).publishAll 0
    (s.reg 0).st = 4 ∧ (s.reg 0).running = true ∧ (s.reg 0).left = 0 ∧ (s.reg 0).mark = none ∧ (s.reg 0).buffers.all (s.reg 0).capt.marksOk = true
      ∧ (u.reg 0).st = 4 ∧ (u.reg 0).published = none ∧ (u.completionWaits 0).2 = false := by decide +kernel
theorem test_drained : after (exec .drainedEvent (region (mapped []) { st := 6, image := through })) (fun t => (t.reg 0).st == 7) = true := by decide +kernel
theorem witness_PeriodEvents_drained : let s := region (mapped []) { st := 6, image := through }
    s.quiescent 0 = true ∧ (s.reg 0).drainedAll = true := by decide +kernel
def tearing : State := me (loaded 5 []) (fun t => { t with region := { t.region with newImage := some through, ports := t.region.ports.map (fun p => { p with endSent := true }) } })
theorem test_teardown : after (exec .teardownPeriodStart tearing) (fun t => (t.reg 0).st == 4 && (t.reg 0).left == 1 && (t.reg 0).newImage == none) = true := by
  decide +kernel
theorem witness_PeriodEvents_teardown : let s := tearing
    (s.reg 0).newImage = some through ∧ (s.reg 0).tornDown = true ∧ s.wloadRuns 0 through = false ∧ bindingCheck ((s.loadImage 0 through).thr 0) ((s.loadImage 0 through).reg 0) = 0 := by decide +kernel
theorem witness_CompletionStore : let w : WordStore := { capt := (mapped []).me.cred, va := 0x40, val := 1, place := 0 }
    resolves finished w.capt .write w.va (.word 0) 0x40 = true ∧ (finished.resolve w.capt .write false 0x10000000000000 (.word 0)).2 = .fault 5 := by decide +kernel

/-- A region still for 2^20 cycles whose sink is blocked. -/
def hung : State :=
  let queued : RTile := { queues := [(0, { items := [{ tok := dataTok 5 1, idx := 4 }] })] }
  { region (me (mapped []) (fun t => { t with faultqbase := 0x2000 })) { st := 4, image := image (.iadd 0 0 0) 0, running := true, left := 2, tiles := [(0, queued)] } with cycle := 2 ^ 20 }
/-- The sweep begins, examines its one page, and writes its record. -/
theorem test_hang_sweep : after (exec .hangSweep hung) (fun t => after (exec .hangSweep t) (fun t => after (exec .hangSweep t) (fun t => t.me.faultqtail == 1 && readLE t.mem 0x2018 1 == 0x0B && trigPend t.me.trig[15] == 1))) = true := by
  decide +kernel
def sweepingHung (l : List (BitVec 4)) : State := hung.modReg 0 (fun r => { r with sweep := some { asked := false, todo := l } })
theorem witness_HangSweeps : let s := hung
    (s.reg 0).sweep = none ∧ (s.reg 0).st = 4 ∧ (s.reg 0).active + 2 ^ 20 ≤ s.now 0 ∧ (s.reg 0).left ≠ 0 ∧ (s.reg 0).anyParked = false ∧ (s.reg 0).cmds = []
      ∧ ((sweepingHung [0]).reg 0).sweep = some { asked := false, todo := [0] } ∧ ((sweepingHung []).reg 0).sweep = some { asked := false, todo := [] } := by
  decide +kernel

/-- A record waits, and the queue at 0x2000 has room. -/
def recording : State := me (mapped []) (fun t => { t with faultqbase := 0x2000, records := [{ addr := 0x77, cause := 4 }] })
/-- CAUSE is byte 24 of the record. -/
theorem test_deferred_record : after (exec .faultRecordDeferred recording) (fun t => readLE t.mem 0x2000 8 == 0x77 && readLE t.mem 0x2018 1 == 4
    && t.me.faultqtail == 1 && t.me.records == [] && trigPend t.me.trig[14] == 1) = true := by decide +kernel
theorem witness_DeferredRecords : let s := recording
    s.me.records = [{ addr := 0x77, cause := 4 }] ∧ (fld s.me.faultqbase 12 40 : BitVec 40) ≠ 0
      ∧ resolves s { s.me.cred with pl := 1 } .write 0x2000 (.record s.cur) 0x2000 = true := by decide +kernel

/-- A region with a command port: the first CMD token waits for the second. -/
def commanding (half : Option (Token × Nat)) : State :=
  let ports : List Port := [{ id := 0, kind := .command, num := 0, half := half }]
  region { mapped [] with cycle := 10 } { st := 4, image := image .ecmd 0, running := true, capt := (mapped []).me.cred, ports := ports, flight := [{ dest := .port 0, tok := bareTok 5 7, idx := 0, due := 3 }] }
theorem test_command_port : (after (exec .commandPortReceive (commanding none)) (fun t => (t.reg 0).ports.map (·.half) == [some (bareTok 5 7, 0)] && (t.reg 0).flight == [])
    && after (exec .commandPortReceive (commanding (some (bareTok 5 0, 0)))) (fun t => (t.reg 0).ports.map (·.half) == [none] && (t.reg 0).flight.all (fun f => f.tok.kind == 9)))
    = true := by decide +kernel
theorem witness_CommandReceive : let s := commanding none
    (s.reg 0).flight[s.ev.k]? = some { dest := .port 0, tok := bareTok 5 7, idx := 0, due := 3 } ∧ 3 ≤ s.now 0 ∧ (bareTok 5 7).kind = 5 := by decide +kernel

/-! ## Host translations, passages and moves -/

/-- Thread 0 waits for a host page. -/
def asking : State := { me (ready []) (fun t => { t with wait := .busy }) with
  ats := [{ fn := 1, pasid := 2, page := 0x10000, write := false, waiters := [{ who := .thread 0, va := 0x500, ha := 0x10040, write := false }] }] }
/-- One translation of 2^16 bytes, to be read: the thread's word goes on. -/
theorem test_ats_completion : after (exec .atsTranslationCompletion { asking with ev := { x := 0x50 } }) (fun t => t.ats == [] && t.atc != [] && t.me.wait == .again)
    = true := by decide +kernel
theorem test_ats_refused : after (exec .atsTranslationCompletion { asking with ev := { v := 1 } }) (fun t => t.ats == [] && t.me.trapcause == 0x11 && t.me.trapinfo == 0x500)
    = true := by decide +kernel
def requested : State := { asking with pri := asking.ats.map (fun r => { r with sent := true }), ats := [] }
theorem test_prg_response : (after (exec .prgResponse requested) (fun t => t.pri == [] && t.me.wait == .again)
    && after (exec .prgResponse { requested with ev := { v := 2 } }) (fun t => t.priOff == [1] && t.me.trapcause == 0x11)) = true := by decide +kernel
theorem test_pri_and_invalidation : (after (exec .priCapabilityEnable { ready [] with ev := { f := 3 }, priOff := [3] }) (fun t => t.priOn == [3] && t.priOff == [])
    && after (exec .atsInvalidateRequest { ready [] with ev := { f := 1, v := 2, w := 0x10000, k := 4096 }, atc := [{ fn := 1, pasid := 2, page := 0x10000, size := 4096, rd := true, wr := false }] }) (fun t => t.atc == [] && t.invals.length == 1)) = true := by
  decide +kernel
theorem witness_HostTranslations : let s := asking
    (s.ats[s.ev.k]?).isSome = true ∧ s.me.wait = .busy ∧ s.atcGrants 1 2 0x10040 false = false ∧ (1 : BitVec 6) ∉ s.priOn ∧ (1 : BitVec 6) ∉ s.priOff
      ∧ ({ s with atc := [{ fn := 1, pasid := 2, page := 0x10000, size := 4096, rd := true, wr := false }] } : State).atcGrants 1 2 0x10040 false = true
      ∧ (requested.pri[requested.ev.k]?).map (·.sent) = some true := by decide +kernel
theorem witness_HostTranslations_inval : let s : State := { ready [] with invals := [{ fn := 1, pasid := 2, lo := 0, hi := 4096, stamp := 0 }] }
    (s.invals[s.ev.k]?).map (fun i => s.usesHost i) = some false := by decide +kernel

/-- A marker in passage, standing at the node's slots. -/
def marking : State :=
  let s := node (.iadd 0 0 0) 0 [(0, markTok 9, 0), (1, markTok 9, 0)]
  s.modReg 0 (fun r => { r with mark := some { num := 9, start := 0, why := .rmark } })
theorem test_node_mark : after (exec .nodeMarkSave marking) (fun t => (t.rt 0 0).marked == [0] && (t.reg 0).flight.map (fun f => f.tok.kind) == [4, 4]
    && (t.headAt t.nd 0).isNone) = true := by decide +kernel
theorem witness_NodeMarks : let s := marking
    (∀ j ∈ slotsRead (s.reg 0).image 0 0, s.markAt 0 (0, 0) j = true) ∧ s.canAct 0 (0, 0) = false ∧ s.waitsOnTag 0 (0, 0) = false ∧ (s.rt 0 0).mops = []
      ∧ (s.rt 0 0).accs = [] ∧ actsIn (s.reg 0).st = true ∧ isNode (s.reg 0).image 0 0 = true ∧ 0 ∉ (s.rt 0 0).marked := by decide +kernel
def passed : State := me (mapped []) (fun t => { t with ctxbase := 0x4000, wait := .inside, region := { st := 4, image := through, mark := some { num := 9, start := 0, why := .rmark } } })
theorem witness_Passages : let s := passed
    (∀ v ∈ imgNodes (s.reg 0).image, v.2 ∈ (Tab.get ({} : RTile) (s.reg 0).tiles v.1.toNat).marked)
      ∧ (∀ p ∈ (s.reg 0).ports, p.kind.inward = false → p.markSent = true) ∧ (s.reg 0).flight = [] := by decide +kernel
theorem witness_Passages_timeout : let s : State := { passed with cycle := 16384 }
    ((s.reg 0).mark).map (fun m => decide (m.start + 16384 ≤ s.now 0)) = some true := by decide +kernel
theorem test_preemption : after (exec .threadPreemption (me (ready []) (fun t => { t with saver := some 4, wait := .wfe }))) (fun t => t.me.stopped && t.me.wait == .none)
    = true := by decide +kernel

/-- Page 5 is held by a region that does not run; a claim of four by four pages is blocked by it. -/
def moving : State :=
  let s := (ready []).modThr 0 (fun t => { t with region := { st := 3, image := through, origin := 5 } })
  { (s.modThr 4 (fun t => { t with run := .ready, claim := some ⟨0x6E, 0, 9⟩, region := { st := 1 } })) with ev := { k := 0 } }
theorem test_nitinol_stays : after (exec .nitinolMove { moving with ev := { k := 5 } }) (fun t => t.reg 0 == moving.reg 0) = true := by decide +kernel
/-- A claim of 3 by 4 pages fits beside page 0, and not beside page 5. -/
theorem test_nitinol_moves : after (exec .nitinolMove moving) (fun t => (t.reg 0).origin == 0) = true := by decide +kernel
theorem witness_NitinolMoves : let s := moving; let r := s.reg 0
    (match rect (claimW r.claim) (claimH r.claim) 0 with
      | some ps => !s.moving 0 && r.canMove && decide (0 ≠ r.origin.toNat) && ps.all (fun p => !(s.othersHold 0).contains p)
          && s.meets 0 r.image (claimW r.claim) (claimH r.claim) 0 && (s.errands 0).any (fun e => s.nearer 0 e (0, 0)) && r.movable
          && !s.module.injctl.getLsbD 63
      | none => false) = true := by decide +kernel

/-! ## Errors, banks, caches, links and the module -/

theorem test_scrub : (after (exec .scrubRow { ready [] with ev := { u := .treg 0 0, v := 1 } }) (fun t => t.module.log.map (·.kind) == [0]
      && Tab.get 0 (t.bankSet (.treg 0 0)).errs 0 == 1)
    && after (exec .scrubRow { ready [] with ev := { u := .treg 0 0, v := 2 } }) (fun t => (t.bankSet (.treg 0 0)).live + 1 == (BankUnit.treg 0 0).banks)) = true := by
  decide +kernel
theorem witness_ErrorCounts : let s : State := { ready [] with ev := { u := .treg 0 0, v := 1 } }
    s.ev.t.toNat < s.ev.u.banks ∧ 4 * s.ev.k < s.ev.u.words ∧ s.ev.t.toNat ∉ (s.bankSet s.ev.u).retired ∧ s.module.injctl.getLsbD 63 = false := by decide +kernel
theorem test_window_boundary : after (exec .errorWindowBoundary { ready [] with cycle := 2250000000 }) (fun t => t.module.winStart == 1000000 && t.module.thrNow == 4) = true := by
  decide +kernel
theorem witness_ErrorCounts_boundary : let s : State := { ready [] with cycle := 2250000000 }
    s.module.winStart < s.time / 1000 / s.module.winNow * s.module.winNow := by decide +kernel
/-- Bank 1 of 4 retires: its logical bank is evacuated to the bank that served the highest; bank 3 itself vanishes, and a cache's is emptied first. -/
theorem test_retire : let b : BankSet := { map := [0, 1, 2, 3], live := 4 }
    (b.retire (.treg 0 0) 1).live = 3 ∧ ((b.retire (.treg 0 0) 1).evac).map (fun e => (e.logical, e.dest)) = some (1, 3)
      ∧ (b.retire (.treg 0 0) 3).retired = [3] ∧ ((b.retire (.l2 0 0) 3).evac).map (fun e => e.dest) = some 3 := by decide +kernel
/-- Two more retire while bank 1 is evacuated; the destination's own restarts the copy toward the highest logical bank left. -/
theorem test_retire_restart : let u : BankUnit := .treg 0 0
    let b : BankSet := (({ map := [0, 1, 2, 3, 4, 5], live := 6 } : BankSet).retire u 1).retire u 2
    let c := BankSet.release { (({ map := [0, 1, 2, 3], live := 4 } : BankSet).hold 0).hold 1 with errs := [] } u
    b.waiting = [2] ∧ (((b.retire u 5).evac).map (fun e => (e.logical, e.dest, e.parts))) = some (1, 3, [(5, 0)]) ∧ (b.retire u 5).live = 3
      ∧ c.evac.map (fun e => (e.logical, e.dest)) = some (0, 3) ∧ c.waiting = [1] := by decide +kernel
theorem witness_BankRetirement : let b : BankSet := { map := [0, 1, 2, 3], live := 4 }
    b.evac = none ∧ b.waiting = [] ∧ 0 < b.live ∧ b.map.findIdx? (· == 1) = some 1
      ∧ b.phys (b.live - 1) ∉ b.retired ++ b.held ++ b.map.take (b.live - 1) ∧ (BankUnit.treg 0 0).kind ≠ 5 := by decide +kernel
def evacuating : State := (ready []).modBanks (.treg 0 0) (fun b => b.retire (.treg 0 0) 1)
theorem test_evacuation_row : after (exec .evacuationRowCopy { evacuating with ev := { u := .treg 0 0 } }) (fun t => ((t.bankSet (.treg 0 0)).evac).map (·.cursor) == some 1) = true := by
  decide +kernel
/-- A slice whose bank 0 is emptied, with one line. -/
def emptying : State := ((ready []).modClu 0 (fun c => { c with l2 := [(4, { data := 0xAB, valid := 1, dirty := 1 })] })).modBanks (.l2 0 0)
  (fun b => { b with map := List.range 16, live := 15, evac := some { logical := 0, dest := 15, main := 0 } })
/-- The line is written back and gone; the next row finds none and ends the evacuation. -/
theorem test_emptying : after (exec .evacuationRowCopy { emptying with ev := { u := .l2 0 0 } }) (fun t => readLE t.mem 0x100 1 == 0xAB
    && (t.l2Line 0 4).valid == 0 && after (exec .evacuationRowCopy t) (fun t => (t.bankSet (.l2 0 0)).evac == none
      && (t.bankSet (.l2 0 0)).map.head? == some 15 && (t.bankSet (.l2 0 0)).retired == [0])) = true := by decide +kernel
theorem witness_Evacuations : ((evacuating.bankSet (.treg 0 0)).evac).map (fun e => decide (e.cursor + 1 < (BankUnit.treg 0 0).rows)) = some true
    ∧ (evacuating.bankSet (.treg 0 0)).waiting = [] ∧ evacuating.module.injctl.getLsbD 63 = false
    ∧ emptying.linesFrom (.l2 0 0) 0 = [4] ∧ emptying.linesFrom (.l2 0 0) 5 = [] ∧ (emptying.bankSet (.l2 0 0)).waiting = [] := by decide +kernel
theorem test_relaunch_retry : after (exec .invarRelaunchRetry (region (ready []) { st := 5 })) (fun t => t.reg 0 == { st := 5 }) = true := by decide +kernel
theorem test_l2_eviction : after (exec .l2Eviction { (ready []).modClu 0 (fun c => { c with l2 := [(4, { data := 0xAB, valid := 1, dirty := 1 })] }) with ev := { k := 4, w := 1 } })
    (fun t => readLE t.mem 0x100 1 == 0xAB && (t.l2Line 0 4).valid == 0) = true := by decide +kernel
theorem test_entry_drop : after (exec .translationEntryDrop (mapped [])) (fun t => t.tlb == []) = true := by decide +kernel
theorem test_link_events : (after (exec .linkCrcRetransmit { ready [] with ev := { k := 2, s := 1 } }) (fun t => Tab.get 0 t.module.laneErrs 17 == 1 && t.module.log.length == 1)
    && after (exec .solwenLinkFlit { ready [] with ev := { w := 3, c := 1, k := 64, x := 5 } }) (fun t => t.module.pieces.map (fun p => (p.modNo, p.offset)) == [(3, 64)])) = true := by
  decide +kernel
theorem test_refresh : (after (exec .refreshWindowStart { (ready []).modClu 0 (fun c => { c with refNext := 72000 }) with cycle := 72000 }) (fun t => (t.clu 0).inWin && (t.clu 0).refNext == 73125)
    && after (exec .refreshWindowEnd { (ready []).modClu 0 (fun c => { c with inWin := true, refNext := 1125 }) with cycle := 1125 })
      (fun t => !(t.clu 0).inWin && (t.clu 0).refNext == 72000)) = true := by decide +kernel
theorem witness_RefreshWindows : ((ready []).clu 0).refNext ≤ (ready []).cycle := by decide +kernel
/-- Table 14.2: 96 degrees is band 2; 93 keeps it, 91 leaves it. -/
theorem test_thermal : (after (exec .thermalSample { ready [] with ev := { temp := 96 } }) (fun t => (t.clu 0).band == 2 && (t.clu 0).cap == 16 && (t.clu 0).budget == 128)
    && after (exec .thermalSample { (ready []).modClu 0 (fun c => { c with band := 2 }) with ev := { temp := 93 } }) (fun t => (t.clu 0).band == 2)
    && after (exec .thermalSample { (ready []).modClu 0 (fun c => { c with band := 2 }) with ev := { temp := 91 } }) (fun t => (t.clu 0).band == 1)) = true := by decide +kernel
theorem logged_keeps (l : List Nat) (s : State) : let t := l.foldl (fun s k => s.logErr 4 0 (BitVec.ofNat 64 k)) s
    t.tlb = s.tlb ∧ t.mem = s.mem ∧ t.me = s.me ∧ t.module.held = s.module.held := by
  induction l generalizing s with
  | nil => exact ⟨rfl, rfl, rfl, rfl⟩
  | cons k l ih => exact ih (s.logErr 4 0 (BitVec.ofNat 64 k))
theorem test_reset_keeps_memory (s : State) (h : s.module.held = false) : s.moduleReset.tlb = [] ∧ s.moduleReset.mem = s.mem
    ∧ s.moduleReset.me.run = .halted ∧ s.moduleReset.module.held = false := by
  obtain ⟨h₁, h₂, h₃, h₄⟩ := logged_keeps s.module.boots.1 { State.reset with
    mem := s.mem, poison := s.poison, tick := s.tick
    module := { log := s.module.log, logNext := s.module.logNext, slots := s.module.slots, active := s.module.boots.2.getD s.module.active
                firmware := s.module.boots.2.isSome, rails := s.module.rails } }
  rw [State.moduleReset, h]
  exact ⟨h₁, h₂, congrArg Thread.run h₃, h₄⟩
theorem test_trip : ∃ t, exec .thermalTrip { ready [] with ev := { temp := 115 } } = .next t ∧ t.me.run = .halted :=
  ⟨(State.logErr { ready [] with ev := { temp := 115 } } 3 0 (zext (0 : BitVec 5) 64 <<< 41)).moduleReset, rfl, (test_reset_keeps_memory _ rfl).2.2.1⟩
theorem test_rails : (after (exec .railUndervoltage { ready [] with ev := { s := 2, v := 1 } }) (fun t => t.module.rails == [2] && !t.module.held)
    && after (exec .railRecovery { ready [] with ev := { s := 2 }, module := { rails := [2], held := true } }) (fun t => t.module.rails == [] && t.module.held)) = true := by
  decide +kernel
theorem test_rails_hold : after (exec .railUndervoltage { ready [] with ev := { s := 2 } }) (fun t => t.module.held && t.module.rails == [2] && t.module.log == []
    && t.me.run == .ready) = true := by decide +kernel
/-- START: thread 0 at the PC of the command's parameters. -/
theorem test_start : after (exec .start { State.reset with ev := { x := 0x4000 } }) (fun t => t.me.run == .ready && t.pc == 0x4000 && t.module.started) = true := by decide +kernel
theorem test_cobalt : (after (exec .setmod { State.reset with ev := { v := 0x706 } }) (fun t => t.module.modNo == 7)
    && after (exec .ident { State.reset with module := { cobalt := some { op := 2, status := 0 } } }) (fun t => (t.module.answer).map (·.status) == some 1)
    && after (exec .cobaltCommandDone { State.reset with module := { cobalt := some { op := 2, status := 0 } } }) (fun t => t.module.cobalt == none && t.module.answer != none)
    && after (exec .unassignedCobaltOpcode { State.reset with ev := { v := 0x55 } }) (fun t => (t.module.cobalt).map (·.status) == some 2)) = true := by decide +kernel
theorem witness_CobaltCommands : State.reset.module.held = false ∧ State.reset.module.firmware = true ∧ State.reset.ev.f = 0 ∧ State.reset.module.cobalt = none
    ∧ State.reset.collecting = false ∧ ¬(1 ≤ (fld (0x55 : BitVec 64) 0 8 : BitVec 8).toNat ∧ (fld (0x55 : BitVec 64) 0 8 : BitVec 8).toNat ≤ 7) := by decide +kernel
theorem test_host_access : (after (exec .bar0Access { State.reset with ev := { k := 0x100, t := 4, w := 1, x := 0xAABBCCDD } }) (fun t => readLE t.mem 0x100 4 == 0xAABBCCDD)
    && after (exec .bar0Access { State.reset with ev := { k := 0x4000000020, t := 8, w := 1, x := 0x7FF } }) (fun t => (Tab.get ({} : Doorbell) t.doorbells 1).dest == 0x7FF)) = true := by
  decide +kernel

/-! ## Whole steps -/

/-- ADDI g3, g0, 7 at address 0, fetched, decoded and run (R65). -/
theorem test_step_control : stepTo (State.reset.withFetchWord 32 0x10600007) (fun t => t.rd 3 == 7 && t.pc == 4) = true := by decide +kernel
theorem test_step_operation : stepTo (State.reset.withFetchWord 32 0x20610000) (fun t => ((t.rt 0 0).queue 0).items == []) = true := by decide +kernel
theorem test_step_event : stepTo { State.reset with agenda := [{ delay := 0, move := .event .setmod { v := 0x706 } }] } (fun t => t.module.modNo == 7 && t.agenda == []) = true := by
  decide +kernel
theorem witness_StepRunsDecoded : let s := State.reset.withControlWord 0x10600007
    s.module.held = false ∧ s.module.firmware = true ∧ Tab.get 0 (s.clu 0).issued 0 ≤ s.cycleOf 0 ∧ (s.contexts 0).head? = some 0
      ∧ s.me.ready = true ∧ s.me.deliverable = false ∧ resolves s s.me.cred .fetch 0 (.thread 0) 0 = true
      ∧ s.hasInst 0 0 = true ∧ (s.instLoad 0 0).2 = (0x10600007, false) := by decide +kernel
theorem witness_StepRunsDecoded_look : let s := me (State.reset.withControlWord 0x10600007) (fun t => { t with wait := .reissue, word := some 0x60600180 })
    s.me.looks = true ∧ s.me.word = some 0x60600180 ∧ s.module.held = false := by decide +kernel
theorem witness_StepRunsDecoded_held : ({ held := true } : Module).lets (.core 0) = false ∧ ({ held := true } : Module).lets (.event .railRecovery {}) = true := by decide
theorem witness_MemoryStaysCanonical : Memory.wf (State.reset.withControlWord 0x10600007).mem = true := by decide +kernel
theorem witness_ControlEncoding : (Instr.add 3 4 5).wf = true ∧ (Instr.add 3 4 5).isControl = true ∧ encode (.add 3 4 5) = some 0x00642800 := by decide
theorem witness_OperationEncoding : (Instr.tmma 2 3 1 0 0).wf = true ∧ (Instr.tmma 2 3 1 0 0).isOperation = true ∧ encode (.tmma 2 3 1 0 0) = some 0x77F32304 := by decide

/-! ## Clauses at their boundaries, and the remaining hypotheses -/

/-- The band a cluster in band b takes at a temperature, with the package at some watts. -/
def bandAt (b : BitVec 2) (t : Int) (watts : Nat) (r : BitVec 2) : Bool :=
  after (exec .thermalSample { (ready []).modClu 0 (fun c => { c with band := b }) with ev := { temp := t, k := watts } }) (fun u => (u.clu 0).band == r)
/-- R401: 85, 95 and 105 enter a band, 82, 92 and 102 keep it, and 1800 W are allowed. -/
theorem test_thermal_boundaries : (bandAt 0 84 1800 0 && bandAt 0 85 1800 1 && bandAt 1 95 1800 2 && bandAt 2 105 1800 3 && bandAt 1 82 1800 1 && bandAt 1 81 1800 0
    && bandAt 2 92 1800 2 && bandAt 2 91 1800 1 && bandAt 3 102 1800 3 && bandAt 3 101 1800 2 && bandAt 1 80 1801 2 && bandAt 3 80 1801 3) = true := by decide +kernel
theorem witness_ThermalBands : let s : State := { ready [] with ev := { temp := 85, k := 1800 } }
    s.ev.k ≤ 1800 ∧ 85 ≤ s.ev.temp ∧ s.ev.temp < 95 ∧ (s.clu s.ev.c).band.toNat ≤ 1 := by decide +kernel
theorem test_trip_boundary : after (exec .thermalTrip { ready [] with ev := { temp := 114 } }) (fun t => t.me.run == .ready) = true := by decide +kernel
theorem witness_RoundedFloatWords : ((2#3, Fmt.bf16) ∈ [(0#3, Fmt.f32), (1#3, Fmt.f64), (2#3, Fmt.bf16)]) ∧ (4#3).toNat ≤ 4 := by decide
theorem witness_SysretWord : let m := (me (ready []) (fun t => { t with status := 0x22, trappc := 0x80 })).me
    ¬((fld m.status 2 2 : BitVec 2) = 3 ∨ (fld m.status 0 2 : BitVec 2).toNat < (fld m.status 2 2 : BitVec 2).toNat) ∧ m.trappc.toNat % 4 = 0 := by decide +kernel
theorem witness_SysretWord_denied : let m := (me (ready []) (fun t => { t with status := 0x08 })).me
    (fld m.status 0 2 : BitVec 2).toNat < (fld m.status 2 2 : BitVec 2).toNat := by decide +kernel
theorem witness_RegisterWriteStep : ∃ q ∈ plainRegs, ({ ready [] with ev := { k := 0x0A1 } } : State).ev.k = q.num.toNat
    ∧ q.level ≤ (fld (ready []).me.status 0 2 : BitVec 2).toNat := by decide +kernel
theorem witness_SharedRegisterWrites : (fld (ready []).me.status 0 2 : BitVec 2).toNat = 2 := by decide +kernel
theorem witness_MailboxReceive : (me (ready []) (fun t => { t with mbox := t.mbox.set 1 [7, 8] })).me.mbox[(1 : BitVec 2).toNat] = 7 :: [8] := by decide +kernel
/-- R89: the seventeenth flit of a mailbox is lost. -/
theorem test_mailbox_full : after (exec .mboxFlitArrival { me (ready []) (fun t => { t with mbox := t.mbox.set 1 (List.replicate 16 5) }) with flits := [⟨4, 0, 1, 9⟩] })
    (fun t => t.me.mbox[1].length == 16 && t.me.lost[1] == 1) = true := by decide +kernel
theorem witness_LoadStoreTraps : let s := ready [(4, 0x100)]
    (s.rd 4).toNat % 8 = 0 ∧ (s.resolve s.me.cred .read false 0x100 (.thread s.cur)).2 = .fault 4 := by decide +kernel
theorem witness_FenceWord : Memory.wf (mapped []).mem = true ∧ (3 : BitVec 3).toNat < 4 ∧ 4 ≤ (4 : BitVec 3).toNat := by decide +kernel
theorem test_fence_scope_zero : after (exec (.fence 0) ((mapped []).modClu 0 (fun c => { c with l2 := [(4, { data := 0xAB, valid := 1, dirty := 1 })] })))
    (fun t => t.mem == [] && (t.l2Line 0 4).dirty == 1) = true := by decide +kernel
theorem witness_RegionStateRefusals : (ready []).me.region.st.toNat ∉ [2] ∧ (region (ready []) (at_ 3)).me.region.st.toNat ∉ [2] := by decide +kernel
theorem witness_DrainWaitStatWords : let r := (region (ready []) { st := 7, last := some 1 }).me.region
    4 ≤ r.st.toNat ∧ r.st ≠ 8 ∧ r.running = false ∧ r.last = some 1 := by decide +kernel
theorem witness_CachesAndLanes : let l := ((mapped []).modClu 0 (fun c => { c with l2 := [(4, { data := 0xAB, valid := 1, dirty := 1 })] })).l2Line 0 4
    (l.valid = 0 → l.dirty = 0) ∧ l.dirty ≠ 0 ∧ l.marks = [] := by decide +kernel
theorem witness_CachesAndLanes_lane : (ready []).module.injctl.getLsbD 63 = false ∧ (19 : Nat) < 20 := by decide +kernel
/-- R375: the fourth error of a lane in a window retires it. -/
theorem test_lane_retires : after (exec .linkCrcRetransmit { ready [] with ev := { k := 2, s := 1 }, module := { laneErrs := [(17, 3)] } })
    (fun t => t.module.laneDead == [17] && (t.module.log.head?).map (·.kind) == some 2) = true := by decide +kernel
theorem witness_LinkFlits : (ready []).module.injctl.getLsbD 63 = false ∧ 8 * ((ready []).ev.t.toNat / 8 % 16) ∉ (ready []).module.laneDead := by decide +kernel
theorem witness_ModuleResets : after (exec .moduleReset (ready [])) (fun _ => true) = true ∧ (2 : BitVec 2) ∈ ({ rails := [2] } : Module).rails := by decide +kernel
theorem witness_HostAccess : (0x4000000000 : Nat) + 32 * 32 + 16 = 0x4000000410 ∧ 0x100 + 4 ≤ Config.gddrBytes ∧ State.reset.module.injctl.getLsbD 63 = false := by decide +kernel
/-- The last doorbell's DISCARDS, and an access above it, which changes nothing. -/
theorem test_host_access_boundary : (after (exec .bar0Access { State.reset with ev := { k := 0x4000000410, t := 4, w := 1 }, doorbells := [(32, { discards := 9 })] })
      (fun t => Tab.get ({} : Doorbell) t.doorbells 32 == {})
    && after (exec .bar0Access { State.reset with ev := { k := 0x4000000420, t := 8, w := 1, x := 5 } }) (fun t => t.doorbells == [] && t.mem == [])) = true := by decide +kernel
/-- Guarded fields at the ends of their ranges: 15 and 31 leave DIRTYGRAN at 16, 30 sets it; FN takes 32, not 33; SIZE takes 11, not 12. -/
theorem test_guarded_writes : (after (exec (.swr 4 0x023) (ready [(4, 15)])) (fun t => t.me.dirtygran == 16)
    && after (exec (.swr 4 0x023) (ready [(4, 30)])) (fun t => t.me.dirtygran == 30)
    && after (exec (.swr 4 0x023) (ready [(4, 31)])) (fun t => t.me.dirtygran == 16)
    && after (exec (.swr 4 0x024) (ready [(4, 0x80000000)])) (fun t => t.me.partition == 0x80000000)
    && after (exec (.swr 4 0x024) (ready [(4, 0x84000000)])) (fun t => t.me.partition == 0)
    && after (exec (.swr 4 0x030) (ready [(4, 0x100B)])) (fun t => t.me.faultqbase == 0x100B)
    && after (exec (.swr 4 0x030) (ready [(4, 0x100C)])) (fun t => t.me.faultqbase == 0x1000)) = true := by decide +kernel
theorem witness_GuardedRegisterWrites : (1 : Nat) ≤ (fld (ready []).me.status 0 2 : BitVec 2).toNat ∧ (fld (ready []).me.status 0 2 : BitVec 2).toNat = 2 := by
  decide +kernel
theorem witness_RegionWordsComplete : (∀ st ∈ [(2 : BitVec 4), 3, 4, 7], ∃ s : State, s.me.region.st = st ∧ (s.rd 4).toNat % 64 = 0
      ∧ s.readImage (s.rd 4) = (s, .ok through) ∧ s.loadCheck s.cur through = none ∧ s.wloadRuns s.cur through = false
      ∧ imgInvar s.me.region.image = false ∧ ∀ p ∈ s.me.region.ports, p.kind = .ingress ∨ p.kind = .bridgeIn → p.endSent = false)
    ∧ ∀ st ∈ [(3 : BitVec 4), 5, 7], let s := loaded st [(4, 0x40)]
      s.me.region.st = st ∧ imgInvar s.me.region.image = false ∧ (s.rd 4).toNat % 8 = 0
        ∧ resolves s s.me.cred .read 0x40 (.thread s.cur) 0x40 = true ∧ bindingCheck s.me s.me.region = 0 := by
  refine ⟨fun st h => ?_, by decide +kernel⟩
  obtain ⟨s, h1, h2, h3, h4, h5, h6, h7⟩ := witness_LoadRegionWords st h
  exact ⟨s, h1, h2, h3, h4, h5, h6, by simp [h7]⟩
theorem witness_ChainWordsComplete_open : let s := put (mapped [(5, 0x1000)]) [(0x1000, 8, 0x2000), (0x1008, 8, 7)]
    s.me.wait = .none ∧ (s.rd 4).toNat < 32 ∧ (s.rd 4).toNat % 8 ≠ 7 ∧ s.chainOf s.cur 0 = none ∧ (s.threads.filter (fun p => Tab.has p.2.chains 0)).length < 32
      ∧ (s.rd 5).toNat % 64 = 0 ∧ (match s.resolve s.me.cred .read false 0x1000 (.thread s.cur) with | (_, .ok k x) => k == 0x1000 && x.target == .device 0x1000 | _ => false) = true
      ∧ (s.l1Load (coreOf s.cur) 0x1000 64).2 = (0x2000 + 7 * 2 ^ 64, false) := by decide +kernel
theorem witness_ChainWordsComplete : let s := put (withChain idle [(5, 0x2000)]) [(0x2000, 2, 0x100)]
    s.me.wait = .none ∧ s.chainOf s.cur 0 = some idle ∧ (idle.enq - idle.seq) + (if idle.openb then 1 else 0) = 0 ∧ idle.halted = false ∧ (s.rd 5).toNat % 64 = 0
      ∧ (match (s.writeBackAll (clusterOf s.cur)).walkStart idle with
        | (u, .ok a) => a == 0x2000 && (match State.walkChain idle.capt 0x2000 4096 a u with | (_, .ok js) => js.length == 1 | _ => false)
        | _ => false) = true := by decide +kernel
theorem witness_NodesComplete : let s := node (.cvt 6 0 0 0 0 0) 0 [(0, dataTok 3 1, 4)]
    (4 < 2 ^ 48 ∧ s.Ready [0] [(0, dataTok 3 1, 4)] 4) ∧ s.prog s.nd = 0 ∧ elemCount 0 = elemCount 6 ∧ elemCount (fld s.nd.const 0 4) = elemCount 6
      ∧ ((s.rt 0 0).queue 0).headRec.length ≤ 1 :=
  ⟨⟨by decide, ready_of _ _ _ _ (by decide +kernel)⟩, by decide +kernel, by decide +kernel, by decide +kernel, by decide +kernel⟩
theorem witness_NodesComplete_pair : let s := node (.ckchk 0) 0 [(0, dataTok 5 1, 4), (1, dataTok 5 1, 4)]
    s.Ready [0, 1] [(0, dataTok 5 1, 4), (1, dataTok 5 1, 4)] 4 ∧ (ckOf (dataTok 5 1)).matches 0 (ckOf (dataTok 5 1)) = true :=
  ⟨ready_of _ _ _ _ (by decide +kernel), by decide +kernel⟩
theorem witness_NodesComplete_vote : let s := node (.vote 0) 0 [(0, dataTok 5 1, 4), (1, dataTok 5 1, 4), (2, dataTok 5 1, 4)]
    s.nodeLive s.nd = true ∧ s.nd.ordered = false ∧ (s.rt 0 0).ended.contains 0 = false ∧ (s.counts s.nd).length ≤ 4
      ∧ ∀ k ∈ [0, 1, 2], s.headAt s.nd k = some (dataTok 5 1, 4) := by decide +kernel
theorem witness_RowAndOrderNodesComplete : let s := rowsOf (.tsts 2 3 1 0) 0 (0x40 + 0x40 * 2 ^ 32); let a := dataTok (BitVec.ofNat 256 (0x40 + 0x40 * 2 ^ 32)) 7
    let o : RowOp := { instr := .tsts 2 3 1 0, reg := 2, keep := true, store := true, scr := true, scope := 3 }
    s.Ready [0] [(0, a, 4)] 4 ∧ (s.rt 0 0).mops = [] ∧ s.matReady s.nd (s.rowNeed s.nd o) = true ∧ a.valid &&& 7 = 7 ∧ (s.rowNeed s.nd o).ok = true
      ∧ s.rowFault s.nd o a = none ∧ s.rowHeld s.nd o a = false := ⟨ready_of _ _ _ _ (by decide +kernel), by decide +kernel⟩
theorem witness_EventsComplete_reset : let m := (ready []).module
    m.held = false ∧ m.firmware = true ∧ (ready []).ev.f = 0 ∧ m.cobalt = none := by decide +kernel
theorem witness_EventsComplete : let c := busy (entry 0 0 0 0) .done; let s := withChain c []
    s.chainOf 0 0 = some c ∧ c.batch.getLast? = c.jobs.head? ∧ c.batch.all (fun j => j.st == .done) = true ∧ (s.thr 0).frozen = false ∧ c.owed = []
      ∧ (c.jobs.head?).map (fun j => j.raw.getLsbD 8) = some true
      ∧ (let x := (s.setThr 0 { s.thr 0 with chains := Tab.set (s.thr 0).chains 0 { c with seq := 1, jobs := [], cursor := 0 } }).engStore c.capt 0x1010 8 0x2000
        x.2 = none ∧ (x.1.engStore c.capt 0x1008 8 1).2 = none) := by decide +kernel
theorem witness_EventsComplete_command : let s := commanding none; let r := (s.thr 0).region
    r.flight[s.ev.k]? = some { dest := .port 0, tok := bareTok 5 7, idx := 0, due := 3 } ∧ actsIn r.st = true ∧ 3 ≤ s.now 0 ∧ (bareTok 5 7).kind = kCMD
      ∧ (∀ g ∈ r.flight.take s.ev.k, g.dest ≠ .port 0) ∧ r.cmds = []
      ∧ (r.ports.find? (fun q => q.id == 0 && q.kind == .command)).map (·.half) = some none := by decide +kernel
theorem witness_EventsComplete_still : let s := hung; let r := (s.thr 0).region
    r.sweep = none ∧ r.st = 4 ∧ r.active + 2 ^ 20 ≤ s.now 0 ∧ r.left ≠ 0 ∧ r.anyParked = false ∧ r.cmds = [] := by decide +kernel
theorem witness_EventsComplete_record : let s := recording; let m := s.thr 0
    m.records = [{ addr := 0x77, cause := 4 }] ∧ (fld m.faultqbase 12 40 : BitVec 40) ≠ 0 ∧ fld m.faultqtail 0 32 = (fld m.faultqhead 0 32 : BitVec 32)
      ∧ resolves s { m.cred with pl := 1 } .write 0x2000 (.record 0) 0x2000 = true := by decide +kernel
theorem witness_ErrorCounts_memory : after (exec .scrubRow { ready [] with ev := { f := 1, v := 2, x := 0x108 } }) (fun t => t.poison == [0x21]
    && t.module.log.map (fun r => (r.kind, r.struct, r.loc)) == [(1, 6, 0x108)]) = true := by decide +kernel
/-- DEST, FLIT and DISCARDS of doorbell 1 as the host reads them. -/
theorem test_doorbell_reads : let s (k : Nat) (t : BitVec 8) : State := { State.reset with ev := { k := 0x4000000020 + k, t := t }, doorbells := [(1, { dest := 0x7FF, discards := 9 })] }
    (after (exec .bar0Access (s 0 8)) (fun t => t.hostValue == 0x7FF) && after (exec .bar0Access (s 8 8)) (fun t => t.hostValue == 0)
      && after (exec .bar0Access (s 16 4)) (fun t => t.hostValue == 9)) = true := by decide +kernel
theorem witness_SaveWord_accepts : let s := (mapped [(4, 4), (5, 0x4000)]).modThr 4 (fun t => { t with run := .halted })
    (fld s.me.status 0 2 : BitVec 2) = 2 ∧ (fld s.me.partition 26 6 : BitVec 6) = 0 ∧ (s.thr 4).run ≠ .empty ∧ (s.thr 4).inContext = false ∧ (s.thr 4).saver = none
      ∧ s.fedByRunning 4 = false ∧ s.threads.any (fun p => match p.2.saver with | some k => s.saving k | none => false) = false ∧ (s.thr 4).stopped = false := by decide +kernel
/-- Node 0 of thread 0's tile 0 is parked: RPOST by its coordinate, cluster 0, tile 0, slot 0. -/
def parked : State := node (.gld 0 0 0 0) 0 [(0, dataTok 0x104 3, 4)] |>.modRt 0 0 (fun r => { r with parked := [{ slot := 0, addr := 0x104 }] })
theorem witness_SweepPostMarkReplay_post : let s := parked
    s.ownerOf 0 0 = some (0, 0) ∧ (s.reg 0).st = 4 ∧ ((s.rt 0 0).parked.find? (fun p => p.slot == 0)).isSome = true
      ∧ after (exec (.rpost 3 4) s) (fun t => (t.rt 0 0).parked == [] && t.rd 3 == 0) = true := by decide +kernel

end Sys2Proof.Tests
end

section
/-! PROOFS, O59. What it is for a memory to be canonical, and what keeps it.  A step changes memory only through
`writeLE` and `cellWrite`. A lemma `f_mem` says that `f` leaves memory as it is, a lemma `f_canonical` that `f` keeps it
canonical; a function that takes a continuation keeps it when the continuation does. No proof needs arithmetic: `grind`
goes without its solvers for it where a definition has many cases. Proofs are elaborated one after another: `fun_cases`
builds its principle within each, and many threads at once pass the memory limit of the check. -/

namespace Sys2Proof.Machine
open State
set_option Elab.async false

/-- The memory of a state is in its canonical form: addresses rising, no byte listed that reads as an unlisted one. -/
def State.Canonical (s : State) : Prop := Memory.wf s.mem = true

theorem XlOnly.canonical {s t : State} (h : XlOnly s t) (w : s.Canonical) : t.Canonical := by
  obtain ⟨_, _, _, _, _, rfl, keeps⟩ := h
  exact keeps w

theorem CacheOnly.canonical {s t : State} (h : CacheOnly s t) (w : s.Canonical) : t.Canonical := by
  obtain ⟨_, _, _, rfl, keeps⟩ := h
  exact keeps w

theorem State.Canonical.of_fst {α : Type} {p : State × α} {t : State} {a : α} (w : p.1.Canonical) (h : p = (t, a)) :
    t.Canonical := by
  rwa [h] at w

theorem State.Canonical.of_mem {s t : State} (w : s.Canonical) (h : t.mem = s.mem) : t.Canonical := by
  rwa [State.Canonical, h]

theorem State.Canonical.ite {c : Prop} [Decidable c] {t u : State} (wt : t.Canonical) (wu : u.Canonical) :
    State.Canonical (if c then t else u) := by
  split
  · exact wt
  · exact wu

/-! A fold over a list keeps what each of its steps keeps. -/

theorem foldl_mem {α : Type} {f : State → α → State} (hf : ∀ s a, (f s a).mem = s.mem) (l : List α) (s : State) :
    (l.foldl f s).mem = s.mem := by
  induction l generalizing s with
  | nil => rfl
  | cons a l ih => rw [List.foldl_cons, ih, hf]

theorem foldl_canonical {α : Type} {f : State → α → State} (hf : ∀ {s}, s.Canonical → ∀ a, (f s a).Canonical)
    {s : State} (w : s.Canonical) (l : List α) : (l.foldl f s).Canonical := by
  induction l generalizing s with
  | nil => exact w
  | cons a l ih => exact ih (hf w a)

theorem foldl_pair_mem {α β : Type} {f : State × β → α → State × β} (hf : ∀ p a, (f p a).1.mem = p.1.mem) (l : List α)
    (p : State × β) : (l.foldl f p).1.mem = p.1.mem := by
  induction l generalizing p with
  | nil => rfl
  | cons a l ih => rw [List.foldl_cons, ih, hf]

theorem foldl_pair_canonical {α β : Type} {f : State × β → α → State × β}
    (hf : ∀ p a, p.1.Canonical → (f p a).1.Canonical) {p : State × β} (w : p.1.Canonical) (l : List α) :
    (l.foldl f p).1.Canonical := by
  induction l generalizing p with
  | nil => exact w
  | cons a l ih => exact ih (hf p a w)

/-- An instruction or event leads to a state whose memory is in its canonical form. -/
inductive CanonicalOut : Out → Prop
  | next {t : State} (w : t.Canonical) : CanonicalOut (.next t)

end Sys2Proof.Machine
end

section
/-! PROOFS, O59. The state's own operations. -/

namespace Sys2Proof.Machine
open State
set_option Elab.async false

@[simp] theorem State.sysret_mem (s : State) : s.sysret.mem = s.mem := by
  fun_cases State.sysret
  all_goals grind -ring -linarith -lia -order [trap_mem, modMe_mem]

end Sys2Proof.Machine
end

section
/-! PROOFS, O59. Caches, homes and translation. -/

namespace Sys2Proof.Machine
open State
set_option Elab.async false

@[simp] theorem State.injectHome_mem (s : State) (pa n) : (s.injectHome pa n).mem = s.mem := by
  obtain ⟨p, m, h⟩ := s.injectHome_eq pa n
  rw [h]

@[simp] theorem State.homeRead_mem (s : State) (pa n) : (s.homeRead pa n).1.mem = s.mem := by
  obtain ⟨p, m, h⟩ := s.homeRead_eq pa n
  rw [h]

theorem State.homeWrite_canonical {s : State} (w : s.Canonical) (pa n v bad) : (s.homeWrite pa n v bad).Canonical :=
  writeLE_wf _ _ _ _ w

@[simp] theorem State.homeLine_mem (s : State) (line) : (s.homeLine line).1.mem = s.mem := by
  simp [State.homeLine]

theorem State.markOne_canonical {s : State} (w : s.Canonical) (pa m) : (s.markOne pa m).Canonical :=
  writeLE_wf _ _ _ _ w

theorem State.markAll_canonical {s : State} (w : s.Canonical) (pa ms) : (s.markAll pa ms).Canonical :=
  foldl_canonical (fun w _ => markOne_canonical w ..) w ms

theorem State.homeMerge_canonical {s : State} (w : s.Canonical) (line l m) : (s.homeMerge line l m).Canonical :=
  (homeMerge_shape s line l m).canonical w

@[simp] theorem State.l2Get_mem (s : State) (c line) : (s.l2Get c line).1.mem = s.mem := by
  fun_cases State.l2Get
  all_goals grind -ring -linarith -lia -order [!homeLine_mem, setL2_mem]

theorem State.writeBack_canonical {s : State} (w : s.Canonical) (c line) : (s.writeBack c line).Canonical :=
  (writeBack_shape s c line).canonical w

theorem State.writeBackAll_canonical {s : State} (w : s.Canonical) (c) : (s.writeBackAll c).Canonical :=
  foldl_canonical (fun w _ => writeBack_canonical w ..) w _

theorem State.writeBackMask_canonical {s : State} (w : s.Canonical) (c line m) :
    (s.writeBackMask c line m).Canonical := by
  fun_cases State.writeBackMask
  all_goals grind -ring -linarith -lia -order [Canonical, setL2_mem, homeMerge_canonical]

@[simp] theorem State.dropClean_mem (s : State) (c line) : (s.dropClean c line).mem = s.mem := by
  fun_cases State.dropClean
  all_goals grind -ring -linarith -lia -order [setL2_mem]

@[simp] theorem State.dropCleanAll_mem (s : State) (c) : (s.dropCleanAll c).mem = s.mem :=
  foldl_mem (fun s _ => dropClean_mem s ..) _ s

theorem State.l2Store_canonical {s : State} (w : s.Canonical) (c line new m bad marks) :
    (s.l2Store c line new m bad marks).Canonical := by
  fun_cases State.l2Store
  all_goals grind -ring -linarith -lia -order [Canonical, markAll_canonical, homeMerge_canonical, setL2_mem]

@[simp] theorem State.l1Load_mem (s : State) (k pa n) : (s.l1Load k pa n).1.mem = s.mem := by
  fun_cases State.l1Load
  all_goals grind -ring -linarith -lia -order [!l2Get_mem, modL1_mem]

theorem State.l1Store_canonical {s : State} (w : s.Canonical) (k pa n v marks) :
    (s.l1Store k pa n v marks).Canonical := by
  fun_cases State.l1Store
  all_goals grind [Canonical, modL1_mem, l2Store_canonical]

@[simp] theorem State.instLoad_mem (s : State) (k pa) : (s.instLoad k pa).1.mem = s.mem := by
  fun_cases State.instLoad
  all_goals grind -ring -linarith -lia -order [!l2Get_mem, modInst_mem]

@[simp] theorem State.dropCore_mem (s : State) (k) : (s.dropCore k).mem = s.mem := by
  simp [State.dropCore]

@[simp] theorem State.fabricLoad_mem (s : State) (c q p pa n) : (s.fabricLoad c q p pa n).1.mem = s.mem := by
  fun_cases State.fabricLoad
  all_goals grind -ring -linarith -lia -order [!homeLine_mem, !l2Get_mem, modQuad_mem]

@[simp] theorem State.walk_mem (s : State) (cr va levels addr) : (State.walk cr va levels addr s).1.mem = s.mem := by
  induction levels generalizing s addr with
  | nil => rfl
  | cons level rest ih => unfold State.walk; grind -ring -linarith -lia -order [!homeRead_mem]

@[simp] theorem State.walkFromBase_mem (s : State) (cr va) : (s.walkFromBase cr va).1.mem = s.mem := by
  simp [State.walkFromBase]

theorem State.touchPte_canonical {s : State} (w : s.Canonical) (l k) : (s.touchPte l k).Canonical := by
  fun_cases State.touchPte
  all_goals grind [Canonical, homeWrite_canonical]

theorem State.descriptor_canonical {s : State} (w : s.Canonical) (cr b) : (s.descriptor cr b).1.Canonical :=
  (descriptor_xlOnly ..).canonical w

theorem State.bufferTarget_canonical {s : State} (w : s.Canonical) (cr l shadow va) :
    (s.bufferTarget cr l shadow va).1.Canonical :=
  (bufferTarget_xlOnly ..).canonical w

theorem State.translate_canonical {s : State} (w : s.Canonical) (cr k shadow va) :
    (s.translate cr k shadow va).1.Canonical :=
  (translate_xlOnly ..).canonical w

@[simp] theorem State.askAts_mem (s : State) (fn pasid w) : (s.askAts fn pasid w).mem = s.mem := by
  fun_cases State.askAts
  all_goals grind

theorem State.resolve_canonical {s : State} (w : s.Canonical) (cr k shadow va who) :
    (s.resolve cr k shadow va who).1.Canonical :=
  (resolve_xlOnly ..).canonical w

theorem State.withVa_canonical {s : State} (w : s.Canonical) (k va) {f : State → Nat → Xl → State}
    (hf : ∀ {t}, t.Canonical → ∀ key x, (f t key x).Canonical) : (s.withVa k va f).Canonical := by
  unfold State.withVa
  have wRes := resolve_canonical w s.me.cred k false va (.thread s.cur)
  generalize s.resolve s.me.cred k false va (.thread s.cur) = p at wRes ⊢
  obtain ⟨t, ⟨key, x⟩ | c | _⟩ := p
  · exact hf wRes key x
  · exact wRes.of_mem (trap_mem ..)
  · exact wRes.of_mem (stay_mem ..)

theorem State.withHome_canonical {s : State} (w : s.Canonical) (va) {f : State → Nat → State}
    (hf : ∀ {t}, t.Canonical → ∀ pa, (f t pa).Canonical) : (s.withHome va f).Canonical := by
  unfold State.withHome
  have wXl := translate_canonical w s.me.cred .write false va
  generalize s.translate s.me.cred .write false va = p at wXl ⊢
  obtain ⟨t, c | x⟩ := p
  · exact wXl.of_mem (trap_mem ..)
  · dsimp only
    split
    · split
      · exact hf wXl _
      · exact wXl.of_mem (trap_mem ..)
    · exact wXl.of_mem (trap_mem ..)

theorem State.memRead_canonical {s : State} (w : s.Canonical) (va n) {f : State → Nat → State}
    (hf : ∀ {t}, t.Canonical → ∀ v, (f t v).Canonical) : (s.memRead va n f).Canonical := by
  unfold State.memRead
  split
  · exact w.of_mem (trap_mem ..)
  · refine withVa_canonical w _ _ (fun {t} wt key _ => ?_)
    have wLoad := wt.of_mem (l1Load_mem t (coreOf t.cur) key n)
    generalize t.l1Load (coreOf t.cur) key n = p at wLoad ⊢
    obtain ⟨u, v, bad⟩ := p
    dsimp only
    split
    · exact wLoad.of_mem (trap_mem ..)
    · exact hf wLoad v

theorem State.memWrite_canonical {s : State} (w : s.Canonical) (va n v) {f : State → State}
    (hf : ∀ {t}, t.Canonical → (f t).Canonical) : (s.memWrite va n v f).Canonical := by
  unfold State.memWrite
  split
  · exact w.of_mem (trap_mem ..)
  · exact withVa_canonical w _ _ (fun wt _ _ => hf (l1Store_canonical wt ..))

end Sys2Proof.Machine
end

section
/-! PROOFS, O59. Words of synchronisation and fault records. -/

namespace Sys2Proof.Machine
open State
set_option Elab.async false

@[simp] theorem State.illegal_mem (s : State) (i) : (s.illegal i).mem = s.mem := by
  simp [State.illegal]

theorem execBind_canonical {s : State} (w : s.Canonical) (d a b) : CanonicalOut (execBind d a b s) := by
  fun_cases execBind
  all_goals exact .next (w.of_mem (by simp))

theorem execUnbind_canonical {s : State} (w : s.Canonical) (d a b) : CanonicalOut (execUnbind d a b s) := by
  fun_cases execUnbind
  all_goals exact .next (w.of_mem (by simp))

theorem State.maintTarget_canonical {s : State} (w : s.Canonical) (cr va) : (s.maintTarget cr va).1.Canonical := by
  unfold State.maintTarget
  have wWalk := w.of_mem (walkFromBase_mem s cr va)
  split
  · exact w
  · split <;> rename_i h <;> rw [h] at wWalk
    · exact wWalk
    · rename_i u l
      split
      · split
        · exact touchPte_canonical wWalk ..
        · exact wWalk
      · have wBuf := bufferTarget_canonical wWalk cr l false va
        split <;> rename_i h <;> rw [h] at wBuf
        · exact wBuf
        · exact touchPte_canonical wBuf ..
      · exact touchPte_canonical wWalk ..

@[simp] theorem hostPieces_mem (s : State) (n va fn pasid ha len r) :
    (hostPieces s n va fn pasid ha len r).1.mem = s.mem := by
  refine foldl_pair_mem (fun p a => ?_) _ _
  grind [askAts_mem]

theorem State.boundRange_canonical {s : State} (w : s.Canonical) (n cr base len r) :
    (s.boundRange n cr base len r).1.Canonical := by
  refine foldl_pair_canonical (fun ⟨t, r⟩ k w => ?_) w _
  dsimp only
  split
  next h => exact (maintTarget_canonical w ..).of_fst h
  next h => exact (maintTarget_canonical w ..).of_fst h
  next h => exact ((maintTarget_canonical w ..).of_fst h).of_mem (hostPieces_mem ..)

theorem State.boundTo_canonical {s : State} (w : s.Canonical) (o) : (s.boundTo o).1.Canonical := by
  refine foldl_pair_canonical (fun p a w => ?_) w _
  grind [Canonical, !boundRange_canonical]

theorem State.writeBackIn_canonical {s : State} (w : s.Canonical) (c rs) : (s.writeBackIn c rs).Canonical := by
  refine foldl_canonical (fun w a => ?_) w _
  grind [Canonical, writeBack_canonical]

@[simp] theorem State.dropCleanIn_mem (s : State) (c rs) : (s.dropCleanIn c rs).mem = s.mem := by
  refine foldl_mem (fun s a => ?_) _ _
  split <;> simp

@[simp] theorem State.dropL1In_mem (s : State) (k rs) : (s.dropL1In k rs).mem = s.mem := by
  simp [State.dropL1In]

@[simp] theorem State.modRegionQuads_mem (s : State) (n f) : (s.modRegionQuads n f).mem = s.mem := by
  simp [State.modRegionQuads]

theorem State.homeStore_canonical {s : State} (w : s.Canonical) (cr pa n v) : (s.homeStore cr pa n v).Canonical := by
  fun_cases State.homeStore
  all_goals grind [Canonical, homeWrite_canonical, markAll_canonical]

theorem State.acqPoll_canonical {s : State} (w : s.Canonical) (excl o t pa) : (s.acqPoll excl o t pa).Canonical := by
  fun_cases State.acqPoll
  all_goals grind [Canonical, stay_mem, !boundTo_canonical, homeStore_canonical, dropL1In_mem, dropCleanIn_mem,
    modRegionQuads_mem, modMe_mem]

theorem State.acq_canonical {s : State} (w : s.Canonical) (excl a) : (s.acq excl a).Canonical := by
  unfold State.acq
  dsimp only
  split
  · have wXl := translate_canonical w s.me.cred .write false (s.rd a)
    split <;> rename_i h <;> rw [h] at wXl
    · exact acqPoll_canonical wXl ..
    · exact wXl
  · split
    · exact w.of_mem (trap_mem ..)
    · refine withHome_canonical w _ (fun {t} wt pa => ?_)
      grind [Canonical, !homeRead_mem, trap_mem, homeStore_canonical, acqPoll_canonical]

theorem State.release_canonical {s : State} (w : s.Canonical) (o pa) : (s.release o pa).Canonical := by
  fun_cases State.release
  all_goals grind [Canonical, homeStore_canonical, modMe_mem, advance_mem]

theorem execRel_canonical {s : State} (w : s.Canonical) (a) : CanonicalOut (execRel a s) := by
  fun_cases execRel
  · exact .next (w.of_mem (trap_mem ..))
  · refine .next (withHome_canonical w _ (fun {t} w pa => ?_))
    have wRead := w.of_mem (homeRead_mem t pa 64)
    split
    next h =>
      rw [h] at wRead
      split
      · exact wRead.of_mem (trap_mem ..)
      · split
        next hBound =>
          have wBound := (boundTo_canonical wRead ..).of_fst hBound
          split
          · exact wBound.of_mem (stay_mem ..)
          · exact release_canonical (writeBackIn_canonical wBound ..) ..

theorem State.fence_canonical {s : State} (w : s.Canonical) (scope) : (s.fence scope).Canonical := by
  fun_cases State.fence
  all_goals grind [Canonical, writeBackAll_canonical, dropCore_mem, dropCleanAll_mem]

theorem execFence_canonical {s : State} (w : s.Canonical) (z) : CanonicalOut (execFence z s) := by
  fun_cases execFence
  all_goals
    refine .next ?_
    grind [Canonical, illegal_mem, advance_mem, fence_canonical]

theorem atomic_canonical {s : State} (w : s.Canonical) (f d a b z) : CanonicalOut (atomic f d a b z s) := by
  unfold atomic
  extract_lets ea n
  split
  · exact .next (w.of_mem (trap_mem ..))
  · refine .next (withHome_canonical w _ (fun {t} w pa => ?_))
    extract_lets u v
    have wRead : (v.homeRead pa n).1.Canonical := w.of_mem (by simp [u, v])
    split
    next h =>
      rw [h] at wRead
      split
      · exact wRead.of_mem (trap_mem ..)
      · exact (homeStore_canonical wRead ..).of_mem (put_mem ..)

@[simp] theorem State.loseRecord_mem (s : State) (n qerr) : (s.loseRecord n qerr).mem = s.mem := by
  simp [State.loseRecord]

theorem State.putRecord_canonical {s : State} (w : s.Canonical) (n r) : (s.putRecord n r).1.Canonical := by
  fun_cases State.putRecord
  all_goals grind -ring -linarith -lia -order [Canonical, !resolve_canonical, loseRecord_mem, homeWrite_canonical,
    markAll_canonical, modThr_mem, event_mem]

theorem State.flushRecords_canonical {s : State} (w : s.Canonical) (k n) : (State.flushRecords k n s).Canonical := by
  induction k generalizing s with
  | zero => exact w
  | succ k ih =>
    unfold State.flushRecords
    grind [Canonical, modThr_mem, loseRecord_mem, !putRecord_canonical]

theorem State.faultRecord_canonical {s : State} (w : s.Canonical) (n r) : (s.faultRecord n r).Canonical := by
  fun_cases State.faultRecord
  all_goals grind -ring -linarith -lia -order [Canonical, flushRecords_canonical, modThr_mem, loseRecord_mem,
    !putRecord_canonical]

theorem State.publish_canonical {s : State} (d) {mark : State → State} (hmark : (mark s).Canonical) :
    (s.publish d mark).Canonical :=
  .of_mem (homeWrite_canonical (homeWrite_canonical hmark _ _ _ false) _ _ _ false) rfl

@[simp] theorem State.modTile_mem (s : State) (c t f) : (s.modTile c t f).mem = s.mem := by
  simp [State.modTile]

@[simp] theorem State.zeroTiles_mem (s : State) (n img scr) : (s.zeroTiles n img scr).mem = s.mem :=
  foldl_mem (fun _ _ => modTile_mem ..) _ _

theorem State.dropWord_canonical {s : State} (w : s.Canonical) (n word c) : (s.dropWord n word c).Canonical := by
  fun_cases State.dropWord
  all_goals grind [Canonical, faultRecord_canonical]

theorem State.storeWord_canonical {s : State} (w : s.Canonical) (n word) : (s.storeWord n word).Canonical := by
  fun_cases State.storeWord
  all_goals grind [Canonical, !resolve_canonical, dropWord_canonical, modThr_mem, homeStore_canonical]

theorem State.storeWords_canonical {s : State} (w : s.Canonical) (n) : (s.storeWords n).Canonical :=
  foldl_canonical (fun w _ => storeWord_canonical w ..) (w.of_mem (modThr_mem ..)) _

theorem State.refuseWord_canonical {s : State} (w : s.Canonical) (n va) : (s.refuseWord n va).Canonical :=
  foldl_canonical (fun w _ => dropWord_canonical w ..) (w.of_mem (modThr_mem ..)) _

theorem State.finishPeriod_canonical {s : State} (w : s.Canonical) (n status) :
    (s.finishPeriod n status).Canonical := by
  fun_cases State.finishPeriod
  all_goals grind [Canonical, writeBackAll_canonical, modReg_mem, storeWord_canonical]

@[simp] theorem State.dropScore_mem (s : State) (p) : (s.dropScore p).mem = s.mem := by
  simp [State.dropScore]

@[simp] theorem State.dropCommandScore_mem (s : State) (n) : (s.dropCommandScore n).mem = s.mem := by
  simp [State.dropCommandScore]

theorem State.endRegion_canonical {s : State} (w : s.Canonical) (n cause) : (s.endRegion n cause).Canonical := by
  fun_cases State.endRegion
  all_goals grind -ring -linarith -lia -order [Canonical, finishPeriod_canonical, faultRecord_canonical, modReg_mem,
    dropCommandScore_mem]

theorem foldl_cellWrite_wf (l : List Nat) (a : Nat → Nat) (b : Nat → BitVec 8) {m : Memory} (w : Memory.wf m = true) :
    Memory.wf (l.foldl (fun m k => cellWrite m (a k) (b k)) m) = true := by
  induction l generalizing m with
  | nil => exact w
  | cons k l ih => exact ih (cellWrite_wf _ _ _ w)

theorem State.spoilShadows_canonical {s : State} (w : s.Canonical) (ws) : (s.spoilShadows ws).Canonical :=
  foldl_canonical (fun w _ => by exact foldl_cellWrite_wf _ _ _ w) w ws

theorem State.killSteps_canonical {s : State} (w : s.Canonical) (n) : (s.killSteps n).Canonical := by
  fun_cases State.killSteps
  all_goals grind [Canonical, modReg_mem, dropCommandScore_mem, spoilShadows_canonical]

@[simp] theorem State.replay_mem (s : State) (n) : (s.replay n).mem = s.mem := by
  simp [State.replay]

theorem State.killUncorr_canonical {s : State} (w : s.Canonical) (n place) : (s.killUncorr n place).Canonical := by
  fun_cases State.killUncorr
  all_goals grind -ring -linarith -lia -order [Canonical, faultRecord_canonical, killSteps_canonical, replay_mem,
    endRegion_canonical]

theorem State.regionFault_canonical {s : State} (w : s.Canonical) (n place cause addr flags) :
    (s.regionFault n place cause addr flags).Canonical := by
  fun_cases State.regionFault
  all_goals grind -ring -linarith -lia -order [Canonical, killUncorr_canonical, faultRecord_canonical,
    endRegion_canonical, killSteps_canonical]

@[simp] theorem State.raiseFlag_mem (s : State) (n k) : (s.raiseFlag n k).mem = s.mem := by
  simp [State.raiseFlag]

end Sys2Proof.Machine
end

section
/-! PROOFS, O59. Queues and firings.  A node acts through `nodeStep` and `align`: an attempt either waits or leaves a
state. The operations of `NodeOp` are hypotheses here; each node supplies its own. -/

namespace Sys2Proof.Machine
open State
set_option Elab.async false

@[simp] theorem State.modRt_mem (s : State) (n t f) : (s.modRt n t f).mem = s.mem := by
  simp [State.modRt]

@[simp] theorem State.modQueue_mem (s : State) (n t q f) : (s.modQueue n t q f).mem = s.mem := by
  simp [State.modQueue]

@[simp] theorem State.popAt_mem (s : State) (d k) : (s.popAt d k).mem = s.mem := by
  simp [State.popAt]

@[simp] theorem State.popAll_mem (s : State) (d ks) : (s.popAll d ks).mem = s.mem :=
  foldl_mem (fun _ _ => popAt_mem ..) _ _

@[simp] theorem State.setNstate_mem (s : State) (d v) : (s.setNstate d v).mem = s.mem := by
  simp [State.setNstate]

@[simp] theorem State.setCounts_mem (s : State) (d l) : (s.setCounts d l).mem = s.mem := by
  simp [State.setCounts]

@[simp] theorem State.setProg_mem (s : State) (d k) : (s.setProg d k).mem = s.mem := by
  simp [State.setProg]

@[simp] theorem State.addFl_mem (s : State) (n f) : (s.addFl n f).mem = s.mem := by
  simp [State.addFl]

@[simp] theorem State.sawGap_mem (s : State) (n) : (s.sawGap n).mem = s.mem := by
  simp [State.sawGap]

theorem State.nodeFault_canonical {s : State} (w : s.Canonical) (d cause addr) :
    (s.nodeFault d cause addr).Canonical := by
  fun_cases State.nodeFault
  all_goals grind [Canonical, regionFault_canonical]

@[simp] theorem State.raisePos_mem (s : State) (d o upto) : (s.raisePos d o upto).mem = s.mem := by
  simp [State.raisePos]

@[simp] theorem State.skip_mem (s : State) (d o i) : (s.skip d o i).mem = s.mem := by
  simp [State.skip]

@[simp] theorem State.emit_mem (s : State) (d o t i) : (s.emit d o t i).mem = s.mem := by
  fun_cases State.emit
  all_goals grind [modReg_mem, raisePos_mem]

@[simp] theorem State.emitAll_mem (s : State) (d os t i) : (s.emitAll d os t i).mem = s.mem :=
  foldl_mem (fun _ _ => emit_mem ..) _ _

@[simp] theorem State.emitGap_mem (s : State) (d os first n comp) : (s.emitGap d os first n comp).mem = s.mem := by
  simp [State.emitGap]

@[simp] theorem State.endNode_mem (s : State) (d outs hs) : (s.endNode d outs hs).mem = s.mem := by
  simp [State.endNode]

/-- An attempt of a node to act leaves memory canonical. -/
inductive Went.Canonical : Went → Prop
  | wait : Went.Canonical .wait
  | did {s : State} {firing : Bool} (w : s.Canonical) : Went.Canonical (.did s firing)

/-- What a node does with aligned heads, with a gap and at its end keeps memory canonical. -/
structure NodeOp.Keeps (op : NodeOp) : Prop where
  fire : ∀ {s : State}, s.Canonical → ∀ hs, (op.fire s hs).Canonical
  gap : ∀ {s : State}, s.Canonical → ∀ m n c, (op.gap s m n c).Canonical
  fin : ∀ {s u : State}, s.Canonical → op.fin s = some u → u.Canonical := by nofun

theorem Went.Canonical.ite {c : Prop} [Decidable c] {r r' : Went} (w : r.Canonical) (w' : r'.Canonical) :
    Went.Canonical (if c then r else r') := by
  split
  · exact w
  · exact w'

theorem State.align_canonical {s : State} (w : s.Canonical) (d) {op : NodeOp} (keeps : op.Keeps) :
    (s.align d op).Canonical := by
  have wDrop (f : Taken → Queue → Queue) (l : List Taken) (s : State) :
      (l.foldl (fun s h => s.modQueue d.n d.t (4 * d.slot + h.1) (f h)) s).mem = s.mem :=
    foldl_mem (fun _ _ => modQueue_mem ..) l s
  unfold State.align
  dsimp only
  split
  · exact .wait
  · split
    · split
      · split
        · exact .did <| keeps.fin w (by assumption)
        · exact .did <| w.of_mem (endNode_mem ..)
      · exact .wait
    · split
      · exact .wait
      · split
        · exact .did <| keeps.gap (w.of_mem ((wDrop ..).trans (wDrop ..))) ..
        · split
          · split
            · exact .wait
            · exact .did <| keeps.fire w _
          · exact .did <| keeps.gap (w.of_mem ((sawGap_mem ..).trans (wDrop ..))) ..

@[simp] theorem State.drainNode_mem (s : State) (d slots outs) : (s.drainNode d slots outs).mem = s.mem := by
  fun_cases State.drainNode
  all_goals grind [modRt_mem, emitAll_mem, popAll_mem, popAt_mem]

@[simp] theorem State.emitPoison_mem (s : State) (d l) : (s.emitPoison d l).mem = s.mem :=
  foldl_mem (fun _ _ => emit_mem ..) _ _

@[simp] theorem State.popRecords_mem (s : State) (d hs) : (s.popRecords d hs).mem = s.mem := by
  refine foldl_mem (fun s a => ?_) _ _
  split <;> simp

theorem State.poisonStep_canonical {s : State} (w : s.Canonical) (d) {op : NodeOp} (keeps : op.Keeps) {go : State → Went}
    (hgo : ∀ {t}, t.Canonical → (go t).Canonical) : (s.poisonStep d op go).Canonical := by
  unfold State.poisonStep
  dsimp only
  split
  · exact align_canonical w d { keeps with fire := fun w _ => w.of_mem (by simp) }
  · exact hgo w

@[simp] theorem State.spoilHeads_mem (s : State) (d slots) : (s.spoilHeads d slots).mem = s.mem :=
  foldl_mem (fun _ _ => modQueue_mem ..) _ _

theorem plainOp_keeps (d slots outs) : (plainOp d slots outs).Keeps where
  fire w _ := w
  gap w _ _ _ := w.of_mem (emitGap_mem ..)

theorem Went.Canonical.of_did {r : Went} {t : State} {firing : Bool} (w : r.Canonical) (h : r = .did t firing) :
    t.Canonical := by
  subst h
  obtain _ | ⟨w⟩ := w
  exact w

theorem attempt_canonical {s : State} (w : s.Canonical) {go : State → Went} {ill : State → (State → Went) → Went}
    {hurt : State → State} (hgo : ∀ {t}, t.Canonical → (go t).Canonical) (hill : ∀ {t}, t.Canonical → (ill t go).Canonical)
    (hhurt : ∀ {t}, t.Canonical → (hurt t).Canonical) (forced sick : Bool) :
    ((if forced then fun s => ill (hurt s) go else if sick then fun s => ill s go else go) s).Canonical := by
  cases forced
  · cases sick
    · exact hgo w
    · exact hill w
  · exact hill (hhurt w)

theorem State.nodeStep_canonical {s : State} (w : s.Canonical) (d slots outs orders) {go : State → Went}
    {ill : State → (State → Went) → Went} {hurt : State → State} (hgo : ∀ {t}, t.Canonical → (go t).Canonical)
    (hill : (∀ {t}, t.Canonical → (go t).Canonical) → ∀ {t}, t.Canonical → (ill t go).Canonical)
    (hhurt : ∀ {t}, t.Canonical → (hurt t).Canonical := by exact fun w => w.of_mem (spoilHeads_mem ..)) :
    (s.nodeStep d slots outs orders go ill hurt).Canonical := by
  fun_cases State.nodeStep
  case case1 | case4 | case8 => exact w
  case case2 | case5 => exact nodeFault_canonical w ..
  case case3 => exact w.of_mem (drainNode_mem ..)
  case case6 h _ _ _ =>
    exact (attempt_canonical w hgo (hill hgo) hhurt _ _).of_did h |>.of_mem ((popAt_mem ..).trans (modReg_mem ..))
  case case7 h _ _ _ =>
    exact (attempt_canonical w hgo (hill hgo) hhurt _ _).of_did h |>.of_mem (modReg_mem ..)

theorem State.node_canonical {s : State} (w : s.Canonical) {op : NodeOp} (keeps : op.Keeps) : (s.node op).Canonical :=
  nodeStep_canonical w _ _ _ _ (fun w => align_canonical w _ keeps)
    (fun hgo _ w => poisonStep_canonical w _ keeps hgo)

theorem State.elementNode_canonical {s : State} (w : s.Canonical) (slots sd f) :
    (s.elementNode slots sd f).Canonical :=
  node_canonical w {
    fire := fun w _ => w.of_mem (by simp)
    gap := fun w _ _ _ => w.of_mem (emitGap_mem ..) }

theorem State.queueArrive_canonical {s : State} (w : s.Canonical) (n t q tok i) :
    (s.queueArrive n t q tok i).Canonical := by
  fun_cases State.queueArrive
  all_goals grind -ring -linarith -lia -order [Canonical, nodeFault_canonical, addFl_mem, modQueue_mem, sawGap_mem,
    modReg_mem]

end Sys2Proof.Machine
end

section
/-! PROOFS, O59. System registers, regions and the sections of a saved context. -/

namespace Sys2Proof.Machine
open State
set_option Elab.async false

@[simp] theorem State.sysWrite_mem (s : State) (n r v) : (s.sysWrite n r v).mem = s.mem := by
  fun_cases State.sysWrite
  all_goals simp

@[simp] theorem State.mboxSend_mem (s : State) (v) : (s.mboxSend v).mem = s.mem := by
  simp [State.mboxSend]

@[simp] theorem State.mboxout_mem (s : State) (v) : (s.mboxout v).mem = s.mem := by
  fun_cases State.mboxout
  all_goals simp

@[simp] theorem State.mboxTake_mem (s : State) (d b v r) : (s.mboxTake d b v r).mem = s.mem := by
  simp [State.mboxTake]

@[simp] theorem State.mboxin_mem (s : State) (d b) : (s.mboxin d b).mem = s.mem := by
  fun_cases State.mboxin
  all_goals simp

theorem execSrd_canonical {s : State} (w : s.Canonical) (d r) : CanonicalOut (execSrd d r s) := by
  fun_cases execSrd
  all_goals exact .next (w.of_mem (by simp))

theorem execSwr_canonical {s : State} (w : s.Canonical) (a r) : CanonicalOut (execSwr a r s) := by
  fun_cases execSwr
  all_goals exact .next (w.of_mem (by simp))

@[simp] theorem State.sysModify_mem (s : State) (d r f) : (s.sysModify d r f).mem = s.mem := by
  fun_cases State.sysModify
  all_goals grind -ring -linarith -lia -order [put_mem, trap_mem, sysWrite_mem]

theorem execSysregWrite_canonical {s : State} (w : s.Canonical) : CanonicalOut (execSysregWrite s) := by
  fun_cases execSysregWrite
  all_goals exact .next (w.of_mem (by simp))

theorem execMboxoutWrite_canonical {s : State} (w : s.Canonical) : CanonicalOut (execMboxoutWrite s) := by
  fun_cases execMboxoutWrite
  all_goals
    refine .next ?_
    grind [Canonical, mboxSend_mem, trap_mem]

theorem execMboxinRead_canonical {s : State} (w : s.Canonical) : CanonicalOut (execMboxinRead s) := by
  fun_cases execMboxinRead
  all_goals
    refine .next ?_
    grind [Canonical, stay_mem, mboxTake_mem]

@[simp] theorem State.status_mem (s : State) (d code detail) : (s.status d code detail).mem = s.mem := by
  simp [State.status]

theorem State.inStates_canonical {s : State} (w : s.Canonical) (d ok) {f : State → State} (hf : (f s).Canonical) :
    (s.inStates d ok f).Canonical := by
  unfold State.inStates
  dsimp only
  split
  · exact hf
  · exact w.of_mem (status_mem ..)

@[simp] theorem State.enterClaim_mem (s : State) (n w) : (s.enterClaim n w).mem = s.mem := by
  fun_cases State.enterClaim
  all_goals grind [modReg_mem, modThr_mem]

@[simp] theorem State.letIn_mem (s : State) (n w o) : (s.letIn n w o).mem = s.mem := by
  simp [State.letIn]

@[simp] theorem State.arbiter_mem (s : State) (c) : (s.arbiter c).mem = s.mem := by
  fun_cases State.arbiter
  case case4 => exact (letIn_mem ..).trans (foldl_mem (fun _ _ => modThr_mem ..) _ _)
  case case5 => exact foldl_mem (fun _ _ => modThr_mem ..) _ _
  all_goals simp

theorem execRclaim_canonical {s : State} (w : s.Canonical) (d a n) : CanonicalOut (execRclaim d a n s) := by
  fun_cases execRclaim
  all_goals
    refine .next ?_
    grind -ring -linarith -lia -order [Canonical, status_mem, enterClaim_mem, arbiter_mem, stay_mem]

@[simp] theorem State.dropBridges_mem (s : State) (n) : (s.dropBridges n).mem = s.mem := by
  simp [State.dropBridges]

@[simp] theorem State.freeRegion_mem (s : State) (n) : (s.freeRegion n).mem = s.mem := by
  fun_cases State.freeRegion
  all_goals grind [modClu_mem, modThr_mem, dropCommandScore_mem, dropBridges_mem]

theorem execRfree_canonical {s : State} (w : s.Canonical) (d) : CanonicalOut (execRfree d s) := by
  fun_cases execRfree
  all_goals
    refine .next ?_
    grind [Canonical, status_mem, freeRegion_mem]

theorem execRstat_canonical {s : State} (w : s.Canonical) (d sel) : CanonicalOut (execRstat d sel s) := by
  fun_cases execRstat
  all_goals exact .next (w.of_mem (by simp))

theorem execRdrain_canonical {s : State} (w : s.Canonical) (d) : CanonicalOut (execRdrain d s) :=
  .next <| inStates_canonical w _ _ (w.of_mem (by simp))

@[simp] theorem State.acquire_mem (s : State) : s.acquire.mem = s.mem := by
  simp [State.acquire]

@[simp] theorem State.rwaitDone_mem (s : State) (d) : (s.rwaitDone d).mem = s.mem := by
  fun_cases State.rwaitDone
  all_goals simp

@[simp] theorem State.rwait_mem (s : State) (d fin) : (s.rwait d fin).mem = s.mem := by
  fun_cases State.rwait
  all_goals grind [put_mem, rwaitDone_mem, stay_mem]

@[simp] theorem State.takeResume_mem (s : State) (n t slot tok) : (s.takeResume n t slot tok).mem = s.mem := by
  simp [State.takeResume]

theorem State.unpark_mem {s u : State} {n t slot} (h : s.unpark n t slot = some u) : u.mem = s.mem := by
  obtain ⟨va, -, rfl⟩ := Option.map_eq_some_iff.mp h
  exact takeResume_mem ..

theorem execRpost_canonical {s : State} (w : s.Canonical) (d a) : CanonicalOut (execRpost d a s) := by
  fun_cases execRpost
  all_goals
    refine .next ?_
    grind -ring -linarith -lia -order [Canonical, trap_mem, status_mem, unpark_mem]

@[simp] theorem State.noteSaved_mem (s : State) (n sec) : (s.noteSaved n sec).mem = s.mem := by
  simp [State.noteSaved]

theorem State.areaPages_canonical {s : State} (w : s.Canonical) (cr base off len v poison who k page) :
    (s.areaPages cr base off len v poison who k page).1.Canonical := by
  induction k generalizing s page with
  | zero => exact w
  | succ k ih =>
    unfold State.areaPages
    dsimp only
    have wRes := resolve_canonical w cr .write false (base + BitVec.ofNat 64 (4096 * page)) who
    generalize s.resolve cr .write false (base + BitVec.ofNat 64 (4096 * page)) who = p at wRes ⊢
    obtain ⟨t, ⟨key, x⟩ | c | _⟩ := p
    · exact ih (by exact homeStore_canonical wRes ..) _
    · exact wRes
    · exact wRes

theorem State.areaWrite_canonical {s : State} (w : s.Canonical) (cr base off len v poison who) :
    (s.areaWrite cr base off len v poison who).1.Canonical := by
  unfold State.areaWrite
  split
  · exact w
  · exact areaPages_canonical w ..

theorem State.writeSection_canonical {s : State} (w : s.Canonical) (n) : (s.writeSection n).Canonical := by
  fun_cases State.writeSection
  case case1 => exact w.of_mem (modReg_mem ..)
  case case2 hHead _ hBody =>
    have wHead := (areaWrite_canonical w ..).of_fst hHead
    exact ((areaWrite_canonical wHead ..).of_fst hBody).of_mem ((noteSaved_mem ..).trans (modReg_mem ..))
  case case3 hHead _ hBody =>
    have wHead := (areaWrite_canonical w ..).of_fst hHead
    exact ((areaWrite_canonical wHead ..).of_fst hBody).of_mem (modReg_mem ..)
  case case4 hHead _ _ _ hBody =>
    have wHead := (areaWrite_canonical w ..).of_fst hHead
    exact ((areaWrite_canonical wHead ..).of_fst hBody).of_mem (modReg_mem ..)
  case case5 hHead => exact ((areaWrite_canonical w ..).of_fst hHead).of_mem (modReg_mem ..)
  case case6 hHead => exact ((areaWrite_canonical w ..).of_fst hHead).of_mem (modReg_mem ..)

theorem State.writeOwed_canonical {s : State} (w : s.Canonical) (n) : (s.writeOwed n).Canonical := by
  fun_cases State.writeOwed
  all_goals grind [Canonical, writeSection_canonical]

@[simp] theorem State.dropOwed_mem (s : State) (n) : (s.dropOwed n).mem = s.mem := by
  simp [State.dropOwed]

end Sys2Proof.Machine
end

section
/-! PROOFS, O59. Banks: errors, retirement and evacuation. -/

namespace Sys2Proof.Machine
open State
set_option Elab.async false

@[simp] theorem State.modBanks_mem (s : State) (u f) : (s.modBanks u f).mem = s.mem := by
  fun_cases State.modBanks
  all_goals simp

@[simp] theorem State.moveBank_mem (s : State) (u src dst) : (s.moveBank u src dst).mem = s.mem := by
  fun_cases State.moveBank
  all_goals simp

theorem State.emptyLine_canonical {s : State} (w : s.Canonical) (u line) : (s.emptyLine u line).Canonical := by
  fun_cases State.emptyLine
  all_goals grind [Canonical, modQuad_mem, dropClean_mem, writeBack_canonical]

@[simp] theorem State.flip_mem (s : State) (u e) : (s.flip u e).mem = s.mem := by
  simp [State.flip]

@[simp] theorem State.poisonUnit_mem (s : State) (u word) : (s.poisonUnit u word).mem = s.mem := by
  fun_cases State.poisonUnit
  all_goals simp

@[simp] theorem State.poisonLine_mem (s : State) (u bank line k) : (s.poisonLine u bank line k).mem = s.mem := by
  fun_cases State.poisonLine
  all_goals grind [modQuad_mem, modClu_mem]

@[simp] theorem State.retireFree_mem (s : State) (u p) : (s.retireFree u p).mem = s.mem := by
  simp [State.retireFree]

@[simp] theorem State.logRetired_mem (s : State) (u p) : (s.logRetired u p).mem = s.mem := by
  simp [State.logRetired]

section
variable {ret : State → BankUnit → Nat → State} (hret : ∀ {t}, t.Canonical → ∀ u p, (ret t u p).Canonical) {s : State}
  (w : s.Canonical)
include hret w

theorem State.correctedBy_canonical (u p word) : (s.correctedBy ret u p word).Canonical := by
  unfold State.correctedBy
  dsimp only
  split
  · exact hret (w.of_mem (by simp)) ..
  · exact w.of_mem (by simp)

theorem State.uncorrectableBy_canonical (u p word kept) : (s.uncorrectableBy ret u p word kept).Canonical :=
  hret (w.of_mem (by simp)) ..

theorem State.injectBankBy_canonical (u bank main lo hi) : (s.injectBankBy ret u bank main lo hi).Canonical := by
  unfold State.injectBankBy
  dsimp only
  split
  · have wFired : State.Canonical { s with module := s.module.fired } := w
    split
    · exact correctedBy_canonical hret wFired ..
    · exact uncorrectableBy_canonical hret wFired ..
    · exact wFired.of_mem (poisonUnit_mem ..)
  · exact w

theorem State.injectReadBy_canonical (u q lo hi) : (s.injectReadBy ret u q lo hi).Canonical := by
  unfold State.injectReadBy
  dsimp only
  split
  · exact injectBankBy_canonical hret w ..
  · exact w

end

@[simp] theorem State.retireLeft_mem (s : State) (u p) : (s.retireLeft u p).mem = s.mem := by
  fun_cases State.retireLeft
  all_goals simp

@[simp] theorem State.letGo_mem (s : State) (u) : (s.letGo u).mem = s.mem := by
  fun_cases State.letGo
  all_goals simp

@[simp] theorem State.releaseHeld_mem (s : State) (n) : (s.releaseHeld n).mem = s.mem :=
  foldl_mem (fun _ _ => letGo_mem ..) _ _

theorem State.readTiles_canonical {s : State} (w : s.Canonical) (n) : (s.readTiles n).Canonical := by
  have hret {t : State} (w : t.Canonical) (u p) : (t.retireLeft u p).Canonical := w.of_mem (retireLeft_mem ..)
  refine foldl_canonical (fun wt _ => ?_) w _
  exact foldl_canonical (fun w _ => injectReadBy_canonical hret w ..)
    (foldl_canonical (fun w _ => injectReadBy_canonical hret w ..) wt _) _

theorem State.save_canonical {s : State} (w : s.Canonical) (n how write) : (s.save n how write).Canonical := by
  fun_cases State.save
  all_goals grind [Canonical, readTiles_canonical, modReg_mem, releaseHeld_mem, dropCommandScore_mem,
    writeSection_canonical]

@[simp] theorem State.resume_mem (s : State) (n) : (s.resume n).mem = s.mem :=
  foldl_mem (fun _ _ => modTile_mem ..) _ _

theorem State.moveTo_canonical {s : State} (w : s.Canonical) (n o) : (s.moveTo n o).Canonical := by
  refine (readTiles_canonical w n).of_mem ?_
  simp [State.moveTo, foldl_mem]

theorem State.relaunch_canonical {s : State} (w : s.Canonical) (n) : (s.relaunch n).Canonical := by
  fun_cases State.relaunch
  all_goals grind [Canonical, modReg_mem, resume_mem, endRegion_canonical]

theorem State.overcap_canonical {s : State} (w : s.Canonical) (n why) : (s.overcap n why).Canonical := by
  fun_cases State.overcap
  all_goals grind -ring -linarith -lia -order [Canonical, modReg_mem, releaseHeld_mem, endRegion_canonical,
    relaunch_canonical, save_canonical]

theorem execInvarRelaunchRetry_canonical {s : State} (w : s.Canonical) : CanonicalOut (execInvarRelaunchRetry s) := by
  fun_cases execInvarRelaunchRetry
  all_goals
    refine .next ?_
    grind -ring -linarith -lia -order [Canonical, relaunch_canonical]

theorem State.retire_canonical {s : State} (w : s.Canonical) (u p) : (s.retire u p).Canonical := by
  unfold State.retire
  dsimp only
  split
  · exact w
  · split
    · exact foldl_canonical (fun w _ => overcap_canonical w ..) (w.of_mem (by simp)) _
    · exact w.of_mem (by simp)

theorem State.corrected_canonical {s : State} (w : s.Canonical) (u p word) : (s.corrected u p word).Canonical :=
  correctedBy_canonical retire_canonical w ..

theorem State.uncorrectable_canonical {s : State} (w : s.Canonical) (u p word kept) :
    (s.uncorrectable u p word kept).Canonical :=
  uncorrectableBy_canonical retire_canonical w ..

theorem State.injectBank_canonical {s : State} (w : s.Canonical) (u bank main lo hi) :
    (s.injectBank u bank main lo hi).Canonical :=
  injectBankBy_canonical retire_canonical w ..

theorem State.injectRead_canonical {s : State} (w : s.Canonical) (u q lo hi) : (s.injectRead u q lo hi).Canonical :=
  injectReadBy_canonical retire_canonical w ..

theorem execEvacuationRowCopy_canonical {s : State} (w : s.Canonical) : CanonicalOut (execEvacuationRowCopy s) := by
  fun_cases execEvacuationRowCopy
  all_goals
    refine .next ?_
    grind [Canonical, modBanks_mem, letGo_mem, emptyLine_canonical, flip_mem, injectBank_canonical]

@[simp] theorem State.poisonOther_mem (s : State) : s.poisonOther.mem = s.mem := by
  fun_cases State.poisonOther
  all_goals grind [modRt_mem, modTile_mem, modL1_mem, modInst_mem, modReg_mem]

@[simp] theorem State.otherError_mem (s : State) (kind) : (s.otherError kind).mem = s.mem := by
  fun_cases State.otherError
  all_goals simp

theorem execScrubRow_canonical {s : State} (w : s.Canonical) : CanonicalOut (execScrubRow s) := by
  fun_cases execScrubRow
  all_goals
    refine .next ?_
    grind -ring -linarith -lia -order [Canonical, otherError_mem, poisonOther_mem, injectBank_canonical,
      corrected_canonical, uncorrectable_canonical, poisonLine_mem]

theorem execErrorWindowBoundary_canonical {s : State} (w : s.Canonical) :
    CanonicalOut (execErrorWindowBoundary s) := by
  fun_cases execErrorWindowBoundary
  all_goals exact .next (w.of_mem (by simp))

theorem State.scrRead_canonical {s : State} (w : s.Canonical) (c t addr n) : (s.scrRead c t addr n).1.Canonical := by
  fun_cases State.scrRead
  all_goals grind [Canonical, injectRead_canonical]

@[simp] theorem State.scrWrite_mem (s : State) (c t addr n v bad) : (s.scrWrite c t addr n v bad).mem = s.mem := by
  simp [State.scrWrite]

theorem State.wsRead_canonical {s : State} (w : s.Canonical) (c q addr n) : (s.wsRead c q addr n).1.Canonical := by
  fun_cases State.wsRead
  all_goals grind [Canonical, injectRead_canonical]

@[simp] theorem State.wsWrite_mem (s : State) (c q addr n v) : (s.wsWrite c q addr n v).mem = s.mem := by
  simp [State.wsWrite]

theorem State.tregRead_canonical {s : State} (w : s.Canonical) (c t q) : (s.tregRead c t q).Canonical := by
  fun_cases State.tregRead
  all_goals grind [Canonical, injectRead_canonical]

end Sys2Proof.Machine
end

section
/-! PROOFS, O59. Branches and the nodes that steer tokens. -/

namespace Sys2Proof.Machine
open State
set_option Elab.async false

theorem execBr_canonical {s : State} (w : s.Canonical) (a b c o) : CanonicalOut (execBr a b c o s) := by
  fun_cases execBr
  all_goals exact .next (w.of_mem (by simp))

theorem execJr_canonical {s : State} (w : s.Canonical) (d a) : CanonicalOut (execJr d a s) := by
  fun_cases execJr
  all_goals exact .next (w.of_mem (by simp))

theorem execIllegalWord_canonical {s : State} (w : s.Canonical) (w) : CanonicalOut (execIllegalWord w s) := by
  fun_cases execIllegalWord
  all_goals
    refine .next ?_
    grind [Canonical, trap_mem]

theorem execSteer_canonical {s : State} (w : s.Canonical) (t) : CanonicalOut (execSteer t s) :=
  .next <| node_canonical w {
    fire := fun w hs => by
      dsimp only
      split <;> exact w.of_mem (by simp)
    gap := fun w _ _ _ => w.of_mem (emitGap_mem ..) }

theorem execGate_canonical {s : State} (w : s.Canonical) (t v) : CanonicalOut (execGate t v s) :=
  .next <| node_canonical w {
    fire := fun w hs => by
      dsimp only
      split
      · split <;> exact w.of_mem (by simp)
      · exact w
    gap := fun w _ _ _ => w.of_mem (emitGap_mem ..) }

theorem execJoin_canonical {s : State} (w : s.Canonical) (t u) : CanonicalOut (execJoin t u s) :=
  .next <| node_canonical w {
    fire := fun w hs => by
      dsimp only
      split <;> exact w.of_mem (by simp)
    gap := fun w _ _ _ => w.of_mem (emitGap_mem ..) }

theorem State.dropBelow_mem {s u : State} {d i} (h : s.dropBelow d i = some u) : u.mem = s.mem := by
  obtain ⟨k, -, h⟩ := List.exists_of_findSome?_eq_some h
  grind [modQueue_mem, popAt_mem]

theorem State.mergeCtl_canonical {s : State} (w : s.Canonical) (d ty) : (s.mergeCtl d ty).Canonical := by
  fun_cases State.mergeCtl
  case case2 | case3 | case7 | case9 | case10 => exact .wait
  case case8 hDrop => exact .did (w.of_mem (dropBelow_mem hDrop))
  all_goals exact .did (w.of_mem (by simp))

theorem State.mergeFree_canonical {s : State} (w : s.Canonical) (d ty) : (s.mergeFree d ty).Canonical := by
  unfold State.mergeFree
  extract_lets cnt lock take
  have wTake {k : Nat} {r : Went} (h : take k = some r) : r.Canonical := by
    simp only [take] at h
    split at h
    · cases h
    · split at h
      · cases h
        exact .did (w.of_mem (by simp))
      · split at h
        · cases h
          exact .did (w.of_mem (by simp))
        · split at h <;> cases h
          exact .did (w.of_mem (by simp))
  split
  · cases h : take (lock - 1) with
    | none => exact .wait
    | some r => exact wTake h
  · split
    next h => exact wTake h
    next =>
      split
      next h => exact wTake h
      next =>
        split
        · split
          · exact .did (w.of_mem (endNode_mem ..))
          · exact .wait
        · exact .wait

theorem execMerge_canonical {s : State} (w : s.Canonical) (t c) : CanonicalOut (execMerge t c s) := by
  refine .next ?_
  split
  · exact nodeStep_canonical w _ _ _ _ (fun w => mergeCtl_canonical w ..) (fun hgo _ w => hgo w)
  · refine nodeStep_canonical w _ _ _ _ (fun w => mergeFree_canonical w ..) (fun hgo _ w => hgo w) (fun w => ?_)
    split
    · exact w.of_mem (spoilHeads_mem ..)
    · exact w

theorem execRepl_canonical {s : State} (w : s.Canonical) (t r) : CanonicalOut (execRepl t r s) :=
  .next <| node_canonical w {
    fire := fun w hs => by
      dsimp only
      split
      · exact w.of_mem (by simp [apply_ite State.mem])
      · exact w
    gap := fun w _ _ _ => w.of_mem (emitGap_mem ..) }

@[simp] theorem State.sinkReport_mem (s : State) (n) : (s.sinkReport n).mem = s.mem := by
  simp [State.sinkReport]

theorem execSink_canonical {s : State} (w : s.Canonical) (t v e) : CanonicalOut (execSink t v e s) :=
  .next <| node_canonical w {
    fire := fun w _ => w.of_mem (popAt_mem ..)
    gap := fun w _ _ _ => w
    fin := fun w h => by
      cases h
      split <;> exact w.of_mem (by simp) }

@[simp] theorem State.setChain_mem (s : State) (d c) : (s.setChain d c).mem = s.mem := by
  simp [State.setChain]

@[simp] theorem State.sourceDrain_mem (s : State) (d) : (s.sourceDrain d).mem = s.mem := by
  fun_cases State.sourceDrain
  all_goals simp

@[simp] theorem State.chainEnd_mem (s : State) (d c) : (s.chainEnd d c).mem = s.mem := by
  simp [State.chainEnd]

theorem State.counterStep_canonical {s : State} (w : s.Canonical) (d) {act : State → State} (hact : (act s).Canonical) :
    (s.counterStep d act).Canonical := by
  unfold State.counterStep
  split
  · exact nodeFault_canonical w ..
  · exact hact

theorem execSource_canonical {s : State} (w : s.Canonical) (t a n) : CanonicalOut (execSource t a n s) :=
  .next <| counterStep_canonical w _ <| .ite w <| .ite (w.of_mem (sourceDrain_mem ..)) <| .ite w <|
    .ite (w.of_mem (chainEnd_mem ..)) (w.of_mem ((setChain_mem ..).trans (emit_mem ..)))

@[simp] theorem State.chainEmit_mem (s : State) (d cr c) : (s.chainEmit d cr c).mem = s.mem := by
  simp [State.chainEmit]

theorem State.chainB_mem {s u : State} (d cr c) (h : s.chainB d cr c = some u) : u.mem = s.mem := by
  unfold State.chainB at h
  grind [Canonical, popAt_mem, setChain_mem]

theorem execChain_canonical {s : State} (w : s.Canonical) (a b) : CanonicalOut (execChain a b s) := by
  refine .next (counterStep_canonical w _ (.ite w ?_))
  split
  · exact nodeFault_canonical w ..
  · split
    next h => exact w.of_mem (chainB_mem _ _ _ h)
    next =>
      refine .ite w (.ite (.ite (.ite (w.of_mem (chainEmit_mem ..)) w) ?_) (.ite (w.of_mem (sourceDrain_mem ..))
        (.ite w (.ite (w.of_mem (chainEnd_mem ..)) (w.of_mem (chainEmit_mem ..))))))
      split
      · exact w
      · exact .ite (w.of_mem (by simp)) (.ite (w.of_mem (by simp)) (.ite (w.of_mem (by simp)) (.ite (w.of_mem (by simp)) w)))

@[simp] theorem State.setSums_mem (s : State) (d l) : (s.setSums d l).mem = s.mem := by
  simp [State.setSums]

@[simp] theorem State.sumEmit_mem (s : State) (d ty) : (s.sumEmit d ty).mem = s.mem := by
  simp [State.sumEmit]

@[simp] theorem State.addRecord_mem (s : State) (d ty a e) : (s.addRecord d ty a e).mem = s.mem := by
  fun_cases State.addRecord
  all_goals simp

theorem State.sumNode_canonical {s : State} (w : s.Canonical) (ty el weighted) :
    (s.sumNode ty el weighted).Canonical :=
  node_canonical w {
    fire := fun w hs => by
      dsimp only
      split
      · split <;> exact w.of_mem (by simp)
      · exact w
    gap := fun w _ _ _ => w
    fin := fun w h => by
      dsimp only at h
      split at h
      · cases h
      · split at h <;> cases h
        exact w.of_mem (by simp) }

@[simp] theorem State.wcntEmit_mem (s : State) (d) : (s.wcntEmit d).mem = s.mem := by
  simp [State.wcntEmit]

theorem execWcnt_canonical {s : State} (w : s.Canonical) (e) : CanonicalOut (execWcnt e s) :=
  .next <| node_canonical w {
    fire := fun w hs => by
      dsimp only
      split
      · split <;> exact w.of_mem (by simp)
      · exact w
    gap := fun w _ _ _ => w.of_mem (setNstate_mem ..)
    fin := fun w h => by
      dsimp only at h
      split at h
      · cases h
      · split at h <;> cases h
        exact w.of_mem (by simp) }

/-- `Fmt.round` and `winClose` are variables while `winClose` is unfolded: the kernel would run the rounding of a symbolic ratio
to compare the two sides. -/
@[simp] theorem State.winClose_mem (s : State) (d ty l) : (s.winClose d ty l).mem = s.mem := by
  obtain ⟨round, hRound⟩ : ∃ f, Fmt.round = f := ⟨_, rfl⟩
  obtain ⟨close, hClose⟩ : ∃ f, State.winClose = f := ⟨_, rfl⟩
  rw [hClose]
  delta State.winClose at hClose
  rw [hRound] at hClose
  subst hClose
  simp

theorem execWin_canonical {s : State} (w : s.Canonical) (t) : CanonicalOut (execWin t s) := by
  refine .next (nodeStep_canonical w _ _ _ _ (fun {s} w => ?_) (fun hgo _ w => hgo w))
  extract_lets l near
  have wNear {i : Nat} {u : State} (h : near i = some u) : u.Canonical := by
    simp only [near] at h
    split at h <;> cases h
    exact w.of_mem (winClose_mem ..)
  split
  · exact .wait
  · split
    · split
      next h => exact .did (wNear h)
      next => exact .did (w.of_mem (by simp))
    · split
      · split
        next h => exact .did (wNear h)
        next =>
          exact .did (w.of_mem (by simp [apply_ite State.mem]))
      · split
        · split
          · exact .did (w.of_mem (winClose_mem ..))
          · exact .did (w.of_mem (endNode_mem ..))
        · split
          · split
            next h => exact .did (wNear h)
            next =>
              exact .did (w.of_mem (by simp [apply_ite State.mem]))
          · exact .wait

@[simp] theorem State.eventTimes_mem (s : State) (n e k) : (s.eventTimes n e k).mem = s.mem := by
  induction k generalizing s with
  | zero => rfl
  | succ k ih => rw [State.eventTimes, ih, event_mem]

theorem execGapc_canonical {s : State} (w : s.Canonical) (t v e) : CanonicalOut (execGapc t v e s) :=
  .next <| node_canonical w {
    fire := fun w hs => by
      dsimp only
      split <;> exact w.of_mem (by simp)
    gap := fun w _ _ _ => w.of_mem (by simp) }

end Sys2Proof.Machine
end

section
/-! PROOFS, O59. Vector, conversion and Electrum nodes. -/

namespace Sys2Proof.Machine
open State
set_option Elab.async false

theorem State.ew1_canonical {s : State} (w : s.Canonical) (ty f) :
    (s.ew1 ty f).Canonical := elementNode_canonical w ..

theorem State.ew2_canonical {s : State} (w : s.Canonical) (ty b f) :
    (s.ew2 ty b f).Canonical := elementNode_canonical w ..

theorem State.ew3_canonical {s : State} (w : s.Canonical) (ty b f) :
    (s.ew3 ty b f).Canonical := elementNode_canonical w ..

theorem execUnpack_canonical {s : State} (w : s.Canonical) (t m) : CanonicalOut (execUnpack t m s) :=
  .next <| node_canonical w {
    fire := fun w hs => by
      dsimp only
      split <;> exact w.of_mem (by simp)
    gap := fun w _ _ _ => w.of_mem (emitGap_mem ..) }

theorem State.reduce_canonical {s : State} (w : s.Canonical) (t op sq) : (s.reduce t op sq).Canonical :=
  elementNode_canonical w ..

theorem State.partNode_canonical {s : State} (w : s.Canonical) (ty es ed all part whole conv) :
    (s.partNode ty es ed all part whole conv).Canonical :=
  node_canonical w {
    fire := fun w hs => by
      dsimp only
      split
      · split <;> split <;> split <;> (try split) <;> exact w.of_mem (by simp)
      · exact w
    gap := fun w _ _ _ => by
      dsimp only
      split
      · exact w.of_mem (emitGap_mem ..)
      · exact w }

@[simp] theorem State.sdencEmit_mem (s : State) (d sf all part wd k a i) :
    (s.sdencEmit d sf all part wd k a i).mem = s.mem := by
  fun_cases State.sdencEmit
  all_goals grind -ring -linarith -lia -order [emit_mem, addFl_mem, setNstate_mem, setCounts_mem, setProg_mem]

theorem execSdenc_canonical {s : State} (w : s.Canonical) (sf l p wd) : CanonicalOut (execSdenc sf l p wd s) := by
  refine .next ?_
  dsimp only
  split
  · exact node_canonical w {
      fire := fun w hs => by
        dsimp only
        split
        · split
          · exact w.of_mem (by simp)
          · split <;> exact w.of_mem (by simp)
        · exact w
      gap := fun w _ _ _ => by
        dsimp only
        split
        · exact w.of_mem (emitGap_mem ..)
        · exact w }
  · split
    · exact w
    · exact w.of_mem (sdencEmit_mem ..)

theorem execSddec_canonical {s : State} (w : s.Canonical) (t l p wd) : CanonicalOut (execSddec t l p wd s) := by
  fun_cases execSddec
  refine .next ?_
  split
  · exact nodeFault_canonical w ..
  · exact partNode_canonical w ..

@[simp] theorem State.qmaxEmit_mem (s : State) (d e l) : (s.qmaxEmit d e l).mem = s.mem := by
  fun_cases State.qmaxEmit
  all_goals grind -ring -linarith -lia -order [setNstate_mem, emit_mem, emitGap_mem]

theorem execQmax_canonical {s : State} (w : s.Canonical) (t e) : CanonicalOut (execQmax t e s) := by
  refine .next (nodeStep_canonical w _ _ _ _ (fun {s} w => ?_) (fun hgo _ w => hgo w))
  extract_lets l block
  split
  · exact .wait
  · extract_lets f
    refine .ite (.did (w.of_mem (qmaxEmit_mem ..))) (.ite (.did ?_) (.ite (.did ?_) (.ite ?_ (.ite ?_ .wait))))
    · exact .ite (w.of_mem (by simp)) (w.of_mem (by simp))
    · exact .ite (w.of_mem ((qmaxEmit_mem ..).trans (modQueue_mem ..))) (w.of_mem ((setNstate_mem ..).trans (modQueue_mem ..)))
    · exact .ite (.did (w.of_mem (qmaxEmit_mem ..))) (.did (w.of_mem (endNode_mem ..)))
    · exact .ite (.did (w.of_mem (qmaxEmit_mem ..))) (.ite (.did (w.of_mem (by simp))) (.did (w.of_mem (by simp))))

theorem State.blocked_drop_mem {s u : State} {d k} (h : s.blocked d k = .drop u) : u.mem = s.mem := by
  revert h
  fun_cases State.blocked
  all_goals first
    | (intro h; cases h; done)
    | (intro h; cases h; exact popAt_mem ..)

@[simp] theorem State.popScale_mem (s : State) (d k i isData) : (s.popScale d k i isData).mem = s.mem := by
  fun_cases State.popScale
  all_goals simp

@[simp] theorem State.qconvFlush_mem (s : State) (d ty) : (s.qconvFlush d ty).mem = s.mem := by
  fun_cases State.qconvFlush
  all_goals grind -ring -linarith -lia -order [setNstate_mem, setCounts_mem, emit_mem, emitGap_mem]

@[simp] theorem State.qconvTake_mem (s : State) (d ty es i els w m comp) :
    (s.qconvTake d ty es i els w m comp).mem = s.mem := by
  fun_cases State.qconvTake
  all_goals grind [setNstate_mem, setCounts_mem, qconvFlush_mem]

theorem execQconv_canonical {s : State} (w : s.Canonical) (t sf) : CanonicalOut (execQconv t sf s) := by
  refine .next (nodeStep_canonical w _ _ _ _ (fun {s} w => ?_) (fun hgo _ w => hgo w))
  dsimp only
  split
  · exact .wait
  next h => exact .did (w.of_mem (blocked_drop_mem h))
  · split <;> exact .did (w.of_mem (by simp))
  · split
    · exact .did (w.of_mem (qconvFlush_mem ..))
    · split <;> exact .did (w.of_mem (by simp))
  · split <;> exact .did (w.of_mem (by simp))
  · split
    · exact .did (w.of_mem (qconvFlush_mem ..))
    · split
      · split <;> exact .did (w.of_mem (by simp))
      · exact .did (w.of_mem (by simp))

theorem execQdeq_canonical {s : State} (w : s.Canonical) (t e) : CanonicalOut (execQdeq t e s) := by
  refine .next (nodeStep_canonical w _ _ _ _ (fun {s} w => ?_) (fun hgo _ w => hgo w))
  dsimp only
  split
  · exact .wait
  next h => exact .did (w.of_mem (blocked_drop_mem h))
  · exact .did (w.of_mem (by simp))
  · exact .did (w.of_mem (by simp))
  · exact .did (w.of_mem (by simp))
  · split
    · exact .did (w.of_mem (by simp))
    · refine .did (w.of_mem ?_)
      split <;> simp

@[simp] theorem State.setPend_mem (s : State) (d ps) : (s.setPend d ps).mem = s.mem := by
  simp [State.setPend]

@[simp] theorem State.disagree_mem (s : State) (d copy i) : (s.disagree d copy i).mem = s.mem := by
  simp [State.disagree]

theorem State.voteLate_mem {s u : State} {d hs} (h : s.voteLate d hs = some u) : u.mem = s.mem := by
  obtain ⟨⟨k, t, i⟩, -, h⟩ := List.exists_of_findSome?_eq_some h
  dsimp only at h
  split at h
  · cases h
  · split at h
    · split at h <;> cases h <;> simp
    · split at h <;> cases h <;> simp [foldl_mem]

@[simp] theorem State.voteEmit_mem (s : State) (d t i) : (s.voteEmit d t i).mem = s.mem := by
  fun_cases State.voteEmit
  all_goals simp

theorem State.voteAlone_canonical {s : State} (w : s.Canonical) (d cur now m) :
    (s.voteAlone d cur now m).Canonical := by
  fun_cases State.voteAlone
  case case1 | case5 => exact .did (nodeFault_canonical w ..)
  case case2 => exact .did (w.of_mem (by simp))
  case case3 => exact .did (w.of_mem (by simp [foldl_mem]))
  case case4 | case6 => exact .wait

theorem State.voteAct_canonical {s : State} (w : s.Canonical) (d) : (s.voteAct d).Canonical := by
  have wPair (ks tok i) : ((s.popAll d ks).voteEmit d tok i).Canonical := w.of_mem (by simp)
  fun_cases State.voteAct
  case case1 hLate => exact .did (w.of_mem (voteLate_mem hLate))
  case case2 =>
    refine .did ?_
    split <;> exact w.of_mem (by simp)
  case case3 | case7 => exact .wait
  case case4 =>
    refine .did ?_
    dsimp only
    split
    · exact (wPair ..).of_mem (popAt_mem ..)
    · exact (wPair ..).of_mem ((disagree_mem ..).trans (popAt_mem ..))
  case case5 => exact .did ((wPair ..).of_mem (disagree_mem ..))
  case case6 => exact .did (wPair ..)
  case case8 => exact .did ((wPair ..).of_mem (setPend_mem ..))
  case case9 => exact voteAlone_canonical w ..

theorem execVote_canonical {s : State} (w : s.Canonical) (t) : CanonicalOut (execVote t s) := by
  refine .next ?_
  extract_lets o
  split
  · exact w
  · split
    · exact nodeFault_canonical w ..
    · split
      · exact w.of_mem (drainNode_mem ..)
      · split
        · have wAct := voteAct_canonical w s.nd
          split
          · exact w
          next h =>
            have wDid := wAct.of_did h
            split
            · exact nodeFault_canonical w ..
            · split
              · exact wDid.of_mem (popAt_mem ..)
              · exact wDid
        · exact w

@[simp] theorem State.ckEmit_mem (s : State) (d) : (s.ckEmit d).mem = s.mem := by
  simp [State.ckEmit]

theorem execCksum_canonical {s : State} (w : s.Canonical) (t b c e) : CanonicalOut (execCksum t b c e s) := by
  unfold execCksum
  dsimp only
  split
  · exact .next <| node_canonical w (by exact {
      fire := fun w hs => by
        dsimp only
        split <;> exact w.of_mem (by simp)
      gap := fun w _ _ _ => w.of_mem (emitGap_mem ..) })
  · exact .next <| node_canonical w (by exact {
      fire := fun w hs => by
        dsimp only
        split
        · split <;> exact w.of_mem (by simp)
        · exact w
      gap := fun w _ _ _ => w.of_mem (emitGap_mem ..)
      fin := fun w h => by
        dsimp only at h
        split at h
        · cases h
        · split at h <;> cases h
          exact w.of_mem (by simp) })

theorem execCkchk_canonical {s : State} (w : s.Canonical) (t) : CanonicalOut (execCkchk t s) :=
  .next <| node_canonical w {
    fire := fun w hs => by
      dsimp only
      split
      · split
        · exact w.of_mem (by simp)
        · exact nodeFault_canonical w ..
      · exact w
    gap := fun w _ _ _ => w.of_mem (emitGap_mem ..) }

theorem execCapq_canonical {s : State} (w : s.Canonical) : CanonicalOut (execCapq s) :=
  .next <| node_canonical w {
    fire := fun w hs => by
      dsimp only
      split <;> exact w.of_mem (by simp)
    gap := fun w _ _ _ => w.of_mem (emitGap_mem ..) }

end Sys2Proof.Machine
end

section
/-! PROOFS, O59. Matrix nodes. -/

namespace Sys2Proof.Machine
open State
set_option Elab.async false

@[simp] theorem State.modTmem_mem (s : State) (n t f) : (s.modTmem n t f).mem = s.mem := by
  simp [State.modTmem]

@[simp] theorem State.setTm_mem (s : State) (d q m) : (s.setTm d q m).mem = s.mem := by
  simp [State.setTm]

@[simp] theorem State.setTreg_mem (s : State) (d q v) : (s.setTreg d q v).mem = s.mem := by
  simp [State.setTreg]

@[simp] theorem State.patchTreg_mem (s : State) (d q lo len v) : (s.patchTreg d q lo len v).mem = s.mem := by
  simp [State.patchTreg]

@[simp] theorem State.spoilTreg_mem (s : State) (d q lo len) : (s.spoilTreg d q lo len).mem = s.mem := by
  simp [State.spoilTreg]

@[simp] theorem State.releaseAcc_mem (s : State) (d keep) : (s.releaseAcc d keep).mem = s.mem := by
  fun_cases State.releaseAcc
  all_goals simp

@[simp] theorem State.releaseReg_mem (s : State) (d q keep) : (s.releaseReg d q keep).mem = s.mem := by
  fun_cases State.releaseReg
  all_goals simp

theorem State.matNode_canonical {s : State} (w : s.Canonical) (need) {fire : State → Token → Nat → State}
    {gap : State → Nat → Nat → Bool → State} {fin : State → Option State} (own gapHold)
    (hfire : ∀ {t}, t.Canonical → ∀ a i, (fire t a i).Canonical)
    (hgap : ∀ {t}, t.Canonical → ∀ m n c, (gap t m n c).Canonical := by exact fun w _ _ _ => w.of_mem (matGap_mem ..))
    (hfin : ∀ {t u}, t.Canonical → fin t = some u → u.Canonical := by nofun) :
    (s.matNode need fire gap fin own gapHold).Canonical := by
  unfold State.matNode
  extract_lets d
  refine nodeStep_canonical w _ _ _ _ (fun w => ?_) (fun hgo _ w => hgo w)
  split
  · exact .wait
  · refine align_canonical w _ { fire := fun {t} w hs => ?_, gap := hgap, fin := hfin }
    dsimp only
    split
    · split
      · exact nodeFault_canonical w ..
      · have wReads (qs : List Nat) :
            (qs.foldl (fun s q => s.tregRead (clusterOf d.n) ((s.reg d.n).absTile d.t) q) t).Canonical :=
          foldl_canonical (fun w q => tregRead_canonical w _ _ q) w qs
        split
        · split
          · exact hfire (wReads _) ..
          · exact nodeFault_canonical (wReads _) ..
        · exact hfire (wReads _) ..
    · exact w

@[simp] theorem State.matGap_mem (s : State) (m n c) : (s.matGap m n c).mem = s.mem := by
  simp [State.matGap]

@[simp] theorem State.matDone_mem (s : State) (d go i lane) : (s.matDone d go i lane).mem = s.mem := by
  simp [State.matDone]

@[simp] theorem State.begin_mem (s : State) (d i go idx cycles regs acc wa wb capped) :
    (s.begin d i go idx cycles regs acc wa wb capped).mem = s.mem := by
  simp [State.begin]

theorem execTshape_canonical {s : State} (w : s.Canonical) (r) : CanonicalOut (execTshape r s) :=
  .next <| matNode_canonical w _ _ _ (fun w _ _ => w.of_mem (by simp))

theorem execTprec_canonical {s : State} (w : s.Canonical) : CanonicalOut (execTprec s) :=
  .next <| matNode_canonical w _ _ _ (fun w _ _ => w.of_mem (by simp))

theorem execTzero_canonical {s : State} (w : s.Canonical) (b r f c) : CanonicalOut (execTzero b r f c s) :=
  .next <| matNode_canonical w _ _ _ (fun w _ _ => w.of_mem (begin_mem ..))

@[simp] theorem State.fillDone_mem (s : State) (d q m go i) : (s.fillDone d q m go i).mem = s.mem := by
  simp [State.fillDone]

@[simp] theorem State.fillTake_mem (s : State) (d t b q toks go i) : (s.fillTake d t b q toks go i).mem = s.mem := by
  fun_cases State.fillTake
  all_goals grind -ring -linarith -lia -order [patchTreg_mem, addFl_mem, spoilTreg_mem, modQueue_mem, popAt_mem,
    fillDone_mem, setTm_mem]

@[simp] theorem State.fillZero_mem (s : State) (d b q count i go) : (s.fillZero d b q count i go).mem = s.mem := by
  fun_cases State.fillZero
  all_goals grind [patchTreg_mem, fillDone_mem, setTm_mem]

theorem execTfill_canonical {s : State} (w : s.Canonical) (t b r) : CanonicalOut (execTfill t b r s) := by
  unfold execTfill
  extract_lets d q go shape ok
  refine .next (matNode_canonical w _ _ _ (fun w _ _ => w.of_mem (fillTake_mem ..)) (fun w _ _ _ => ?_) (fun w h => ?_))
  · split
    · exact w.of_mem (by simp)
    · exact nodeFault_canonical w ..
  · dsimp only at h
    split at h <;> cases h
    exact w.of_mem (fillZero_mem ..)

@[simp] theorem State.accTake_mem (s : State) (d t a) : (s.accTake d t a).mem = s.mem := by
  simp [State.accTake]

theorem execTacc_canonical {s : State} (w : s.Canonical) (t c) : CanonicalOut (execTacc t c s) := by
  unfold execTacc
  extract_lets d close ok
  have wClose {t : State} (w : t.Canonical) (wrapped) : (close t wrapped).Canonical := by
    simp only [close]
    split
    · exact w.of_mem (modRt_mem ..)
    · exact w
  refine .next (matNode_canonical w _ _ _ (fun w _ _ => ?_) (fun w _ _ _ => ?_))
  · exact wClose (w.of_mem (by simp)) _
  · dsimp only
    split
    · exact wClose (w.of_mem (by simp)) _
    · exact nodeFault_canonical w ..

theorem execTmma_canonical {s : State} (w : s.Canonical) (r q l k j) : CanonicalOut (execTmma r q l k j s) := by
  refine .next (matNode_canonical w _ _ _ (fun w _ _ => ?_))
  split
  exact w.of_mem (by simp [apply_ite State.mem])

@[simp] theorem State.mmaDone_mem (s : State) (d m r q close keepB keepA) :
    (s.mmaDone d m r q close keepB keepA).mem = s.mem := by
  fun_cases State.mmaDone
  all_goals grind [modRt_mem, modTmem_mem, addFl_mem, releaseReg_mem, matDone_mem]

theorem execTmov_canonical {s : State} (w : s.Canonical) (r q x k) : CanonicalOut (execTmov r q x k s) :=
  .next <| matNode_canonical w _ _ _ (fun w _ _ => w.of_mem (begin_mem ..))

@[simp] theorem State.movDone_mem (s : State) (d m r q trans keep) : (s.movDone d m r q trans keep).mem = s.mem := by
  simp [State.movDone]

theorem execTcvt_canonical {s : State} (w : s.Canonical) (r q k m) : CanonicalOut (execTcvt r q k m s) :=
  .next <| matNode_canonical w _ _ _ (fun w _ _ => w.of_mem (begin_mem ..))

@[simp] theorem State.cvtDone_mem (s : State) (d m r q keep mode) : (s.cvtDone d m r q keep mode).mem = s.mem := by
  simp [State.cvtDone]

theorem execTquant_canonical {s : State} (w : s.Canonical) (r q k) : CanonicalOut (execTquant r q k s) :=
  .next <| matNode_canonical w _ _ _ (fun w _ _ => w.of_mem (begin_mem ..))

@[simp] theorem State.quantDone_mem (s : State) (d m r q keep) : (s.quantDone d m r q keep).mem = s.mem := by
  simp [State.quantDone]

theorem State.emission_canonical {s : State} (w : s.Canonical) (d op t toks per f go i regs acc) {release : State → State}
    (hrelease : ∀ {t}, t.Canonical → (release t).Canonical) :
    (s.emission d op t toks per f go i regs acc release).Canonical := by
  fun_cases State.emission
  case case1 begun sent _ =>
    have hSent : sent.mem = s.mem := by
      simp only [sent, begun]
      split <;> split <;> simp
    exact hrelease (w.of_mem (by simpa using hSent))
  case case2 begun sent _ =>
    have hSent : sent.mem = s.mem := by
      simp only [sent, begun]
      split <;> split <;> simp
    exact w.of_mem (by simpa using hSent)

theorem execTemit_canonical {s : State} (w : s.Canonical) (t r k c) : CanonicalOut (execTemit t r k c s) := by
  refine .next (matNode_canonical w _ _ _ (fun w _ _ => emission_canonical w _ _ _ _ _ _ _ _ _ _ fun w => ?_)
    (fun w _ _ _ => w.of_mem (emitGap_mem ..)))
  split
  · exact w.of_mem (releaseAcc_mem ..)
  · exact w.of_mem (releaseReg_mem ..)

theorem execTepi_canonical {s : State} (w : s.Canonical) (t k l m) : CanonicalOut (execTepi t k l m s) :=
  .next <| matNode_canonical w _ _ _
    (fun w _ _ => emission_canonical w _ _ _ _ _ _ _ _ _ _ fun w => w.of_mem (releaseAcc_mem ..))
    (fun w _ _ _ => w.of_mem (emitGap_mem ..))

@[simp] theorem State.mopDone_mem (s : State) (d m) : (s.mopDone d m).mem = s.mem := by
  fun_cases State.mopDone
  all_goals grind -ring -linarith -lia -order [modRt_mem, modReg_mem, mmaDone_mem, movDone_mem, cvtDone_mem,
    quantDone_mem, matDone_mem, modTmem_mem, setTm_mem, setTreg_mem]

@[simp] theorem State.mopEvent_mem (s : State) (tmma) : (s.mopEvent tmma).mem = s.mem := by
  fun_cases State.mopEvent
  all_goals simp

end Sys2Proof.Machine
end

section
/-! PROOFS, O59. Memory accesses and the nodes that make them. -/

namespace Sys2Proof.Machine
open State
set_option Elab.async false

theorem State.fabricStore_canonical {s : State} (w : s.Canonical) (n key data lanes scope) :
    (s.fabricStore n key data lanes scope).Canonical := by
  fun_cases State.fabricStore
  all_goals grind [Canonical, l2Store_canonical, writeBackMask_canonical]

theorem State.performAcc_canonical {s : State} (w : s.Canonical) (n t a) : (s.performAcc n t a).1.Canonical := by
  fun_cases State.performAcc
  case case1 => exact w
  case case2 => exact fabricStore_canonical w ..
  case case3 h => exact (w.of_mem (fabricLoad_mem ..)).of_fst h
  case case4 => exact w.of_mem (foldl_mem (fun _ _ => scrWrite_mem ..) _ _)
  case case5 h => exact (scrRead_canonical w ..).of_fst h
  case case6 h => exact (wsRead_canonical w ..).of_fst h

@[simp] theorem State.emitAcc_mem (s : State) (d a) : (s.emitAcc d a).mem = s.mem := by
  fun_cases State.emitAcc
  all_goals grind [emit_mem]

@[simp] theorem State.flushAccs_mem (s : State) (d k) : (State.flushAccs d k s).mem = s.mem := by
  fun_induction State.flushAccs <;> simp_all

theorem State.perform_canonical {s : State} (w : s.Canonical) (n t k) : (s.perform n t k).Canonical := by
  fun_cases State.perform
  all_goals grind [Canonical, !performAcc_canonical, modRt_mem, modReg_mem, flushAccs_mem]

theorem State.finishAccs_canonical {s : State} (w : s.Canonical) (n) : (s.finishAccs n).Canonical := by
  refine foldl_canonical (fun w _ => foldl_canonical (fun w _ => ?_) w _) w _
  split
  · exact perform_canonical w ..
  · exact w

theorem State.endPassage_canonical {s : State} (w : s.Canonical) (n how) : (s.endPassage n how).Canonical := by
  fun_cases State.endPassage
  all_goals grind [Canonical, finishAccs_canonical, save_canonical, relaunch_canonical, releaseHeld_mem,
    endRegion_canonical, resume_mem, modReg_mem]

theorem State.evict_canonical {s : State} (w : s.Canonical) (n num why) : (s.evict n num why).Canonical := by
  fun_cases State.evict
  all_goals grind [Canonical, modReg_mem, endPassage_canonical]

theorem State.park_canonical {s : State} (w : s.Canonical) (d cause va done flags detail) :
    (s.park d cause va done flags detail).Canonical := by
  fun_cases State.park
  all_goals grind -ring -linarith -lia -order [Canonical, nodeFault_canonical, modRt_mem, faultRecord_canonical,
    raiseFlag_mem, endPassage_canonical]

theorem State.spotG_canonical {s : State} (w : s.Canonical) (d t write) : (s.spotG d t write).1.Canonical := by
  fun_cases State.spotG
  all_goals grind -ring -linarith -lia -order [Canonical, !resolve_canonical]

@[simp] theorem State.issueAcc_mem (s : State) (d a) : (s.issueAcc d a).mem = s.mem := by
  fun_cases State.issueAcc
  all_goals grind [modRt_mem, setCounts_mem, flushAccs_mem]

theorem State.loadNode_canonical {s : State} (w : s.Canonical) (op inord emit scope) {spot : State → Nd → Token → State × Spot}
    (hspot : ∀ {t}, t.Canonical → ∀ d a, (spot t d a).1.Canonical) : (s.loadNode op inord emit scope spot).Canonical := by
  unfold State.loadNode
  extract_lets d outs
  refine nodeStep_canonical w _ _ _ _ (fun w => ?_) (fun hgo _ w => ?_)
  · dsimp only
    split
    · exact .wait
    · split
      · split
        · exact .wait
        · split
          next h => exact .did <| park_canonical ((hspot w ..).of_fst h) ..
          next h => exact .did <| (hspot w ..).of_fst h
          next h => exact .did <| ((hspot w ..).of_fst h).of_mem (by simp)
          next h => exact .did <| ((hspot w ..).of_fst h).of_mem (by simp)
      · split
        · exact .wait
        · exact align_canonical w _ (by exact { fire := fun w _ => w, gap := fun w _ _ _ => w.of_mem (by simp) })
  · dsimp only
    split
    · split
      · exact .did <| w.of_mem (by simp)
      · exact hgo w
    · exact .wait

theorem State.storeNode_canonical {s : State} (w : s.Canonical) (op inord emit scope) {spot : State → Nd → Token → State × Spot}
    (hspot : ∀ {t}, t.Canonical → ∀ d a, (spot t d a).1.Canonical) : (s.storeNode op inord emit scope spot).Canonical := by
  unfold State.storeNode
  extract_lets d outs
  refine nodeStep_canonical w _ _ _ _ (fun w => ?_)
    (fun hgo _ w => poisonStep_canonical w _ (plainOp_keeps ..) hgo)
  dsimp only
  split
  · split
    · split
      · exact .wait
      · split
        next h => exact .did <| park_canonical ((hspot w ..).of_fst h) ..
        next h => exact .did <| (hspot w ..).of_fst h
        next h => exact .did <| ((hspot w ..).of_fst h).of_mem (by simp)
    · split
      · exact .wait
      · exact align_canonical w _ (by exact { fire := fun w _ => w, gap := fun w _ _ _ => w.of_mem (by simp) })
  · exact .wait

theorem execGld_canonical {s : State} (w : s.Canonical) (t n e sc) : CanonicalOut (execGld t n e sc s) :=
  .next <| loadNode_canonical w _ _ _ _ (fun w _ _ => spotG_canonical w ..)

theorem execGst_canonical {s : State} (w : s.Canonical) (t n e sc) : CanonicalOut (execGst t n e sc s) :=
  .next <| storeNode_canonical w _ _ _ _ (fun w _ _ => spotG_canonical w ..)

theorem execSld_canonical {s : State} (w : s.Canonical) (t n e sc) : CanonicalOut (execSld t n e sc s) :=
  .next <| loadNode_canonical w _ _ _ _ (fun w _ _ => w)

theorem execSst_canonical {s : State} (w : s.Canonical) (t n e sc) : CanonicalOut (execSst t n e sc s) :=
  .next <| storeNode_canonical w _ _ _ _ (fun w _ _ => w)

theorem execWld_canonical {s : State} (w : s.Canonical) (t n e sc) : CanonicalOut (execWld t n e sc s) :=
  .next <| loadNode_canonical w _ _ _ _ (fun w _ _ => w)

@[simp] theorem State.rowDone_mem (s : State) (d o m bad) : (s.rowDone d o m bad).mem = s.mem := by
  fun_cases State.rowDone
  all_goals grind -ring -linarith -lia -order [modRt_mem, setProg_mem, releaseAcc_mem, releaseReg_mem, setTm_mem,
    setCounts_mem, popAt_mem, emit_mem]

theorem State.rowNode_canonical {s : State} (w : s.Canonical) (o) : (s.rowNode o).Canonical := by
  unfold State.rowNode
  extract_lets d lanes
  refine nodeStep_canonical w _ _ _ _ (fun w => ?_)
    (fun hgo _ w => poisonStep_canonical w _ (plainOp_keeps ..) hgo)
  split
  · exact .wait
  · split
    · exact .wait
    · split
      · dsimp only
        split
        · exact .wait
        · split
          · exact .did <| w.of_mem (by simp)
          · split
            · exact .did <| park_canonical w ..
            · split
              · exact .did <| park_canonical w ..
              · split
                · exact .wait
                · exact .did <| w.of_mem (modRt_mem ..)
      · exact align_canonical w _ (by exact { fire := fun w _ => w, gap := fun w _ _ _ => w.of_mem (emitGap_mem ..) })

theorem State.resolveRow_canonical {s : State} (w : s.Canonical) (cr k who pieces) :
    (State.resolveRow cr k who pieces s).1.Canonical := by
  fun_induction State.resolveRow
  case case1 => exact w
  case case2 h => exact (resolve_canonical w ..).of_fst h
  case case3 h => exact (resolve_canonical w ..).of_fst h
  case case4 hFirst _ _ hRest ih => exact (ih ((resolve_canonical w ..).of_fst hFirst)).of_fst hRest
  case case5 hFirst _ ih => exact ih ((resolve_canonical w ..).of_fst hFirst)

theorem State.rowRead_canonical {s : State} (w : s.Canonical) (d o r bits) : (s.rowRead d o r bits).Canonical := by
  fun_cases State.rowRead
  all_goals grind [Canonical, injectRead_canonical]

@[simp] theorem State.rowIn_mem (s : State) (d o r bits v bad) : (s.rowIn d o r bits v bad).mem = s.mem := by
  fun_cases State.rowIn
  all_goals grind [patchTreg_mem, modTmem_mem]

@[simp] theorem State.rowShaped_mem (s : State) (d o r) : (s.rowShaped d o r).mem = s.mem := by
  fun_cases State.rowShaped
  all_goals simp

theorem rowNext_mem (s : State) (d o r m f g) (last : Prop) [Decidable last] (bad : Bool) :
    (if last then ((s.rowShaped d o r).modReg d.n f).rowDone d o m bad
      else ((s.rowShaped d o r).modReg d.n f).modRt d.n d.t g).mem = s.mem := by
  split <;> simp

theorem State.rowStep_canonical {s : State} (w : s.Canonical) (d o m) : (s.rowStep d o m).Canonical := by
  fun_cases State.rowStep
  case case1 =>
    exact (rowRead_canonical w ..).of_mem ((rowNext_mem ..).trans (foldl_mem (fun _ _ => scrWrite_mem ..) _ _))
  case case2 h =>
    refine State.Canonical.of_mem (State.Canonical.of_fst ?_ h) ((rowNext_mem ..).trans (rowIn_mem ..))
    exact foldl_pair_canonical (fun _ _ w => by dsimp only; exact scrRead_canonical w ..) w _
  case case3 h => exact (resolveRow_canonical w ..).of_fst h
  case case4 h => exact park_canonical ((resolveRow_canonical w ..).of_fst h) ..
  case case5 h _ _ _ _ _ =>
    have wKeys := (resolveRow_canonical w ..).of_fst h
    refine (foldl_canonical (fun w _ => ?_) (rowRead_canonical wKeys ..) _).of_mem (rowNext_mem ..)
    dsimp only
    split
    · exact writeBackMask_canonical (l2Store_canonical w ..) ..
    · exact l2Store_canonical w ..
  case case6 hKeys _ _ _ _ _ h =>
    have wKeys := (resolveRow_canonical w ..).of_fst hKeys
    refine State.Canonical.of_mem (State.Canonical.of_fst (wKeys.of_mem ?_) h) ((rowNext_mem ..).trans (rowIn_mem ..))
    exact foldl_pair_mem (fun _ _ => by simp) _ _

theorem execMemoryAccessPerformed_canonical {s : State} (w : s.Canonical) :
    CanonicalOut (execMemoryAccessPerformed s) := by
  fun_cases execMemoryAccessPerformed
  all_goals
    refine .next ?_
    grind -ring -linarith -lia -order [Canonical, perform_canonical, rowStep_canonical]

theorem execDone_canonical {s : State} (w : s.Canonical) (h) : CanonicalOut (execDone h s) :=
  .next <| nodeStep_canonical w _ _ _ _
    (fun w => align_canonical w _ (by exact {
      fire := fun w _ => w.of_mem (by simp)
      gap := fun w _ _ _ => w.of_mem (emitGap_mem ..) }))
    (fun hgo _ w => poisonStep_canonical w _ (plainOp_keeps ..) hgo)

theorem execEcmd_canonical {s : State} (w : s.Canonical) : CanonicalOut (execEcmd s) := by
  refine .next (nodeStep_canonical w _ _ _ _ (fun w => ?_) (fun hgo _ w => poisonStep_canonical w _ (plainOp_keeps ..) hgo))
  dsimp only
  split
  · split
    · exact .wait
    · exact align_canonical w _ (by exact {
        fire := fun w _ => w.of_mem (by simp)
        gap := fun w _ _ _ => w.of_mem (emitGap_mem ..) })
  · exact .wait

end Sys2Proof.Machine
end

section
/-! PROOFS, O59. Maintenance, bindings and the loader. -/

namespace Sys2Proof.Machine
open State
set_option Elab.async false

theorem State.drain_canonical {s : State} (w : s.Canonical) (detail) {fin : State → BitVec 32 → State}
    (hfin : (fin s detail).Canonical) : (s.drain detail fin).Canonical := by
  unfold State.drain
  split
  · exact w.of_mem (stay_mem ..)
  · exact hfin

theorem State.drains_canonical {s : State} (w : s.Canonical) {fin : State → BitVec 32 → State} {first : State → State}
    (hfin : ∀ {t}, t.Canonical → ∀ x, (fin t x).Canonical) (hfirst : (first s).Canonical) : (s.drains fin first).Canonical := by
  unfold State.drains
  split
  · split
    · exact w
    · exact hfin (w.of_mem (modMe_mem ..)) _
  · exact hfirst

theorem State.spaceCheck_canonical {s : State} (w : s.Canonical) (a) {f : Nat → State} (hf : ∀ k, (f k).Canonical) :
    (s.spaceCheck a f).Canonical := by
  fun_cases State.spaceCheck
  case case4 => exact hf _
  all_goals exact w.of_mem (trap_mem ..)

theorem execTlbinvs_canonical {s : State} (w : s.Canonical) (a) : CanonicalOut (execTlbinvs a s) :=
  .next <| drains_canonical w (fun w _ => w.of_mem (advance_mem ..))
    (spaceCheck_canonical w _ fun _ => drain_canonical (by exact w) _ (by exact w.of_mem (by simp)))

theorem execTlbinva_canonical {s : State} (w : s.Canonical) (a b) : CanonicalOut (execTlbinva a b s) := by
  refine .next (drains_canonical w (fun w _ => w.of_mem (advance_mem ..)) (spaceCheck_canonical w _ fun _ => ?_))
  dsimp only
  split
  · exact w.of_mem (trap_mem ..)
  · exact drain_canonical (by exact w) _ (by exact w.of_mem (by simp))

theorem execSpgen_canonical {s : State} (w : s.Canonical) (d a) : CanonicalOut (execSpgen d a s) := by
  refine .next (drains_canonical w (fun w _ => w.of_mem (put_mem ..)) (spaceCheck_canonical w _ fun _ => ?_))
  dsimp only
  split
  · exact w.of_mem (trap_mem ..)
  · exact drain_canonical (by exact w) _ (by exact w.of_mem (by simp))

theorem execPub_canonical {s : State} (w : s.Canonical) (d a) : CanonicalOut (execPub d a s) := by
  refine .next (drains_canonical w (fun w _ => w.of_mem (status_mem ..)) ?_)
  extract_lets b va cr
  split
  · exact w.of_mem (status_mem ..)
  · split
    next h => exact ((translate_canonical w ..).of_fst h).of_mem (trap_mem ..)
    next h =>
      have wXl := (translate_canonical w ..).of_fst h
      split
      · exact wXl.of_mem (trap_mem ..)
      · split
        next h =>
          have wRead := (wXl.of_mem (homeRead_mem ..)).of_fst h
          split
          · exact wRead.of_mem (trap_mem ..)
          · split
            · exact wRead.of_mem (status_mem ..)
            · split
              · exact wRead.of_mem (trap_mem ..)
              · refine drain_canonical ?wPub _ (State.Canonical.of_mem ?wPub (status_mem ..))
                exact publish_canonical _ (markAll_canonical wRead ..)

theorem execL2Eviction_canonical {s : State} (w : s.Canonical) : CanonicalOut (execL2Eviction s) := by
  fun_cases execL2Eviction
  all_goals
    refine .next ?_
    grind [Canonical, writeBack_canonical, dropClean_mem]

end Sys2Proof.Machine
end

section
/-! PROOFS, O59. Periods and engines. -/

namespace Sys2Proof.Machine
open State
set_option Elab.async false

theorem State.readHome_canonical {s : State} (w : s.Canonical) (k va) : (State.readHome k va s).1.Canonical := by
  fun_induction State.readHome
  all_goals grind -ring -linarith -lia -order [Canonical, !resolve_canonical, !homeRead_mem]

theorem State.readImage_canonical {s : State} (w : s.Canonical) (va) : (s.readImage va).1.Canonical := by
  fun_cases State.readImage
  all_goals grind [Canonical, !readHome_canonical]

@[simp] theorem State.loadImage_mem (s : State) (n img) : (s.loadImage n img).mem = s.mem := by
  simp [State.loadImage]

theorem State.rload_canonical {s : State} (w : s.Canonical) (d a states) {act : State → Nat → State}
    (hact : ∀ {t}, t.Canonical → ∀ img, (act t img).Canonical) : (s.rload d a states act).Canonical := by
  refine inStates_canonical w d states ?_
  dsimp only
  split
  · exact w.of_mem (trap_mem ..)
  · have wImage := readImage_canonical w (s.rd a)
    split <;> rename_i h <;> replace wImage := wImage.of_fst h
    · exact wImage.of_mem (trap_mem ..)
    · exact wImage.of_mem (stay_mem ..)
    · split
      · exact wImage.of_mem (status_mem ..)
      · split
        · exact wImage.of_mem (stay_mem ..)
        · exact (hact wImage _).of_mem (status_mem ..)

theorem execRload_canonical {s : State} (w : s.Canonical) (d a) : CanonicalOut (execRload d a s) :=
  .next <| rload_canonical w _ _ _ fun w _ => w.of_mem (loadImage_mem ..)

theorem execRswap_canonical {s : State} (w : s.Canonical) (d a) : CanonicalOut (execRswap d a s) :=
  .next <| rload_canonical w _ _ _ fun w _ => w.of_mem (loadImage_mem ..)

theorem execRswapTd_canonical {s : State} (w : s.Canonical) (d a) : CanonicalOut (execRswapTd d a s) := by
  fun_cases execRswapTd
  · exact .next (w.of_mem (status_mem ..))
  · exact .next (w.of_mem (status_mem ..))
  · exact .next (rload_canonical w _ _ _ fun w _ => w.of_mem (modReg_mem ..))

theorem execTdset_canonical {s : State} (w : s.Canonical) (d a b) : CanonicalOut (execTdset d a b s) := by
  fun_cases execTdset
  · exact .next (w.of_mem (status_mem ..))
  · refine .next (memRead_canonical w _ _ fun w _ => ?_)
    dsimp only
    split <;> exact w.of_mem (by simp)

theorem execTdget_canonical {s : State} (w : s.Canonical) (d a b) : CanonicalOut (execTdget d a b s) := by
  fun_cases execTdget
  · exact .next (w.of_mem (status_mem ..))
  · exact .next (memWrite_canonical w _ _ _ fun w => w.of_mem (status_mem ..))

theorem execTdclr_canonical {s : State} (w : s.Canonical) (d a) : CanonicalOut (execTdclr d a s) := by
  fun_cases execTdclr
  all_goals exact .next (w.of_mem (by simp))

@[simp] theorem State.bindPort_mem (s : State) (p) : (s.bindPort p).mem = s.mem := by
  simp [State.bindPort]

theorem State.bindTensor_canonical {s : State} (w : s.Canonical) (d a b ports kind flag) :
    (s.bindTensor d a b ports kind flag).Canonical := by
  refine inStates_canonical w d _ ?_
  dsimp only
  split
  · exact w.of_mem (status_mem ..)
  · split <;> exact w.of_mem (by simp)

@[simp] theorem State.bindBridge_mem (s : State) (d id num consume) :
    (s.bindBridge d id num consume).mem = s.mem := by
  fun_cases State.bindBridge
  all_goals simp

theorem execRfeedBridge_canonical {s : State} (w : s.Canonical) (d a b) : CanonicalOut (execRfeedBridge d a b s) := by
  refine .next (inStates_canonical w _ _ ?_)
  dsimp only
  split
  · exact w.of_mem (status_mem ..)
  · exact w.of_mem (bindBridge_mem ..)

theorem execRtapBridge_canonical {s : State} (w : s.Canonical) (d a b) : CanonicalOut (execRtapBridge d a b s) := by
  refine .next (inStates_canonical w _ _ ?_)
  dsimp only
  split
  · exact w.of_mem (status_mem ..)
  · split
    · split <;> exact w.of_mem (by simp)
    · exact w.of_mem (bindBridge_mem ..)

@[simp] theorem State.openBridges_mem (s : State) (n) : (s.openBridges n).mem = s.mem := by
  refine foldl_mem (fun s a => ?_) _ _
  split <;> simp

@[simp] theorem State.beginPeriod_mem (s : State) (n comp capt) : (s.beginPeriod n comp capt).mem = s.mem := by
  simp [State.beginPeriod]

theorem execRstart_canonical {s : State} (w : s.Canonical) (d a) : CanonicalOut (execRstart d a s) := by
  refine .next (inStates_canonical w _ _ ?_)
  dsimp only
  split
  · exact w.of_mem (trap_mem ..)
  · refine withVa_canonical w _ _ fun w _ _ => ?_
    split <;> exact w.of_mem (by simp)

theorem execTeardownPeriodStart_canonical {s : State} (w : s.Canonical) :
    CanonicalOut (execTeardownPeriodStart s) := by
  fun_cases execTeardownPeriodStart
  all_goals
    refine .next ?_
    grind -ring -linarith -lia -order [Canonical, loadImage_mem, beginPeriod_mem]

theorem State.entryStart_canonical {s : State} (w : s.Canonical) (cr e r) : (s.entryStart cr e r).1.Canonical := by
  fun_cases State.entryStart
  all_goals grind [Canonical, !descriptor_canonical]

@[simp] theorem State.modChain_mem (s : State) (n e f) : (s.modChain n e f).mem = s.mem := by
  fun_cases State.modChain
  all_goals simp

@[simp] theorem State.modJob_mem (s : State) (r f) : (s.modJob r f).mem = s.mem := by
  fun_cases State.modJob
  all_goals simp

@[simp] theorem State.releaseScore_mem (s : State) (r j) : (s.releaseScore r j).mem = s.mem := by
  simp [State.releaseScore]

theorem State.engStore_canonical {s : State} (w : s.Canonical) (cr va size v) :
    (s.engStore cr va size v).1.Canonical := by
  fun_cases State.engStore
  all_goals grind [Canonical, !translate_canonical, homeStore_canonical]

theorem State.chainRecord_canonical {s : State} (w : s.Canonical) (n cr place va done cause flags detail) :
    (s.chainRecord n cr place va done cause flags detail).Canonical := by
  fun_cases State.chainRecord
  all_goals grind -ring -linarith -lia -order [Canonical, faultRecord_canonical]

theorem State.statusWrites_canonical {s : State} (w : s.Canonical) (n e place done l) :
    (s.statusWrites n e place done l).Canonical := by
  fun_induction State.statusWrites
  all_goals grind -ring -linarith -lia -order [Canonical, !engStore_canonical, modChain_mem, chainRecord_canonical]

theorem State.haltChain_canonical {s : State} (w : s.Canonical) (r j cause va flags detail) :
    (s.haltChain r j cause va flags detail).Canonical := by
  fun_cases State.haltChain
  all_goals grind [Canonical, modChain_mem, modJob_mem, statusWrites_canonical, chainRecord_canonical]

theorem State.parkCommand_canonical {s : State} (w : s.Canonical) (r j cause va flags detail) :
    (s.parkCommand r j cause va flags detail).Canonical := by
  fun_cases State.parkCommand
  all_goals grind -ring -linarith -lia -order [Canonical, raiseFlag_mem, modJob_mem, faultRecord_canonical,
    endPassage_canonical]

theorem State.jobFault_canonical {s : State} (w : s.Canonical) (r cause va write xl) :
    (s.jobFault r cause va write xl).Canonical := by
  fun_cases State.jobFault
  all_goals grind -ring -linarith -lia -order [Canonical, parkCommand_canonical, regionFault_canonical,
    haltChain_canonical]

theorem State.engRead_canonical {s : State} (w : s.Canonical) (cr who a) : (s.engRead cr who a).1.Canonical := by
  fun_cases State.engRead
  all_goals grind [Canonical, !resolve_canonical, !homeRead_mem]

theorem State.engReads_canonical {s : State} (w : s.Canonical) (cr who k a) :
    (State.engReads cr who k a s).1.Canonical := by
  fun_induction State.engReads
  all_goals grind [Canonical, !engRead_canonical]

theorem State.engReadSp_canonical {s : State} (w : s.Canonical) (a) : (s.engReadSp a).1.Canonical := by
  fun_cases State.engReadSp
  all_goals grind [Canonical, !scrRead_canonical]

theorem State.engPlace_canonical {s : State} (w : s.Canonical) (cr who raw a) :
    (s.engPlace cr who raw a).1.Canonical := by
  fun_cases State.engPlace
  all_goals grind [Canonical, !resolve_canonical, !descriptor_canonical]

theorem State.engPlaces_canonical {s : State} (w : s.Canonical) (cr who raw k a) :
    (State.engPlaces cr who raw k a s).1.Canonical := by
  fun_induction State.engPlaces
  all_goals grind [Canonical, !engPlace_canonical]

theorem State.engWrite_canonical {s : State} (w : s.Canonical) (r p v) : (s.engWrite r p v).Canonical := by
  fun_cases State.engWrite
  all_goals grind [Canonical, homeStore_canonical, modReg_mem, scrWrite_mem, wsWrite_mem]

theorem foldl_bind_mem {α : Type} {f : State → α → Option State} (hf : ∀ {s u} a, f s a = some u → u.mem = s.mem)
    (l : List α) {s u : State} (h : l.foldl (fun o a => o.bind (fun s => f s a)) (some s) = some u) : u.mem = s.mem := by
  induction l generalizing s with
  | nil => cases h; rfl
  | cons a l ih =>
    rw [List.foldl_cons, Option.bind_some] at h
    cases e : f s a with
    | none =>
      rw [e] at h
      have stuck (l : List α) : l.foldl (fun o a => o.bind (fun s => f s a)) none = none := by induction l <;> simp_all
      rw [stuck] at h
      cases h
    | some t => rw [e] at h; rw [ih h, hf a e]

theorem State.takeScore_mem {s u : State} {r j} (h : s.takeScore r j = some u) : u.mem = s.mem := by
  refine foldl_bind_mem (fun a h => ?_) _ h
  dsimp only at h
  split at h <;> cases h
  exact modClu_mem ..

@[simp] theorem State.flushCmds_mem (s : State) (n k) : (State.flushCmds n k s).mem = s.mem := by
  fun_induction State.flushCmds
  all_goals grind [modReg_mem, emit_mem, setCounts_mem]

theorem State.jobDone_canonical {s : State} (w : s.Canonical) (r j) : (s.jobDone r j).Canonical := by
  fun_cases State.jobDone
  all_goals grind [Canonical, modJob_mem, releaseScore_mem, flushCmds_mem, statusWrites_canonical]

theorem State.advanceJob_canonical {s : State} (w : s.Canonical) (r prog last) :
    (s.advanceJob r prog last).Canonical := by
  fun_cases State.advanceJob
  all_goals grind [Canonical, modJob_mem, modReg_mem, jobDone_canonical]

theorem State.readEntry_canonical {s : State} (w : s.Canonical) (cr a) : (s.readEntry cr a).1.Canonical := by
  fun_cases State.readEntry
  all_goals grind [Canonical, !translate_canonical, !homeRead_mem]

theorem State.fetchEntry_canonical {s : State} (w : s.Canonical) (r j) : (s.fetchEntry r j).1.Canonical := by
  fun_cases State.fetchEntry
  all_goals grind [Canonical, !readEntry_canonical]

theorem State.startJob_canonical {s : State} (w : s.Canonical) (r) : (s.startJob r).Canonical := by
  fun_cases State.startJob
  all_goals grind -ring -linarith -lia -order [Canonical, !fetchEntry_canonical, jobFault_canonical, modJob_mem,
    modReg_mem, !entryStart_canonical, takeScore_mem, releaseScore_mem, jobDone_canonical]

theorem State.copyStep_canonical {s : State} (w : s.Canonical) (r j) : (s.copyStep r j).Canonical := by
  fun_cases State.copyStep
  all_goals grind [Canonical, !engReadSp_canonical, !engRead_canonical, jobFault_canonical, !engPlace_canonical,
    advanceJob_canonical, engWrite_canonical]

theorem State.gatherIndex_canonical {s : State} (w : s.Canonical) (cr who raw k) :
    (s.gatherIndex cr who raw k).1.Canonical := by
  fun_cases State.gatherIndex
  all_goals grind -ring -linarith -lia -order [Canonical, !engRead_canonical]

theorem State.rowWrites_canonical {s : State} (w : s.Canonical) (r last k v) :
    (State.rowWrites r last k v s).Canonical := by
  fun_induction State.rowWrites
  all_goals grind -ring -linarith -lia -order [Canonical, !engPlace_canonical, jobFault_canonical,
    advanceJob_canonical, engWrite_canonical]

theorem State.gatherStep_canonical {s : State} (w : s.Canonical) (r j) : (s.gatherStep r j).Canonical := by
  fun_cases State.gatherStep
  all_goals grind -ring -linarith -lia -order [Canonical, !gatherIndex_canonical, jobFault_canonical,
    !engReads_canonical, rowWrites_canonical]

theorem State.ringOf_canonical {s : State} (w : s.Canonical) (r j) : (s.ringOf r j).1.Canonical := by
  fun_cases State.ringOf
  all_goals grind -ring -linarith -lia -order [Canonical, !engRead_canonical, !engReads_canonical]

theorem State.partner_canonical {s : State} (w : s.Canonical) (j g k) : (s.partner j g k).1.Canonical := by
  refine foldl_pair_canonical (fun p a w => ?_) w _
  grind -ring -linarith -lia -order [Canonical, !ringOf_canonical]

theorem State.sources_canonical {s : State} (w : s.Canonical) (g locals raw off k ranks) :
    (State.sources g locals raw off k ranks s).1.Canonical := by
  fun_induction State.sources
  case case1 => assumption
  case case2 => exact w
  case case3 more _ _ _ _ _ _ _ hRead ih =>
    have wRest := ih _ ((engReads_canonical w ..).of_fst hRead)
    simp only [more]
    split <;> simp_all only
  case case4 hRead _ => exact (engReads_canonical w ..).of_fst hRead
  case case5 hRead _ => exact (engReads_canonical w ..).of_fst hRead
  case case6 more _ _ _ ih =>
    have wRest := ih _ w
    simp only [more]
    split <;> simp_all only
  case case7 => exact w

theorem State.shareOk_canonical {s : State} (w : s.Canonical) (r j n rank) : (s.shareOk r j n rank).1.Canonical := by
  fun_cases State.shareOk
  all_goals grind [Canonical, !descriptor_canonical]

theorem State.placesOf_canonical {s : State} (w : s.Canonical) (cr who raw k l) :
    (State.placesOf cr who raw k l s).1.Canonical := by
  fun_induction State.placesOf
  all_goals grind [Canonical, !engPlaces_canonical]

theorem State.collPlaces_canonical {s : State} (w : s.Canonical) (n c len k xs v l) :
    (State.collPlaces n c len k xs v l s).1.Canonical := by
  fun_induction State.collPlaces
  all_goals grind [Canonical, !placesOf_canonical]

theorem State.collAdvance_canonical {s : State} (w : s.Canonical) (ls prog last) :
    (s.collAdvance ls prog last).Canonical := by
  have wMoved (f : Local → Job → Job) {t : State} (w : t.Canonical) :
      (ls.foldl (fun s l => s.modJob l.1 (f l)) t).Canonical :=
    w.of_mem (foldl_mem (fun _ _ => modJob_mem ..) _ _)
  unfold State.collAdvance
  dsimp only
  split
  · exact wMoved _ w
  · refine foldl_canonical (fun w l => ?_) (wMoved _ (wMoved _ w)) _
    split
    · exact w.of_mem (flushCmds_mem ..)
    · split
      · exact jobDone_canonical w ..
      · exact w

theorem State.gatherLocals_canonical {s : State} (w : s.Canonical) (j g self ranks) :
    (State.gatherLocals j g self ranks s).1.Canonical := by
  fun_induction State.gatherLocals
  case case1 => assumption
  case case2 more ih =>
    have wRest := ih _ w
    simp only [more]
    split <;> simp_all only
  case case3 more _ _ ih =>
    have wRest := ih _ w
    simp only [more]
    split <;> simp_all only
  case case4 more _ _ _ _ hPartner ih =>
    have wRest := ih _ ((partner_canonical w ..).of_fst hPartner)
    simp only [more]
    split <;> simp_all only
  case case5 more _ _ _ _ hPartner ih =>
    have wRest := ih _ ((partner_canonical w ..).of_fst hPartner)
    simp only [more]
    split <;> simp_all only
  case case6 hPartner _ => exact (partner_canonical w ..).of_fst hPartner

theorem State.sharesFit_canonical {s : State} (w : s.Canonical) (n l) : (State.sharesFit n l s).1.Canonical := by
  fun_induction State.sharesFit
  all_goals grind [Canonical, !shareOk_canonical, jobFault_canonical]

@[simp] theorem State.dropPieces_mem (s : State) (g off) : (s.dropPieces g off).mem = s.mem := by
  simp [State.dropPieces]

theorem State.collStep_canonical {s : State} (w : s.Canonical) (r j) : (s.collStep r j).Canonical := by
  fun_cases State.collStep
  case' case5 | case6 | case8 => refine foldl_canonical (fun w _ => jobFault_canonical w ..) ?_ _
  case' case12 => refine (foldl_canonical (fun w _ => jobFault_canonical w ..) ?_ _).of_mem (dropPieces_mem ..)
  case' case14 =>
    refine collAdvance_canonical (?_ : State.Canonical _) ..
    refine foldl_canonical (f := fun s (p : JobRef × Place × Nat) => s.engWrite p.1 p.2.1 p.2.2)
      (fun w _ => engWrite_canonical w ..) ?_ _
  all_goals grind -ring -linarith -lia -order [Canonical, jobFault_canonical, !ringOf_canonical,
    !gatherLocals_canonical, !sharesFit_canonical, !sources_canonical, !collPlaces_canonical]

theorem State.runJob_canonical {s : State} (w : s.Canonical) (r) : (s.runJob r).Canonical := by
  fun_cases State.runJob
  all_goals grind [Canonical, gatherStep_canonical, copyStep_canonical, collStep_canonical]

theorem State.engineStep_canonical {s : State} (w : s.Canonical) (r) : (s.engineStep r).Canonical := by
  fun_cases State.engineStep
  all_goals grind [Canonical, runJob_canonical, startJob_canonical]

theorem State.opStep_canonical {s : State} (w : s.Canonical) (op) : (s.opStep op).Canonical := by
  fun_cases State.opStep
  all_goals grind [Canonical, !fetchEntry_canonical, engineStep_canonical]

theorem execBatchCompletion_canonical {s : State} (w : s.Canonical) : CanonicalOut (execBatchCompletion s) := by
  fun_cases execBatchCompletion
  all_goals
    refine .next ?_
    grind -ring -linarith -lia -order [Canonical, modChain_mem, statusWrites_canonical]

@[simp] theorem State.enqStatus_mem (s : State) (d e code) : (s.enqStatus d e code).mem = s.mem := by
  simp [State.enqStatus]

theorem State.withEngine_canonical {s : State} (w : s.Canonical) (d a) {f : BitVec 5 → State} (hf : ∀ e, (f e).Canonical) :
    (s.withEngine d a f).Canonical := by
  unfold State.withEngine
  split
  · exact hf _
  · exact w.of_mem (status_mem ..)

theorem execEnqOpen_canonical {s : State} (w : s.Canonical) (d a b) : CanonicalOut (execEnqOpen d a b s) := by
  refine .next (withEngine_canonical w _ _ fun e => ?_)
  dsimp only
  split
  · exact w.of_mem (enqStatus_mem ..)
  · split
    · exact w.of_mem (status_mem ..)
    · split
      · exact w.of_mem (trap_mem ..)
      · refine withVa_canonical w _ _ fun {t} w key _ => ?_
        split
        · exact w.of_mem (trap_mem ..)
        · have wLoad := w.of_mem (l1Load_mem t (coreOf t.cur) key 64)
          split
          · exact wLoad.of_mem (trap_mem ..)
          · exact wLoad.of_mem ((enqStatus_mem ..).trans (modMe_mem ..))

@[simp] theorem State.dropChain_mem (s : State) (n e) : (s.dropChain n e).mem = s.mem := by
  simp [State.dropChain]

theorem execEnqShut_canonical {s : State} (w : s.Canonical) (d a) : CanonicalOut (execEnqShut d a s) := by
  refine .next (withEngine_canonical w _ _ fun e => w.of_mem ?_)
  split
  · simp
  · split <;> simp

theorem State.restart_canonical {s : State} (w : s.Canonical) (n e) : (s.restart n e).Canonical := by
  unfold State.restart
  split
  · exact w
  · refine foldl_canonical (fun w _ => ?_) (w.of_mem (modChain_mem ..)) _
    split
    · split
      · split
        · exact w
        · exact w.of_mem (modChain_mem ..)
      · exact statusWrites_canonical w ..
    · exact w

theorem execEnqResume_canonical {s : State} (w : s.Canonical) (d a b) : CanonicalOut (execEnqResume d a b s) := by
  refine .next (withEngine_canonical w _ _ fun e => ?_)
  dsimp only
  split
  · exact w.of_mem (trap_mem ..)
  · split
    · exact w.of_mem (status_mem ..)
    · split
      · exact (restart_canonical w ..).of_mem (status_mem ..)
      · exact w.of_mem (status_mem ..)

theorem State.walkChain_canonical {s : State} (w : s.Canonical) (cr t k a) :
    (State.walkChain cr t k a s).1.Canonical := by
  fun_induction State.walkChain
  all_goals grind -ring -linarith -lia -order [Canonical, !readEntry_canonical]

theorem State.walkStart_canonical {s : State} (w : s.Canonical) (c) : (s.walkStart c).1.Canonical := by
  fun_cases State.walkStart
  all_goals grind -ring -linarith -lia -order [Canonical, !readEntry_canonical]

theorem execEnq_canonical {s : State} (w : s.Canonical) (d a b) : CanonicalOut (execEnq d a b s) := by
  refine .next (withEngine_canonical w _ _ fun e => ?_)
  have wStart (c : Chain) : ((s.writeBackAll (clusterOf s.cur)).walkStart c).1.Canonical :=
    walkStart_canonical (writeBackAll_canonical w ..) _
  split
  · exact w.of_mem (status_mem ..)
  next c _ =>
    extract_lets t stop
    have wStop {u : State} (w : u.Canonical) (x) : (stop u x).Canonical := by
      simp only [stop]
      split
      · exact w.of_mem (trap_mem ..)
      · exact w.of_mem (enqStatus_mem ..)
    split
    · exact w.of_mem (trap_mem ..)
    · split
      next h => exact wStop ((wStart c).of_fst h) _
      next h =>
        have wFrom := (wStart c).of_fst h
        split
        next h => exact wStop ((walkChain_canonical wFrom ..).of_fst h) _
        next h => exact ((walkChain_canonical wFrom ..).of_fst h).of_mem (by simp)

theorem execCwait_canonical {s : State} (w : s.Canonical) (d a n) : CanonicalOut (execCwait d a n s) := by
  refine .next (withEngine_canonical w _ _ fun e => w.of_mem ?_)
  split
  · simp
  · split
    · simp
    · split
      · simp
      · split <;> simp

theorem execCommandPortReceive_canonical {s : State} (w : s.Canonical) : CanonicalOut (execCommandPortReceive s) := by
  fun_cases execCommandPortReceive
  all_goals
    refine .next ?_
    grind -ring -linarith -lia -order [Canonical, modReg_mem, regionFault_canonical, startJob_canonical]

@[simp] theorem State.laneError_mem (s : State) (link lane) : (s.laneError link lane).mem = s.mem := by
  fun_cases State.laneError
  all_goals grind -ring -linarith -lia -order [logErr_mem]

@[simp] theorem State.injectLane_mem (s : State) (link lane) : (s.injectLane link lane).1.mem = s.mem := by
  fun_cases State.injectLane
  all_goals simp

@[simp] theorem State.injectLink_mem (s : State) (link lane) : (s.injectLink link lane).mem = s.mem := by
  fun_cases State.injectLink
  all_goals grind [!injectLane_mem, laneError_mem]

theorem execSolwenLinkFlit_canonical {s : State} (w : s.Canonical) : CanonicalOut (execSolwenLinkFlit s) := by
  fun_cases execSolwenLinkFlit
  all_goals
    refine .next ?_
    grind [Canonical, injectLink_mem]

end Sys2Proof.Machine
end

section
/-! PROOFS, O59. Traps and the host's answers. -/

namespace Sys2Proof.Machine
open State
set_option Elab.async false

theorem execTriggerDelivery_canonical {s : State} (w : s.Canonical) : CanonicalOut (execTriggerDelivery s) := by
  fun_cases execTriggerDelivery
  all_goals
    refine .next ?_
    grind [Canonical, setThr_mem]

@[simp] theorem State.mboxArrive_mem (s : State) (n b v) : (s.mboxArrive n b v).mem = s.mem := by
  fun_cases State.mboxArrive
  all_goals simp

theorem execMboxFlitArrival_canonical {s : State} (w : s.Canonical) : CanonicalOut (execMboxFlitArrival s) := by
  fun_cases execMboxFlitArrival
  all_goals exact .next (w.of_mem (by simp))

@[simp] theorem State.doorbellFlit_mem (s : State) (f k v) : (s.doorbellFlit f k v).mem = s.mem := by
  fun_cases State.doorbellFlit
  all_goals simp

@[simp] theorem State.clearDiscards_mem (s : State) (f) : (s.clearDiscards f).mem = s.mem := by
  fun_cases State.clearDiscards
  all_goals simp

theorem State.portRefused_canonical {s : State} (w : s.Canonical) (n p inward va flags) :
    (s.portRefused n p inward va flags).Canonical := by
  fun_cases State.portRefused
  all_goals grind [Canonical, regionFault_canonical]

theorem State.refuseRecord_canonical {s : State} (w : s.Canonical) (n) : (s.refuseRecord n).Canonical := by
  fun_cases State.refuseRecord
  all_goals grind [Canonical, loseRecord_mem, modThr_mem, flushRecords_canonical]

theorem State.refuse_canonical {s : State} (w : s.Canonical) (who cause flags detail asked) :
    (s.refuse who cause flags detail asked).Canonical := by
  fun_cases State.refuse
  all_goals grind -ring -linarith -lia -order [Canonical, modThr_mem, refuseRecord_canonical, refuseWord_canonical,
    dropOwed_mem, park_canonical, haltChain_canonical, parkCommand_canonical, portRefused_canonical]

theorem State.respond_canonical {s : State} (w : s.Canonical) (who code) : (s.respond who code).Canonical := by
  fun_cases State.respond
  all_goals grind -ring -linarith -lia -order [Canonical, faultRecord_canonical, modThr_mem, writeOwed_canonical,
    dropOwed_mem, chainRecord_canonical, portRefused_canonical]

@[simp] theorem State.keepAtc_mem (s : State) (es) : (s.keepAtc es).mem = s.mem := by
  simp [State.keepAtc]

@[simp] theorem State.askPage_mem (s : State) (fn pasid w) : (s.askPage fn pasid w).1.mem = s.mem := by
  fun_cases State.askPage
  all_goals simp

theorem State.answer_canonical {s : State} (w : s.Canonical) (fn pasid ok who) :
    (s.answer fn pasid ok who).Canonical := by
  fun_cases State.answer
  all_goals grind -ring -linarith -lia -order [Canonical, modThr_mem, flushRecords_canonical, storeWords_canonical,
    writeOwed_canonical, refuseRecord_canonical, refuseWord_canonical, !askPage_mem, refuse_canonical]

theorem execAtsTranslationCompletion_canonical {s : State} (w : s.Canonical) :
    CanonicalOut (execAtsTranslationCompletion s) := by
  fun_cases execAtsTranslationCompletion
  · exact .next w
  next kept =>
    have wKept : kept.Canonical := w.of_mem (keepAtc_mem ..)
    exact .next (foldl_canonical (fun w _ => answer_canonical w ..) wKept _)

theorem execPrgResponse_canonical {s : State} (w : s.Canonical) : CanonicalOut (execPrgResponse s) := by
  fun_cases execPrgResponse
  · exact .next w
  · exact .next w
  · exact .next (foldl_canonical (fun w _ => respond_canonical w ..) (by exact w) _)

theorem execPriCapabilityEnable_canonical {s : State} (w : s.Canonical) :
    CanonicalOut (execPriCapabilityEnable s) := by
  fun_cases execPriCapabilityEnable
  all_goals exact .next (w.of_mem (by simp))

theorem execAtsInvalidateRequest_canonical {s : State} (w : s.Canonical) :
    CanonicalOut (execAtsInvalidateRequest s) := by
  have wBack : ((s.hostDirty s.ev.f (fld s.ev.v 0 20) s.ev.w.toNat (s.ev.w.toNat + s.ev.k)).foldl
      (fun s p => s.writeBack p.1 p.2) s).Canonical :=
    foldl_canonical (f := fun s (p : BitVec 5 × Nat) => s.writeBack p.1 p.2) (fun w _ => writeBack_canonical w ..) w _
  exact .next (wBack.of_mem rfl)

theorem execAtsInvalidateCompletion_canonical {s : State} (w : s.Canonical) :
    CanonicalOut (execAtsInvalidateCompletion s) := by
  fun_cases execAtsInvalidateCompletion
  · exact .next w
  · exact .next w
  next i _ _ back =>
    have wBack : back.Canonical := foldl_canonical (fun w _ => writeBack_canonical w ..) w _
    exact .next (wBack.of_mem rfl)

@[simp] theorem State.doorbellWrite_mem (s : State) (f off n v) : (s.doorbellWrite f off n v).mem = s.mem := by
  fun_cases State.doorbellWrite
  all_goals simp

theorem execBar0Access_canonical {s : State} (w : s.Canonical) : CanonicalOut (execBar0Access s) := by
  fun_cases execBar0Access
  · refine .next ?_
    split
    · exact homeWrite_canonical w _ _ _ false
    · split
      next h => exact ((w.of_mem (homeRead_mem ..)).of_fst h).of_mem rfl
  · refine .next ?_
    split
    · exact w.of_mem rfl
    · exact foldl_canonical (fun w _ => w.of_mem (doorbellWrite_mem ..)) w _
  · exact .next w

end Sys2Proof.Machine
end

section
/-! PROOFS, O59. Ports. -/

namespace Sys2Proof.Machine
open State
set_option Elab.async false

theorem State.byteKeys_canonical {s : State} (w : s.Canonical) (cr k shadow who n va) :
    (State.byteKeys cr k shadow who n va s).1.Canonical := by
  fun_induction State.byteKeys
  all_goals grind -ring -linarith -lia -order [Canonical, !resolve_canonical]

theorem State.elemKeys_canonical {s : State} (w : s.Canonical) (cr k shadow who v l) :
    (State.elemKeys cr k shadow who v l s).1.Canonical := by
  fun_induction State.elemKeys
  all_goals grind [Canonical, !byteKeys_canonical]

@[simp] theorem State.keyBytes_mem (s : State) (c ks) : (s.keyBytes c ks).1.mem = s.mem := by
  refine foldl_pair_mem (fun p a => ?_) _ _
  grind [!fabricLoad_mem]

theorem State.keyWrite_canonical {s : State} (w : s.Canonical) (c cr bs) : (s.keyWrite c cr bs).Canonical :=
  foldl_canonical (fun w _ => State.l2Store_canonical w ..) w _

@[simp] theorem State.keyOld_mem (s : State) (c bs key) : (s.keyOld c bs key).1.mem = s.mem := by
  fun_cases State.keyOld
  all_goals grind [!fabricLoad_mem]

theorem State.portFault_canonical {s : State} (w : s.Canonical) (n p cause va flags) :
    (s.portFault n p cause va flags).Canonical := by
  fun_cases State.portFault
  all_goals grind [Canonical, regionFault_canonical]

theorem State.portBad_canonical {s : State} (w : s.Canonical) (n p cause va write) :
    (s.portBad n p cause va write).Canonical := by
  fun_cases State.portBad
  all_goals grind [Canonical, portFault_canonical]

@[simp] theorem State.modPort_mem (s : State) (n p f) : (s.modPort n p f).mem = s.mem := by
  simp [State.modPort]

theorem State.readToken_canonical {s : State} (w : s.Canonical) (n p k) : (s.readToken n p k).1.Canonical := by
  fun_cases State.readToken
  case case1 h => exact (elemKeys_canonical w ..).of_fst h
  case case2 h => exact (elemKeys_canonical w ..).of_fst h
  case case3 h _ =>
    refine State.Canonical.of_mem ((elemKeys_canonical w ..).of_fst h) ?_
    exact foldl_pair_mem (fun _ _ => by simp) _ _

@[simp] theorem State.portEmit_mem (s : State) (n p t i) : (s.portEmit n p t i).mem = s.mem := by
  simp [State.portEmit]

@[simp] theorem State.admitTok_mem (s : State) (n p ty t) : (s.admitTok n p ty t).mem = s.mem := by
  simp [State.admitTok]

@[simp] theorem State.portEnd_mem (s : State) (n p) : (s.portEnd n p).mem = s.mem := by
  simp [State.portEnd]

@[simp] theorem State.bridgeAdmit_mem (s : State) (n p) : (s.bridgeAdmit n p).mem = s.mem := by
  fun_cases State.bridgeAdmit
  all_goals grind -ring -linarith -lia -order [portEnd_mem, admitTok_mem]

theorem State.admitNext_canonical {s : State} (w : s.Canonical) (n p) : (s.admitNext n p).Canonical := by
  fun_cases State.admitNext
  all_goals grind [Canonical, admitTok_mem, portEnd_mem, bridgeAdmit_mem, !readToken_canonical, portBad_canonical]

theorem execIngressAdmit_canonical {s : State} (w : s.Canonical) : CanonicalOut (execIngressAdmit s) := by
  fun_cases execIngressAdmit
  all_goals
    refine .next ?_
    grind [Canonical, admitNext_canonical, portEmit_mem, modPort_mem]

theorem State.shadowKeys_canonical {s : State} (w : s.Canonical) (cr v ks) : (s.shadowKeys cr v ks).1.Canonical := by
  fun_cases State.shadowKeys
  all_goals grind [Canonical, !descriptor_canonical]

@[simp] theorem State.noteShadow_mem (s : State) (n v ks) : (s.noteShadow n v ks).mem = s.mem := by
  fun_cases State.noteShadow
  all_goals simp

theorem State.egressData_canonical {s : State} (w : s.Canonical) (n p t) {done : State → State}
    (hdone : ∀ {u}, u.Canonical → (done u).Canonical) : (s.egressData n p t done).Canonical := by
  fun_cases State.egressData
  case case1 hKeys => exact (elemKeys_canonical w ..).of_fst hKeys
  case case2 hKeys => exact portBad_canonical ((elemKeys_canonical w ..).of_fst hKeys) ..
  case case3 hKeys _ _ _ _ hShadow =>
    exact portBad_canonical ((shadowKeys_canonical ((elemKeys_canonical w ..).of_fst hKeys) ..).of_fst hShadow) ..
  case case4 hKeys _ hShadow _ bytes =>
    have wKeys := (shadowKeys_canonical ((elemKeys_canonical w ..).of_fst hKeys) ..).of_fst hShadow
    have wBytes : bytes.1.Canonical := by
      refine wKeys.of_mem (foldl_pair_mem (fun _ _ => ?_) _ _)
      dsimp only
      split
      · exact keyOld_mem ..
      · rfl
    exact hdone ((keyWrite_canonical wBytes ..).of_mem ((modPort_mem ..).trans (noteShadow_mem ..)))

theorem State.egressPoison_canonical {s : State} (w : s.Canonical) (n p) {done : State → State}
    (hdone : ∀ {u}, u.Canonical → (done u).Canonical) : (s.egressPoison n p done).Canonical := by
  fun_cases State.egressPoison
  case case1 hKeys => exact (elemKeys_canonical w ..).of_fst hKeys
  case case2 hKeys => exact portBad_canonical ((elemKeys_canonical w ..).of_fst hKeys) ..
  case case3 hKeys _ _ _ _ hShadow =>
    exact portBad_canonical ((shadowKeys_canonical ((elemKeys_canonical w ..).of_fst hKeys) ..).of_fst hShadow) ..
  case case4 hKeys _ hShadow _ poisoned =>
    have wKeys := (shadowKeys_canonical ((elemKeys_canonical w ..).of_fst hKeys) ..).of_fst hShadow
    have wPoisoned : poisoned.Canonical :=
      foldl_canonical (fun w _ => by exact l2Store_canonical (w.of_mem (l2Get_mem ..)) ..) wKeys _
    exact hdone (wPoisoned.of_mem ((modPort_mem ..).trans (noteShadow_mem ..)))

theorem State.egressControl_mem {s u : State} (n p t) (h : s.egressControl n p t = some u) : u.mem = s.mem := by
  unfold State.egressControl at h
  grind [Canonical, modPort_mem, sinkReport_mem]

theorem State.bridgeArrive_canonical {s : State} (w : s.Canonical) (n p t i) :
    (s.bridgeArrive n p t i).Canonical := by
  fun_cases State.bridgeArrive
  case case1 => exact w
  case case2 fed saw _ =>
    have wFed : fed.Canonical := w.of_mem (addFl_mem ..)
    have wSaw : saw.Canonical := .ite (wFed.of_mem (sawGap_mem ..)) wFed
    exact regionFault_canonical wSaw ..
  case case3 fed saw _ =>
    have wFed : fed.Canonical := w.of_mem (addFl_mem ..)
    exact .ite (wFed.of_mem (sawGap_mem ..)) wFed

theorem execEgressToken_canonical {s : State} (w : s.Canonical) : CanonicalOut (execEgressToken s) := by
  have wControl {t u : State} (w : t.Canonical) (wElse : u.Canonical) (n p k) :
      ((t.egressControl n p k).getD u).Canonical := by
    cases h : t.egressControl n p k with
    | none => exact wElse
    | some v => exact w.of_mem (egressControl_mem _ _ _ h)
  fun_cases execEgressToken
  case case4 take _ _ h => exact .next (w.of_mem ((egressControl_mem _ _ _ h).trans (modReg_mem ..)))
  case case5 | case7 | case13 => exact .next (portFault_canonical w ..)
  case case6 => exact .next (wControl (w.of_mem (modReg_mem ..)) w ..)
  case case9 take _ _ _ _ arrived =>
    have wArrived : arrived.Canonical := bridgeArrive_canonical (w.of_mem (modReg_mem ..)) ..
    refine .next ?_
    split
    · exact wControl wArrived wArrived ..
    · exact wArrived
  case case10 => exact .next (egressData_canonical w _ _ _ fun w => w.of_mem (modReg_mem ..))
  case case11 => exact .next (egressPoison_canonical w _ _ fun w => w.of_mem (modReg_mem ..))
  case case12 h _ _ => exact .next (w.of_mem ((egressControl_mem _ _ _ h).trans (modReg_mem ..)))
  all_goals exact .next w

theorem State.completionWaits_canonical {s : State} (w : s.Canonical) (n) : (s.completionWaits n).1.Canonical := by
  fun_cases State.completionWaits
  all_goals grind [Canonical, !translate_canonical, askAts_mem]

theorem State.readUnread_canonical {s : State} (w : s.Canonical) (n l) : (State.readUnread n l s).Canonical := by
  fun_induction State.readUnread
  all_goals grind [Canonical, !descriptor_canonical, modReg_mem, regionFault_canonical]

theorem State.publishAll_canonical {s : State} (w : s.Canonical) (n) : (s.publishAll n).Canonical := by
  unfold State.publishAll
  extract_lets u r
  have wRead : u.Canonical := readUnread_canonical (w.of_mem (modReg_mem ..)) ..
  split
  · exact wRead
  · split
    · exact (foldl_canonical (fun w _ => publish_canonical _ (markAll_canonical w ..)) wRead _).of_mem (modReg_mem ..)
    · exact regionFault_canonical wRead ..

theorem execPeriodCompletion_canonical {s : State} (w : s.Canonical) : CanonicalOut (execPeriodCompletion s) := by
  fun_cases execPeriodCompletion
  all_goals
    refine .next ?_
    grind -ring -linarith -lia -order [Canonical, publishAll_canonical, writeBackAll_canonical,
      !completionWaits_canonical, finishPeriod_canonical, modReg_mem]

end Sys2Proof.Machine
end

section
/-! PROOFS, O59. Sweeps, markers and passages. -/

namespace Sys2Proof.Machine
open State
set_option Elab.async false

@[simp] theorem State.at_mem (s : State) (n v) : (s.at n v).mem = s.mem := by
  simp [State.at]

theorem execDrainedEvent_canonical {s : State} (w : s.Canonical) : CanonicalOut (execDrainedEvent s) := by
  fun_cases execDrainedEvent
  all_goals
    refine .next ?_
    grind [Canonical, modReg_mem]

@[simp] theorem State.tileTurn_mem (s : State) (n t) : (s.tileTurn n t).1.mem = s.mem := by
  fun_cases State.tileTurn
  all_goals simp

@[simp] theorem State.counterTurn_mem (s : State) (n t k) : (s.counterTurn n t k).1.mem = s.mem := by
  fun_cases State.counterTurn
  all_goals simp

@[simp] theorem State.sweepStart_mem (s : State) (n asked) : (s.sweepStart n asked).mem = s.mem := by
  simp [State.sweepStart]

@[simp] theorem State.sweepPage_mem (s : State) (n w p rest) : (s.sweepPage n w p rest).mem = s.mem := by
  simp [State.sweepPage]

theorem State.sweepRecords_canonical {s : State} (w : s.Canonical) (n sw) : (s.sweepRecords n sw).1.Canonical := by
  fun_cases State.sweepRecords
  case case1 written =>
    have wWritten : written.Canonical := foldl_canonical (fun w _ => by exact faultRecord_canonical w ..) w _
    refine wWritten.of_mem ((modReg_mem ..).trans ?_)
    split <;> simp

theorem State.sweepOn_canonical {s : State} (w : s.Canonical) (n sw) : (s.sweepOn n sw).1.Canonical := by
  fun_cases State.sweepOn
  all_goals grind [Canonical, sweepPage_mem, !sweepRecords_canonical]

theorem execRsweep_canonical {s : State} (w : s.Canonical) (d) : CanonicalOut (execRsweep d s) := by
  fun_cases execRsweep
  next on =>
    have wOn {t : State} (w : t.Canonical) : (on t).Canonical := by
      simp only [on]
      split
      · split
        next h =>
          have wSweep := (sweepOn_canonical w ..).of_fst h
          split <;> exact wSweep.of_mem (by simp)
        next h => exact ((sweepOn_canonical w ..).of_fst h).of_mem (stay_mem ..)
      · exact w.of_mem (by simp)
    refine .next ?_
    split
    · exact wOn w
    · exact inStates_canonical w _ _ (wOn w)

theorem execHangSweep_canonical {s : State} (w : s.Canonical) : CanonicalOut (execHangSweep s) := by
  fun_cases execHangSweep
  all_goals
    refine .next ?_
    grind -ring -linarith -lia -order [Canonical, !sweepOn_canonical, sweepStart_mem]

@[simp] theorem State.takeMark_mem (s : State) (n v k) : (s.takeMark n v k).mem = s.mem := by
  simp [State.takeMark]

@[simp] theorem State.saveNode_mem (s : State) (n v num) : (s.saveNode n v num).mem = s.mem := by
  simp [State.saveNode, foldl_mem]

@[simp] theorem State.stopCounter_mem (s : State) (n v num) : (s.stopCounter n v num).mem = s.mem := by
  fun_cases State.stopCounter
  all_goals grind [modRt_mem, saveNode_mem]

theorem execNodeMarkSave_canonical {s : State} (w : s.Canonical) : CanonicalOut (execNodeMarkSave s) := by
  fun_cases execNodeMarkSave
  all_goals
    refine .next (w.of_mem ?_)
    simp [apply_ite State.mem]

theorem execMarkerPassageComplete_canonical {s : State} (w : s.Canonical) :
    CanonicalOut (execMarkerPassageComplete s) := by
  fun_cases execMarkerPassageComplete
  all_goals
    refine .next ?_
    grind [Canonical, endPassage_canonical]

theorem execMarkerTimeout_canonical {s : State} (w : s.Canonical) : CanonicalOut (execMarkerTimeout s) := by
  fun_cases execMarkerTimeout
  all_goals
    refine .next ?_
    grind [Canonical, endPassage_canonical]

theorem State.startMark_canonical {s : State} (w : s.Canonical) (n num why) : (s.startMark n num why).Canonical := by
  fun_cases State.startMark
  all_goals grind [Canonical, evict_canonical, modReg_mem]

theorem State.rmark_canonical {s : State} (w : s.Canonical) (d num) : (s.rmark d num).Canonical := by
  fun_cases State.rmark
  all_goals grind -ring -linarith -lia -order [Canonical, startMark_canonical, stay_mem, status_mem]

theorem execRmark_canonical {s : State} (w : s.Canonical) (d a) : CanonicalOut (execRmark d a s) := by
  fun_cases execRmark
  · exact .next (rmark_canonical w ..)
  · refine .next (inStates_canonical w _ _ ?_)
    split
    · exact w.of_mem (status_mem ..)
    · exact rmark_canonical w ..

theorem execRkill_canonical {s : State} (w : s.Canonical) (d) : CanonicalOut (execRkill d s) :=
  .next <| inStates_canonical w _ _ <| (endRegion_canonical (killSteps_canonical w _) ..).of_mem (status_mem ..)

@[simp] theorem State.replayAgain_mem (s : State) (n) : (s.replayAgain n).mem = s.mem := by
  simp [State.replayAgain]

theorem execRreplay_canonical {s : State} (w : s.Canonical) (d) : CanonicalOut (execRreplay d s) := by
  refine .next (inStates_canonical w _ _ (w.of_mem ?_))
  dsimp only
  split
  · simp
  · split
    · simp
    · split
      · simp
      · split <;> simp

theorem State.keepMet_canonical {s : State} (w : s.Canonical) (n) : (s.keepMet n).Canonical := by
  fun_cases State.keepMet
  all_goals grind [Canonical, overcap_canonical]

theorem execNitinolMove_canonical {s : State} (w : s.Canonical) : CanonicalOut (execNitinolMove s) := by
  fun_cases execNitinolMove
  all_goals
    refine .next ?_
    grind [Canonical, keepMet_canonical, moveTo_canonical, startMark_canonical]

theorem State.settle_canonical {s : State} (w : s.Canonical) (n) : (s.settle n).Canonical := by
  fun_cases State.settle
  all_goals grind -ring -linarith -lia -order [Canonical, endRegion_canonical, regionFault_canonical, modReg_mem,
    relaunch_canonical]

theorem execArbiterCycle_canonical {s : State} (w : s.Canonical) : CanonicalOut (execArbiterCycle s) := by
  refine .next (foldl_canonical (fun w n => ?_) (w.of_mem (arbiter_mem ..)) _)
  split
  · exact settle_canonical w n
  · exact w

end Sys2Proof.Machine
end

section
/-! PROOFS, O59. Context save and load. -/

namespace Sys2Proof.Machine
open State
set_option Elab.async false

@[simp] theorem State.forget_mem (s : State) (gone) : (s.forget gone).mem = s.mem := by
  simp [State.forget]

theorem execThreadPreemption_canonical {s : State} (w : s.Canonical) : CanonicalOut (execThreadPreemption s) := by
  fun_cases execThreadPreemption
  all_goals
    refine .next ?_
    grind [Canonical, modThr_mem, forget_mem]

theorem State.areaRead_canonical {s : State} (w : s.Canonical) (cr base who k page) :
    (State.areaRead cr base who k page s).1.Canonical := by
  fun_induction State.areaRead
  all_goals grind -ring -linarith -lia -order [Canonical, !resolve_canonical, !homeRead_mem]

@[simp] theorem State.noteChains_mem (s : State) (n) : (s.noteChains n).mem = s.mem := by
  refine foldl_mem (fun s a => ?_) _ _
  grind

theorem State.reopen_canonical {s : State} (w : s.Canonical) (n e r words) : (s.reopen n e r words).Canonical := by
  fun_cases State.reopen
  all_goals grind [Canonical, modThr_mem, !readEntry_canonical, !walkChain_canonical]

theorem State.stopChains_canonical {s : State} (w : s.Canonical) (n) : (s.stopChains n).Canonical := by
  unfold State.stopChains
  split
  · exact w
  · refine (foldl_canonical (fun w _ => foldl_canonical (fun w _ => ?_) w _) w _).of_mem (modThr_mem ..)
    split
    · exact statusWrites_canonical w ..
    · exact w

@[simp] theorem State.loseRecords_mem (s : State) (n) : (s.loseRecords n).mem = s.mem := by
  simp [State.loseRecords]

theorem State.savedSection_canonical {s : State} (w : s.Canonical) (n) : (s.savedSection n).1.Canonical := by
  fun_cases State.savedSection
  all_goals grind -ring -linarith -lia -order [Canonical, !areaRead_canonical]

theorem State.writeContext_canonical {s : State} (w : s.Canonical) (d n area) :
    (s.writeContext d n area).Canonical := by
  have wStopped : ((s.stopChains n).loseRecords n).Canonical := (stopChains_canonical w n).of_mem (loseRecords_mem ..)
  have wNoted {t : State} (w : t.Canonical) (c : Bool) (sec : Nat) :
      ((if c then t.noteSaved n sec else t).noteChains n).Canonical :=
    w.of_mem (by cases c <;> simp)
  fun_cases State.writeContext
  case case1 hSection => exact ((savedSection_canonical wStopped ..).of_fst hSection).of_mem (by simp)
  case case2 hSection => exact ((savedSection_canonical wStopped ..).of_fst hSection).of_mem (stay_mem ..)
  case case3 hSection _ _ _ _ _ _ _ _ _ hArea =>
    have wSection := (savedSection_canonical wStopped ..).of_fst hSection
    exact ((areaWrite_canonical (wNoted wSection ..) ..).of_fst hArea).of_mem (by simp)
  case case4 hSection _ _ _ _ _ _ _ hArea =>
    have wSection := (savedSection_canonical wStopped ..).of_fst hSection
    exact ((areaWrite_canonical (wNoted wSection ..) ..).of_fst hArea).of_mem (stay_mem ..)
  case case5 hSection _ _ _ _ _ _ _ hArea back gone =>
    have wSection := (savedSection_canonical wStopped ..).of_fst hSection
    have wGone : gone.Canonical :=
      (writeBackAll_canonical ((areaWrite_canonical (wNoted wSection ..) ..).of_fst hArea) _).of_mem
        (foldl_mem (fun _ _ => dropChain_mem ..) _ _)
    exact wGone.of_mem (by simp)

theorem State.ctxsave_canonical {s : State} (w : s.Canonical) (d n area) : (s.ctxsave d n area).Canonical := by
  fun_cases State.ctxsave
  all_goals grind -ring -linarith -lia -order [Canonical, faultRecord_canonical, stay_mem, startMark_canonical,
    save_canonical, writeContext_canonical]

theorem execCtxsave_canonical {s : State} (w : s.Canonical) (d a b) : CanonicalOut (execCtxsave d a b s) := by
  fun_cases execCtxsave
  all_goals
    refine .next ?_
    grind -ring -linarith -lia -order [Canonical, trap_mem, status_mem, ctxsave_canonical, stay_mem, modThr_mem]

@[simp] theorem State.rebind_mem (s : State) (n v) : (s.rebind n v).mem = s.mem := by
  refine foldl_mem (fun s a => ?_) _ _
  grind

theorem State.shadowPlaces_canonical {s : State} (w : s.Canonical) (cr d l) :
    (State.shadowPlaces cr d l s).1.Canonical := by
  fun_induction State.shadowPlaces
  all_goals grind [Canonical, !translate_canonical]

theorem State.recallShadows_canonical {s : State} (w : s.Canonical) (n) : (s.recallShadows n).Canonical := by
  unfold State.recallShadows
  dsimp only
  split
  · exact w
  · refine foldl_canonical (fun w _ => ?_) (w.of_mem (modReg_mem ..)) _
    split
    next h =>
      have wDesc := (descriptor_canonical w ..).of_fst h
      refine State.Canonical.of_mem ?_ (modReg_mem ..)
      split
      · exact shadowPlaces_canonical wDesc ..
      · exact wDesc
    next h => exact ((descriptor_canonical w ..).of_fst h).of_mem (modReg_mem ..)

theorem State.loadRegion_canonical {s : State} (w : s.Canonical) (n v poison) :
    (s.loadRegion n v poison).Canonical := by
  fun_cases State.loadRegion
  all_goals grind [Canonical, recallShadows_canonical, rebind_mem, modReg_mem]

theorem areaReadIf_canonical {s : State} (w : s.Canonical) (c : Bool) (cr base who k page) :
    (if c then State.areaRead cr base who k page s else (s, .ok 0 [])).1.Canonical := by
  cases c
  · exact w
  · exact State.areaRead_canonical w ..

theorem State.withArea_canonical {s : State} (w : s.Canonical) (base) {bad worse : State → Nat → Option State}
    {act : State → Nat → List Nat → State} (hbad : ∀ {t u v}, t.Canonical → bad t v = some u → u.Canonical)
    (hworse : ∀ {t u v}, t.Canonical → worse t v = some u → u.Canonical)
    (hact : ∀ {t}, t.Canonical → ∀ v p, (act t v p).Canonical) : (s.withArea base bad worse act).Canonical := by
  have wFail {t : State} (w : t.Canonical) (x : AreaRead) :
      (match x with | .fault c va => t.trap c va | _ => t.stay .busy).Canonical := by
    split
    · exact w.of_mem (trap_mem ..)
    · exact w.of_mem (stay_mem ..)
  fun_cases State.withArea
  case case1 hHead _ _ _ _ hRegion _ hBad =>
    have wHead := (areaRead_canonical w ..).of_fst hHead
    exact hbad ((areaReadIf_canonical wHead ..).of_fst hRegion) hBad
  case case2 hHead _ _ _ _ hRegion _ _ _ _ hRest _ hWorse =>
    have wRegion := (areaReadIf_canonical ((areaRead_canonical w ..).of_fst hHead) ..).of_fst hRegion
    exact hworse ((areaReadIf_canonical wRegion ..).of_fst hRest) hWorse
  case case3 hHead _ _ _ _ hRegion _ _ _ _ hRest _ =>
    have wRegion := (areaReadIf_canonical ((areaRead_canonical w ..).of_fst hHead) ..).of_fst hRegion
    exact hact ((areaReadIf_canonical wRegion ..).of_fst hRest) ..
  case case4 hHead _ _ _ _ hRegion _ _ _ _ hRest =>
    have wRegion := (areaReadIf_canonical ((areaRead_canonical w ..).of_fst hHead) ..).of_fst hRegion
    exact wFail ((areaReadIf_canonical wRegion ..).of_fst hRest) _
  case case5 hHead _ _ _ _ hRegion =>
    have wHead := (areaRead_canonical w ..).of_fst hHead
    exact wFail ((areaReadIf_canonical wHead ..).of_fst hRegion) _
  case case6 hHead => exact wFail ((areaRead_canonical w ..).of_fst hHead) _

theorem State.areaBad_mem {s u : State} {d v} (h : s.areaBad d v = some u) : u.mem = s.mem := by
  obtain ⟨c, -, rfl⟩ := Option.map_eq_some_iff.mp h
  exact status_mem ..

theorem State.sectionBad_mem {s u : State} {d v} (h : s.sectionBad d v = some u) : u.mem = s.mem := by
  revert h
  fun_cases State.sectionBad
  case case4 => nofun
  all_goals
    rintro ⟨⟩
    exact status_mem ..

theorem State.loadThread_canonical {s : State} (w : s.Canonical) (n v) : (s.loadThread n v).Canonical := by
  refine foldl_canonical (fun w _ => reopen_canonical w ..) ?_ _
  split
  · exact w.of_mem (by simp)
  · exact w.of_mem (setThr_mem ..)

theorem execCtxload_canonical {s : State} (w : s.Canonical) (d a b) : CanonicalOut (execCtxload d a b s) := by
  fun_cases execCtxload
  case case1 | case2 | case6 => exact .next (w.of_mem (status_mem ..))
  case case4 | case5 => exact .next (w.of_mem (trap_mem ..))
  case case3 =>
    refine .next (withArea_canonical w _ nofun nofun fun w v poison => ?_)
    dsimp only
    split
    · exact w.of_mem (status_mem ..)
    · have wRegion := loadRegion_canonical w (fld (s.rd a) 0 9) v poison
      split
      · exact (settle_canonical (wRegion.of_mem (modReg_mem ..)) _).of_mem (status_mem ..)
      · exact wRegion.of_mem ((status_mem ..).trans (modReg_mem ..))
  case case7 =>
    refine .next (withArea_canonical w _ (fun w h => w.of_mem (areaBad_mem h)) (fun w h => w.of_mem (sectionBad_mem h))
      fun w v poison => ?_)
    have wThread := loadThread_canonical w (fld (s.rd a) 0 9) v
    dsimp only
    split
    · exact wThread.of_mem (status_mem ..)
    · exact (loadRegion_canonical wThread _ v poison).of_mem ((status_mem ..).trans (enterClaim_mem ..))

end Sys2Proof.Machine
end

section
/-! PROOFS, O59. Words of the cores and of the module. -/

namespace Sys2Proof.Machine
open State
set_option Elab.async false

@[simp] theorem State.putFp_mem (s : State) (d v f) : (s.putFp d v f).mem = s.mem := by
  simp [State.putFp]

theorem fpRound_canonical {s : State} (w : s.Canonical) (f r d i x) : CanonicalOut (fpRound f r d i s x) := by
  fun_cases fpRound
  all_goals exact .next (w.of_mem (by simp))

theorem fpExact_canonical {s : State} (w : s.Canonical) (f d i x) : CanonicalOut (fpExact f d i s x) := by
  fun_cases fpExact
  all_goals exact .next (w.of_mem (by simp))

theorem execFcvt_canonical {s : State} (w : s.Canonical) (d a t f r) : CanonicalOut (execFcvt d a t f r s) := by
  fun_cases execFcvt
  all_goals exact .next (w.of_mem (by simp))

theorem int2_canonical {s : State} (w : s.Canonical) (f d a b) : CanonicalOut (int2 f d a b s) :=
  .next (w.of_mem (put_mem ..))

theorem int1_canonical {s : State} (w : s.Canonical) (f d a) : CanonicalOut (int1 f d a s) :=
  .next (w.of_mem (put_mem ..))

theorem execLd_canonical {s : State} (w : s.Canonical) (d a z o) : CanonicalOut (execLd d a z o s) := by
  fun_cases execLd
  · exact .next (w.of_mem (illegal_mem ..))
  · exact .next (memRead_canonical w _ _ fun w _ => w.of_mem (put_mem ..))

theorem execSt_canonical {s : State} (w : s.Canonical) (v a z o) : CanonicalOut (execSt v a z o s) := by
  fun_cases execSt
  · exact .next (w.of_mem (illegal_mem ..))
  · exact .next (memWrite_canonical w _ _ _ fun w => w.of_mem (advance_mem ..))

theorem execLinkCrcRetransmit_canonical {s : State} (w : s.Canonical) : CanonicalOut (execLinkCrcRetransmit s) := by
  fun_cases execLinkCrcRetransmit
  all_goals
    refine .next ?_
    grind [Canonical, !injectLane_mem, laneError_mem]

theorem execRefreshWindowStart_canonical {s : State} (w : s.Canonical) : CanonicalOut (execRefreshWindowStart s) := by
  fun_cases execRefreshWindowStart
  all_goals
    refine .next ?_
    grind [Canonical, modClu_mem]

theorem execRefreshWindowEnd_canonical {s : State} (w : s.Canonical) : CanonicalOut (execRefreshWindowEnd s) := by
  fun_cases execRefreshWindowEnd
  all_goals
    refine .next ?_
    grind [Canonical, modClu_mem]

@[simp] theorem State.moduleReset_mem (s : State) : s.moduleReset.mem = s.mem := by
  fun_cases State.moduleReset
  · rfl
  · exact foldl_mem (fun _ _ => logErr_mem ..) _ _

@[simp] theorem State.trip_mem (s : State) (c) : (s.trip c).mem = s.mem := by
  simp [State.trip]

theorem execThermalSample_canonical {s : State} (w : s.Canonical) : CanonicalOut (execThermalSample s) := by
  fun_cases execThermalSample
  all_goals
    refine .next ?_
    grind [Canonical, trip_mem, modClu_mem]

theorem execThermalTrip_canonical {s : State} (w : s.Canonical) : CanonicalOut (execThermalTrip s) := by
  fun_cases execThermalTrip
  all_goals
    refine .next ?_
    grind [Canonical, trip_mem]

theorem execRailRecovery_canonical {s : State} (w : s.Canonical) : CanonicalOut (execRailRecovery s) := by
  fun_cases execRailRecovery
  all_goals
    refine .next ?_
    grind -ring -linarith -lia -order [Canonical, moduleReset_mem]

@[simp] theorem State.cobaltAnswer_mem (s : State) (op status) : (s.cobaltAnswer op status).mem = s.mem := by
  simp [State.cobaltAnswer]

theorem State.cobalt_canonical {s : State} (w : s.Canonical) (op) {act : State → State × Word × Nat}
    (hact : (act s).1.Canonical) : (s.cobalt op act).Canonical := by
  fun_cases State.cobalt
  case case1 => exact w
  case case2 => exact w.of_mem (cobaltAnswer_mem ..)
  case case3 => exact w.of_mem (cobaltAnswer_mem ..)
  case case4 h => exact (hact.of_fst h).of_mem rfl

theorem execIdent_canonical {s : State} (w : s.Canonical) : CanonicalOut (execIdent s) :=
  .next <| cobalt_canonical w _ w

theorem execAttest_canonical {s : State} (w : s.Canonical) : CanonicalOut (execAttest s) :=
  .next <| cobalt_canonical w _ w

theorem execLogread_canonical {s : State} (w : s.Canonical) : CanonicalOut (execLogread s) := by
  refine .next (cobalt_canonical w _ ?_)
  split <;> exact w

theorem execUpdate_canonical {s : State} (w : s.Canonical) : CanonicalOut (execUpdate s) := by
  refine .next (cobalt_canonical w _ ?_)
  dsimp only
  split
  · exact w
  · exact w.of_mem (logErr_mem ..)

theorem execStart_canonical {s : State} (w : s.Canonical) : CanonicalOut (execStart s) :=
  .next <| cobalt_canonical w _ <| w.of_mem (modThr_mem ..)

theorem execSetmod_canonical {s : State} (w : s.Canonical) : CanonicalOut (execSetmod s) := by
  refine .next (cobalt_canonical w _ ?_)
  split <;> exact w

theorem execReset_canonical {s : State} (w : s.Canonical) : CanonicalOut (execReset s) := by
  fun_cases execReset
  refine .next ?_
  split
  · exact cobalt_canonical w _ w
  · exact w.of_mem (by simp)

theorem execUnassignedCobaltOpcode_canonical {s : State} (w : s.Canonical) :
    CanonicalOut (execUnassignedCobaltOpcode s) := by
  fun_cases execUnassignedCobaltOpcode
  refine .next ?_
  split
  · exact w
  · exact cobalt_canonical w _ w

theorem execCobaltCommandDone_canonical {s : State} (w : s.Canonical) : CanonicalOut (execCobaltCommandDone s) := by
  fun_cases execCobaltCommandDone
  all_goals exact .next (w.of_mem (by simp))

end Sys2Proof.Machine
end

section
/-! PROOFS, O59. What moves next. -/

namespace Sys2Proof.Machine
open State
set_option Elab.async false

@[simp] theorem State.pass_mem (s : State) (k) : (s.pass k).mem = s.mem := by
  simp [State.pass]

theorem State.fetchWord_canonical {s : State} (w : s.Canonical) (k) : (s.fetchWord k).1.Canonical := by
  fun_cases State.fetchWord
  all_goals grind -ring -linarith -lia -order [Canonical, !resolve_canonical, trap_mem, stay_mem, !instLoad_mem]

@[simp] theorem State.takeTrigger_mem (s : State) : s.takeTrigger.mem = s.mem := by
  fun_cases State.takeTrigger
  all_goals simp

@[simp] theorem State.hasIssued_mem (s : State) (k x) : (s.hasIssued k x).mem = s.mem := by
  simp [State.hasIssued]

theorem State.issueFrom_canonical {s : State} (w : s.Canonical) (k l) : (State.issueFrom k l s).1.Canonical := by
  fun_induction State.issueFrom
  all_goals grind [Canonical, !fetchWord_canonical, takeTrigger_mem, hasIssued_mem, modMe_mem]

theorem State.coreTurn_canonical {s : State} (w : s.Canonical) (k) : (s.coreTurn k).1.Canonical := by
  fun_cases State.coreTurn
  all_goals grind [Canonical, !issueFrom_canonical]

theorem State.lookTurn_canonical {s : State} (w : s.Canonical) (n) : (s.lookTurn n).1.Canonical := by
  fun_cases State.lookTurn
  all_goals grind [Canonical, modMe_mem, !fetchWord_canonical, stay_mem]

theorem State.moved_canonical {s : State} (w : s.Canonical) (m) : (s.moved m).1.Canonical := by
  fun_cases State.moved
  all_goals grind [Canonical, !coreTurn_canonical, !lookTurn_canonical, !tileTurn_mem, !counterTurn_mem, modL1_mem,
    modInst_mem, modQuad_mem]

theorem State.move_canonical {s : State} (w : s.Canonical) (m) : (s.move m).1.Canonical := by
  fun_cases State.move
  all_goals grind [Canonical, !moved_canonical]

theorem State.pick_canonical {s : State} (w : s.Canonical) : s.pick.1.Canonical := by
  fun_cases State.pick
  all_goals grind [Canonical, pass_mem, !move_canonical]

end Sys2Proof.Machine
end

section
/-! PROOFS, O59. Every instruction, every event, every step.  QUEUE_ARRIVAL fires the node whose turn it is first, so it
comes after the nodes; `exec_canonical_of` takes it as a hypothesis. -/

namespace Sys2Proof.Machine
open State
set_option Elab.async false

theorem exec_canonical_of {s : State} (w : s.Canonical) (i : Instr)
    (hArrival : i = .queueArrival → CanonicalOut (execQueueArrival s)) : CanonicalOut (exec i s) := by
  unfold exec
  cases i
  case add | sub | and | or | xor | andn | shl | shr | sha | slt | sltn | min | max | minn | maxn | mul | mulh | mulhn |
      div | divn | rem | remn =>
    exact int2_canonical w ..
  case clz | popc | addi | andi | ori | xori | shli | shri | shai | slti => exact int1_canonical w ..
  case fadd | fsub | fmul | ffma | frcp | frsq | fsqrt => exact fpRound_canonical w ..
  case fmin | fmax | fcmpeq | fcmplt | fcmple | fabs | fneg => exact fpExact_canonical w ..
  case fcvt => exact execFcvt_canonical w ..
  case ldhi | jmp | call | rwait | rwaitDrained | cseq | sset | sclr | trap | sysret | halt | wfe | statusWrite |
      injctlWrite | doorbellFlit | railUndervoltage | moduleReset | tmmaCompletion | wfeSpuriousEnd | translationEntryDrop
      | matrixOpCompletion | discardsWrite =>
    exact .next (w.of_mem (by simp))
  case br => exact execBr_canonical w ..
  case jr => exact execJr_canonical w ..
  case ld => exact execLd_canonical w ..
  case st => exact execSt_canonical w ..
  case bind => exact execBind_canonical w ..
  case unbind => exact execUnbind_canonical w ..
  case acqx | acqs => exact .next (acq_canonical w ..)
  case rel => exact execRel_canonical w ..
  case fence => exact execFence_canonical w ..
  case aadd | aand | aor | axor | amin | amax | aminn | amaxn | axchg | acas => exact atomic_canonical w ..
  case rclaim => exact execRclaim_canonical w ..
  case rload => exact execRload_canonical w ..
  case rstart => exact execRstart_canonical w ..
  case rfeed | rtap => exact .next (bindTensor_canonical w ..)
  case rfeedBridge => exact execRfeedBridge_canonical w ..
  case rtapBridge => exact execRtapBridge_canonical w ..
  case rdrain => exact execRdrain_canonical w ..
  case rswap => exact execRswap_canonical w ..
  case rswapTd => exact execRswapTd_canonical w ..
  case rstat => exact execRstat_canonical w ..
  case rfree => exact execRfree_canonical w ..
  case rpost => exact execRpost_canonical w ..
  case rsweep => exact execRsweep_canonical w ..
  case rmark => exact execRmark_canonical w ..
  case rkill => exact execRkill_canonical w ..
  case rreplay => exact execRreplay_canonical w ..
  case enq => exact execEnq_canonical w ..
  case enqOpen => exact execEnqOpen_canonical w ..
  case enqShut => exact execEnqShut_canonical w ..
  case enqResume => exact execEnqResume_canonical w ..
  case cwait => exact execCwait_canonical w ..
  case pub => exact execPub_canonical w ..
  case tdset => exact execTdset_canonical w ..
  case tdget => exact execTdget_canonical w ..
  case tdclr => exact execTdclr_canonical w ..
  case srd => exact execSrd_canonical w ..
  case swr => exact execSwr_canonical w ..
  case tlbinvs => exact execTlbinvs_canonical w ..
  case tlbinva => exact execTlbinva_canonical w ..
  case spgen => exact execSpgen_canonical w ..
  case ctxsave => exact execCtxsave_canonical w ..
  case ctxload => exact execCtxload_canonical w ..
  case iadd | isub | imul | imulh | imin | imax | iand | ior | ixor | ishl | ishr | isha | icmpeq | icmpne | icmplt |
      icmple | faddNode | fsubNode | fmulNode | fminNode | fmaxNode | fcmpeqNode | fcmpltNode | fcmpleNode | xred =>
    exact .next (ew2_canonical w ..)
  case imad | iclamp | ffmaNode => exact .next (ew3_canonical w ..)
  case iabs | ineg | inot | clzNode | popcNode | isat | fabsNode | fnegNode | frcpNode | frsqNode | fsqrtNode | fexp2 |
      flog2 =>
    exact .next (ew1_canonical w ..)
  case sel | pack | shuf | bcast | hashk | dropm | norm | perm => exact .next (elementNode_canonical w ..)
  case cvt | cvtsr | csc => exact .next (partNode_canonical w ..)
  case sdenc => exact execSdenc_canonical w ..
  case sddec => exact execSddec_canonical w ..
  case qmax => exact execQmax_canonical w ..
  case qconv => exact execQconv_canonical w ..
  case qdeq => exact execQdeq_canonical w ..
  case unpack => exact execUnpack_canonical w ..
  case rsum | rmax | rmin => exact .next (reduce_canonical w ..)
  case accum | wsum => exact .next (sumNode_canonical w ..)
  case wcnt => exact execWcnt_canonical w ..
  case steer => exact execSteer_canonical w ..
  case merge => exact execMerge_canonical w ..
  case gate => exact execGate_canonical w ..
  case chain => exact execChain_canonical w ..
  case repl => exact execRepl_canonical w ..
  case sink => exact execSink_canonical w ..
  case source => exact execSource_canonical w ..
  case join => exact execJoin_canonical w ..
  case win => exact execWin_canonical w ..
  case gapc => exact execGapc_canonical w ..
  case gld => exact execGld_canonical w ..
  case gst => exact execGst_canonical w ..
  case sld => exact execSld_canonical w ..
  case sst => exact execSst_canonical w ..
  case wld => exact execWld_canonical w ..
  case tld | tst | tlds | tsts => exact .next (rowNode_canonical w ..)
  case done => exact execDone_canonical w ..
  case ecmd => exact execEcmd_canonical w ..
  case tshape => exact execTshape_canonical w ..
  case tprec => exact execTprec_canonical w ..
  case tfill => exact execTfill_canonical w ..
  case temit => exact execTemit_canonical w ..
  case tzero => exact execTzero_canonical w ..
  case tmma => exact execTmma_canonical w ..
  case tmov => exact execTmov_canonical w ..
  case tcvt => exact execTcvt_canonical w ..
  case tepi => exact execTepi_canonical w ..
  case tquant => exact execTquant_canonical w ..
  case tacc => exact execTacc_canonical w ..
  case vote => exact execVote_canonical w ..
  case cksum => exact execCksum_canonical w ..
  case ckchk => exact execCkchk_canonical w ..
  case capq => exact execCapq_canonical w ..
  case illegalWord => exact execIllegalWord_canonical w ..
  case sysregWrite => exact execSysregWrite_canonical w ..
  case mboxoutWrite => exact execMboxoutWrite_canonical w ..
  case mboxinRead => exact execMboxinRead_canonical w ..
  case triggerDelivery => exact execTriggerDelivery_canonical w ..
  case threadPreemption => exact execThreadPreemption_canonical w ..
  case mboxFlitArrival => exact execMboxFlitArrival_canonical w ..
  case arbiterCycle => exact execArbiterCycle_canonical w ..
  case nitinolMove => exact execNitinolMove_canonical w ..
  case queueArrival => exact hArrival rfl
  case ingressAdmit => exact execIngressAdmit_canonical w ..
  case egressToken => exact execEgressToken_canonical w ..
  case periodCompletion => exact execPeriodCompletion_canonical w ..
  case drainedEvent => exact execDrainedEvent_canonical w ..
  case teardownPeriodStart => exact execTeardownPeriodStart_canonical w ..
  case hangSweep => exact execHangSweep_canonical w ..
  case faultRecordDeferred => exact .next (flushRecords_canonical w ..)
  case atsTranslationCompletion => exact execAtsTranslationCompletion_canonical w ..
  case prgResponse => exact execPrgResponse_canonical w ..
  case atsInvalidateRequest => exact execAtsInvalidateRequest_canonical w ..
  case atsInvalidateCompletion => exact execAtsInvalidateCompletion_canonical w ..
  case nodeMarkSave => exact execNodeMarkSave_canonical w ..
  case markerPassageComplete => exact execMarkerPassageComplete_canonical w ..
  case markerTimeout => exact execMarkerTimeout_canonical w ..
  case nop | copy | wload | gather | allred | redscat | allgath => exact .next (opStep_canonical w ..)
  case engineSector => exact .next (engineStep_canonical w ..)
  case batchCompletion => exact execBatchCompletion_canonical w ..
  case commandPortReceive => exact execCommandPortReceive_canonical w ..
  case scrubRow => exact execScrubRow_canonical w ..
  case errorWindowBoundary => exact execErrorWindowBoundary_canonical w ..
  case evacuationRowCopy => exact execEvacuationRowCopy_canonical w ..
  case invarRelaunchRetry => exact execInvarRelaunchRetry_canonical w ..
  case linkCrcRetransmit => exact execLinkCrcRetransmit_canonical w ..
  case refreshWindowStart => exact execRefreshWindowStart_canonical w ..
  case refreshWindowEnd => exact execRefreshWindowEnd_canonical w ..
  case thermalSample => exact execThermalSample_canonical w ..
  case thermalTrip => exact execThermalTrip_canonical w ..
  case railRecovery => exact execRailRecovery_canonical w ..
  case ident => exact execIdent_canonical w ..
  case attest => exact execAttest_canonical w ..
  case logread => exact execLogread_canonical w ..
  case update => exact execUpdate_canonical w ..
  case start => exact execStart_canonical w ..
  case setmod => exact execSetmod_canonical w ..
  case reset => exact execReset_canonical w ..
  case l2Eviction => exact execL2Eviction_canonical w ..
  case memoryAccessPerformed => exact execMemoryAccessPerformed_canonical w ..
  case solwenLinkFlit => exact execSolwenLinkFlit_canonical w ..
  case priCapabilityEnable => exact execPriCapabilityEnable_canonical w ..
  case bar0Access => exact execBar0Access_canonical w ..
  case unassignedCobaltOpcode => exact execUnassignedCobaltOpcode_canonical w ..
  case cobaltCommandDone => exact execCobaltCommandDone_canonical w ..

theorem runNode_eq_exec_or (i : Instr) (s : State) :
    (runNode i s = exec i s ∧ i ≠ .queueArrival) ∨ runNode i s = .next s := by
  cases i
  case iadd | isub | imul | imulh | imad | imin | imax | iabs | ineg | iand | ior | ixor | inot | ishl | ishr | isha |
      icmpeq | icmpne | icmplt | icmple | sel | clzNode | popcNode | isat | iclamp | faddNode | fsubNode | fmulNode |
      ffmaNode | fminNode | fmaxNode | fabsNode | fnegNode | fcmpeqNode | fcmpltNode | fcmpleNode | frcpNode | frsqNode |
      fsqrtNode | fexp2 | flog2 | cvt | cvtsr | sdenc | sddec | qmax | qconv | qdeq | pack | unpack | shuf | bcast | rsum |
      rmax | rmin | accum | wsum | wcnt | xred | steer | merge | gate | chain | repl | sink | source | join | win | gapc |
      hashk | dropm | gld | gst | sld | sst | wld | tld | tst | done | ecmd | tshape | tprec | tfill | temit | tlds | tsts
      | tzero | tmma | tmov | tcvt | tepi | tquant | tacc | csc | norm | perm | vote | cksum | ckchk | capq =>
    exact .inl ⟨rfl, nofun⟩
  all_goals exact .inr rfl

theorem runNode_canonical {s : State} (w : s.Canonical) (i) : CanonicalOut (runNode i s) := by
  obtain ⟨h, hNot⟩ | h := runNode_eq_exec_or i s
  · rw [h]
    exact exec_canonical_of w i (absurd · hNot)
  · rw [h]
    exact .next w

theorem CanonicalOut.of_next {t : State} (h : CanonicalOut (.next t)) : t.Canonical := by
  obtain ⟨w⟩ := h
  exact w

theorem State.fireFirst_canonical {s : State} (w : s.Canonical) (n t q) : (s.fireFirst n t q).Canonical := by
  unfold State.fireFirst
  extract_lets go
  have wGo {p : State × Option Instr} (wp : p.1.Canonical) : (go p).Canonical := by
    simp only [go]
    split
    next i _ =>
      have wRun := runNode_canonical wp i
      split
      next h => exact (h ▸ wRun).of_next
      next => exact w
    next => exact w
  split
  · exact wGo (w.of_mem (counterTurn_mem ..))
  · exact wGo (w.of_mem (tileTurn_mem ..))

theorem execQueueArrival_canonical {s : State} (w : s.Canonical) : CanonicalOut (execQueueArrival s) := by
  fun_cases execQueueArrival
  case case2 fired =>
    have wFired : fired.Canonical := fireFirst_canonical w ..
    refine .next ?_
    split
    · exact queueArrive_canonical (wFired.of_mem ((modRt_mem ..).trans (modReg_mem ..))) ..
    · exact wFired
  all_goals exact .next w

theorem exec_canonical {s : State} (w : s.Canonical) (i) : CanonicalOut (exec i s) :=
  exec_canonical_of w i (fun _ => execQueueArrival_canonical w)

theorem step_canonical {s : State} (w : s.Canonical) : CanonicalOut (step s) := by
  have wPick := pick_canonical w
  unfold step
  split <;> rename_i h <;> rw [h] at wPick
  · exact exec_canonical wPick _
  · exact .next wPick

/-- Settles O59: whichever unit the step lets move, its move and the instruction or event it brings change memory only by the
stores of homes, caches and markers, each of which keeps the canonical form. -/
theorem memoryStaysCanonical : Obligations.MemoryStaysCanonical := by
  unfold Obligations.MemoryStaysCanonical
  intro s t w h
  exact (h ▸ step_canonical w).of_next

end Sys2Proof.Machine
end

section
/-! PROOFS, O7. What SRD reads.  A read at a register's level writes `sysRead` to the destination; the registers' values are then
those of the context, of the tables of Table 3.2, and of the composed words below. -/

namespace Sys2Proof.Machine
open State

/-! ## The levels of Table 3.2 -/

theorem mboxinOf_eq_none {r : BitVec 12} (h : ¬(0x48 ≤ r.toNat ∧ r.toNat ≤ 0x4B)) : mboxinOf r = none := by
  refine if_neg fun hbox => h ?_
  have hdiv : r.toNat / 4 % 1024 = 0x12 := by simpa [Nat.shiftRight_eq_div_pow] using congrArg BitVec.toNat hbox
  omega

/-- The numbers of MBOXIN0 to MBOXIN3 are listed. -/
theorem mboxinOf_of_unlisted {r : BitVec 12} (h : sysLevels r = none) : mboxinOf r = none := by
  refine mboxinOf_eq_none fun hbox => ?_
  simp only [sysLevels] at h
  grind

theorem readPerm_ne_priv_of_level_le {r : BitVec 12} {pl : BitVec 2} {lr : Nat} {lw : Option Nat}
    (hlev : sysLevels r = some (lr, lw)) (hle : lr ≤ pl.toNat) : readPerm r pl ≠ .priv := by
  simp [readPerm, hlev, Nat.not_lt.mpr hle]

theorem readPerm_of_unlisted {r : BitVec 12} (h : sysLevels r = none) (pl : BitVec 2) : readPerm r pl = .ignored := by
  simp [readPerm, h]

/-- Each number that `sysRead` gives a value of its own is one that Table 3.2 lists. -/
theorem sysRead_of_unlisted {r : BitVec 12} (h : sysLevels r = none) (s : State) (n : BitVec 9) : s.sysRead n r = 0 := by
  fun_cases State.sysRead
  case case39 hnum =>
    simp only [sysLevels] at h
    grind
  case case40 => rfl
  all_goals
    rename_i hnum
    simp [sysLevels, hnum] at h

/-! ## SRD -/

/-- SRD of any register but MBOXIN0 to MBOXIN3, at a level that may read it (R79, R81). -/
theorem writes_srd_of_readPerm {s : State} {r : BitVec 12} (d : BitVec 5) (hbox : mboxinOf r = none)
    (hperm : readPerm r s.me.pl ≠ .priv) : Writes s (exec (.srd d r) s) d (s.sysRead s.cur r) (s.pc + 4) := by
  have h : exec (.srd d r) s = .next (s.put d (s.sysRead s.cur r)) := by
    show execSrd d r s = _
    simp only [execSrd, hbox, if_neg hperm]
  rw [h]
  exact writes_put s d _

theorem writes_srd {s : State} {r : BitVec 12} {lr : Nat} {lw : Option Nat} {v : Word} (d : BitVec 5)
    (hlev : sysLevels r = some (lr, lw)) (hbox : mboxinOf r = none) (hle : lr ≤ s.me.pl.toNat)
    (hv : s.sysRead s.cur r = v) : Writes s (exec (.srd d r) s) d v (s.pc + 4) :=
  hv ▸ writes_srd_of_readPerm d hbox (readPerm_ne_priv_of_level_le hlev hle)

theorem writes_srd_of_unlisted {s : State} {r : BitVec 12} (d : BitVec 5) (h : sysLevels r = none) :
    Writes s (exec (.srd d r) s) d 0 (s.pc + 4) :=
  sysRead_of_unlisted h s s.cur ▸
    writes_srd_of_readPerm d (mboxinOf_of_unlisted h) (by simp [readPerm_of_unlisted h])

/-! ## The registers of a context that have one fixed mask -/

theorem sysLevels_of_mem_plainRegs : ∀ q ∈ plainRegs, sysLevels q.num = some (q.level, some q.level) := by decide +kernel

theorem mboxinOf_of_mem_plainRegs : ∀ q ∈ plainRegs, mboxinOf q.num = none := by decide +kernel

theorem sysRead_trig (s : State) (n : BitVec 9) (k : Fin 16) :
    s.sysRead n (0x100 + BitVec.ofNat 12 k.val) = (s.thr n).trig[k] := by
  fin_cases k <;> rfl

theorem sysRead_of_mem_plainRegs (s : State) (n : BitVec 9) : ∀ q ∈ plainRegs, s.sysRead n q.num = q.get (s.thr n) := by
  simp only [plainRegs, List.forall_mem_append, List.forall_mem_cons, List.forall_mem_map]
  refine ⟨⟨rfl, rfl, rfl, rfl, rfl, rfl, rfl, rfl, rfl, rfl, rfl, rfl, rfl, rfl, by simp⟩, fun k _ => sysRead_trig s n k⟩

theorem writes_srd_of_mem_plainRegs {s : State} {q : PlainReg} (d : BitVec 5) (hq : q ∈ plainRegs)
    (hle : q.level ≤ s.me.pl.toNat) : Writes s (exec (.srd d q.num) s) d (q.get s.me) (s.pc + 4) :=
  writes_srd d (sysLevels_of_mem_plainRegs q hq) (mboxinOf_of_mem_plainRegs q hq) hle (sysRead_of_mem_plainRegs s s.cur q hq)

/-! ## Composed registers -/

/-- The coordinate word of R13: the zero fields of Table 1.3 below the context number are one. -/
theorem threadCoord_eq (n : BitVec 9) : threadCoord n = 0#8 ++ 1#1 ++ (fld n 7 2 : BitVec 2) ++ (fld n 4 3 : BitVec 3)
    ++ (fld n 2 2 : BitVec 2) ++ (fld n 0 2 : BitVec 2) ++ 0#14 := by
  apply BitVec.eq_of_toNat_eq
  simp only [threadCoord, BitVec.toNat_append, Nat.shiftLeft_or_distrib, ← Nat.shiftLeft_add, Nat.or_assoc,
    BitVec.toNat_ofNat, Nat.zero_mod, Nat.or_zero]

theorem four_eq (f : Nat → Nat) : four f = BitVec.ofNat 64 (f 0) ||| BitVec.ofNat 64 (f 1) <<< 16
    ||| BitVec.ofNat 64 (f 2) <<< 32 ||| BitVec.ofNat 64 (f 3) <<< 48 := by
  simp [four, List.range_succ]

/-- Bit i of the half word that `MBOXSTAT` has for mailbox k: COUNT below, LOST above (Table 3.9). -/
theorem getLsbD_mboxstat {t : Thread} (hlen : ∀ k : Fin 4, t.mbox[k].length ≤ 16) (k : Fin 4) {i : Nat} (hi : i < 16) :
    t.mboxstat.getLsbD (16 * k.val + i) = if i < 8 then t.mbox[k].length.testBit i else t.lost[k].getLsbD (i - 8) := by
  have hcount (j : Nat) (hj : j < 4) (i : Nat) (hi : 8 ≤ i) : t.mbox[j].length.testBit i = false :=
    Nat.testBit_lt_two_pow (((hlen ⟨j, hj⟩).trans_lt (by decide : 16 < 2 ^ 8)).trans_le (Nat.pow_le_pow_right (by decide) hi))
  have hlost (j : Nat) (hj : j < 4) (i : Nat) (hi : 8 ≤ i) : t.lost[j].getLsbD i = false :=
    BitVec.getLsbD_of_ge _ _ hi
  simp only [Thread.mboxstat, List.range_succ]
  fin_cases k <;> simp [zext, BitVec.getLsbD_ofNat] <;> grind

theorem fld_mboxstat_count {t : Thread} (hlen : ∀ k : Fin 4, t.mbox[k].length ≤ 16) (k : Fin 4) :
    fld t.mboxstat (16 * k.val) 8 = BitVec.ofNat 8 t.mbox[k].length := by
  ext i hi
  simp [← BitVec.getLsbD_eq_getElem, hi, getLsbD_mboxstat hlen k (by omega : i < 16), BitVec.getLsbD_ofNat]

theorem fld_mboxstat_lost {t : Thread} (hlen : ∀ k : Fin 4, t.mbox[k].length ≤ 16) (k : Fin 4) :
    fld t.mboxstat (16 * k.val + 8) 8 = t.lost[k] := by
  ext i hi
  simp [← BitVec.getLsbD_eq_getElem, hi, Nat.add_assoc, getLsbD_mboxstat hlen k (by omega : 8 + i < 16)]

/-- COUNT of `WSPHASE` (Table 9.2): the cycles to the next start or end of a refresh window. -/
def State.refreshCount (s : State) (c : BitVec 5) : Nat :=
  if s.cycle < (s.clu c).refNext then Nat.min ((s.clu c).refNext - s.cycle) (if (s.clu c).inWin then 1125 else 70875)
  else if s.cycle = 0 then 0 else 1

theorem wsphase_eq (s : State) (c : BitVec 5) :
    s.wsphase c = BitVec.ofNat 64 (s.refreshCount c) ||| (if (s.clu c).inWin then 1#64 <<< 17 else 0) := rfl

theorem refreshCount_lt (s : State) (c : BitVec 5) : s.refreshCount c < 2 ^ 17 := by
  unfold refreshCount
  grind

theorem refreshCount_of_lt {s : State} {c : BitVec 5} (h : s.cycle < (s.clu c).refNext)
    (hle : (s.clu c).refNext ≤ s.cycle + (if (s.clu c).inWin then 1125 else 70875)) :
    s.refreshCount c = (s.clu c).refNext - s.cycle := by
  rw [refreshCount, if_pos h]
  exact Nat.min_eq_left (by omega)

theorem getLsbD_wsphase_17 (s : State) (c : BitVec 5) : (s.wsphase c).getLsbD 17 = (s.clu c).inWin := by
  have h := Nat.testBit_lt_two_pow (refreshCount_lt s c)
  rw [wsphase_eq, BitVec.getLsbD_or, BitVec.getLsbD_ofNat, h]
  cases (s.clu c).inWin <;> simp

theorem fld_wsphase_count (s : State) (c : BitVec 5) : fld (s.wsphase c) 0 17 = BitVec.ofNat 17 (s.refreshCount c) := by
  ext i hi
  have hwin : (if (s.clu c).inWin then 1#64 <<< 17 else 0).getLsbD i = false := by
    split
    · rw [BitVec.getLsbD_shiftLeft]
      simp [hi]
    · exact BitVec.getLsbD_zero
  rw [BitVec.getElem_extractLsb', Nat.zero_add, wsphase_eq, BitVec.getLsbD_or, hwin, Bool.or_false,
    ← BitVec.getLsbD_eq_getElem, BitVec.getLsbD_ofNat, BitVec.getLsbD_ofNat]
  simp [hi, show i < 64 by omega]

/-- Settles O7: every clause on a read is `writes_srd` at the register's level, with its value from `sysRead`; those on the
fields of `MBOXSTAT` and `WSPHASE` speak of the composed words. -/
theorem systemRegisterReads : Obligations.SystemRegisterReads := by
  unfold Obligations.SystemRegisterReads
  intro s d pl reads n c phase
  have hUser : 0 ≤ s.me.pl.toNat := Nat.zero_le _
  refine ⟨fun q hq hle => writes_srd_of_mem_plainRegs d hq hle,
    writes_srd d rfl rfl hUser rfl, writes_srd d rfl rfl hUser rfl,
    writes_srd d rfl rfl hUser (congrArg (zext · 64) (threadCoord_eq n)),
    writes_srd d rfl rfl hUser rfl, writes_srd d rfl rfl hUser rfl,
    fun hlen k => ⟨fld_mboxstat_count hlen k, fld_mboxstat_lost hlen k⟩,
    writes_srd d rfl rfl hUser rfl, writes_srd d rfl rfl hUser rfl, writes_srd d rfl rfl hUser rfl,
    writes_srd d rfl rfl hUser (four_eq _), writes_srd d rfl rfl hUser (four_eq _),
    writes_srd d rfl rfl hUser rfl, writes_srd d rfl rfl hUser rfl, writes_srd d rfl rfl hUser rfl,
    getLsbD_wsphase_17 s _,
    fun hlt hle => (fld_wsphase_count s _).trans (congrArg (BitVec.ofNat 17) (refreshCount_of_lt hlt hle)),
    fun hGuest => ⟨writes_srd d rfl rfl hGuest rfl, writes_srd d rfl rfl hGuest rfl, writes_srd d rfl rfl hGuest rfl,
      writes_srd d rfl rfl hGuest rfl⟩,
    writes_srd d rfl rfl hUser rfl, writes_srd d rfl rfl hUser rfl,
    fun hHost => ⟨writes_srd d rfl rfl hHost.ge rfl, writes_srd d rfl rfl hHost.ge rfl⟩,
    fun hGuest => ⟨writes_srd d rfl rfl hGuest rfl, writes_srd d rfl rfl hGuest rfl⟩,
    writes_srd d rfl rfl hUser rfl, writes_srd d rfl rfl hUser rfl,
    fun r => writes_srd_of_unlisted d⟩

end Sys2Proof.Machine
end

section
/-! PROOFS, O58. What a step runs.  A step takes the first turn of the agenda; each unit's turn has an equation for each outcome of its
look at what it runs, and a step is then `exec` of the instruction the turn brings, if it brings one. -/

namespace Sys2Proof.Machine
open State

/-! ## The turn taken -/

/-- The state in which the first turn of the agenda is taken: its cycles have passed, and the rest of the agenda is left. -/
def State.taken (s : State) (tn : Turn) (rest : List Turn) : State :=
  { s.pass tn.delay with agenda := rest, tick := s.tick + 1 }

/-- The outcome of what a unit's turn brings: an instruction's effect, or the state the turn left. -/
def outcome : State × Option Instr → Out
  | (s, some i) => exec i s
  | (s, none) => .next s

theorem step_eq_outcome_pick (s : State) : step s = outcome s.pick := rfl

theorem step_of_lets {s : State} {tn : Turn} {rest : List Turn} (hAgenda : s.agenda = tn :: rest)
    (hLets : (s.taken tn rest).module.lets tn.move = true) : step s = outcome ((s.taken tn rest).moved tn.move) := by
  rw [step_eq_outcome_pick, State.pick, hAgenda]
  exact congrArg outcome (if_pos hLets)

theorem step_of_not_lets {s : State} {tn : Turn} {rest : List Turn} (hAgenda : s.agenda = tn :: rest)
    (hLets : (s.taken tn rest).module.lets tn.move = false) : step s = .next (s.taken tn rest) := by
  rw [step_eq_outcome_pick, State.pick, hAgenda]
  exact congrArg outcome (if_neg (ne_true_of_eq_false hLets))

theorem Module.lets_of_running {m : Module} (hHeld : m.held = false) (hFirmware : m.firmware = true) (mv : Move) :
    m.lets mv = true := by
  fun_cases Module.lets <;> simp [hHeld, hFirmware]

/-! ## The fetch of a word (R65, R68) -/

section fetch
variable {s u v : State} {k : BitVec 7} {key w : Nat} {bad : Bool} {xl : Xl}

theorem State.fetchWord_of_fault {cause : BitVec 8}
    (hResolve : s.resolve s.me.cred .fetch false s.me.pc (.thread s.cur) = (u, .fault cause)) :
    s.fetchWord k = (u.trap cause s.me.pc, .trapped) := by
  simp only [State.fetchWord, hResolve]

variable (hResolve : s.resolve s.me.cred .fetch false s.me.pc (.thread s.cur) = (u, .ok key xl))
  (hLoad : u.instLoad k key = (v, w, bad))
include hResolve hLoad

theorem State.fetchWord_of_missing (hHas : u.hasInst k key = false) : s.fetchWord k = (v, .none) := by
  simp only [State.fetchWord, hResolve, hHas, hLoad]

theorem State.fetchWord_of_poisoned (hHas : u.hasInst k key = true) (hBad : bad = true) :
    s.fetchWord k = (v.trap cUNCORR s.me.pc, .trapped) := by
  simp only [State.fetchWord, hResolve, hHas, hLoad, hBad, if_true]

theorem State.fetchWord_of_present (hHas : u.hasInst k key = true) (hBad : bad = false) :
    s.fetchWord k = (v, .word (BitVec.ofNat 32 w)) := by
  simp [State.fetchWord, hResolve, hHas, hLoad, hBad]

end fetch

theorem State.takeTrigger_of_not_deliverable {s : State} (h : s.me.deliverable = false) : s.takeTrigger = s := by
  simp [State.takeTrigger, h]

/-! ## A core's turn (R65, R66) -/

theorem State.issueFrom_append_of_not_ready {k : BitVec 7} {s : State} {before : List Nat}
    (h : ∀ y ∈ before, (s.thr (BitVec.ofNat 9 (4 * k.toNat + y))).ready = false) (l : List Nat) :
    State.issueFrom k (before ++ l) s = State.issueFrom k l s := by
  induction before with
  | nil => rfl
  | cons y r ih =>
    obtain ⟨hy, hr⟩ := List.forall_mem_cons.mp h
    rw [List.cons_append, State.issueFrom, hy]
    exact ih hr

/-- The state in which a core looks at its context x. -/
def State.onContext (s : State) (k : BitVec 7) (x : Nat) : State := { s with cur := BitVec.ofNat 9 (4 * k.toNat + x) }

/-- What the look at context x of a core comes to: the turn goes to the contexts l after it, or the context has issued. -/
def issueFetched (k : BitVec 7) (x : Nat) (l : List Nat) : State × Fetched → State × Option Instr
  | (s, .none) => State.issueFrom k l s
  | (s, .trapped) => (s.hasIssued k x, none)
  | (s, .word w) => ((s.hasIssued k x).modMe (fun t => { t with word := some w }), some (decodeControl w))

theorem State.issueFrom_cons (s : State) (k : BitVec 7) (x : Nat) (l : List Nat) :
    State.issueFrom k (x :: l) s = if !(s.onContext k x).me.ready then State.issueFrom k l s
      else issueFetched k x l ((s.onContext k x).takeTrigger.fetchWord k) := rfl

theorem State.issueFrom_of_ready {s : State} {k : BitVec 7} {x : Nat} (hReady : (s.onContext k x).me.ready = true)
    (hNoTrigger : (s.onContext k x).me.deliverable = false) (l : List Nat) :
    State.issueFrom k (x :: l) s = issueFetched k x l ((s.onContext k x).fetchWord k) := by
  rw [issueFrom_cons, takeTrigger_of_not_deliverable hNoTrigger, hReady]
  exact if_neg Bool.false_ne_true

/-- A core's turn goes to the first ready context in its order. -/
theorem State.coreTurn_of_ready {s : State} {k : BitVec 7} {before after : List Nat} {x : Nat}
    (hDue : Tab.get 0 (s.clu (fld k 2 5)).issued (fld k 0 2 : BitVec 2).toNat ≤ s.cycleOf (fld k 2 5))
    (hContexts : s.contexts k = before ++ x :: after)
    (hBefore : ∀ y ∈ before, (s.thr (BitVec.ofNat 9 (4 * k.toNat + y))).ready = false)
    (hReady : (s.onContext k x).me.ready = true) (hNoTrigger : (s.onContext k x).me.deliverable = false) :
    s.coreTurn k = issueFetched k x after ((s.onContext k x).fetchWord k) := by
  rw [State.coreTurn, if_neg (Nat.not_lt.mpr hDue), hContexts, issueFrom_append_of_not_ready hBefore,
    issueFrom_of_ready hReady hNoTrigger]

/-! ## A waiting thread's turn and a tile's (R65, R129) -/

/-- What the thread becomes that looks again at the word w it waits in. -/
def Thread.lookAgain (w : BitVec 32) (t : Thread) : Thread :=
  { t with word := some w, wait := match t.wait with | .reissue | .again => .none | x => x }

theorem State.lookTurn_of_word {s : State} {n : BitVec 9} {w : BitVec 32} (hLooks : (s.thr n).looks = true)
    (hWord : (s.thr n).word = some w) :
    s.lookTurn n = (({ s with cur := n } : State).modMe (Thread.lookAgain w), some (decodeControl w)) := by
  have hMe : ({ s with cur := n } : State).me.word = some w := hWord
  simp only [State.lookTurn, hLooks, hMe]
  rfl

theorem State.tileTurn_of_find {s : State} {n : BitVec 9} {t : TileNo} {k : Nat}
    (hCycle : (s.rt n t).lastCycle ≠ some (s.now n))
    (hFind : (s.turnSlots n t).find? (fun k => s.canAct n (t, k)) = some k) :
    s.tileTurn n t = ((s.modRt n t (fun x => { x with last := k, lastCycle := some (s.now n) })).at n (t, k),
      opAt (s.reg n).image t k) := by
  simp only [State.tileTurn, if_neg hCycle, hFind]

/-! ## Steps -/

/-- Settles O58: a step is the outcome of the turn it takes.  A core's is told by the look at the word of its first ready context, one
outcome of `fetchWord` after the other; the turns of a waiting thread, of a tile and of an event bring their instruction at once. -/
theorem stepRunsDecoded : Obligations.StepRunsDecoded := by
  unfold Obligations.StepRunsDecoded
  refine ⟨?core, ?look, ?tile, ?event, fun s tn rest hAgenda hLets => step_of_not_lets hAgenda hLets⟩
  case core =>
    intro s u v tn rest k before after x key w bad xl p c own thread q word issued hAgenda hMove hHeld hFirmware hDue
      hContexts hBefore hReady hNoTrigger
    have hStep {f : State × Fetched} (hFetch : q.fetchWord k = f) : step s = outcome (issueFetched k x after f) := by
      rw [step_of_lets hAgenda (Module.lets_of_running hHeld hFirmware _), hMove, ← hFetch]
      exact congrArg outcome (coreTurn_of_ready hDue hContexts hBefore hReady hNoTrigger)
    exact ⟨fun hResolve hLoad =>
        ⟨fun hHas hBad => hStep (fetchWord_of_present hResolve hLoad hHas hBad),
         fun hHas hBad => hStep (fetchWord_of_poisoned hResolve hLoad hHas hBad),
         fun hHas => hStep (fetchWord_of_missing hResolve hLoad hHas)⟩,
      fun cause hResolve => hStep (fetchWord_of_fault hResolve)⟩
  case look =>
    intro s tn rest n w p hAgenda hMove hHeld hFirmware hLooks hWord
    rw [step_of_lets hAgenda (Module.lets_of_running hHeld hFirmware _), hMove]
    exact congrArg outcome (lookTurn_of_word hLooks hWord)
  case tile =>
    intro s tn rest n t k i p r rt order hAgenda hMove hHeld hFirmware hCycle hFind hOp
    rw [step_of_lets hAgenda (Module.lets_of_running hHeld hFirmware _), hMove]
    have hTurn := tileTurn_of_find hCycle hFind
    rw [show opAt (p.reg n).image t k = some i from hOp] at hTurn
    exact congrArg outcome hTurn
  case event =>
    intro s tn rest i e p hAgenda hMove hWordless hLets
    rw [step_of_lets hAgenda (hMove ▸ hLets), hMove]
    exact congrArg outcome (if_pos (by simp [hWordless]))

end Sys2Proof.Machine
end

section
/-! PROOFS, O55, O56, O57. The words of the instructions.  An instruction's word is its fields set beside each other, so it is compared with
a word field by field (`append_eq_fld_iff`); a constant that the decoder reads in other pieces than the encoder writes is cut where they
meet (`fld_eq_iff_cut`). -/

namespace Sys2Proof
open Machine

/-! ## Fields of a word -/

section fields
variable {k m n lo : Nat}

theorem fld_self (w : BitVec n) : fld w 0 n = w := by simp

theorem fld_append_high (x : BitVec m) (y : BitVec n) : fld (x ++ y) n m = x := by
  ext i hi
  simp [BitVec.getLsbD_append, BitVec.getLsbD_eq_getElem hi]

theorem fld_append_low (x : BitVec m) (y : BitVec n) : fld (x ++ y) 0 n = y := by
  ext i hi
  simp [BitVec.getLsbD_append, hi]

theorem fld_fld (w : BitVec k) {len lo' len' : Nat} (h : lo' + len' ≤ len) :
    fld (fld w lo len) lo' len' = fld w (lo + lo') len' := by
  ext i hi
  simp [show lo' + i < len by omega, Nat.add_assoc]

theorem fld_append_fld (w : BitVec (m + n)) : fld w n m ++ fld w 0 n = w :=
  (BitVec.extractLsb'_append_extractLsb'_eq_extractLsb' (by simp)).trans (by simp)

theorem append_eq_iff (x : BitVec m) (y : BitVec n) (w : BitVec (m + n)) : x ++ y = w ↔ x = fld w n m ∧ y = fld w 0 n := by
  constructor
  · rintro rfl
    exact ⟨(fld_append_high x y).symm, (fld_append_low x y).symm⟩
  · rintro ⟨rfl, rfl⟩
    exact fld_append_fld w

/-- Two words beside each other are a field when each is its part of the field. -/
theorem append_eq_fld_iff (x : BitVec m) (y : BitVec n) (w : BitVec k) :
    x ++ y = fld w lo (m + n) ↔ x = fld w (lo + n) m ∧ y = fld w lo n := by
  rw [append_eq_iff, fld_fld _ (by omega), fld_fld _ (by omega), Nat.add_zero]

theorem append_eq_fld {x : BitVec m} {y : BitVec n} {w : BitVec k} (hx : x = fld w (lo + n) m) (hy : y = fld w lo n) :
    x ++ y = fld w lo (m + n) :=
  (append_eq_fld_iff x y w).mpr ⟨hx, hy⟩

theorem ofNat_eq_fld_comm {len c : Nat} {w : BitVec k} : BitVec.ofNat len c = fld w lo len ↔ fld w lo len = BitVec.ofNat len c :=
  eq_comm

/-- A field that holds a constant, cut at bit p. -/
theorem fld_eq_iff_cut (p : Nat) {len c : Nat} {w : BitVec k} (hlo : lo < p) (hhi : p < lo + len) :
    fld w lo len = BitVec.ofNat len c ↔
      fld w p (lo + len - p) = (BitVec.ofNat len c).extractLsb' (p - lo) (lo + len - p)
        ∧ fld w lo (p - lo) = (BitVec.ofNat len c).extractLsb' 0 (p - lo) := by
  obtain ⟨n, rfl⟩ := Nat.exists_eq_add_of_le hlo.le
  obtain ⟨m, rfl⟩ : ∃ m, len = m + n := ⟨len - n, by omega⟩
  rw [Nat.add_sub_cancel_left, show lo + (m + n) - (lo + n) = m by omega, ← fld_append_fld (BitVec.ofNat (m + n) c), eq_comm,
    append_eq_fld_iff, fld_append_fld, eq_comm, eq_comm (b := fld w lo n)]

end fields

/-! ## The decoders' rows -/

/-- A row's word is the word it was read from. -/
theorem encode_of_operationRow {w : BitVec 32} {i : Instr} (h : operationRow w = some i) :
    i.isOperation = true ∧ encode i = some w := by
  revert h
  fun_cases operationRow w
  all_goals rintro ⟨⟩
  all_goals
    rename_i hMajor hRest
    refine ⟨rfl, congrArg some (Eq.trans ?_ (fld_self w))⟩
    simp only [Bool.and_eq_true, beq_iff_eq, BitVec.toNat_eq_nat] at hMajor hRest
    repeat' apply append_eq_fld
    all_goals simp [ofNat_eq_fld_comm, fld_eq_iff_cut 24, hMajor, hRest, -BitVec.extractLsb'_eq_self]

/-- A row's word is the word it was read from. -/
theorem encode_of_controlRow {w : BitVec 32} {i : Instr} (h : controlRow w = some i) :
    i.isControl = true ∧ encode i = some w := by
  revert h
  fun_cases controlRow w
  all_goals rintro ⟨⟩
  all_goals
    refine ⟨rfl, congrArg some (Eq.trans ?_ (fld_self w))⟩
    simp only [Bool.and_eq_true, beq_iff_eq, BitVec.toNat_eq_nat] at *
    repeat' apply append_eq_fld
    all_goals simp [ofNat_eq_fld_comm, fld_eq_iff_cut 26, -BitVec.extractLsb'_eq_self, *]

/-- The words of OP 0 to 0x0C: integer and floating-point arithmetic and the immediates (Table 2.3). -/
def Instr.isArithmeticWord : Instr → Bool
  | .add .. | .sub .. | .and .. | .or .. | .xor .. | .andn .. | .shl .. | .shr .. | .sha .. | .slt .. | .sltn .. | .min .. | .max ..
  | .minn .. | .maxn .. | .clz .. | .popc .. | .mul .. | .mulh .. | .mulhn .. | .div .. | .divn .. | .rem .. | .remn .. | .fadd ..
  | .fsub .. | .fmul .. | .ffma .. | .fmin .. | .fmax .. | .fcmpeq .. | .fcmplt .. | .fcmple .. | .frcp .. | .frsq .. | .fsqrt ..
  | .fcvt .. | .fabs .. | .fneg .. | .addi .. | .andi .. | .ori .. | .xori .. | .shli .. | .shri .. | .shai .. | .ldhi .. | .slti .. => true
  | _ => false

/-- The words of OP 0x10 to 0x17: transfers of control, loads and stores, entry consistency and far atomics (Table 2.3). -/
def Instr.isMemoryWord : Instr → Bool
  | .br .. | .jmp .. | .call .. | .jr .. | .ld .. | .st .. | .bind .. | .unbind .. | .acqx .. | .acqs .. | .rel .. | .fence .. | .aadd ..
  | .aand .. | .aor .. | .axor .. | .amin .. | .amax .. | .aminn .. | .amaxn .. | .axchg .. | .acas .. => true
  | _ => false

theorem controlRow_of_encode_arithmetic {w : BitVec 32} {i : Instr} (hArith : i.isArithmeticWord = true) (h : encode i = some w) :
    controlRow w = some i := by
  obtain ⟨k, hMajor⟩ : ∃ k, fld w 26 6 = k := ⟨_, rfl⟩
  rw [controlRow, show w.extractLsb' 26 6 = k from hMajor]
  rw [← fld_self w] at h
  cases i
  all_goals cases hArith
  all_goals
    replace h := Option.some.inj h
    repeat rw [append_eq_fld_iff] at h
    simp [ofNat_eq_fld_comm, fld_eq_iff_cut 5, fld_eq_iff_cut 11, hMajor, and_assoc] at h
    obtain ⟨rfl, h⟩ := h
    dsimp only [BitVec.reduceToNat]
    simp [fld_eq_iff_cut 5, fld_eq_iff_cut 11, h]

theorem controlRow_of_encode_memory {w : BitVec 32} {i : Instr} (hMemory : i.isMemoryWord = true) (h : encode i = some w) :
    controlRow w = some i := by
  obtain ⟨k, hMajor⟩ : ∃ k, fld w 26 6 = k := ⟨_, rfl⟩
  rw [controlRow, show w.extractLsb' 26 6 = k from hMajor]
  rw [← fld_self w] at h
  cases i
  all_goals cases hMemory
  all_goals
    replace h := Option.some.inj h
    repeat rw [append_eq_fld_iff] at h
    simp [ofNat_eq_fld_comm, fld_eq_iff_cut 8, fld_eq_iff_cut 11, fld_eq_iff_cut 16, fld_eq_iff_cut 26, hMajor, and_assoc] at h
    obtain ⟨rfl, h⟩ := h
    dsimp only [BitVec.reduceToNat]
    simp [fld_eq_iff_cut 8, fld_eq_iff_cut 11, fld_eq_iff_cut 16, h]

theorem controlRow_of_encode_system {w : BitVec 32} {i : Instr} (hOp : i.isControl = true) (hArith : i.isArithmeticWord = false)
    (hMemory : i.isMemoryWord = false) (h : encode i = some w) : controlRow w = some i := by
  obtain ⟨k, hMajor⟩ : ∃ k, fld w 26 6 = k := ⟨_, rfl⟩
  rw [controlRow, show w.extractLsb' 26 6 = k from hMajor]
  rw [← fld_self w] at h
  cases i
  all_goals cases hOp
  all_goals cases hArith
  all_goals cases hMemory
  all_goals
    replace h := Option.some.inj h
    repeat rw [append_eq_fld_iff] at h
    simp [ofNat_eq_fld_comm, fld_eq_iff_cut 6, fld_eq_iff_cut 11, fld_eq_iff_cut 16, fld_eq_iff_cut 21, fld_eq_iff_cut 26, hMajor,
      and_assoc, -BitVec.extractLsb'_eq_self] at h
    obtain ⟨rfl, h⟩ := h
    change ite _ _ _ = _
    simp [fld_eq_iff_cut 6, fld_eq_iff_cut 11, fld_eq_iff_cut 16, fld_eq_iff_cut 21, h]

theorem controlRow_of_encode {w : BitVec 32} {i : Instr} (hOp : i.isControl = true) (h : encode i = some w) :
    controlRow w = some i := by
  cases hArith : i.isArithmeticWord
  · cases hMemory : i.isMemoryWord
    · exact controlRow_of_encode_system hOp hArith hMemory h
    · exact controlRow_of_encode_memory hMemory h
  · exact controlRow_of_encode_arithmetic hArith h

theorem operationRow_of_encode {w : BitVec 32} {i : Instr} (hOp : i.isOperation = true) (h : encode i = some w) :
    operationRow w = some i := by
  obtain ⟨k, hMajor⟩ : ∃ k, fld w 24 8 = k := ⟨_, rfl⟩
  rw [operationRow, show w.extractLsb' 24 8 = k from hMajor]
  rw [← fld_self w] at h
  cases i
  all_goals cases hOp
  all_goals
    replace h := Option.some.inj h
    repeat rw [append_eq_fld_iff] at h
    simp [ofNat_eq_fld_comm, fld_eq_iff_cut 24, hMajor, and_assoc, -BitVec.extractLsb'_eq_self] at h
    obtain ⟨rfl, h⟩ := h
    refine (if_pos ?_).trans ?_
    all_goals simp [h]

/-! ## Every instruction of a word has one -/

theorem encode_isSome_of_isControl {i : Instr} (hOp : i.isControl = true) : ∃ w, encode i = some w := by
  cases i
  all_goals cases hOp
  all_goals exact ⟨_, rfl⟩

theorem encode_isSome_of_isOperation {i : Instr} (hOp : i.isOperation = true) : ∃ w, encode i = some w := by
  cases i
  all_goals cases hOp
  all_goals exact ⟨_, rfl⟩

theorem decodeControl_of_row {w : BitVec 32} {i : Instr} (hRow : controlRow w = some i) (hWf : i.wf = true) : decodeControl w = i := by
  simp [decodeControl, hRow, hWf]

/-- A control word is a row's, or no instruction's and ILLEGAL's. -/
theorem decodeControl_eq (w : BitVec 32) :
    decodeControl w = .illegalWord w ∨ controlRow w = some (decodeControl w) ∧ (decodeControl w).wf = true := by
  fun_cases decodeControl w
  case case1 i hRow hWf => exact .inr ⟨hRow, hWf⟩
  all_goals exact .inl rfl

theorem decodeOperation_eq_some_iff {w : BitVec 32} {i : Instr} :
    decodeOperation w = some i ↔ operationRow w = some i ∧ i.wf = true := by
  fun_cases decodeOperation w <;> grind

/-- Settles O55: `controlRow` and `encode` are inverse to each other, row by row, and the decoder adds only the check of the fields. -/
theorem controlEncoding : Obligations.ControlEncoding := by
  unfold Obligations.ControlEncoding
  refine ⟨fun i hWf hOp => ?_, ?_⟩
  · obtain ⟨w, hw⟩ := encode_isSome_of_isControl hOp
    exact ⟨w, hw, decodeControl_of_row (controlRow_of_encode hOp hw) hWf⟩
  · rintro w _ rfl
    obtain hIllegal | ⟨hRow, hWf⟩ := decodeControl_eq w
    · exact .inl hIllegal
    · exact .inr ⟨hWf, encode_of_controlRow hRow⟩

/-- Settles O56: `operationRow` and `encode` are inverse to each other, row by row, and the decoder adds only the check of the fields. -/
theorem operationEncoding : Obligations.OperationEncoding := by
  unfold Obligations.OperationEncoding
  refine ⟨fun i hWf hOp => ?_, fun w i hDecode => ?_⟩
  · obtain ⟨w, hw⟩ := encode_isSome_of_isOperation hOp
    exact ⟨w, hw, decodeOperation_eq_some_iff.mpr ⟨operationRow_of_encode hOp hw, hWf⟩⟩
  · obtain ⟨hRow, hWf⟩ := decodeOperation_eq_some_iff.mp hDecode
    exact ⟨hWf, encode_of_operationRow hRow⟩

/-- Settles O57: the decoders run on each word. -/
theorem decodedWords : Obligations.DecodedWords := by
  unfold Obligations.DecodedWords
  decide

end Sys2Proof
end

section
/-! PROOFS, O3. Floating-point words.  Each is `fpRound`, `fpExact` or FCVT of a format and a mode that its fields name; what those write is
said once. -/

namespace Sys2Proof.Machine
open State

/-! ## Formats, modes and flags -/

theorem fpFmt_of_mem {f : BitVec 3} {m : Fmt} (h : (f, m) ∈ [(0#3, Fmt.f32), (1#3, Fmt.f64), (2#3, Fmt.bf16)]) : fpFmt f = some m := by
  simp only [List.mem_cons, Prod.mk.injEq, List.not_mem_nil, or_false] at h
  obtain ⟨rfl, rfl⟩ | ⟨rfl, rfl⟩ | ⟨rfl, rfl⟩ := h
  all_goals rfl

theorem fpMode_of_le {r : BitVec 3} (h : r.toNat ≤ 4) (w : Word) :
    fpMode r w = some (Mode.ofCode (if r = 4 then fld w 0 2 else fld r 0 2)) := by
  have hr : r = 0 ∨ r = 1 ∨ r = 2 ∨ r = 3 ∨ r = 4 := by
    revert r
    decide
  obtain rfl | rfl | rfl | rfl | rfl := hr
  all_goals rfl

theorem fpctlOr_eq (w : Word) (f : Fl) : fpctlOr w f = w ||| stickyBits f := by
  simp [fpctlOr, stickyBits, BitVec.or_assoc]

/-- `putFp` writes a register and the flags and goes on with the next word. -/
theorem writesFp_putFp (s : State) (d : BitVec 5) (v : Word) (f : Fl) : WritesFp s (.next (s.putFp d v f)) d v f := by
  refine ⟨_, rfl, fun r => ?_, ?_⟩
  · simp only [putFp, rd, me_modMe]
    exact (Thread.rd_congr rfl r).trans (Thread.rd_wr _ d r v)
  · obtain ⟨-, hRest⟩ := onlyMe_modMe s (fun t => { t.wr d v with fpctl := fpctlOr t.fpctl f, pc := t.pc + 4 })
    refine ⟨?_, hRest⟩
    change me _ = _
    rw [putFp, me_modMe, Thread.wr_eq, fpctlOr_eq]
    rfl

theorem getLsbD_append_top (x : BitVec 1) (u : BitVec 4) : (x ++ u).getLsbD 4 = x.getLsbD 0 := by
  rw [BitVec.getLsbD_append]
  rfl

/-! ## The shapes of a word -/

section shapes
variable {s : State} {d : BitVec 5} {f r : BitVec 3} {m : Fmt} {mode : Mode} (hFmt : fpFmt f = some m)
include hFmt

theorem writes_fpExact (i : Instr) (x : Fmt → Word) : Writes s (fpExact f d i s x) d (x m) (s.pc + 4) := by
  simp only [fpExact, hFmt]
  exact writes_put s d _

variable (hMode : fpMode r s.me.fpctl = some mode)
include hMode

theorem writesFp_fpRound (i : Instr) (x : Fmt → Num × Fl) :
    WritesFp s (fpRound f r d i s x) d (BitVec.ofNat 64 (m.round mode (x m).1).1) ((x m).2.or (m.round mode (x m).1).2) := by
  simp only [fpRound, hFmt, hMode]
  exact writesFp_putFp s d _ _

variable {a : BitVec 5} {u : BitVec 4}

theorem writesFp_execFcvt_of_float {src : Fmt} (hSrc : cvtFmtSrc u = some src) :
    WritesFp s (execFcvt d a (0#1 ++ u) f r s) d (BitVec.ofNat 64 (m.round mode (s.rdFp src a)).1) (m.round mode (s.rdFp src a)).2 := by
  have hBit : (0#1 ++ u).getLsbD 4 = false := getLsbD_append_top ..
  simp only [execFcvt, hFmt, hMode, hBit, fld_append_low, hSrc]
  exact writesFp_putFp s d _ _

theorem writesFp_execFcvt_of_int {v : Int} (hNone : cvtFmtSrc u = none) (hSrc : cvtIntSrc u (s.rd a) = some v) :
    WritesFp s (execFcvt d a (0#1 ++ u) f r s) d (BitVec.ofNat 64 (m.round mode (Num.ofInt v)).1) (m.round mode (Num.ofInt v)).2 := by
  have hBit : (0#1 ++ u).getLsbD 4 = false := getLsbD_append_top ..
  simp only [execFcvt, hFmt, hMode, hBit, fld_append_low, hNone, hSrc]
  exact writesFp_putFp s d _ _

theorem writesFp_execFcvt_to_int {lo hi : Int} (hDst : cvtIntDst u = some (lo, hi)) :
    WritesFp s (execFcvt d a (1#1 ++ u) f r s) d (BitVec.ofInt 64 ((s.rdFp m a).toInt mode lo hi).1) ((s.rdFp m a).toInt mode lo hi).2 := by
  have hBit : (1#1 ++ u).getLsbD 4 = true := getLsbD_append_top ..
  simp only [execFcvt, hFmt, hMode, hBit, fld_append_low, hDst]
  exact writesFp_putFp s d _ _

end shapes

/-! ## The words -/

theorem roundedFloatWords : Rule.RoundedFloatWords := by
  intro s d a b f r m hFmt hMode mode op gives
  have hRound (i : Instr) (x : Fmt → Num × Fl) := writesFp_fpRound (d := d) (fpFmt_of_mem hFmt) (fpMode_of_le hMode s.me.fpctl) i x
  exact ⟨hRound .., hRound .., hRound .., hRound _ (fun m => (s.rdFp m d).fma (s.rdFp m a) (s.rdFp m b)), hRound .., hRound .., hRound ..⟩

theorem flag_eq_ite {b : Bool} {p : Prop} [Decidable p] (h : b = true ↔ p) : flag b = if p then 1 else 0 := by
  simp only [flag, h]

theorem exactFloatWords : Rule.ExactFloatWords := by
  intro s d a b f m hFmt op gives code unordered
  have hExact (i : Instr) (x : Fmt → Word) := writes_fpExact (s := s) (d := d) (fpFmt_of_mem hFmt) i x
  have hCompare (i : Instr) (x : Fmt → Bool) (p : Prop) [Decidable p] (h : x m = true ↔ p) :
      Writes s (fpExact f d i s (fun m => flag (x m))) d (if p then 1 else 0) (s.pc + 4) := flag_eq_ite h ▸ hExact i _
  refine ⟨hExact .., hExact .., hExact .., hExact .., hCompare _ _ _ ?_, hCompare _ _ _ ?_, hCompare _ _ _ ?_⟩
  · simp [Num.eqv, unordered, op, rdFp]
  · simp [Num.lt, unordered, op, rdFp]
  · simp [Num.le, unordered, op, rdFp]

theorem convertWord : Rule.ConvertWord := by
  intro s d a f r m u hFmt hMode mode x low toFloat toInt
  have hFmt := fpFmt_of_mem hFmt
  have hMode := fpMode_of_le hMode s.me.fpctl
  have hWide : s.rdFp .f64 a = Fmt.f64.decode x.toNat := congrArg _ (Nat.mod_eq_of_lt x.isLt)
  refine ⟨?_, ?_, ?_, ?_, ?_, ?_, ?_, ?_, ?_, ?_, ?_⟩ <;> rintro rfl
  · exact writesFp_execFcvt_of_float hFmt hMode rfl
  · exact hWide ▸ writesFp_execFcvt_of_float hFmt hMode (src := .f64) rfl
  · exact writesFp_execFcvt_of_float hFmt hMode rfl
  · exact writesFp_execFcvt_of_int hFmt hMode rfl rfl
  · exact writesFp_execFcvt_of_int hFmt hMode rfl rfl
  · exact writesFp_execFcvt_of_int hFmt hMode rfl rfl
  · exact writesFp_execFcvt_of_int hFmt hMode rfl rfl
  · exact writesFp_execFcvt_to_int hFmt hMode rfl
  · exact writesFp_execFcvt_to_int hFmt hMode rfl
  · exact writesFp_execFcvt_to_int hFmt hMode rfl
  · exact writesFp_execFcvt_to_int hFmt hMode rfl

/-- Settles O3: the words that round once, the exact ones and FCVT are each a use of their shape. -/
theorem floatWords : Obligations.FloatWords := ⟨roundedFloatWords, exactFloatWords, convertWord⟩

end Sys2Proof.Machine
end

section
/-! PROOFS, O13. Translation.  One equation for each outcome of a table's entry; the walk to a 1 GiB leaf is two of them. -/

namespace Sys2Proof.Machine
open State

/-! ## What a translation comes to -/

theorem State.resolve_of_error {s u : State} {cr : Capt} {k : Access} {sh : Bool} {va : Word} {c : BitVec 8}
    (h : s.translate cr k sh va = (u, .error c)) (who : Waiter) : s.resolve cr k sh va who = (u, .fault c) := by
  simp only [resolve, h]

theorem State.resolve_of_device {s u : State} {cr : Capt} {k : Access} {sh : Bool} {va : Word} {pa : Nat} {x : Xl}
    (h : s.translate cr k sh va = (u, .ok x)) (hTarget : x.target = .device pa) (hMarks : k = .write → cr.marksOk pa = true)
    (who : Waiter) : s.resolve cr k sh va who = (u, .ok pa x) := by
  simp only [resolve, h, hTarget]
  exact if_neg fun hNot => by simp [hMarks hNot.1] at hNot

theorem State.translate_of_high {s : State} {cr : Capt} {k : Access} {sh : Bool} {va : Word} (h : (fld va 52 12 : BitVec 12) ≠ 0) :
    s.translate cr k sh va = (s, .error cACCESS) := if_pos (.inl h)

section legal
variable {s : State} {cr : Capt} {k : Access} {sh : Bool} {va : Word} (hHigh : (fld va 52 12 : BitVec 12) = 0)
  (hSpace : cr.spaceOk = true)
include hHigh hSpace

theorem State.translate_of_cached {e : TlbEntry} (hFind : s.tlb.find? (fun e => e.serves s cr k sh va.toNat) = some e) :
    s.translate cr k sh va = (s, ({ target := e.target.at cr (va.toNat - e.base), desc := e.desc } : Xl).check cr) := by
  simp [translate, hHigh, hSpace, hFind]

variable (hMiss : s.tlb.find? (fun e => e.serves s cr k sh va.toNat) = none)
include hMiss

theorem State.translate_of_walk_error {u : State} {c : BitVec 8} (hWalk : s.walkFromBase cr va = (u, .error c)) :
    s.translate cr k sh va = (u, .error c) := by
  simp [translate, hHigh, hSpace, hMiss, hWalk]

theorem State.translate_of_walk {u : State} {l : Leaf} (hWalk : s.walkFromBase cr va = (u, .ok l)) :
    s.translate cr k sh va = u.form cr k sh va l := by
  simp [translate, hHigh, hSpace, hMiss, hWalk]

end legal

theorem Xl.check_device {cr : Capt} {pa : Nat} {d : Option Nat} :
    ({ target := .device pa, desc := d } : Xl).check cr = if cr.paOk pa then .ok { target := .device pa, desc := d } else .error cACCESS := rfl

/-- R325, R331: what the cache holds is used without a walk. -/
theorem translation : Rule.Translation := by
  intro s c k sh va w
  refine ⟨fun hHigh => resolve_of_error (translate_of_high hHigh) w, ?_⟩
  intro hHigh hSpace e pa hFind hDevice a
  have hTranslate : s.translate c k sh va = (s, if c.paOk a then .ok ⟨.device a, e.desc⟩ else .error cACCESS) := by
    rw [translate_of_cached hHigh hSpace hFind, hDevice]
    rfl
  refine ⟨fun ⟨hOk, hMarks⟩ => ?_, fun hBad => ?_⟩
  · rw [hOk] at hTranslate
    exact resolve_of_device hTranslate rfl hMarks w
  · rw [hBad] at hTranslate
    exact resolve_of_error hTranslate w

/-! ## One level of the walk (R331) -/

section level
variable {s u : State} {cr : Capt} {va e : Word} {lvl lo n addr : Nat} {r : List (Nat × Nat × Nat)}
  (hOk : cr.paOk (addr + 8 * (va.toNat / 2 ^ lo % 2 ^ n)) = true)
  (hRead : s.homeRead (addr + 8 * (va.toNat / 2 ^ lo % 2 ^ n)) 8 = (u, e.toNat, false))
include hOk hRead

theorem State.walk_of_invalid (hValid : e.getLsbD 0 = false) :
    State.walk cr va ((lvl, lo, n) :: r) addr s = (u, .error cPAGE) := by
  simp only [walk, hOk, hRead, BitVec.ofNat_toNat, BitVec.setWidth_eq, hValid]
  rfl

theorem State.walk_of_top_leaf (hValid : e.getLsbD 0 = true) (hLeaf : e.getLsbD 1 = true) :
    State.walk cr va ((3, lo, n) :: r) addr s = (u, .error cACCESS) := by
  simp only [walk, hOk, hRead, BitVec.ofNat_toNat, BitVec.setWidth_eq, hValid, hLeaf]
  rfl

theorem State.walk_of_leaf (hValid : e.getLsbD 0 = true) (hLeaf : e.getLsbD 1 = true) (hLevel : lvl ≠ 3)
    (hAddr : leafAddrOk e (2 ^ lo) = true) :
    State.walk cr va ((lvl, lo, n) :: r) addr s
      = (u, .ok { addr := addr + 8 * (va.toNat / 2 ^ lo % 2 ^ n), pte := e, size := 2 ^ lo }) := by
  simp only [walk, hOk, hRead, BitVec.ofNat_toNat, BitVec.setWidth_eq, hValid, hLeaf, hAddr]
  simp [hLevel]

theorem State.walk_of_pointer (hValid : e.getLsbD 0 = true) (hLeaf : e.getLsbD 1 = false) (hLevel : lvl ≠ 0)
    (hBit : e.getLsbD 7 = false) (hZero : (fld e 40 24 : BitVec 24) = 0) :
    State.walk cr va ((lvl, lo, n) :: r) addr s
      = State.walk cr va r ((fld e 6 1).toNat * 2 ^ 40 + (fld e 8 32).toNat * 256) u := by
  simp only [walk, hOk, hRead, BitVec.ofNat_toNat, BitVec.setWidth_eq, hValid, hLeaf, hBit, hZero]
  simp [hLevel]

end level

/-! ## Device leaves (R330, R331) -/

/-- A leaf's kind is that of a device page when its upper bit is clear, and names the tier then. -/
theorem fld_kind_of_device {e : Word} (h : (fld e 7 1 : BitVec 1) = 0) : (fld e 6 2 : BitVec 2).toNat = (fld e 6 1 : BitVec 1).toNat := by
  have hSplit : (fld e 7 1 : BitVec 1) ++ (fld e 6 1 : BitVec 1) = fld e 6 2 := append_eq_fld rfl rfl
  rw [← hSplit, h, BitVec.toNat_append, show (0 : BitVec 1).toNat = 0 from rfl, Nat.zero_shiftLeft, Nat.zero_or]

theorem toNat_fld_one_lt (e : Word) (lo : Nat) : (fld e lo 1 : BitVec 1).toNat < 2 := (fld e lo 1).isLt

theorem leafAddrOk_of_device {e : Word} {size : Nat} (hDevice : (fld e 7 1 : BitVec 1) = 0) (hHigh : (fld e 40 24 : BitVec 24) = 0)
    (hLow : (fld e 8 8 : BitVec 8) = 0) (hAlign : (fld e 16 24 : BitVec 24).toNat * 65536 % size = 0) : leafAddrOk e size = true := by
  have hKind := fld_kind_of_device hDevice
  have hLt := toNat_fld_one_lt e 6
  unfold leafAddrOk
  split
  · omega
  · omega
  · simp only [hHigh, hLow, hAlign]
    rfl

theorem leafPermits_iff_of_device {e : Word} {k : Access} {pl : BitVec 2} (hDevice : (fld e 7 1 : BitVec 1) = 0) :
    leafPermits e k pl = true ↔ (k = .write → e.getLsbD 2 = true) ∧ (pl = 0 → e.getLsbD 3 = true) := by
  have hKind : (fld e 6 2 : BitVec 2) ≠ 2 := by
    intro h
    have hKind := fld_kind_of_device hDevice
    have hLt := toNat_fld_one_lt e 6
    rw [h] at hKind
    exact absurd hKind (by simp; omega)
  simp only [leafPermits, beq_eq_false_iff_ne.mpr hKind]
  simp [imp_iff_not_or]

theorem touchPte_mem (s : State) (l : Leaf) (k : Access) :
    (s.touchPte l k).mem = writeLE s.mem l.addr 8 (l.pte ||| 0x10 ||| (if k = .write then 0x20 else 0)).toNat := rfl

theorem State.form_of_device {s : State} {cr : Capt} {k : Access} {va : Word} {l : Leaf} (hDevice : (fld l.pte 7 1 : BitVec 1) = 0)
    (hPermits : leafPermits l.pte k cr.pl = true) (sh : Bool) :
    s.form cr k sh va l = s.cacheXl cr k l { target := .device (leafDevice l va) }
      (s.tlbEntry cr k sh l (va.toNat - va.toNat % l.size) l.size (.device (leafDevice l va - va.toNat % l.size)) none) := by
  have hKind := fld_kind_of_device hDevice
  have hLt := toNat_fld_one_lt l.pte 6
  unfold form
  simp only [hPermits, Bool.not_true, Bool.false_eq_true, if_false]
  split
  · omega
  · omega
  · rfl

theorem State.cacheXl_of_ok {s : State} {cr : Capt} {x y : Xl} (h : x.check cr = .ok y) (k : Access) (l : Leaf) (e : TlbEntry) :
    s.cacheXl cr k l x e = ({ s.touchPte l k with tlb := e :: s.tlb.filter (fun f => f != e) }, .ok y) := by
  simp only [cacheXl, h]

/-- A translation formed from a device leaf that allows the access and leads where the credentials may go. -/
theorem State.form_of_device_ok {s : State} {cr : Capt} {k : Access} {va : Word} {l : Leaf} {pa : Nat}
    (hDevice : (fld l.pte 7 1 : BitVec 1) = 0) (hPermits : leafPermits l.pte k cr.pl = true) (hPa : leafDevice l va = pa)
    (hOk : cr.paOk pa = true) (sh : Bool) :
    ∃ t, s.form cr k sh va l = (t, .ok { target := .device pa }) ∧ t.threads = s.threads
      ∧ t.mem = writeLE s.mem l.addr 8 (l.pte ||| 0x10 ||| (if k = .write then 0x20 else 0)).toNat := by
  subst hPa
  exact ⟨_, (form_of_device hDevice hPermits sh).trans (cacheXl_of_ok (Xl.check_device.trans (if_pos hOk)) k l _), rfl, touchPte_mem s l k⟩

theorem State.form_of_not_permits {s : State} {cr : Capt} {k : Access} {sh : Bool} {va : Word} {l : Leaf}
    (hPermits : leafPermits l.pte k cr.pl = false) : s.form cr k sh va l = (s, .error cACCESS) := by
  simp only [form, hPermits]
  rfl

theorem xlOnly_of_walk {s u : State} {cr : Capt} {va : Word} {l : Except (BitVec 8) Leaf} (h : s.walkFromBase cr va = (u, l)) :
    XlOnly s u := by
  have hWalk := walkFromBase_xlOnly s cr va
  rwa [h] at hWalk

/-- R328 to R331: the entry of level 3 is read, then the leaf of level 2 that it points to. -/
theorem tableWalk : Rule.TableWalk := by
  intro s u w c k sh va e e' q hHigh hSpace hMiss a hOk hRead
  refine ⟨fun hValid => ?_, fun hValid hLeaf => ?_, ?_⟩
  · exact resolve_of_error (translate_of_walk_error hHigh hSpace hMiss (walk_of_invalid hOk hRead hValid)) q
  · exact resolve_of_error (translate_of_walk_error hHigh hSpace hMiss (walk_of_top_leaf hOk hRead hValid hLeaf)) q
  · intro hValid hLeaf hBit hZero a' hOk' hRead' hValid' hLeaf' hDevice hLow hTop hAlign allowed pa
    have hWalk : s.walkFromBase c va = (w, .ok { addr := a', pte := e', size := 2 ^ 30 }) :=
      (walk_of_pointer hOk hRead hValid hLeaf (by decide) hBit hZero).trans
        (walk_of_leaf hOk' hRead' hValid' hLeaf' (by decide) (leafAddrOk_of_device hDevice hTop hLow hAlign))
    have hTranslate := translate_of_walk hHigh hSpace hMiss hWalk
    have hThreads : w.threads = s.threads := (xlOnly_of_walk hWalk).threads
    have hPa : leafDevice { addr := a', pte := e', size := 2 ^ 30 } va = pa := by
      simp only [leafDevice, fld_kind_of_device hDevice, pa]
    refine ⟨fun hAllowed hOkPa hMarks => ?_, fun hNot => ?_⟩
    · have hPermits := (leafPermits_iff_of_device hDevice).mpr hAllowed
      obtain ⟨t, hForm, hSame, hMem⟩ := form_of_device_ok (l := ⟨a', e', 2 ^ 30⟩) hDevice hPermits hPa hOkPa sh
      exact ⟨t, resolve_of_device (hTranslate.trans hForm) rfl hMarks q, hSame.trans hThreads, hMem⟩
    · have hPermits : leafPermits e' k c.pl = false := by
        rw [← Bool.not_eq_true, leafPermits_iff_of_device hDevice]
        exact hNot
      exact resolve_of_error (hTranslate.trans (form_of_not_permits (l := ⟨a', e', 2 ^ 30⟩) hPermits)) q

/-- Settles O13: a translation is refused, found in the cache, or formed from the leaf that the walk's equations lead to. -/
theorem addressTranslation : Obligations.AddressTranslation := ⟨translation, tableWalk⟩

end Sys2Proof.Machine
end

section
/-! PROOFS, O14. The bytes of a line: what merging masked bytes and a store leave in each byte. -/

namespace Sys2Proof.Machine
open State

theorem testBit_spreadN (n m i : Nat) : (spreadN n m).testBit i = (decide (i < 8 * n) && m.testBit (i / 8)) := by
  induction n generalizing m i with
  | zero => simp [spreadN]
  | succ n ih =>
    have hb : (if m % 2 = 1 then 255 else 0) < 2 ^ 8 := by split <;> decide
    rw [spreadN, Nat.add_comm, show 256 = 2 ^ 8 from rfl, Nat.testBit_two_pow_mul_add _ hb]
    split
    · next hi =>
      rw [show i / 8 = 0 by omega, Nat.testBit_zero]
      split
      · next hm => rw [show 255 = 2 ^ 8 - 1 from rfl, Nat.testBit_two_pow_sub_one]; simp [hm, hi]; omega
      · next hm => simp [hm]
    · next hi =>
      rw [ih, show i / 8 = (i - 8) / 8 + 1 by omega, Nat.testBit_succ]
      congr 1
      simp; omega

theorem getLsbD_spread (m : BitVec 64) (i : Nat) : (spread m).getLsbD i = m.getLsbD (i / 8) := by
  rw [spread, BitVec.getLsbD_ofNat, testBit_spreadN]
  by_cases h : i < 512
  · simp [h, BitVec.getLsbD]
  · rw [BitVec.getLsbD_of_ge m _ (by omega)]; simp [h]

theorem getLsbD_fld (w : BitVec k) (lo n i : Nat) : (fld w lo n : BitVec n).getLsbD i = (decide (i < n) && w.getLsbD (lo + i)) := by
  simp [fld]

/-- A byte of the merged line is the new one's under the mask, the old one's elsewhere. -/
theorem fld_mergeLine (new old : BitVec 512) (m : BitVec 64) (i : Nat) :
    (fld (mergeLine new old m) (8 * i) 8 : Byte) = if m.getLsbD i then fld new (8 * i) 8 else fld old (8 * i) 8 := by
  apply BitVec.eq_of_getLsbD_eq
  intro j hj
  have e : (8 * i + j) / 8 = i := by omega
  rw [getLsbD_fld, mergeLine, BitVec.getLsbD_or, BitVec.getLsbD_and, BitVec.getLsbD_and, BitVec.getLsbD_not, getLsbD_spread, e]
  by_cases hm : m.getLsbD i = true
  · have hi : i < 64 := BitVec.lt_of_getLsbD hm
    rw [if_pos hm, getLsbD_fld, hm]; simp
  · rw [if_neg hm, getLsbD_fld, Bool.eq_false_iff.mpr hm]
    by_cases h512 : 8 * i + j < 512
    · simp [h512]
    · simp [BitVec.getLsbD_of_ge old _ (Nat.le_of_not_lt h512)]

theorem getLsbD_byteMask (off n i : Nat) :
    (byteMask off n).getLsbD i = (decide (i < 64) && (decide (off ≤ i) && decide (i < off + n))) := by
  rw [byteMask, BitVec.getLsbD_ofNat, Nat.testBit_shiftLeft, Nat.testBit_two_pow_sub_one]
  rw [Bool.eq_iff_iff]
  simp; omega

theorem getLsbD_byteMask_lt {off n i : Nat} (h : i < 64) :
    (byteMask off n).getLsbD i = true ↔ off ≤ i ∧ i < off + n := by
  rw [getLsbD_byteMask]; simp [h]

/-- A byte of the number as it stands in the line of a store at byte off. -/
theorem fld_storedLine {v off n i : Nat} (hi : off ≤ i) (hn : i < off + n) (h : off + n ≤ 64) :
    (fld (BitVec.ofNat 512 (v % 2 ^ (8 * n) * 2 ^ (8 * off))) (8 * i) 8 : Byte) = BitVec.ofNat 8 (v / 256 ^ (i - off)) := by
  apply BitVec.eq_of_getLsbD_eq
  intro j hj
  rw [getLsbD_fld, BitVec.getLsbD_ofNat, BitVec.getLsbD_ofNat, Nat.testBit_mul_two_pow, Nat.testBit_mod_two_pow,
    show (256 : Nat) = 2 ^ 8 from rfl, ← Nat.pow_mul, Nat.testBit_div_two_pow]
  rw [show 8 * i + j - 8 * off = 8 * (i - off) + j by omega]
  simp [hj, show 8 * i + j < 512 by omega, show 8 * off ≤ 8 * i + j by omega, show 8 * (i - off) + j < 8 * n by omega]
  rw [Nat.add_comm]

theorem Line.store_valid (l : Line) (new : BitVec 512) (m : BitVec 64) (bad : Bool) (ms : List (Nat × Nat)) (i : Nat) :
    (l.store new m bad ms).valid.getLsbD i = (l.valid.getLsbD i || m.getLsbD i) := by simp [Line.store]

theorem Line.store_data (l : Line) (new : BitVec 512) (m : BitVec 64) (bad : Bool) (ms : List (Nat × Nat)) (i : Nat) :
    (fld (l.store new m bad ms).data (8 * i) 8 : Byte) = if m.getLsbD i then fld new (8 * i) 8 else fld l.data (8 * i) 8 :=
  fld_mergeLine ..

end Sys2Proof.Machine
end

section
/-! PROOFS, O14. Marks in a dirty bitmap, and a store as it reaches a slice. -/

namespace Sys2Proof.Machine
open State

/-! ## Marks -/

theorem ofNat_readLE_div (m : Memory) {a n k : Nat} (h : k < n) : BitVec.ofNat 8 (readLE m a n / 256 ^ k) = cellRead m (a + k) := by
  induction k generalizing a n with
  | zero =>
    obtain ⟨n, rfl⟩ : ∃ j, n = j + 1 := ⟨n - 1, by omega⟩
    apply BitVec.eq_of_toNat_eq
    have := (cellRead m a).isLt
    simp only [readLE, Nat.pow_zero, Nat.div_one, BitVec.toNat_ofNat, Nat.add_zero]
    omega
  | succ k ih =>
    obtain ⟨n, rfl⟩ : ∃ j, n = j + 1 := ⟨n - 1, by omega⟩
    have := (cellRead m a).isLt
    rw [Nat.pow_succ', ← Nat.div_div_eq_div_mul, readLE, show ((cellRead m a).toNat + 256 * readLE m (a + 1) n) / 256 = readLE m (a + 1) n by omega,
      ih (by omega), show a + 1 + k = a + (k + 1) by omega]

theorem ofNat_or_div (x y k : Nat) :
    BitVec.ofNat 8 ((x ||| y) / 256 ^ k) = BitVec.ofNat 8 (x / 256 ^ k) ||| BitVec.ofNat 8 (y / 256 ^ k) := by
  rw [show (256 : Nat) = 2 ^ 8 from rfl, ← Nat.pow_mul, ← Nat.shiftRight_eq_div_pow, ← Nat.shiftRight_eq_div_pow,
    ← Nat.shiftRight_eq_div_pow, Nat.shiftRight_or_distrib, BitVec.ofNat_or]

/-- The bits that marking the granule of an address in a bitmap sets in a byte of memory (R334). -/
def markBits (pa b : Nat) (m : Nat × Nat) : Byte :=
  let a := m.1 + 8 * (pa / 2 ^ m.2 / 64)
  if a ≤ b ∧ b < a + 8 then BitVec.ofNat 8 (2 ^ (pa / 2 ^ m.2 % 64) / 256 ^ (b - a)) else 0

/-- Those of several bitmaps. -/
def allMarkBits (pa b : Nat) : List (Nat × Nat) → Byte
  | [] => 0
  | m :: r => markBits pa b m ||| allMarkBits pa b r

theorem cellRead_markOne (s : State) (pa : Nat) (m : Nat × Nat) (b : Nat) (hw : Memory.wf s.mem = true) :
    cellRead (s.markOne pa m).mem b = cellRead s.mem b ||| markBits pa b m := by
  simp only [State.markOne, markBits]
  rw [cellRead_writeLE _ _ _ _ _ hw]
  split
  · next h =>
    rw [ofNat_or_div, ofNat_readLE_div _ (by omega)]
    rw [Nat.add_sub_of_le h.1]
  · simp

/-- Marking sets the bits of the granule, in every bitmap of the list, and changes no other. -/
theorem cellRead_markAll (s : State) (pa : Nat) (ms : List (Nat × Nat)) (b : Nat) (hw : Memory.wf s.mem = true) :
    cellRead (s.markAll pa ms).mem b = cellRead s.mem b ||| allMarkBits pa b ms := by
  induction ms generalizing s with
  | nil => simp [State.markAll, allMarkBits]
  | cons m r ih =>
    show cellRead ((s.markOne pa m).markAll pa r).mem b = _
    rw [ih _ (markOne_canonical hw pa m), cellRead_markOne _ _ _ _ hw, allMarkBits, BitVec.or_assoc]

theorem markAll_eq (s : State) (pa : Nat) (ms : List (Nat × Nat)) : s.markAll pa ms = { s with mem := (s.markAll pa ms).mem } := by
  obtain ⟨x, hx, _⟩ := markAll_mem s pa ms
  rw [hx]

/-- What marking writes depends on memory alone. -/
theorem markAll_mem_congr {s t : State} (h : t.mem = s.mem) (pa : Nat) (ms : List (Nat × Nat)) :
    (t.markAll pa ms).mem = (s.markAll pa ms).mem := by
  induction ms generalizing s t with
  | nil => exact h
  | cons m r ih => exact ih (by simp only [State.markOne, h])

theorem markAll_clusters (s : State) (pa : Nat) (ms : List (Nat × Nat)) : (s.markAll pa ms).clusters = s.clusters := by
  rw [markAll_eq]

/-! ## A store at the slice -/

/-- The byte at b is one that a mask of a line names. -/
def masks (line : Nat) (m : BitVec 64) (b : Nat) : Prop := b / 64 = line ∧ m.getLsbD (b % 64) = true

/-- A merge at the home writes the masked bytes and marks again what the line marks. -/
theorem cellRead_homeMerge (s : State) (line : Nat) (l : Line) (m : BitVec 64) (b : Nat) (hw : Memory.wf s.mem = true) (hm : m ≠ 0) :
    cellRead (s.homeMerge line l m).mem b =
      (cellRead (s.homeMerge line { l with marks := [] } m).mem b) ||| allMarkBits (64 * line) b l.marks := by
  simp only [State.homeMerge, if_neg hm]
  rw [cellRead_markAll _ _ _ _ (writeMasked_wf _ _ _ _ _ hw)]
  rfl

/-- A merge of a line with no marks writes the masked bytes alone. -/
theorem cellRead_homeMerge_unmarked (s : State) (line : Nat) {l : Line} (m : BitVec 64) (b : Nat) (hw : Memory.wf s.mem = true)
    (hl : l.marks = []) [Decidable (masks line m b)] :
    cellRead (s.homeMerge line l m).mem b = if masks line m b then fld l.data (8 * (b % 64)) 8 else cellRead s.mem b := by
  rw [homeMerge_read _ _ _ _ _ hw (by simp [hl])]
  by_cases h : b / 64 = line
  · have e : b - 64 * line = b % 64 := by omega
    simp only [masks, e, h, true_and]
    exact if_congr ⟨fun q => q.2.2, fun q => ⟨by omega, by omega, q⟩⟩ rfl rfl
  · rw [if_neg (fun q => h (by omega)), if_neg (fun q => h q.1)]

theorem modClu_clu (s : State) (c k : BitVec 5) (f : Cluster → Cluster) : (s.modClu c f).clu k = if k = c then f (s.clu c) else s.clu k := by
  split
  · next h => subst h; exact s.clu_modClu k f
  · next h => exact s.clu_modClu_ne f h

/-- A store reaches its line at the home, with the marks made again, where the slice neither holds the line nor can take it. -/
theorem l2Store_of_dead {s : State} {c : BitVec 5} {line : Nat} (h : (s.clu c).l2Live (slicePage line) = 0 ∧ (s.l2Line c line).valid = 0)
    (new : BitVec 512) (m : BitVec 64) (bad : Bool) (ms : List (Nat × Nat)) :
    s.l2Store c line new m bad ms = (s.markAll (64 * line) ms).homeMerge line (({} : Line).store new m bad ms) m := by
  have e : (s.markAll (64 * line) ms).clu c = s.clu c := by simp only [State.clu, markAll_clusters]
  simp only [State.l2Store, State.l2Line, e]
  exact if_pos h

/-- Otherwise it reaches its line in the slice. -/
theorem l2Store_of_live {s : State} {c : BitVec 5} {line : Nat} (h : ¬((s.clu c).l2Live (slicePage line) = 0 ∧ (s.l2Line c line).valid = 0))
    (new : BitVec 512) (m : BitVec 64) (bad : Bool) (ms : List (Nat × Nat)) :
    s.l2Store c line new m bad ms = (s.markAll (64 * line) ms).setL2 c line ((s.l2Line c line).store new m bad ms) := by
  have e : (s.markAll (64 * line) ms).clu c = s.clu c := by simp only [State.clu, markAll_clusters]
  simp only [State.l2Store, State.l2Line, e]
  exact if_neg h

theorem l2Store_cacheOnly (s : State) (c : BitVec 5) (line : Nat) (new : BitVec 512) (m : BitVec 64) (bad : Bool) (ms : List (Nat × Nat)) :
    CacheOnly s (s.l2Store c line new m bad ms) := by
  have hk : CacheOnly s (s.markAll (64 * line) ms) := by
    obtain ⟨x, hx, wx⟩ := markAll_mem s (64 * line) ms
    rw [hx]; exact ⟨_, _, _, rfl, wx⟩
  by_cases h : (s.clu c).l2Live (slicePage line) = 0 ∧ (s.l2Line c line).valid = 0
  · rw [l2Store_of_dead h]; exact hk.trans (homeMerge_shape ..)
  · rw [l2Store_of_live h]; exact hk.trans (setL2_cacheOnly ..)

/-- A store at a slice leaves every core's copies as they are. -/
theorem l2Store_l1 (s : State) (c k : BitVec 5) (line : Nat) (new : BitVec 512) (m : BitVec 64) (bad : Bool) (ms : List (Nat × Nat)) :
    ((s.l2Store c line new m bad ms).clu k).l1 = (s.clu k).l1 := by
  by_cases h : (s.clu c).l2Live (slicePage line) = 0 ∧ (s.l2Line c line).valid = 0
  · simp only [l2Store_of_dead h, State.clu, homeMerge_clu, markAll_clusters]
  · rw [l2Store_of_live h, State.setL2, modClu_clu]
    split
    · next e => subst e; simp only [State.clu, markAll_clusters]
    · simp only [State.clu, markAll_clusters]

theorem Line.store_empty_marks (new : BitVec 512) (m : BitVec 64) (bad : Bool) (ms : List (Nat × Nat)) :
    (({} : Line).store new m bad ms).marks = ms := by simp [Line.store]

/-- Of memory a store at a slice changes the bitmaps and the masked bytes alone. -/
theorem l2Store_read_of_not_masks (s : State) (c : BitVec 5) {line : Nat} (new : BitVec 512) {m : BitVec 64} (bad : Bool)
    (ms : List (Nat × Nat)) {b : Nat} (hw : Memory.wf s.mem = true) (hm : m ≠ 0) (hb : ¬masks line m b) :
    cellRead (s.l2Store c line new m bad ms).mem b = cellRead (s.markAll (64 * line) ms).mem b := by
  classical
  by_cases h : (s.clu c).l2Live (slicePage line) = 0 ∧ (s.l2Line c line).valid = 0
  · have hk := markAll_canonical (s := s) hw (64 * line) ms
    rw [l2Store_of_dead h, cellRead_homeMerge _ _ _ _ _ hk hm, cellRead_homeMerge_unmarked _ _ _ _ hk rfl, if_neg hb,
      Line.store_empty_marks, cellRead_markAll _ _ _ _ hw, BitVec.or_assoc, BitVec.or_self]
  · rw [l2Store_of_live h, setL2_mem]

/-- A mask with a set bit is not empty. -/
theorem ne_zero_of_getLsbD {m : BitVec 64} {i : Nat} (h : m.getLsbD i = true) : m ≠ 0 := by
  rintro rfl; simp at h

theorem Line.store_valid_ne_zero (l : Line) (new : BitVec 512) {m : BitVec 64} (bad : Bool) (ms : List (Nat × Nat)) (hm : m ≠ 0) :
    (l.store new m bad ms).valid ≠ 0 := by
  intro h
  apply hm
  apply BitVec.eq_of_getLsbD_eq
  intro i _
  have := l.store_valid new m bad ms i
  rw [h] at this
  simp at this
  simp [this.2]

/-- The slice's bytes outside the mask read as before, with the bitmaps marked. -/
theorem l2Store_sliceByte_of_not_masks (s : State) (c : BitVec 5) {line : Nat} (new : BitVec 512) {m : BitVec 64} (bad : Bool)
    (ms : List (Nat × Nat)) {b : Nat} (hw : Memory.wf s.mem = true) (hm : m ≠ 0) (hb : ¬masks line m b) :
    (s.l2Store c line new m bad ms).sliceByte c b = (s.markAll (64 * line) ms).sliceByte c b := by
  have hr := l2Store_read_of_not_masks s c new bad ms hw hm hb
  have hl : ∀ j, (s.markAll (64 * line) ms).l2Line c j = s.l2Line c j := fun j => by simp only [State.l2Line, State.clu, markAll_clusters]
  simp only [State.sliceByte, hr, hl]
  by_cases h : (s.clu c).l2Live (slicePage line) = 0 ∧ (s.l2Line c line).valid = 0
  · have e : (s.l2Store c line new m bad ms).l2Line c (b / 64) = s.l2Line c (b / 64) := by
      simp only [l2Store_of_dead h, State.l2Line, State.clu, homeMerge_clu, markAll_clusters]
    rw [e]
  · rw [l2Store_of_live h, State.l2Line_setL2, if_neg (Line.store_valid_ne_zero _ _ _ _ hm), hl]
    split
    · next e =>
      have hb' : m.getLsbD (b % 64) = false := Bool.eq_false_iff.mpr (fun q => hb ⟨e, q⟩)
      rw [Line.store_valid, Line.store_data, hb', ← e]
      simp
    · rfl

end Sys2Proof.Machine
end

section
/-! PROOFS, O14. A core's store and load, and the words that make them. -/

namespace Sys2Proof.Machine
open State

/-! ## A core's store -/

/-- The line of an address as core k holds it. -/
def l1Line (s : State) (k : BitVec 7) (line : Nat) : Line := Tab.get {} ((s.clu (fld k 2 5)).l1Of (fld k 0 2).toNat) line

theorem coreByte_eq (s : State) (k : BitVec 7) (b : Nat) :
    s.coreByte k b = if (l1Line s k (b / 64)).valid.getLsbD (b % 64) then fld (l1Line s k (b / 64)).data (8 * (b % 64)) 8
      else s.sliceByte (fld k 2 5) b := rfl

theorem l1Line_modL1 (s : State) (k : BitVec 7) (line j : Nat) (f : Tab Line → Line) :
    l1Line (s.modL1 k (fun t => Tab.set t line (f t))) k j =
      if j = line then f ((s.clu (fld k 2 5)).l1Of (fld k 0 2).toNat) else l1Line s k j := by
  simp only [l1Line, State.modL1, State.clu_modClu, Cluster.l1Of, Tab.get_set]
  split
  · next h => subst h; rw [Tab.get_set]
  · next h => rw [Tab.get_set_ne _ _ _ h]

theorem l1Line_congr {s t : State} {k : BitVec 7} (h : (t.clu (fld k 2 5)).l1 = (s.clu (fld k 2 5)).l1) (j : Nat) :
    l1Line t k j = l1Line s k j := by simp only [l1Line, Cluster.l1Of, h]

theorem modL1_l2Line (s : State) (k : BitVec 7) (f : Tab Line → Tab Line) (c : BitVec 5) (j : Nat) :
    (s.modL1 k f).l2Line c j = s.l2Line c j := by
  simp only [State.l2Line, State.modL1, modClu_clu]
  split
  · next h => subst h; rfl
  · rfl

theorem modL1_cacheOnly (s : State) (k : BitVec 7) (f : Tab Line → Tab Line) : CacheOnly s (s.modL1 k f) := ⟨_, _, _, rfl, id⟩

theorem sliceByte_congr {s t : State} {c : BitVec 5} (hl : ∀ j, t.l2Line c j = s.l2Line c j) (hm : t.mem = s.mem) (b : Nat) :
    t.sliceByte c b = s.sliceByte c b := by simp only [State.sliceByte, hl, hm]

theorem l1Store_cacheOnly (s : State) (k : BitVec 7) (pa n v : Nat) (ms : List (Nat × Nat)) : CacheOnly s (s.l1Store k pa n v ms) :=
  (modL1_cacheOnly ..).trans (l2Store_cacheOnly ..)

theorem masks_byteMask (pa n b : Nat) (h : pa % 64 + n ≤ 64) : masks (pa / 64) (byteMask (pa % 64) n) b ↔ pa ≤ b ∧ b < pa + n := by
  rw [masks, getLsbD_byteMask_lt (by omega)]
  omega

/-- The line of a store of v: its bytes from offset off on. -/
def storeLine (off n v : Nat) : BitVec 512 := BitVec.ofNat 512 (v % 2 ^ (8 * n) * 2 ^ (8 * off))

/-- A core's own copy of a line after it stores the masked bytes of another. -/
def storedCopy (new : BitVec 512) (m : BitVec 64) (l : Line) : Line := { l.store new m false [] with dirty := 0 }

/-- The machine whose core k has stored the masked bytes in its own copy alone. -/
def storedL1 (s : State) (k : BitVec 7) (line : Nat) (new : BitVec 512) (m : BitVec 64) : State :=
  s.modL1 k (fun t => Tab.set t line (storedCopy new m (Tab.get {} t line)))

theorem l1Store_eq (s : State) (k : BitVec 7) (pa n v : Nat) (ms : List (Nat × Nat)) :
    s.l1Store k pa n v ms = (storedL1 s k (pa / 64) (storeLine (pa % 64) n v) (byteMask (pa % 64) n)).l2Store (fld k 2 5) (pa / 64)
      (storeLine (pa % 64) n v) (byteMask (pa % 64) n) false ms := rfl

theorem l1Line_storedL1 (s : State) (k : BitVec 7) (line j : Nat) (new : BitVec 512) (m : BitVec 64) :
    l1Line (storedL1 s k line new m) k j = if j = line then storedCopy new m (l1Line s k line) else l1Line s k j :=
  l1Line_modL1 s k line j (fun t => storedCopy new m (Tab.get {} t line))

/-- What the slice reads does not depend on a core's own copies. -/
theorem sliceByte_markAll_storedL1 (s : State) (k : BitVec 7) (line : Nat) (new : BitVec 512) (m : BitVec 64) (pa : Nat)
    (ms : List (Nat × Nat)) (c : BitVec 5) (b : Nat) :
    ((storedL1 s k line new m).markAll pa ms).sliceByte c b = (s.markAll pa ms).sliceByte c b := by
  apply sliceByte_congr
  · intro j
    simp only [State.l2Line, State.clu, markAll_clusters]
    exact modL1_l2Line s k _ c j
  · exact markAll_mem_congr (s := s) (t := storedL1 s k line new m) rfl _ _

theorem byteMask_ne_zero {off n : Nat} (hn : 0 < n) (h : off < 64) : byteMask off n ≠ 0 :=
  ne_zero_of_getLsbD (i := off) ((getLsbD_byteMask_lt h).mpr (by omega))

section
variable (s : State) (k : BitVec 7) {pa n : Nat} (v : Nat) (ms : List (Nat × Nat)) (hw : Memory.wf s.mem = true)
  (hn : 0 < n) (hin : pa % 64 + n ≤ 64)
include hn hin hw

/-- A core's store changes of memory the stored bytes and the bitmaps it marks alone. -/
theorem l1Store_read {b : Nat} (hb : b < pa ∨ pa + n ≤ b) :
    cellRead (s.l1Store k pa n v ms).mem b = cellRead (s.markAll (64 * (pa / 64)) ms).mem b := by
  have hnm : ¬masks (pa / 64) (byteMask (pa % 64) n) b := by rw [masks_byteMask _ _ _ hin]; omega
  have hm := byteMask_ne_zero hn (show pa % 64 < 64 by omega)
  rw [l1Store_eq, l2Store_read_of_not_masks (storedL1 ..) (fld k 2 5) _ _ _ hw hm hnm]
  exact congrArg (cellRead · b) (markAll_mem_congr (s := s) (t := storedL1 ..) rfl _ _)

/-- After a core's store its loads read the stored bytes, and every other byte as before, the bitmaps marked. -/
theorem l1Store_coreByte (b : Nat) : (s.l1Store k pa n v ms).coreByte k b =
    if pa ≤ b ∧ b < pa + n then BitVec.ofNat 8 (v / 256 ^ (b - pa)) else (s.markAll (64 * (pa / 64)) ms).coreByte k b := by
  have hm := byteMask_ne_zero hn (show pa % 64 < 64 by omega)
  have hl1 : ∀ j, l1Line (s.markAll (64 * (pa / 64)) ms) k j = l1Line s k j :=
    l1Line_congr (by simp only [State.clu, markAll_clusters])
  rw [l1Store_eq, coreByte_eq, coreByte_eq, l1Line_congr (l2Store_l1 ..), l1Line_storedL1, hl1]
  by_cases hb : pa ≤ b ∧ b < pa + n
  · have hbit : (byteMask (pa % 64) n).getLsbD (b % 64) = true := (getLsbD_byteMask_lt (by omega)).mpr (by omega)
    have hv : (storedCopy (storeLine (pa % 64) n v) (byteMask (pa % 64) n) (l1Line s k (pa / 64))).valid.getLsbD (b % 64) = true := by
      rw [storedCopy, Line.store_valid, hbit, Bool.or_true]
    rw [if_pos hb, if_pos (show b / 64 = pa / 64 by omega), if_pos hv, storedCopy, Line.store_data, if_pos hbit, storeLine,
      fld_storedLine (by omega) (by omega) hin, show b % 64 - pa % 64 = b - pa by omega]
  · have hnm := (not_congr (masks_byteMask pa n b hin)).mpr hb
    rw [if_neg hb, l2Store_sliceByte_of_not_masks (storedL1 ..) _ _ _ _ hw hm hnm, sliceByte_markAll_storedL1]
    by_cases e : b / 64 = pa / 64
    · have hbit : (byteMask (pa % 64) n).getLsbD (b % 64) = false := Bool.eq_false_iff.mpr (fun q => hnm ⟨e, q⟩)
      rw [if_pos e, storedCopy, Line.store_valid, Line.store_data, hbit, Bool.or_false, e]
      simp only [Bool.false_eq_true, if_false]
    · rw [if_neg e]

end

/-! ## A core's load -/

theorem homeLine_eq (s : State) (line : Nat) : ∃ p m, (s.homeLine line).1 = { s with poison := p, module := m } := s.injectHome_eq ..

/-- A line read into a slice changes the slices, the poison marks and the injector alone. -/
theorem l2Get_eq (s : State) (c : BitVec 5) (line : Nat) :
    ∃ p m k, (s.l2Get c line).1 = { s with poison := p, module := m, clusters := k } := by
  obtain ⟨p, m, h⟩ := homeLine_eq s line
  unfold State.l2Get
  dsimp only
  split
  · exact ⟨_, _, _, rfl⟩
  · split
    · exact ⟨p, m, s.clusters, h⟩
    · rw [State.setL2_shape, h]; exact ⟨_, _, _, rfl⟩

/-- A core's load changes its copies, the slices, the poison marks and the injector alone. -/
theorem l1Load_eq (s : State) (k : BitVec 7) (pa n : Nat) :
    ∃ p m c, (s.l1Load k pa n).1 = { s with poison := p, module := m, clusters := c } := by
  obtain ⟨p, m, c, h⟩ := l2Get_eq s (fld k 2 5) (pa / 64)
  unfold State.l1Load
  dsimp only
  split
  · exact ⟨_, _, _, rfl⟩
  · simp only [State.modL1, State.modClu, h]; exact ⟨_, _, _, rfl⟩

theorem l1Load_threads (s : State) (k : BitVec 7) (pa n : Nat) : (s.l1Load k pa n).1.threads = s.threads := by
  obtain ⟨p, m, c, h⟩ := l1Load_eq s k pa n
  rw [h]

theorem l1Load_cur (s : State) (k : BitVec 7) (pa n : Nat) : (s.l1Load k pa n).1.cur = s.cur := by
  obtain ⟨p, m, c, h⟩ := l1Load_eq s k pa n
  rw [h]

/-! ## The words -/

section
variable {s u : State} {va : Word} {n : Nat}

theorem withVa_of_ok {k : Access} {key : Nat} {x : Xl} (h : s.resolve s.me.cred k false va (.thread s.cur) = (u, .ok key x))
    (f : State → Nat → Xl → State) : s.withVa k va f = f u key x := by simp only [State.withVa, h]

theorem withVa_of_fault {k : Access} {c : BitVec 8} (h : s.resolve s.me.cred k false va (.thread s.cur) = (u, .fault c))
    (f : State → Nat → Xl → State) : s.withVa k va f = u.trap c va := by simp only [State.withVa, h]

theorem memRead_of_misaligned (h : va.toNat % n ≠ 0) (f : State → Nat → State) : s.memRead va n f = s.trap cALIGN va := if_pos h

theorem memWrite_of_misaligned (h : va.toNat % n ≠ 0) (v : Nat) (f : State → State) : s.memWrite va n v f = s.trap cALIGN va := if_pos h

theorem memRead_of_fault {c : BitVec 8} (ha : va.toNat % n = 0)
    (h : s.resolve s.me.cred .read false va (.thread s.cur) = (u, .fault c)) (f : State → Nat → State) :
    s.memRead va n f = u.trap c va := by
  rw [State.memRead, if_neg (by simp [ha]), withVa_of_fault h]

theorem memWrite_of_fault {c : BitVec 8} (ha : va.toNat % n = 0)
    (h : s.resolve s.me.cred .write false va (.thread s.cur) = (u, .fault c)) (v : Nat) (f : State → State) :
    s.memWrite va n v f = u.trap c va := by
  rw [State.memWrite, if_neg (by simp [ha]), withVa_of_fault h]

theorem resolve_cur {k : Access} {r : Res} (h : s.resolve s.me.cred k false va (.thread s.cur) = (u, r)) : u.cur = s.cur := by
  have := (resolve_xlOnly s s.me.cred k false va (.thread s.cur)).cur
  rwa [h] at this

theorem resolve_threads {k : Access} {r : Res} (h : s.resolve s.me.cred k false va (.thread s.cur) = (u, r)) :
    u.threads = s.threads := by
  have := (resolve_xlOnly s s.me.cred k false va (.thread s.cur)).threads
  rwa [h] at this

theorem resolve_wf {k : Access} {r : Res} (h : s.resolve s.me.cred k false va (.thread s.cur) = (u, r))
    (hw : Memory.wf s.mem = true) : Memory.wf u.mem = true := by
  have := resolve_canonical (s := s) hw s.me.cred k false va (.thread s.cur)
  rwa [h] at this

theorem resolve_me {k : Access} {r : Res} (h : s.resolve s.me.cred k false va (.thread s.cur) = (u, r)) : u.me = s.me := by
  simp only [State.me, State.thr, resolve_cur h, resolve_threads h]

theorem memRead_of_ok {key v : Nat} {x : Xl} {w : State} {bad : Bool} (ha : va.toNat % n = 0)
    (h : s.resolve s.me.cred .read false va (.thread s.cur) = (u, .ok key x)) (hl : u.l1Load (coreOf s.cur) key n = (w, v, bad))
    (f : State → Nat → State) : s.memRead va n f = if bad then w.trap cUNCORR va else f w v := by
  rw [State.memRead, if_neg (by simp [ha]), withVa_of_ok h]
  simp only [resolve_cur h, hl]

theorem memWrite_of_ok {key : Nat} {x : Xl} (ha : va.toNat % n = 0)
    (h : s.resolve s.me.cred .write false va (.thread s.cur) = (u, .ok key x)) (v : Nat) (f : State → State) :
    s.memWrite va n v f = f (u.l1Store (coreOf s.cur) key n v (s.me.cred.marks key)) := by
  rw [State.memWrite, if_neg (by simp [ha]), withVa_of_ok h]
  simp only [resolve_cur h, resolve_me h]

end

end Sys2Proof.Machine
end

section
/-! PROOFS, O14. The load and store words. -/

namespace Sys2Proof.Machine
open State

/-- The sizes of a load: the bytes each reads. -/
theorem ldBytes_of_size {z : BitVec 3} {n : Nat}
    (h : (z, n) ∈ [(0#3, 1), (1#3, 2), (2#3, 4), (3#3, 8), (4#3, 1), (5#3, 2), (6#3, 4)]) : ldBytes z = some n ∧
      ∀ v, ldExtend z v = if z.toNat < 3 then BitVec.ofInt 64 ((BitVec.ofNat (8 * n) v).toInt) else BitVec.ofNat 64 v := by
  simp only [List.mem_cons, Prod.mk.injEq, List.not_mem_nil, or_false] at h
  rcases h with ⟨rfl, rfl⟩ | ⟨rfl, rfl⟩ | ⟨rfl, rfl⟩ | ⟨rfl, rfl⟩ | ⟨rfl, rfl⟩ | ⟨rfl, rfl⟩ | ⟨rfl, rfl⟩ <;> exact ⟨rfl, fun _ => rfl⟩

/-- The sizes of a store. -/
theorem stBytes_of_size {z : BitVec 3} {n : Nat} (h : (z, n) ∈ [(0#3, 1), (1#3, 2), (2#3, 4), (3#3, 8)]) :
    stBytes z = some n ∧ n ∣ 64 ∧ 0 < n := by
  simp only [List.mem_cons, Prod.mk.injEq, List.not_mem_nil, or_false] at h
  rcases h with ⟨rfl, rfl⟩ | ⟨rfl, rfl⟩ | ⟨rfl, rfl⟩ | ⟨rfl, rfl⟩ <;> exact ⟨rfl, by decide, by decide⟩

theorem ldBytes_of_ne_seven {z : BitVec 3} (h : z ≠ 7) : ldBytes z = some (2 ^ (z.toNat % 4)) := by decide +revert

theorem stBytes_of_lt_four {z : BitVec 3} (h : z.toNat < 4) : stBytes z = some (2 ^ (z.toNat % 4)) := by decide +revert

theorem stBytes_of_ge_four {z : BitVec 3} (h : 4 ≤ z.toNat) : stBytes z = none := by decide +revert

theorem execLd_of_size {z : BitVec 3} {n : Nat} (h : ldBytes z = some n) (d a : BitVec 5) (o : BitVec 13) (s : State) :
    exec (.ld d a z o) s = .next (s.memRead (s.rd a + o.signExtend 64) n (fun s v => s.put d (ldExtend z v))) := by
  show execLd d a z o s = _
  rw [execLd, h]; rfl

theorem execSt_of_size {z : BitVec 3} {n : Nat} (h : stBytes z = some n) (v a : BitVec 5) (o : BitVec 13) (s : State) :
    exec (.st v a z o) s = .next (s.memWrite (s.rd a + o.signExtend 64) n ((s.rd v).toNat % 2 ^ (8 * n)) State.advance) := by
  show execSt v a z o s = _
  rw [execSt, h]; rfl

theorem execLd_seven (d a : BitVec 5) (o : BitVec 13) (s : State) : exec (.ld d a 7 o) s = .next (s.illegal (.ld d a 7 o)) := rfl

theorem execSt_of_ge_four {z : BitVec 3} (h : 4 ≤ z.toNat) (v a : BitVec 5) (o : BitVec 13) (s : State) :
    exec (.st v a z o) s = .next (s.illegal (.st v a z o)) := by
  show execSt v a z o s = _
  rw [execSt, stBytes_of_ge_four h]

/-- A byte of the number a store size keeps of a register. -/
theorem ofNat_mod_div_eq_fld (w : BitVec k) {n i : Nat} (h : i < n) :
    BitVec.ofNat 8 (w.toNat % 2 ^ (8 * n) / 256 ^ i) = fld w (8 * i) 8 := by
  apply BitVec.eq_of_getLsbD_eq
  intro j hj
  rw [getLsbD_fld, BitVec.getLsbD_ofNat, show (256 : Nat) = 2 ^ 8 from rfl, ← Nat.pow_mul, Nat.testBit_div_two_pow,
    Nat.testBit_mod_two_pow, Nat.add_comm j]
  simp only [hj, show 8 * i + j < 8 * n by omega, decide_true, Bool.true_and]
  rfl

/-- A load that neither faults nor meets poison. -/
theorem loadWord : Rule.LoadWord := by
  intro s u w d a z o n v key x hz ea ha hr hl
  obtain ⟨hn, hx⟩ := ldBytes_of_size hz
  have hw : (u.l1Load (coreOf s.cur) key n).1 = w := by rw [hl]
  have ht : w.threads = s.threads := by rw [← hw, l1Load_threads, resolve_threads hr]
  have hc : w.cur = s.cur := by rw [← hw, l1Load_cur, resolve_cur hr]
  have hme : w.me = s.me := by simp only [State.me, State.thr, ht, hc]
  have hmem : w.mem = u.mem := by rw [← hw, l1Load_mem]
  obtain ⟨t, ho, hreg, honly⟩ := writes_put w d (ldExtend z v)
  refine ⟨t, ?_, fun r => ?_, ?_, ht, hc, fun b => ?_⟩
  · rw [execLd_of_size hn, memRead_of_ok ha hr hl, if_neg Bool.false_ne_true, ho]
  · rw [hreg r, hx, State.rd, hme]; rfl
  · rw [State.pc, hme] at honly; exact honly
  · rw [OnlyThread.mem honly, hmem]

/-- A store that does not fault. -/
theorem storeWord : Rule.StoreWord := by
  intro s u v a z o n key x hz ea ha hr hk hwf marked k
  obtain ⟨hn, hdvd, hpos⟩ := stBytes_of_size hz
  have hin : key % 64 + n ≤ 64 := by
    obtain ⟨q, hq⟩ := hdvd
    obtain ⟨j, hj⟩ := Nat.dvd_of_mod_eq_zero hk
    have : key % 64 = n * (j % q) := by rw [hj, hq, Nat.mul_mod_mul_left]
    have : j % q + 1 ≤ q := Nat.mod_lt _ (Nat.pos_of_ne_zero (by rintro rfl; simp at hq))
    calc key % 64 + n = n * (j % q + 1) := by rw [Nat.mul_add]; omega
      _ ≤ n * q := Nat.mul_le_mul_left n this
      _ = 64 := hq.symm
  have hu := resolve_wf hr hwf
  have hcache := l1Store_cacheOnly u k key n ((s.rd v).toNat % 2 ^ (8 * n)) (s.me.cred.marks key)
  have hbytes := l1Store_coreByte u k ((s.rd v).toNat % 2 ^ (8 * n)) (s.me.cred.marks key) hu hpos hin
  have hread := @l1Store_read u k key n ((s.rd v).toNat % 2 ^ (8 * n)) (s.me.cred.marks key) hu hpos hin
  have hexec : exec (.st v a z o) s = .next (u.l1Store k key n ((s.rd v).toNat % 2 ^ (8 * n)) (s.me.cred.marks key)).advance := by
    rw [execSt_of_size hn, memWrite_of_ok ha hr]
  generalize u.l1Store k key n ((s.rd v).toNat % 2 ^ (8 * n)) (s.me.cred.marks key) = t at hcache hbytes hread hexec
  have hme : t.me = s.me := hcache.me.trans (resolve_me hr)
  have hcur : t.cur = s.cur := hcache.cur.trans (resolve_cur hr)
  refine ⟨t.advance, hexec, fun b => ?_, fun b hb => hread hb, ?_, fun m hm => ?_, hcur⟩
  · refine (hbytes b).trans (if_ctx_congr Iff.rfl (fun hb => ?_) (fun _ => rfl))
    exact ofNat_mod_div_eq_fld _ (by omega)
  · rw [State.advance, State.me_modMe, hme]; rfl
  · rw [State.advance, State.modMe, State.thr_modThr_ne _ _ (hcur ▸ hm), hcache.thr]
    simp only [State.thr, resolve_threads hr]

/-- Loads and stores that trap. -/
theorem loadStoreTraps : Rule.LoadStoreTraps := by
  intro s u d a z o c ea n fails
  refine ⟨?_, fun h => ?_, fun h => ⟨fun ha => ?_, fun ha hr => ?_⟩, fun h => ⟨fun ha => ?_, fun ha hr => ?_⟩,
    fun h ha key x w v hr hl => ?_⟩
  · rintro rfl; exact traps_trap s cILLEGAL _
  · rw [execSt_of_ge_four h]; exact traps_trap s cILLEGAL _
  · rw [execLd_of_size (ldBytes_of_ne_seven h), memRead_of_misaligned ha]; exact traps_trap s cALIGN ea
  · rw [execLd_of_size (ldBytes_of_ne_seven h), memRead_of_fault ha hr]; exact traps_trap u c ea
  · rw [execSt_of_size (stBytes_of_lt_four h), memWrite_of_misaligned ha]; exact traps_trap s cALIGN ea
  · rw [execSt_of_size (stBytes_of_lt_four h), memWrite_of_fault ha hr]; exact traps_trap u c ea
  · rw [execLd_of_size (ldBytes_of_ne_seven h), memRead_of_ok ha hr hl]; exact traps_trap w cUNCORR ea

/-- Settles O14: a word's load and store are those of its core's copies, the slice and the home; each trap is the first check that
fails. -/
theorem loadsAndStores : Obligations.LoadsAndStores := by
  exact ⟨loadWord, storeWord, loadStoreTraps⟩

end Sys2Proof.Machine
end

section
/-! PROOFS, O39, O40 and O44. What an action of a node leaves alone, and when a node whose heads stand acts. -/

namespace Sys2Proof.Machine
open State

/-! ## What an action leaves alone -/

/-- What a node of tile t may change of its region: its tile, the tokens on their way, the channel positions, the sticky flags, which only
rise, and the cycle of the last activity. -/
structure RegionFrame (t : TileNo) (r v : Region) : Prop where
  only : v = { r with tiles := v.tiles, flight := v.flight, pos := v.pos, flags := v.flags, active := v.active }
  flags : ∀ k, r.flags.getLsbD k = true → v.flags.getLsbD k = true
  tiles : ∀ x, x ≠ t.toNat → (Tab.get {} v.tiles x : RTile) = Tab.get {} r.tiles x
  flight : r.flight <+: v.flight

theorem RegionFrame.refl (t : TileNo) (r : Region) : RegionFrame t r r := ⟨rfl, fun _ h => h, fun _ _ => rfl, List.prefix_rfl⟩

theorem RegionFrame.trans {t : TileNo} {r v w : Region} (h : RegionFrame t r v) (k : RegionFrame t v w) : RegionFrame t r w := by
  refine ⟨?_, fun i e => k.flags i (h.flags i e), fun x e => (k.tiles x e).trans (h.tiles x e), h.flight.trans k.flight⟩
  rw [k.only, h.only]

theorem RegionFrame.st {t : TileNo} {r v : Region} (h : RegionFrame t r v) : v.st = r.st := by rw [h.only]

/-- From s to t only thread n's region changes. -/
def RegionOnly (n : BitVec 9) (s t : State) : Prop := OnlyThread s t n { s.thr n with region := t.reg n }

theorem RegionOnly.refl (n : BitVec 9) (s : State) : RegionOnly n s s := ⟨rfl, fun _ _ => rfl, rfl⟩

theorem RegionOnly.trans {n : BitVec 9} {s t u : State} (h : RegionOnly n s t) (k : RegionOnly n t u) : RegionOnly n s u := by
  obtain ⟨h1, h2, h3⟩ := h
  obtain ⟨k1, k2, k3⟩ := k
  refine ⟨by rw [k1, h1], fun m e => (k2 m e).trans (h2 m e), ?_⟩
  have e : ({ u with threads := s.threads } : State) = { ({ u with threads := t.threads } : State) with threads := s.threads } := rfl
  rw [e, k3, h3]

theorem RegionOnly.cycle {n : BitVec 9} {s t : State} (h : RegionOnly n s t) : t.cycle = s.cycle :=
  show ({ t with threads := s.threads } : State).cycle = s.cycle by rw [h.2.2]

theorem RegionOnly.clusters {n : BitVec 9} {s t : State} (h : RegionOnly n s t) : t.clusters = s.clusters :=
  show ({ t with threads := s.threads } : State).clusters = s.clusters by rw [h.2.2]

theorem RegionOnly.now {n : BitVec 9} {s t : State} (h : RegionOnly n s t) (m : BitVec 9) : t.now m = s.now m := by
  simp only [State.now, State.cycleOf, State.clu, h.cycle, h.clusters]

theorem reg_modReg (s : State) (n : BitVec 9) (f : Region → Region) : (s.modReg n f).reg n = f (s.reg n) := by
  simp [State.reg, State.modReg]

theorem regionOnly_modReg (n : BitVec 9) (s : State) (f : Region → Region) : RegionOnly n s (s.modReg n f) := by
  have h := onlyThread_modThr s n (fun t => { t with region := f t.region })
  unfold RegionOnly
  rw [reg_modReg]
  exact h

/-- From s to t nothing changes but what a node of tile `d.t` may change of its region. -/
structure NodeOnly (d : Nd) (s t : State) : Prop where
  thread : RegionOnly d.n s t
  region : RegionFrame d.t (s.reg d.n) (t.reg d.n)

theorem NodeOnly.refl (d : Nd) (s : State) : NodeOnly d s s := ⟨RegionOnly.refl _ _, RegionFrame.refl _ _⟩

theorem NodeOnly.trans {d : Nd} {s t u : State} (h : NodeOnly d s t) (k : NodeOnly d t u) : NodeOnly d s u :=
  ⟨h.thread.trans k.thread, h.region.trans k.region⟩

theorem NodeOnly.st {d : Nd} {s t : State} (h : NodeOnly d s t) : (t.reg d.n).st = (s.reg d.n).st := h.region.st

theorem nodeOnly_modReg {d : Nd} {s : State} {f : Region → Region} (h : RegionFrame d.t (s.reg d.n) (f (s.reg d.n))) :
    NodeOnly d s (s.modReg d.n f) :=
  ⟨regionOnly_modReg .., by rw [reg_modReg]; exact h⟩

theorem nodeOnly_modRt (d : Nd) (s : State) (f : RTile → RTile) : NodeOnly d s (s.modRt d.n d.t f) :=
  nodeOnly_modReg ⟨rfl, fun _ h => h, fun _ h => Tab.get_set_ne _ _ _ h, List.prefix_rfl⟩

theorem nodeOnly_modQueue (d : Nd) (s : State) (q : Nat) (f : Queue → Queue) : NodeOnly d s (s.modQueue d.n d.t q f) := by
  unfold State.modQueue; exact nodeOnly_modRt ..

theorem nodeOnly_popAt (d : Nd) (s : State) (k : Nat) : NodeOnly d s (s.popAt d k) := by
  unfold State.popAt; exact nodeOnly_modQueue ..

theorem nodeOnly_foldl {α : Type} {d : Nd} {f : State → α → State} (h : ∀ s a, NodeOnly d s (f s a)) (l : List α) (s : State) :
    NodeOnly d s (l.foldl f s) := by
  induction l generalizing s with
  | nil => exact NodeOnly.refl d s
  | cons a r ih => exact (h s a).trans (ih _)

theorem nodeOnly_popAll (d : Nd) (s : State) (ks : List Nat) : NodeOnly d s (s.popAll d ks) :=
  nodeOnly_foldl (fun s k => nodeOnly_popAt d s k) ks s

theorem nodeOnly_flags (d : Nd) (s : State) (m : BitVec 16) : NodeOnly d s (s.modReg d.n (fun r => { r with flags := r.flags ||| m })) :=
  nodeOnly_modReg ⟨rfl, fun k h => by rw [BitVec.getLsbD_or, h, Bool.true_or], fun _ _ => rfl, List.prefix_rfl⟩

theorem nodeOnly_addFl (d : Nd) (s : State) (f : Fl) : NodeOnly d s (s.addFl d.n f) := nodeOnly_flags ..

theorem nodeOnly_raisePos (d : Nd) (s : State) (o k : Nat) : NodeOnly d s (s.raisePos d o k) := by
  unfold State.raisePos
  exact nodeOnly_modReg ⟨rfl, fun _ h => h, fun _ _ => rfl, List.prefix_rfl⟩

theorem nodeOnly_emit (d : Nd) (s : State) (o : Nat) (t : Token) (i : Nat) : NodeOnly d s (s.emit d o t i) := by
  have h : ∀ fs : List Flight, NodeOnly d s (s.modReg d.n (fun r => { r with flight := r.flight ++ fs, active := s.now d.n })) :=
    fun fs => nodeOnly_modReg ⟨rfl, fun _ h => h, fun _ _ => rfl, List.prefix_append ..⟩
  unfold State.emit
  dsimp only
  split
  · exact (h _).trans (nodeOnly_raisePos ..)
  · split
    · exact (h _).trans (nodeOnly_raisePos ..)
    · exact h _

theorem nodeOnly_active (d : Nd) (s : State) (k : Nat) : NodeOnly d s (s.modReg d.n (fun r => { r with active := k })) :=
  nodeOnly_modReg ⟨rfl, fun _ h => h, fun _ _ => rfl, List.prefix_rfl⟩

theorem nodeOnly_acted {s t : State} (h : NodeOnly s.nd s t) : NodeOnly s.nd s (s.acted t) := h.trans (nodeOnly_active ..)

theorem nodeOnly_fired {s t : State} (h : NodeOnly s.nd s t) : NodeOnly s.nd s (s.fired t) := by
  unfold State.fired
  split
  · exact (nodeOnly_acted h).trans (nodeOnly_popAt ..)
  · exact nodeOnly_acted h

theorem acted_active (s t : State) : ((s.acted t).reg s.nd.n).active = s.now s.nd.n := by rw [State.acted, reg_modReg]

theorem fired_active (s t : State) : ((s.fired t).reg s.nd.n).active = s.now s.nd.n := by
  unfold State.fired
  split
  · rw [State.popAt, State.modQueue, State.modRt, reg_modReg]; exact acted_active s t
  · exact acted_active s t

/-- The frame of a firing. -/
theorem firingFrame : Rule.FiringFrame := by
  intro s ks fl t i d u r v
  have h : NodeOnly d s u := nodeOnly_fired (((nodeOnly_popAll d s ks).trans (nodeOnly_addFl ..)).trans (nodeOnly_emit ..))
  have ha : v.active = s.now d.n := fired_active ..
  refine ⟨?_, fun a => by rw [OnlyThread.mem h.thread], h.region.flags, h.region.tiles, h.region.flight⟩
  have e : v = { r with tiles := v.tiles, flight := v.flight, pos := v.pos, flags := v.flags, active := s.now d.n } := by
    rw [← ha]; exact h.region.only
  rw [← e]
  exact h.thread

/-! ## A node whose heads stand -/

/-- The node acts once on heads none of which it refuses: what it comes to. -/
def State.came (s : State) : Went → State
  | .wait => s
  | .did t firing => if firing = true ∧ s.nd.ordered = true ∧ (s.headAt s.nd 3).map (·.1.kind) = some kORDER ∧ actsIn ((s.acted t).reg s.nd.n).st = true
      then (s.acted t).popAt s.nd 3 else s.acted t

section
variable {s : State} {ks : List Nat} {hs : List Taken} {outs : List Nat} {orders : Bool} {go : State → Went}
  {ill : State → (State → Went) → Went} {hurt : State → State}

theorem came_wait (s : State) : s.came .wait = s := rfl

theorem came_acted (s t : State) : s.came (.did t false) = s.acted t := by
  rw [State.came, if_neg (by simp)]

/-- A firing that leaves the region's state as it was. -/
theorem came_fired (hs : s.nodeLive s.nd = true) {t : State} (h : (t.reg s.nd.n).st = (s.reg s.nd.n).st) :
    s.came (.did t true) = s.fired t := by
  have hst : actsIn ((s.acted t).reg s.nd.n).st = true := by
    rw [State.acted, reg_modReg]
    simp only [State.nodeLive, Bool.and_eq_true] at hs
    simp only [h, hs.1.1]
  simp only [State.came, State.fired, hst, true_and, and_true]

theorem State.Stands.live (h : s.Stands ks hs) : s.nodeLive s.nd = true := h.1

/-- A record's tokens are refused by no node but one that reads ORDER alone. -/
theorem State.Ready.accepted {i : Nat} (h : s.Ready ks hs i) : ∀ x ∈ hs, badHead false x.1 x.2.1 = none := by
  intro x hx
  rcases (h.2 x hx).2 with e | ⟨e2, e⟩
  · simp [badHead, e, kDATA, kPOISON, kGAP, kCMD, kRESUME, kCTRL, kORDER]
  · simp [badHead, e, e2, kPOISON, kCMD, kRESUME, kCTRL, kORDER]

theorem State.Ready.not_drain {i : Nat} (h : s.Ready ks hs i) : ks = [] ∨ ∃ y ∈ hs, y.2.1.kind ≠ kDRAIN := by
  cases hs with
  | nil => exact Or.inl h.1.2.2.1.symm
  | cons y r =>
    refine Or.inr ⟨y, List.mem_cons_self, ?_⟩
    rcases (h.2 y List.mem_cons_self).2 with e | ⟨_, e⟩ <;> rw [e] <;> decide

/-- A node whose heads stand, none of them refused and not all DRAIN, acts by `go`. -/
theorem nodeStep_of_stands (h : s.Stands ks hs) (hbad : ∀ x ∈ hs, badHead orders x.1 x.2.1 = none)
    (hdrain : ks = [] ∨ ∃ y ∈ hs, y.2.1.kind ≠ kDRAIN) : s.nodeStep s.nd ks outs orders go ill hurt = s.came (go s) := by
  obtain ⟨hlive, hill, hks, hhead, hord⟩ := h
  have hbads : (ks ++ (if s.nd.ordered then [3] else [])).filterMap
      (fun k => (s.headAt s.nd k).bind (fun h => (badHead orders k h.1).map (fun c => (k, c)))) = [] := by
    rw [List.filterMap_eq_nil_iff]
    intro k hk
    rw [List.mem_append] at hk
    rcases hk with hk | hk
    · rw [← hks, List.mem_map] at hk
      obtain ⟨x, hx, rfl⟩ := hk
      simp [hhead x hx, hbad x hx]
    · split at hk
      · next ho =>
        obtain ⟨t, i, ht, hkind⟩ := hord ho
        rw [List.mem_singleton] at hk
        subst hk
        rcases hkind with e | e <;> simp [ht, badHead, e, kORDER, kEND, kPOISON, kGAP, kCMD, kRESUME, kCTRL]
      · simp at hk
  have hnodrain : ¬(ks ≠ [] ∧ ks.all (fun k => match s.headAt s.nd k with | some h => h.1.kind == kDRAIN | none => false) = true) := by
    rintro ⟨hne, hall⟩
    obtain ⟨y, hy, hyk⟩ := hdrain.resolve_left hne
    have := List.all_eq_true.mp hall y.1 (by rw [← hks]; exact List.mem_map_of_mem hy)
    simp [hhead y hy, hyk] at this
  unfold State.nodeStep
  dsimp only
  rw [hbads]
  simp only [hlive, hill, List.any_nil, List.find?_nil, Option.map_none, Bool.and_false, Bool.false_or, Bool.not_true,
    Bool.false_eq_true, if_false, false_and]
  by_cases ho : s.nd.ordered = true
  · obtain ⟨t, i, ht, hkind⟩ := hord ho
    have hp : (some t.kind == some kPOISON) = false := by rcases hkind with e | e <;> rw [e] <;> decide
    have hk : some t.kind = some kORDER ∨ some t.kind = some kEND ∨ some t.kind = some kPOISON := by
      rcases hkind with e | e <;> simp [e]
    have hne : some t.kind ≠ some kEND ↔ some t.kind = some kORDER := by
      rcases hkind with e | e <;> rw [e] <;> decide
    simp only [ho, ht, if_true, Option.map_some, hp, Bool.and_false, Bool.false_and, Bool.false_eq_true, if_false, if_pos hk, hne, true_and]
    refine (if_neg hnodrain).trans ?_
    cases go s with
    | wait => rfl
    | did t firing => simp only [State.came, ho, ht, Option.map_some, true_and]; rfl
  · have hp : (some kEND == some kPOISON) = false := by decide
    simp only [ho, hp, Bool.and_false, Bool.false_and, Bool.false_eq_true, if_false, Option.some.injEq, true_or, or_true, if_true]
    refine (if_neg hnodrain).trans ?_
    cases go s with
    | wait => rfl
    | did t firing => simp only [State.came, ho, false_and, and_false, Bool.false_eq_true, if_false]; rfl

/-- A node whose heads are one record acts by `go`. -/
theorem nodeStep_of_ready {i : Nat} (h : s.Ready ks hs i) : s.nodeStep s.nd ks outs false go ill hurt = s.came (go s) :=
  nodeStep_of_stands h.1 h.accepted h.not_drain

end

end Sys2Proof.Machine
end

section
/-! PROOFS, O39. The memory nodes. -/

namespace Sys2Proof.Machine
open State

/-! ## Issuing an access -/

theorem nodeOnly_emitAcc (d : Nd) (s : State) (a : MemAcc) : NodeOnly d s (s.emitAcc d a) := by
  unfold State.emitAcc
  dsimp only
  have h : NodeOnly d s (if a.store then s else if a.gapTok then s.emit d 0 a.out a.idx else if a.poison then s.emit d 0 poisonTok a.idx
      else if a.none then s.emit d 0 a.out a.idx else s.emit d 0 { a.out with pay := a.data } a.idx) := by
    split
    · exact NodeOnly.refl d s
    · split
      · exact nodeOnly_emit ..
      · split
        · exact nodeOnly_emit ..
        · split <;> exact nodeOnly_emit ..
  split
  · exact h.trans (nodeOnly_emit ..)
  · exact h

theorem nodeOnly_flushAccs (d : Nd) (k : Nat) (s : State) : NodeOnly d s (State.flushAccs d k s) := by
  induction k generalizing s with
  | zero => exact NodeOnly.refl d s
  | succ k ih =>
    unfold State.flushAccs
    split
    · exact NodeOnly.refl d s
    · split
      · exact ((nodeOnly_modRt ..).trans (nodeOnly_emitAcc ..)).trans (ih _)
      · exact NodeOnly.refl d s

theorem nodeOnly_setCounts (d : Nd) (s : State) (l : List Nat) : NodeOnly d s (s.setCounts d l) := by
  unfold State.setCounts; exact nodeOnly_modRt ..

theorem nodeOnly_issueAcc (d : Nd) (s : State) (a : MemAcc) : NodeOnly d s (s.issueAcc d a) := by
  unfold State.issueAcc
  dsimp only
  split
  · exact (nodeOnly_modRt ..).trans (nodeOnly_flushAccs ..)
  · exact ((nodeOnly_modRt ..).trans (nodeOnly_setCounts ..)).trans (nodeOnly_flushAccs ..)

/-! ## A load node and a store node -/

/-- The region of a thread is what its context says. -/
theorem reg_of_threads {s u : State} (h : u.threads = s.threads) (n : BitVec 9) : u.reg n = s.reg n := by
  simp only [State.reg, State.thr, h]

section
variable {s u : State} {a b : Token} {i : Nat} {op : Instr} {inord emit : Bool} {sc : BitVec 3}
  {spot : State → Nd → Token → State × Spot}

section
variable (h : s.Ready [0] [(0, a, i)] i)
include h

theorem State.Ready.head_a : s.headAt s.nd 0 = some (a, i) := h.1.2.2.2.1 _ (List.mem_singleton_self _)

theorem State.Ready.data_a : a.kind = kDATA := by
  rcases (h.2 _ (List.mem_singleton_self _)).2 with e | ⟨e, _⟩
  · exact e
  · exact absurd e (by simp)

/-- A load node with INORD whose last access has not performed waits. -/
theorem loadNode_of_held (hheld : (s.rt s.nd.n s.nd.t).inordHeld s.nd.slot inord = true) : s.loadNode op inord emit sc spot = s := by
  unfold State.loadNode
  refine (nodeStep_of_ready h).trans ?_
  simp only [h.head_a, h.data_a, if_true, hheld, came_wait]

variable (hheld : (s.rt s.nd.n s.nd.t).inordHeld s.nd.slot inord = false)
include hheld

/-- An address that faults parks a load node, with its record. -/
theorem loadNode_of_bad {c : BitVec 8} {va : Word} (hs : spot s s.nd a = (u, .bad c va)) :
    s.loadNode op inord emit sc spot = s.acted (u.park s.nd c va 0 (u.nodeFlags s.nd false (isVirtual op) va)) := by
  unfold State.loadNode
  refine (nodeStep_of_ready h).trans ?_
  simp only [h.head_a, h.data_a, if_true, hheld, Bool.false_eq_true, if_false, hs, came_acted]

/-- A record whose address is not valid makes no access. -/
theorem loadNode_of_none (hu : u.threads = s.threads) (hs : spot s s.nd a = (u, .none)) :
    s.loadNode op inord emit sc spot = s.fired (((u.popAt s.nd 0).addFl s.nd.n (sideOf s.nd false [(0, a, i)]).2).issueAcc s.nd
      { ownAcc op inord emit sc i with
        none := true, done := true, out := ({ loadMarks op (sideOf s.nd false [(0, a, i)]).1 with valid := 0 } : Side).tok 0 }) := by
  unfold State.loadNode
  refine (nodeStep_of_ready h).trans ?_
  simp only [h.head_a, h.data_a, if_true, hheld, Bool.false_eq_true, if_false, hs]
  refine came_fired h.1.live ?_
  rw [(((nodeOnly_popAt ..).trans (nodeOnly_addFl s.nd ..)).trans (nodeOnly_issueAcc ..)).st, reg_of_threads hu]

/-- An address that leads somewhere makes an access there. -/
theorem loadNode_of_spot {p : Spot} (hu : u.threads = s.threads) (hs : spot s s.nd a = (u, p)) (hb : ∀ c va, p ≠ .bad c va) (hw : p ≠ .wait)
    (hn : p ≠ .none) :
    s.loadNode op inord emit sc spot = s.fired (((u.popAt s.nd 0).addFl s.nd.n (sideOf s.nd false [(0, a, i)]).2).issueAcc s.nd
      (p.acc { ownAcc op inord emit sc i with out := ({ loadMarks op (sideOf s.nd false [(0, a, i)]).1 with valid := 0xFF } : Side).tok 0 })) := by
  unfold State.loadNode
  refine (nodeStep_of_ready h).trans ?_
  simp only [h.head_a, h.data_a, if_true, hheld, Bool.false_eq_true, if_false, hs]
  cases p with
  | bad c va => exact absurd rfl (hb c va)
  | wait => exact absurd rfl hw
  | none => exact absurd rfl hn
  | mem _ | scr _ _ | ws _ =>
    refine came_fired h.1.live ?_
    rw [(((nodeOnly_popAt ..).trans (nodeOnly_addFl s.nd ..)).trans (nodeOnly_issueAcc ..)).st, reg_of_threads hu]

end

section
variable (h : s.Ready [0, 1] [(0, a, i), (1, b, i)] i)
include h

theorem State.Ready.heads_ab : s.headAt s.nd 0 = some (a, i) ∧ s.headAt s.nd 1 = some (b, i) :=
  ⟨h.1.2.2.2.1 _ List.mem_cons_self, h.1.2.2.2.1 (1, b, i) (List.mem_cons_of_mem _ (List.mem_singleton_self _))⟩

theorem State.Ready.data_ab : a.kind = kDATA ∧ b.kind = kDATA := by
  constructor
  · rcases (h.2 _ List.mem_cons_self).2 with e | ⟨e, _⟩
    · exact e
    · exact absurd e (by simp)
  · rcases (h.2 (1, b, i) (List.mem_cons_of_mem _ (List.mem_singleton_self _))).2 with e | ⟨e, _⟩
    · exact e
    · exact absurd e (by simp)

variable (hheld : (s.rt s.nd.n s.nd.t).inordHeld s.nd.slot inord = false)
include hheld

/-- An address that faults parks a store node, with its records. -/
theorem storeNode_of_bad {c : BitVec 8} {va : Word} (hs : spot s s.nd a = (u, .bad c va)) :
    s.storeNode op inord emit sc spot = s.acted (u.park s.nd c va 0 (u.nodeFlags s.nd true (isVirtual op) va)) := by
  unfold State.storeNode
  refine (nodeStep_of_ready h).trans ?_
  simp only [h.heads_ab, h.data_ab, and_self, if_true, hheld, Bool.false_eq_true, if_false, hs, came_acted]

/-- Any other address, or none, makes an access with the data. -/
theorem storeNode_of_spot {p : Spot} (hu : u.threads = s.threads) (hs : spot s s.nd a = (u, p)) (hb : ∀ c va, p ≠ .bad c va) (hw : p ≠ .wait) :
    s.storeNode op inord emit sc spot = s.fired ((u.popAll s.nd [0, 1]).issueAcc s.nd
      (p.acc { ownAcc op inord emit sc i with store := true, data := b.pay, lanes := b.valid })) := by
  unfold State.storeNode
  refine (nodeStep_of_ready h).trans ?_
  simp only [h.heads_ab, h.data_ab, and_self, if_true, hheld, Bool.false_eq_true, if_false, hs]
  cases p with
  | bad c va => exact absurd rfl (hb c va)
  | wait => exact absurd rfl hw
  | none | mem _ | scr _ _ | ws _ =>
    refine came_fired h.1.live ?_
    rw [((nodeOnly_popAll ..).trans (nodeOnly_issueAcc ..)).st, reg_of_threads hu]

end

end

/-! ## Where an address leads -/

section
variable (s : State) {u : State} {d : Nd} {a : Token} {write : Bool}

theorem spotG_of_not_valid (h : (fld a.valid 0 2 : BitVec 2) ≠ 3) : s.spotG d a write = (s, .none) := if_pos h

theorem spotG_of_misaligned (h : (fld a.valid 0 2 : BitVec 2) = 3) (ha : a.va.toNat % 32 ≠ 0) :
    s.spotG d a write = (s, .bad cALIGN a.va) := by
  rw [State.spotG, if_neg (by simp [h]), if_pos ha]

variable (h : (fld a.valid 0 2 : BitVec 2) = 3) (ha : a.va.toNat % 32 = 0)
include h ha

theorem spotG_of_fault {c : BitVec 8} (hr : s.resolve (s.reg d.n).capt (if write then .write else .read) false a.va
    (.node ⟨d.n, d.t, BitVec.ofNat 3 d.slot⟩) = (u, .fault c)) : s.spotG d a write = (u, .bad c a.va) := by
  rw [State.spotG, if_neg (by simp [h]), if_neg (by simp [ha]), hr]

theorem spotG_of_ok {key : Nat} {x : Xl} (hr : s.resolve (s.reg d.n).capt (if write then .write else .read) false a.va
    (.node ⟨d.n, d.t, BitVec.ofNat 3 d.slot⟩) = (u, .ok key x)) : s.spotG d a write = (u, .mem x.target) := by
  rw [State.spotG, if_neg (by simp [h]), if_neg (by simp [ha]), hr]

end

section
variable (s : State) {d : Nd} {a : Token}

theorem spotS_of_not_valid (h : a.valid.getLsbD 0 = false) : s.spotS d a = .none := by simp only [State.spotS, h]; rfl

theorem spotW_of_not_valid (h : a.valid.getLsbD 0 = false) : s.spotW d a = .none := by simp only [State.spotW, h]; rfl

variable (h : a.valid.getLsbD 0 = true)
include h

theorem spotS_of_misaligned (ha : (a.lane 0).toNat % 32 ≠ 0) : s.spotS d a = .bad cALIGN (BitVec.ofNat 64 (a.lane 0).toNat) := by
  simp only [State.spotS, h, Bool.not_true, Bool.false_eq_true, if_false, if_pos ha]

variable (ha : (a.lane 0).toNat % 32 = 0)
include ha

theorem spotS_of_outside (hs : scrSpot d.img (a.lane 0).toNat = none) : s.spotS d a = .bad cACCESS (BitVec.ofNat 64 (a.lane 0).toNat) := by
  simp only [State.spotS, h, ha, hs, Bool.not_true, Bool.false_eq_true, if_false, ne_eq, not_true_eq_false]

theorem spotS_of_free {tile : TileNo} {o : Nat} (hs : scrSpot d.img (a.lane 0).toNat = some (tile, o))
    (hf : s.scoreHolds (clusterOf d.n) ((s.reg d.n).absTile tile) o (o + 32) = false) : s.spotS d a = .scr tile.toNat o := by
  simp only [State.spotS, h, ha, hs, hf, Bool.not_true, Bool.false_eq_true, if_false, ne_eq, not_true_eq_false]

theorem spotW_of_beyond (hb : imgWslen d.img ≤ (a.lane 0).toNat) : s.spotW d a = .bad cACCESS (BitVec.ofNat 64 (a.lane 0).toNat) := by
  simp only [State.spotW, h, ha, hb, Bool.not_true, Bool.false_eq_true, if_false, ne_eq, not_true_eq_false, if_true]

theorem spotW_of_inside (hb : (a.lane 0).toNat < imgWslen d.img) (hw : (s.clu (clusterOf d.n)).inWin = false) :
    s.spotW d a = .ws (imgWsbase d.img + (a.lane 0).toNat) := by
  simp only [State.spotW, h, ha, hw, Nat.not_le.mpr hb, Bool.not_true, Bool.false_eq_true, if_false, ne_eq, not_true_eq_false]

end

/-! ## The nodes -/

theorem resolve_threads_of {s u : State} {cr : Capt} {k : Access} {sh : Bool} {va : Word} {q : Waiter} {r : Res}
    (h : s.resolve cr k sh va q = (u, r)) : u.threads = s.threads := by
  have := (resolve_xlOnly s cr k sh va q).threads
  rwa [h] at this

/-- Flags of an access to an address that is not virtual: no host tier. -/
theorem nodeFlags_false (s : State) (d : Nd) (write : Bool) (va : Word) : s.nodeFlags d write false va = if write then 1 else 0 := by
  simp [State.nodeFlags, wflag]

section
variable (t : BitVec 4) (n e : BitVec 1) (sc : BitVec 3) (s : State)

theorem exec_gld : exec (.gld t n e sc) s = .next (s.loadNode (.gld t n e sc) (n == 1) (e == 1) sc (fun s d a => s.spotG d a false)) := rfl

theorem exec_sld : exec (.sld t n e sc) s = .next (s.loadNode (.sld t n e sc) (n == 1) (e == 1) sc (fun s d a => (s, s.spotS d a))) := rfl

theorem exec_wld : exec (.wld t n e sc) s = .next (s.loadNode (.wld t n e sc) (n == 1) (e == 1) sc (fun s d a => (s, s.spotW d a))) := rfl

theorem exec_gst : exec (.gst t n e sc) s = .next (s.storeNode (.gst t n e sc) (n == 1) (e == 1) sc (fun s d a => s.spotG d a true)) := rfl

theorem exec_sst : exec (.sst t n e sc) s = .next (s.storeNode (.sst t n e sc) (n == 1) (e == 1) sc (fun s d a => (s, s.spotS d a))) := rfl

end

/-- Memory nodes issue, park or wait. -/
theorem memoryNodes : Rule.MemoryNodes := by
  intro s u t n e sc a b i key x d held side va who base marks load store mem off lane none_ nothing parks scr
  have hwide : ∀ (op : Instr), ownAcc op (n == 1) (e == 1) sc i = base op false := by
    intro op
    simp only [ownAcc, base, Bool.or_eq_true, beq_iff_eq]
  have hinord : (s.rt d.n d.t).inordHeld d.slot (n == 1) = (n == 1 && held) := rfl
  have hfree : ¬(n = 1 ∧ held = true) → (s.rt d.n d.t).inordHeld d.slot (n == 1) = false := by
    intro hnot
    rw [hinord, Bool.eq_false_iff]
    simpa using hnot
  refine ⟨?_, fun hnot h => ?_, fun hnot h => ?_⟩
  · rintro ⟨hn, hh⟩ h op hop
    have hheld : (s.rt d.n d.t).inordHeld d.slot (n == 1) = true := by rw [hinord, hn, hh]; rfl
    simp only [List.mem_cons, List.not_mem_nil, or_false] at hop
    rcases hop with rfl | rfl | rfl
    · exact (exec_gld ..).trans (congrArg _ (loadNode_of_held h hheld))
    · exact (exec_sld ..).trans (congrArg _ (loadNode_of_held h hheld))
    · exact (exec_wld ..).trans (congrArg _ (loadNode_of_held h hheld))
  · have hheld := hfree hnot
    have hnone : ∀ (op : Instr) (spot : State → Nd → Token → State × Spot), spot s d a = (s, .none) →
        s.loadNode op (n == 1) (e == 1) sc spot = s.fired (((s.popAt d 0).addFl d.n side.2).issueAcc d
          { base op false with none := true, done := true, out := ({ loadMarks op side.1 with valid := 0 } : Side).tok 0 }) := by
      intro op spot hs
      rw [loadNode_of_none h hheld rfl hs, hwide]
    have hload : ∀ (op : Instr) (spot : State → Nd → Token → State × Spot) (v : State) (p : Spot), v.threads = s.threads → spot s d a = (v, p) →
        (∀ c va, p ≠ .bad c va) → p ≠ .wait → p ≠ .none →
        s.loadNode op (n == 1) (e == 1) sc spot = s.fired (((v.popAt d 0).addFl d.n side.2).issueAcc d
          (p.acc { base op false with out := ({ loadMarks op side.1 with valid := 0xFF } : Side).tok 0 })) := by
      intro op spot v p hv hs hb hw hn
      rw [loadNode_of_spot h hheld hv hs hb hw hn, hwide]
    refine ⟨fun hv => ?_, fun hl => ⟨?_, ?_⟩, fun hv ha => ⟨fun hr => ?_, fun c hr => ?_⟩, fun hv ha => ?_,
      ⟨fun tile o hl ha hs hf => ?_, fun hl ha => ?_, fun hl ha hs => ?_⟩, fun hl ha hb hw => ?_, fun hl ha hb => ?_⟩
    · exact (exec_gld ..).trans (congrArg _ (hnone _ _ (spotG_of_not_valid s hv)))
    · exact (exec_sld ..).trans (congrArg _ (hnone _ _ (congrArg (s, ·) (spotS_of_not_valid s hl))))
    · exact (exec_wld ..).trans (congrArg _ (hnone _ _ (congrArg (s, ·) (spotW_of_not_valid s hl))))
    · exact (exec_gld ..).trans (congrArg _ (hload _ _ u (.mem x.target) (resolve_threads_of hr) (spotG_of_ok s hv ha hr) (by simp) (by simp) (by simp)))
    · exact (exec_gld ..).trans (congrArg _ (loadNode_of_bad h hheld (spotG_of_fault s hv ha hr)))
    · exact (exec_gld ..).trans (congrArg _ (loadNode_of_bad h hheld (spotG_of_misaligned s hv ha)))
    · exact (exec_sld ..).trans (congrArg _ (hload _ _ s (.scr tile.toNat o) rfl (congrArg (s, ·) (spotS_of_free s hl ha hs hf)) (by simp) (by simp) (by simp)))
    · refine (exec_sld ..).trans (congrArg _ ((loadNode_of_bad h hheld (congrArg (s, ·) (spotS_of_misaligned s hl ha))).trans ?_))
      rw [show isVirtual (.sld t n e sc) = false from rfl, nodeFlags_false]; rfl
    · refine (exec_sld ..).trans (congrArg _ ((loadNode_of_bad h hheld (congrArg (s, ·) (spotS_of_outside s hl ha hs))).trans ?_))
      rw [show isVirtual (.sld t n e sc) = false from rfl, nodeFlags_false]; rfl
    · exact (exec_wld ..).trans (congrArg _ (hload _ _ s (.ws (imgWsbase d.img + off)) rfl (congrArg (s, ·) (spotW_of_inside s hl ha hb hw)) (by simp) (by simp) (by simp)))
    · refine (exec_wld ..).trans (congrArg _ ((loadNode_of_bad h hheld (congrArg (s, ·) (spotW_of_beyond s hl ha hb))).trans ?_))
      rw [show isVirtual (.wld t n e sc) = false from rfl, nodeFlags_false]; rfl
  · have hheld := hfree hnot
    have hstore : ∀ (op : Instr) (spot : State → Nd → Token → State × Spot) (v : State) (p : Spot), v.threads = s.threads → spot s d a = (v, p) →
        (∀ c va, p ≠ .bad c va) → p ≠ .wait →
        s.storeNode op (n == 1) (e == 1) sc spot = s.fired ((v.popAll d [0, 1]).issueAcc d
          (p.acc { base op true with data := b.pay, lanes := b.valid })) := by
      intro op spot v p hv hs hb hw
      rw [storeNode_of_spot h hheld hv hs hb hw, hwide]
    refine ⟨fun hv => ?_, fun hl => ?_, fun hv ha => ⟨fun hr => ?_, fun c hr => ?_⟩, fun hv ha => ?_,
      ⟨fun tile o hl ha hs hf => ?_, fun hl ha => ?_, fun hl ha hs => ?_⟩⟩
    · exact (exec_gst ..).trans (congrArg _ (hstore _ _ s .none rfl (spotG_of_not_valid s hv) (by simp) (by simp)))
    · exact (exec_sst ..).trans (congrArg _ (hstore _ _ s .none rfl (congrArg (s, ·) (spotS_of_not_valid s hl)) (by simp) (by simp)))
    · exact (exec_gst ..).trans (congrArg _ (hstore _ _ u (.mem x.target) (resolve_threads_of hr) (spotG_of_ok s hv ha hr) (by simp) (by simp)))
    · exact (exec_gst ..).trans (congrArg _ (storeNode_of_bad h hheld (spotG_of_fault s hv ha hr)))
    · exact (exec_gst ..).trans (congrArg _ (storeNode_of_bad h hheld (spotG_of_misaligned s hv ha)))
    · exact (exec_sst ..).trans (congrArg _ (hstore _ _ s (.scr tile.toNat o) rfl (congrArg (s, ·) (spotS_of_free s hl ha hs hf)) (by simp) (by simp)))
    · refine (exec_sst ..).trans (congrArg _ ((storeNode_of_bad h hheld (congrArg (s, ·) (spotS_of_misaligned s hl ha))).trans ?_))
      rw [show isVirtual (.sst t n e sc) = false from rfl, nodeFlags_false]; rfl
    · refine (exec_sst ..).trans (congrArg _ ((storeNode_of_bad h hheld (congrArg (s, ·) (spotS_of_outside s hl ha hs))).trans ?_))
      rw [show isVirtual (.sst t n e sc) = false from rfl, nodeFlags_false]; rfl

end Sys2Proof.Machine
end

section
/-! PROOFS, O39. The counterexample: a performed access that ends its own region. -/

namespace Sys2Proof.Machine
open State

/-- A read of the weight store, in flight. -/
def lastWeightRead : MemAcc := { slot := 0, op := .wld 0 0 0 0, store := false, where_ := 2 }

/-- Thread 0's region is DONE, holds the whole weight store of its quarter and reads its first words; an uncorrectable error is armed at word
0 of bank 0 of that store. -/
def weightsLost : State :=
  { State.reset with
    threads := [(0, { region := { st := 5, image := fieldAt 0x18 8 (2 ^ 23), placed := true, tiles := [(0, { accs := [lastWeightRead] })] } })]
    module := { injctl := 1#64 <<< 63 ||| 1#64 <<< 60 ||| 1#64 <<< 58, injaddr := 2#64 <<< 31 } }

/-- The channel positions of thread 0's region after a word. -/
def positions (o : Out) : Tab Nat := match o with | .next t => (t.reg 0).pos | _ => []

/-- The read retires the bank (R374, R392), which ends the region and its tokens: no token of the access leaves. -/
theorem weightsLost_positions : positions (exec .memoryAccessPerformed weightsLost) = [] := by decide +kernel

theorem weightsLost_alone (k : Nat) (b : MemAcc) (h : [lastWeightRead][k]? = some b) : k = 0 := by
  have hk := (List.getElem?_eq_some_iff.mp h).1
  simpa using hk

/-- Refutes O39, in MemoryPerforms: the statement has every load's token leave, but the read of `weightsLost` meets an injected error that
retires its bank and so ends the region, with its accesses and tokens.  MemoryNodes holds (`memoryNodes`). -/
theorem not_memoryAccessNodes : ¬ Obligations.MemoryAccessNodes := by
  rintro ⟨_, h⟩
  obtain ⟨r, hr⟩ : ∃ r, weightsLost.wsRead (clusterOf weightsLost.ev.n)
      (quarterOf ((weightsLost.reg weightsLost.ev.n).absTile weightsLost.ev.t)) lastWeightRead.addr 32 = r := ⟨_, rfl⟩
  have h := h weightsLost r.1 lastWeightRead r.2.1 r.2.2 (by decide +kernel) (by decide +kernel) (by decide +kernel) rfl
    (fun k b hk _ => weightsLost_alone k b hk)
  have h := (h.2 (by decide +kernel)).2.2.2 rfl rfl rfl
  have h := congrArg positions (h.2.2 (by decide) hr)
  subst hr
  rw [weightsLost_positions] at h
  exact absurd h (by decide +kernel)

end Sys2Proof.Machine
end

section
/-! PROOFS, O44. How a node pairs two heads (R130). -/

namespace Sys2Proof.Machine
open State

/-- A gap's count is a 32-bit field, below the fold's first bound. -/
theorem min_gapCount (t : Token) (k : Nat) : min 4294967296 (min t.gapCount k) = min t.gapCount k :=
  min_eq_right ((min_le_left _ _).trans (fld t.pay 64 32).isLt.le)

section
variable {s : State} {d : Nd} {op : NodeOp} {a b : Token} {i j : Nat} (hs : op.slots = [0, 1]) (hg : ∀ t, op.gapHold t = false)
  (ha : s.headAt d 0 = some (a, i)) (hb : s.headAt d 1 = some (b, j))
include hs ha hb

/-- A MARK at either head is waited for. -/
theorem align_of_mark (h : a.kind = kMARK ∨ b.kind = kMARK) : s.align d op = .wait := by
  unfold State.align
  simp [hs, ha, hb, h]

/-- Two ENDs end the node. -/
theorem align_of_ends (hfin : ∀ t, op.fin t = none) (hka : a.kind = kEND) (hkb : b.kind = kEND) :
    s.align d op = .did (s.endNode d op.outs [(0, a, i), (1, b, j)]) false := by
  unfold State.align
  simp [hs, ha, hb, hka, hkb, hfin, lowOf, kEND, kMARK]

/-- The first head is a record and the earlier of the two: it is discarded, and its index goes on as a gap. -/
theorem align_of_first_earlier (hka : a.kind = kDATA) (h : b.kind = kDATA ∧ i < j ∨ b.kind = kGAP ∧ i < b.gapFirst ∨ b.kind = kEND) :
    s.align d op = .did (op.gap ((s.modQueue d.n d.t (4 * d.slot) (fun q => q.discard (d.qrec 0) i)).sawGap d.n) i 1 false) true := by
  unfold State.align
  rcases h with ⟨hkb, h⟩ | ⟨hkb, h⟩ | hkb
  · simp [hs, ha, hb, hka, hkb, lowOf, kDATA, kMARK, kGAP, kEND, kDRAIN, h.le, h.ne']
  · simp [hs, ha, hb, hka, hkb, lowOf, kDATA, kMARK, kGAP, kEND, kDRAIN, h.le, h.ne']
  · simp [hs, ha, hb, hka, hkb, lowOf, kDATA, kMARK, kGAP, kEND, kDRAIN]

/-- The second head is. -/
theorem align_of_second_earlier (hkb : b.kind = kDATA) (h : a.kind = kDATA ∧ j < i ∨ a.kind = kGAP ∧ j < a.gapFirst ∨ a.kind = kEND) :
    s.align d op = .did (op.gap ((s.modQueue d.n d.t (4 * d.slot + 1) (fun q => q.discard (d.qrec 1) j)).sawGap d.n) j 1 false) true := by
  unfold State.align
  rcases h with ⟨hka, h⟩ | ⟨hka, h⟩ | hka
  · simp [hs, ha, hb, hka, hkb, lowOf, kDATA, kMARK, kGAP, kEND, kDRAIN, h.le, h.ne']
  · simp [hs, ha, hb, hka, hkb, lowOf, kDATA, kMARK, kGAP, kEND, kDRAIN, h.le, h.ne']
  · simp [hs, ha, hb, hka, hkb, lowOf, kDATA, kMARK, kGAP, kEND, kDRAIN]

include hg

/-- A gap at the first head that begins before a record is consumed up to the record's index. -/
theorem align_of_gap_before (hka : a.kind = kGAP) (hkb : b.kind = kDATA) (h : a.gapFirst < j) :
    s.align d op = .did (op.gap (s.modQueue d.n d.t (4 * d.slot) (fun q => q.eatGap (d.qrec 0) (Nat.min a.gapCount (j - a.gapFirst))))
      a.gapFirst (Nat.min a.gapCount (j - a.gapFirst)) a.gapComp) true := by
  unfold State.align
  simp [hs, ha, hb, hka, hkb, lowOf, kDATA, kMARK, kGAP, kEND, kDRAIN, h, h.le, h.ne', hg]
  rw [min_gapCount]

/-- A gap at the first head that begins at a record's index takes the record with its first index. -/
theorem align_of_gap_at (hka : a.kind = kGAP) (hkb : b.kind = kDATA) (h : a.gapFirst = j) :
    s.align d op = .did (op.gap ((s.modQueue d.n d.t (4 * d.slot) (fun q => q.eatGap (d.qrec 0) 1)).modQueue d.n d.t (4 * d.slot + 1)
      (fun q => q.discard (d.qrec 1) j)) j 1 a.gapComp) true := by
  unfold State.align
  simp [hs, ha, hb, hka, hkb, lowOf, kDATA, kMARK, kGAP, kEND, kDRAIN, h, hg]

/-- Two gaps that begin alike are consumed up to the shorter's end. -/
theorem align_of_gaps (hka : a.kind = kGAP) (hkb : b.kind = kGAP) (h : a.gapFirst = b.gapFirst) :
    s.align d op = .did (op.gap ((s.modQueue d.n d.t (4 * d.slot) (fun q => q.eatGap (d.qrec 0) (Nat.min a.gapCount b.gapCount))).modQueue d.n d.t
      (4 * d.slot + 1) (fun q => q.eatGap (d.qrec 1) (Nat.min a.gapCount b.gapCount))) a.gapFirst (Nat.min a.gapCount b.gapCount)
        (a.gapComp && b.gapComp)) true := by
  unfold State.align
  simp [hs, ha, hb, hka, hkb, lowOf, kMARK, kGAP, kEND, kDRAIN, h, hg]
  rw [min_gapCount]

end

/-! ## Elementwise nodes -/

/-- The elementwise words of two queue operands. -/
def pairOps (t : BitVec 4) (m : BitVec 2) (x : BitVec 1) : List Instr :=
  [.iadd t 0 x, .isub t 0 x, .imul t 0 x, .imulh t 0, .iand t 0, .ior t 0, .ixor t 0, .ishl t 0, .ishr t 0, .isha t 0
   , .icmpeq t 0, .icmpne t 0, .icmplt t 0, .icmple t 0, .faddNode t 0 m, .fsubNode t 0 m, .fmulNode t 0 m, .fcmpeqNode t 0, .fcmpltNode t 0
   , .fcmpleNode t 0]

/-- Each is an element operation on the heads of slots A and B. -/
theorem exec_of_mem_pairOps {t : BitVec 4} {m : BitVec 2} {x : BitVec 1} {op : Instr} (h : op ∈ pairOps t m x) (s : State) :
    ∃ f, exec op s = .next (s.ew2 t 0 f) := by
  simp only [pairOps, List.mem_cons, List.not_mem_nil, or_false] at h
  rcases h with rfl | rfl | rfl | rfl | rfl | rfl | rfl | rfl | rfl | rfl | rfl | rfl | rfl | rfl | rfl | rfl | rfl | rfl | rfl | rfl <;>
    exact ⟨_, rfl⟩

/-- The heads of slots A and B come to w under every node that aligns them, sends its gaps on and has nothing due before its END. -/
def pairsTo (s : State) (w : Went) : Prop :=
  ∀ op : NodeOp, op.slots = [0, 1] → op.outs = [0] → (∀ t, op.gapHold t = false) → (∀ t, op.fin t = none) →
    op.gap = (fun s' m n c => s'.emitGap s.nd [0] m n c) → s.align s.nd op = w

section
variable {s : State} {a b : Token} {i j : Nat} {w : Went}

/-- A node of two queue operands acts as its heads pair. -/
theorem ew2_of_pairsTo (h : s.Stands [0, 1] [(0, a, i), (1, b, j)]) (hka : badHead false 0 a = none) (hkb : badHead false 1 b = none)
    (hd : a.kind ≠ kDRAIN ∨ b.kind ≠ kDRAIN) (hw : pairsTo s w) (t : BitVec 4) (f : Nat → Nat → Nat × Fl) : s.ew2 t 0 f = s.came w := by
  have hbad : ∀ x ∈ [((0, a, i) : Taken), (1, b, j)], badHead false x.1 x.2.1 = none := by simp [hka, hkb]
  have hdrain : [0, 1] = [] ∨ ∃ y ∈ [((0, a, i) : Taken), (1, b, j)], y.2.1.kind ≠ kDRAIN := by simpa using hd
  refine (nodeStep_of_stands h hbad hdrain).trans (congrArg s.came ?_)
  exact hw _ rfl rfl (fun _ => rfl) (fun _ => rfl) rfl

/-- Such a node with no ORDER input takes none. -/
theorem came_of_unordered (ho : s.nd.ordered = false) (t : State) (firing : Bool) : s.came (.did t firing) = s.acted t := by
  rw [State.came, if_neg (by simp [ho])]

end

/-- The kinds of a head that an elementwise node pairs or waits at. -/
def paired (t : Token) : Prop := t.kind = kDATA ∨ t.kind = kGAP ∨ t.kind = kEND ∨ t.kind = kMARK

theorem paired.accepted {t : Token} (h : paired t) {k : Nat} (hk : k ≠ 3) : badHead false k t = none := by
  rcases h with e | e | e | e <;> simp [badHead, hk, e, kDATA, kGAP, kEND, kMARK, kPOISON, kCMD, kRESUME, kORDER, kCTRL]

theorem paired.not_drain {t : Token} (h : paired t) : t.kind ≠ kDRAIN := by
  rcases h with e | e | e | e <;> rw [e] <;> decide

/-- How heads pair at a node with no ORDER input. -/
theorem alignment : Rule.Alignment := by
  intro s t m x a b i j d ops dat queue goes hlive hill ho ha hb
  have hst : s.Stands [0, 1] [(0, a, i), (1, b, j)] :=
    ⟨hlive, hill, rfl, by simpa using ⟨ha, hb⟩, fun e => absurd (ho.symm.trans e) (by decide)⟩
  have hcame : ∀ (w : Went), paired a → paired b → pairsTo s w → ∀ op ∈ ops, exec op s = .next (s.came w) := by
    intro w hka hkb hw op hop
    obtain ⟨f, hf⟩ := exec_of_mem_pairOps hop s
    rw [hf, ew2_of_pairsTo hst (hka.accepted (by decide)) (hkb.accepted (by decide)) (Or.inl hka.not_drain) hw]
  have hgoes : ∀ (u : State) (fi : Bool), paired a → paired b → pairsTo s (.did u fi) → goes u := by
    intro u fi hka hkb hw op hop
    rw [hcame _ hka hkb hw op hop, came_of_unordered ho]
  refine ⟨fun hka hkb => ?_, fun hka h => ?_, fun hkb h => ?_, fun hka hkb h => ?_, fun hka hkb h => ?_, fun hka hkb h => ?_, fun h hk => ?_⟩
  · refine hgoes _ false (by simp [paired, hka]) (by simp [paired, hkb]) fun op hs houts _ hfin _ => ?_
    rw [align_of_ends hs ha hb hfin hka hkb, State.endNode, houts]
    simp [hka, hkb]
    rfl
  · have hb' : paired b := h.elim (fun e => Or.inl e.1) (fun h => h.elim (fun e => Or.inr (Or.inl e.1)) (fun e => Or.inr (Or.inr (Or.inl e))))
    refine hgoes _ true (Or.inl hka) hb' fun op hs _ _ _ hgap => ?_
    rw [align_of_first_earlier hs ha hb hka h, hgap]; rfl
  · have ha' : paired a := h.elim (fun e => Or.inl e.1) (fun h => h.elim (fun e => Or.inr (Or.inl e.1)) (fun e => Or.inr (Or.inr (Or.inl e))))
    refine hgoes _ true ha' (Or.inl hkb) fun op hs _ _ _ hgap => ?_
    rw [align_of_second_earlier hs ha hb hkb h, hgap]
  · refine hgoes _ true (Or.inr (Or.inl hka)) (Or.inl hkb) fun op hs _ hg _ hgap => ?_
    rw [align_of_gap_before hs hg ha hb hka hkb h, hgap]; rfl
  · refine hgoes _ true (Or.inr (Or.inl hka)) (Or.inl hkb) fun op hs _ hg _ hgap => ?_
    rw [align_of_gap_at hs hg ha hb hka hkb h, hgap]; rfl
  · refine hgoes _ true (Or.inr (Or.inl hka)) (Or.inr (Or.inl hkb)) fun op hs _ hg _ hgap => ?_
    rw [align_of_gaps hs hg ha hb hka hkb h, hgap]; rfl
  · have hp : ∀ c ∈ [a, b], paired c := fun c hc => by
      rcases hk c hc with e | e | e | e
      exacts [Or.inr (Or.inr (Or.inr e)), Or.inl e, Or.inr (Or.inl e), Or.inr (Or.inr (Or.inl e))]
    exact hcame .wait (hp a (by simp)) (hp b (by simp)) fun op hs _ _ _ _ => align_of_mark hs ha hb h

end Sys2Proof.Machine
end

section
/-! PROOFS, O44. The arrival of a token at a queue (R128). -/

namespace Sys2Proof.Machine
open State

/-! ## A tile of a region after a change -/

theorem rt_modReg (s : State) (n : BitVec 9) (t : TileNo) (f : Region → Region) :
    (s.modReg n f).rt n t = Tab.get {} (f (s.reg n)).tiles t.toNat := by rw [State.rt, reg_modReg]

theorem rt_modRt (s : State) (n : BitVec 9) (t : TileNo) (f : RTile → RTile) : (s.modRt n t f).rt n t = f (s.rt n t) := by
  rw [State.modRt, rt_modReg]
  exact Tab.get_set ..

/-! ## Due flights -/

theorem flightDue_of_due {now : Nat} {fs : List Flight} {k : Nat} {f : Flight} (hk : fs[k]? = some f) (hd : f.due ≤ now)
    (hp : ∀ g ∈ fs.take k, g.dest ≠ f.dest) : flightDue now fs k = some f := by
  have hn : (fs.take k).any (fun g => g.dest == f.dest) = false := by
    rw [List.any_eq_false]
    intro g hg
    simpa using hp g hg
  simp only [flightDue, hk, hd, hn, Bool.not_false, and_self, if_true]

/-- A flight that is not due, or that an earlier one to its place comes before, does not arrive. -/
theorem flightDue_of_early {now : Nat} {fs : List Flight} {k : Nat} {f : Flight} (hk : fs[k]? = some f)
    (h : now < f.due ∨ ∃ g ∈ fs.take k, g.dest = f.dest) : flightDue now fs k = none := by
  have hc : ¬(f.due ≤ now ∧ (!(fs.take k).any (fun g => g.dest == f.dest)) = true) := by
    rintro ⟨hd, hn⟩
    rcases h with h | ⟨g, hg, e⟩
    · omega
    · simp only [Bool.not_eq_true', List.any_eq_false] at hn
      exact hn g hg (by simp [e])
  simp only [flightDue, hk, if_neg hc]

/-! ## The queue takes the token -/

/-- A queue of tile t as an arrival leaves it, with the region's flags and the cycle of its last activity. -/
def State.queueTook (s : State) (n : BitVec 9) (t : TileNo) (q : Nat) (a : Arrived) : State :=
  let u := (s.modQueue n t q (fun _ => a.q)).addFl n a.fl
  let u := if a.gaps then u.sawGap n else u
  u.modReg n (fun r => { r with active := u.now n })

/-- What a queue makes of a token under its record (R134 to R148). -/
def State.queueArrival (s : State) (n : BitVec 9) (t : TileNo) (q : Nat) (tok : Token) (i : Nat) : Arrived :=
  ((s.rt n t).queue q).arrive (queueRec (s.reg n).image t q) (imgInvar (s.reg n).image) (s.reg n).seed
    (slotType (s.reg n).image t (q / 4) (q % 4)) (s.now n) tok i

theorem queueArrive_of_stray {s : State} {n : BitVec 9} {t : TileNo} {q : Nat} {tok : Token} {i : Nat} (h : q % 4 = 3 ∧ tok.kind = kDATA) :
    s.queueArrive n t q tok i = s.nodeFault { n := n, t := t, slot := q / 4, img := (s.reg n).image } cIMAGE := if_pos h

theorem queueArrive_of_taken {s : State} {n : BitVec 9} {t : TileNo} {q : Nat} {tok : Token} {i : Nat} (h : ¬(q % 4 = 3 ∧ tok.kind = kDATA)) :
    s.queueArrive n t q tok i = if (s.queueArrival n t q tok i).overrun
      then (s.queueTook n t q (s.queueArrival n t q tok i)).nodeFault { n := n, t := t, slot := q / 4, img := (s.reg n).image } cOVERRUN
      else s.queueTook n t q (s.queueArrival n t q tok i) := if_neg h

theorem regionOnly_queueTook (s : State) (n : BitVec 9) (t : TileNo) (q : Nat) (a : Arrived) : RegionOnly n s (s.queueTook n t q a) := by
  have h : RegionOnly n s ((s.modQueue n t q (fun _ => a.q)).addFl n a.fl) := (regionOnly_modReg ..).trans (regionOnly_modReg ..)
  unfold State.queueTook
  dsimp only
  split
  · exact (h.trans (regionOnly_modReg ..)).trans (regionOnly_modReg ..)
  · exact h.trans (regionOnly_modReg ..)

theorem queueTook_rt (s : State) (n : BitVec 9) (t : TileNo) (q : Nat) (a : Arrived) :
    (s.queueTook n t q a).rt n t = { s.rt n t with queues := Tab.set (s.rt n t).queues q a.q } := by
  have h : ((s.modQueue n t q (fun _ => a.q)).addFl n a.fl).rt n t = { s.rt n t with queues := Tab.set (s.rt n t).queues q a.q } := by
    rw [State.addFl, rt_modReg]
    exact rt_modRt s n t _
  unfold State.queueTook
  dsimp only
  split
  · rw [rt_modReg]
    refine Eq.trans ?_ h
    rw [State.sawGap, State.raiseFlag, reg_modReg]; rfl
  · rw [rt_modReg]; exact h

theorem queueTook_flight (s : State) (n : BitVec 9) (t : TileNo) (q : Nat) (a : Arrived) :
    ((s.queueTook n t q a).reg n).flight = (s.reg n).flight := by
  unfold State.queueTook
  dsimp only
  split <;> simp only [State.sawGap, State.raiseFlag, State.addFl, State.modQueue, State.modRt, reg_modReg]

theorem queueTook_active (s : State) (n : BitVec 9) (t : TileNo) (q : Nat) (a : Arrived) :
    ((s.queueTook n t q a).reg n).active = s.now n := by
  unfold State.queueTook
  dsimp only
  rw [reg_modReg]
  split
  · exact (((regionOnly_modReg ..).trans (regionOnly_modReg ..)).trans (regionOnly_modReg ..)).now n
  · exact ((regionOnly_modReg ..).trans (regionOnly_modReg ..)).now n

/-- The machine once flight k has left its channel and its queue has had the cycle's arrival. -/
def State.arrivalAt (s : State) (n : BitVec 9) (t : TileNo) (q k : Nat) : State :=
  (s.modReg n (fun r => { r with flight := r.flight.eraseIdx k })).modRt n t
    (fun x => { x with arrived := Tab.set x.arrived q (s.now n + 1) })

theorem regionOnly_arrivalAt (s : State) (n : BitVec 9) (t : TileNo) (q k : Nat) : RegionOnly n s (s.arrivalAt n t q k) :=
  (regionOnly_modReg ..).trans (regionOnly_modReg ..)

theorem arrivalAt_rt (s : State) (n : BitVec 9) (t : TileNo) (q k : Nat) :
    (s.arrivalAt n t q k).rt n t = { s.rt n t with arrived := Tab.set (s.rt n t).arrived q (s.now n + 1) } := by
  rw [State.arrivalAt, rt_modRt, rt_modReg]; rfl

theorem arrivalAt_reg (s : State) (n : BitVec 9) (t : TileNo) (q k : Nat) : ((s.arrivalAt n t q k).reg n).image = (s.reg n).image
    ∧ ((s.arrivalAt n t q k).reg n).seed = (s.reg n).seed ∧ ((s.arrivalAt n t q k).reg n).flight = (s.reg n).flight.eraseIdx k := by
  simp only [State.arrivalAt, State.modRt, reg_modReg, and_self]

/-- The queue sees the token as it did before the flight left. -/
theorem queueArrival_arrivalAt (s : State) (n : BitVec 9) (t : TileNo) (q k : Nat) (tok : Token) (i : Nat) :
    (s.arrivalAt n t q k).queueArrival n t q tok i = s.queueArrival n t q tok i := by
  obtain ⟨hi, hs, _⟩ := arrivalAt_reg s n t q k
  simp only [State.queueArrival, arrivalAt_rt, hi, hs, (regionOnly_arrivalAt s n t q k).now]
  rfl

/-! ## QUEUE_ARRIVAL -/

section
variable {s : State} {f : Flight} {t : TileNo} {q : BitVec 5}

theorem execQueueArrival_of_early (h : flightDue (s.now s.ev.n) (s.reg s.ev.n).flight s.ev.k = none) :
    exec .queueArrival s = .next s := by
  show execQueueArrival s = _
  simp only [execQueueArrival, h]

theorem execQueueArrival_of_second (h : flightDue (s.now s.ev.n) (s.reg s.ev.n).flight s.ev.k = some f) (hf : f.dest = .queue t q)
    (ha : s.hasArrived s.ev.n t q.toNat = true) : exec .queueArrival s = .next s := by
  show execQueueArrival s = _
  obtain ⟨dest, tok, idx, due⟩ := f
  subst hf
  simp only [execQueueArrival, h, ha, if_true]

theorem execQueueArrival_of_due {v : State} (h : flightDue (s.now s.ev.n) (s.reg s.ev.n).flight s.ev.k = some f) (hf : f.dest = .queue t q)
    (ha : s.hasArrived s.ev.n t q.toNat = false) (hv : s.fireFirst s.ev.n t q.toNat = v) (hev : v.ev = s.ev)
    (hd : flightDue (v.now s.ev.n) (v.reg s.ev.n).flight s.ev.k = some f) :
    exec .queueArrival s = .next ((v.arrivalAt s.ev.n t q.toNat s.ev.k).queueArrive s.ev.n t q.toNat f.tok f.idx) := by
  show execQueueArrival s = _
  obtain ⟨dest, tok, idx, due⟩ := f
  subst hf
  simp only [execQueueArrival, h, ha, hv, hev, hd, Bool.false_eq_true, if_false]
  rfl

end

/-- A tile that has fired owes no firing. -/
theorem fireFirst_of_fired {s : State} {n : BitVec 9} {t : TileNo} {q : Nat} (hc : isCounter (s.reg n).image t (q / 4) = false)
    (hl : (s.rt n t).lastCycle = some (s.now n)) : s.fireFirst n t q = s := by
  simp only [State.fireFirst, State.tileTurn, hc, hl, Bool.false_eq_true, if_false, if_true]

/-- Tokens arrive at queues as R128 says. -/
theorem queueArrivals : Rule.QueueArrivals := by
  intro s v f t q n r k hk hf
  refine ⟨fun h => ?_, fireFirst_of_fired, fun hd hp ha hv hev hdue => ?_⟩
  · by_cases he : s.now n < f.due ∨ ∃ g ∈ r.flight.take k, g.dest = f.dest
    · exact execQueueArrival_of_early (flightDue_of_early hk he)
    · rw [not_or] at he
      have ha : s.hasArrived n t q.toNat = true := (h.resolve_left he.1).resolve_left he.2
      exact execQueueArrival_of_second (flightDue_of_due hk (Nat.le_of_not_lt he.1) (fun g hg e => he.2 ⟨g, hg, e⟩)) hf ha
  · intro r u d a
    have hexec : exec .queueArrival s = .next (u.queueArrive n t q.toNat f.tok f.idx) :=
      execQueueArrival_of_due (flightDue_of_due hk hd hp) hf ha hv hev hdue
    have hu : RegionOnly n v u := regionOnly_arrivalAt v n t q.toNat k
    have himg : (u.reg n).image = r.image := (arrivalAt_reg v n t q.toNat k).1
    have harr : u.queueArrival n t q.toNat f.tok f.idx = a := queueArrival_arrivalAt v n t q.toNat k f.tok f.idx
    have hw : RegionOnly n v (u.queueTook n t q.toNat a) := hu.trans (regionOnly_queueTook ..)
    have hq : ((u.queueTook n t q.toNat a).rt n t).queue q.toNat = a.q := by
      rw [queueTook_rt, RTile.queue, Tab.get_set]
    refine ⟨fun h3 hdata => ?_, fun hnot => ⟨fun ho => ?_, fun ho => ?_⟩⟩
    · rw [hexec, queueArrive_of_stray ⟨h3, hdata⟩, himg]
    · refine ⟨u.queueTook n t q.toNat a, ?_, hq, ?_, ?_, ?_, fun b => by rw [OnlyThread.mem hw], hw.2.1⟩
      · rw [hexec, queueArrive_of_taken hnot, harr, ho, if_neg Bool.false_ne_true]
      · have hgot : Tab.get 0 (u.rt n t).arrived q.toNat = v.now n + 1 := by
          rw [show u.rt n t = _ from arrivalAt_rt v n t q.toNat k]; exact Tab.get_set ..
        rw [State.hasArrived, queueTook_rt, hw.now, decide_eq_true_eq]
        exact hgot ▸ Nat.lt_succ_self _
      · rw [queueTook_flight]; exact (arrivalAt_reg v n t q.toNat k).2.2
      · rw [queueTook_active, hu.now]
    · refine ⟨u.queueTook n t q.toNat a, hq, fun b => by rw [OnlyThread.mem hw], hw.2.1, ?_⟩
      rw [hexec, queueArrive_of_taken hnot, harr, ho, if_pos rfl, himg]

/-- Settles O44: the arrival goes through one equation of the event and one of the queue; the alignment through one equation for each way two heads
can pair; the frame through what each operation of a node leaves alone. -/
theorem queuesAndAlignment : Obligations.QueuesAndAlignment := by
  exact ⟨queueArrivals, alignment, firingFrame⟩

end Sys2Proof.Machine
end

section
/-! PROOFS, O40. The ordering and command nodes. -/

namespace Sys2Proof.Machine
open State

/-- The earliest of equal indices. -/
theorem foldl_min_map_const {α : Type} (l : List α) (i : Nat) : (l.map (fun _ => i)).foldl Nat.min i = i := by
  induction l with
  | nil => rfl
  | cons _ r ih =>
    show (r.map (fun _ => i)).foldl Nat.min (Nat.min i i) = i
    rw [show Nat.min i i = i from min_self i, ih]

/-- Heads of one index that are neither GAP nor MARK fire. -/
theorem align_of_record {s : State} {d : Nd} {op : NodeOp} {hs : List Taken} {i : Nat} (hne : hs ≠ []) (hslots : hs.map (·.1) = op.slots)
    (hhead : ∀ h ∈ hs, s.headAt d h.1 = some h.2) (hlow : ∀ h ∈ hs, lowOf h.2.1 h.2.2 = some i)
    (hkind : ∀ h ∈ hs, h.2.1.kind ≠ kMARK ∧ h.2.1.kind ≠ kGAP) (hhold : op.hold s hs = false) : s.align d op = .did (op.fire s hs) true := by
  have hheads : op.slots.map (fun k => (s.headAt d k).map (fun h => (k, h.1, h.2))) = hs.map some := by
    rw [← hslots, List.map_map]
    exact List.map_congr_left (fun h hh => by simp [hhead h hh])
  have hmark : (hs.map some).any (fun h => match h with | none => true | some (h : Taken) => h.2.1.kind == kMARK) = false := by
    rw [List.any_eq_false]
    intro x hx
    obtain ⟨h, hh, rfl⟩ := List.mem_map.mp hx
    simpa using (hkind h hh).1
  have hlows : hs.filterMap (fun h => lowOf h.2.1 h.2.2) = hs.map (fun _ => i) := by
    rw [← List.filterMap_eq_map]
    exact List.filterMap_congr hlow
  have hgaps : hs.filter (fun h => h.2.1.kind == kGAP && lowOf h.2.1 h.2.2 == some i) = [] := by
    rw [List.filter_eq_nil_iff]
    intro h hh
    simp [(hkind h hh).2]
  have hdatas : hs.filter (fun h => h.2.1.kind != kGAP && lowOf h.2.1 h.2.2 == some i) = hs := by
    rw [List.filter_eq_self]
    intro h hh
    simp [(hkind h hh).2, hlow h hh]
  have hlen : hs.length = op.slots.length := by rw [← hslots, List.length_map]
  obtain ⟨x, r, rfl⟩ := List.exists_cons_of_ne_nil hne
  have hids : (List.map some (x :: r)).filterMap id = x :: r := by simp
  unfold State.align
  dsimp only
  rw [hheads]
  refine (if_neg (Bool.eq_false_iff.mp hmark)).trans ?_
  rw [hids, hlows]
  simp only [List.map_cons, foldl_min_map_const, hgaps, hdatas]
  simp [hlen, hhold]

/-- A node that emits a token after taking its heads. -/
theorem st_popAll_emit (d : Nd) (s : State) (ks : List Nat) (o : Nat) (t : Token) (i : Nat) :
    (((s.popAll d ks).emit d o t i).reg d.n).st = (s.reg d.n).st :=
  ((nodeOnly_popAll ..).trans (nodeOnly_emit ..)).st

/-- The slots DONE reads. -/
def doneSlots (h : BitVec 1) : List Nat := if h = 1 then [0, 1, 2] else [0, 1]

theorem doneSlots_ne_nil (h : BitVec 1) : doneSlots h ≠ [] := by unfold doneSlots; split <;> simp

theorem ne_three_of_mem_doneSlots {h : BitVec 1} {k : Nat} (hk : k ∈ doneSlots h) : k ≠ 3 := by
  rintro rfl
  unfold doneSlots at hk
  split at hk <;> simp at hk

/-- DONE takes one ORDER token at every slot and emits one of the narrowest scope. -/
theorem exec_done {s : State} {h : BitVec 1} {hs : List Taken} {i : Nat} (hst : s.Stands (doneSlots h) hs)
    (hrec : ∀ x ∈ hs, x.2.2 = i ∧ x.2.1.kind = kORDER) :
    exec (.done h) s = .next (s.fired ((s.popAll s.nd (doneSlots h)).emit s.nd 0
      (orderTok (BitVec.ofNat 3 (hs.foldl (fun m h => Nat.min m (fld h.2.1.pay 0 3 : BitVec 3).toNat) 7))) i)) := by
  obtain ⟨hlive, _, hslots, hhead, _⟩ := id hst
  have hne : hs ≠ [] := by
    rintro rfl
    exact doneSlots_ne_nil h hslots.symm
  have hbad : ∀ x ∈ hs, badHead true x.1 x.2.1 = none := by
    intro x hx
    have h3 := ne_three_of_mem_doneSlots (hslots ▸ List.mem_map_of_mem (f := Prod.fst) hx)
    simp [badHead, h3, (hrec x hx).2, kORDER, kPOISON, kCMD, kRESUME, kDATA, kCTRL]
  obtain ⟨y, r, rfl⟩ := List.exists_cons_of_ne_nil hne
  have hdrain : doneSlots h = [] ∨ ∃ z ∈ y :: r, z.2.1.kind ≠ kDRAIN :=
    Or.inr ⟨y, List.mem_cons_self, by rw [(hrec y List.mem_cons_self).2]; decide⟩
  show execDone h s = _
  refine congrArg Host.Outcome.next ((nodeStep_of_stands hst hbad hdrain).trans ?_)
  rw [align_of_record (i := i) hne hslots hhead (fun x hx => ?_) (fun x hx => ?_) rfl]
  · refine (came_fired hlive (st_popAll_emit ..)).trans ?_
    rw [← (hrec y List.mem_cons_self).1]; rfl
  · simp [lowOf, hrec x hx, kORDER, kEND, kDRAIN, kGAP]
  · rw [(hrec x hx).2]; decide

/-- ECMD takes the halves of an entry, emits them as two CMD tokens and owes one ORDER token more. -/
theorem exec_ecmd {s : State} {a b : Token} {i : Nat} (h : s.Ready [0, 1] [(0, a, i), (1, b, i)] i) :
    exec .ecmd s = .next (s.fired ((((s.popAll s.nd [0, 1]).emit s.nd 0 (cmdTok a.pay true) i).emit s.nd 0 (cmdTok b.pay false) i).setCounts s.nd
      [(s.counts s.nd).getD 0 0 + 1])) := by
  obtain ⟨ha, hb⟩ := h.heads_ab
  obtain ⟨hka, hkb⟩ := h.data_ab
  show execEcmd s = _
  refine congrArg Host.Outcome.next ((nodeStep_of_ready h).trans ?_)
  simp only [ha, hb, hka, hkb, and_self, decide_true, Bool.not_true, Bool.false_eq_true, and_false, if_false]
  rw [align_of_record (hs := [(0, a, i), (1, b, i)]) (i := i) (by simp) rfl h.1.2.2.2.1 (by simp [lowOf, hka, hkb, kDATA, kEND, kDRAIN, kGAP])
    (by simp [hka, hkb, kDATA, kMARK, kGAP]) rfl]
  refine came_fired h.1.live ?_
  rw [(nodeOnly_setCounts ..).st, (nodeOnly_emit ..).st, st_popAll_emit]

/-- DONE and ECMD. -/
theorem orderNodes : Rule.OrderNodes := by
  intro s h ts a b i d ks hs
  refine ⟨fun hlen hst hkind => ?_, fun hr => exec_ecmd hr⟩
  have hrec : ∀ x ∈ hs, x.2.2 = i ∧ x.2.1.kind = kORDER := by
    intro x hx
    obtain ⟨p, hp, rfl⟩ := List.mem_map.mp hx
    exact ⟨rfl, hkind _ (List.of_mem_zip hp).2⟩
  have hfold : hs.foldl (fun m h => Nat.min m (fld h.2.1.pay 0 3 : BitVec 3).toNat) 7
      = ts.foldl (fun m t => Nat.min m (fld t.pay 0 3 : BitVec 3).toNat) 7 := by
    have hts : ts = (ks.zip ts).map Prod.snd := (List.map_snd_zip hlen.le).symm
    conv_rhs => rw [hts, List.foldl_map]
    simp only [hs, List.foldl_map]
  rw [← hfold]
  exact exec_done hst hrec

end Sys2Proof.Machine
end

section
/-! PROOFS, O40. The nodes of the row operations: when one begins and when it parks. -/

namespace Sys2Proof.Machine
open State

section
variable {s : State} {a : Token} {i : Nat} {o : RowOp} (h : s.Ready [0] [(0, a, i)] i)
  (hbusy : (s.rt s.nd.n s.nd.t).busy s.nd.slot = false)
include h hbusy

/-- A row operation waits for its tags. -/
theorem rowNode_of_not_ready (hm : s.matReady s.nd (s.rowNeed s.nd o) = false) : s.rowNode o = s := by
  unfold State.rowNode
  refine (nodeStep_of_ready h).trans ?_
  simp only [hbusy, h.head_a, h.data_a, hm, Bool.not_false, Bool.false_eq_true, if_false, if_true, came_wait]

variable (hm : s.matReady s.nd (s.rowNeed s.nd o) = true)
include hm

/-- A go record that is not valid completes at once. -/
theorem rowNode_of_not_valid (hv : a.valid &&& (if o.scr then 3 else 7) ≠ if o.scr then 3 else 7) :
    s.rowNode o = s.fired ((s.popAt s.nd 0).emit s.nd 0 (orderTok o.scope) i) := by
  unfold State.rowNode
  refine (nodeStep_of_ready h).trans ?_
  simp only [hbusy, h.head_a, h.data_a, hm, Bool.not_true, Bool.false_eq_true, if_false, if_true, if_pos hv]
  exact came_fired h.1.live ((nodeOnly_popAt ..).trans (nodeOnly_emit ..)).st

variable (hv : a.valid &&& (if o.scr then 3 else 7) = if o.scr then 3 else 7)
include hv

/-- A shape no record may have parks the node. -/
theorem rowNode_of_bad_shape (hok : (s.rowNeed s.nd o).ok = false) : s.rowNode o = s.acted (s.park s.nd cIMAGE 0 0 0) := by
  unfold State.rowNode
  refine (nodeStep_of_ready h).trans ?_
  simp only [hbusy, h.head_a, h.data_a, hm, hok, Bool.not_true, Bool.not_false, Bool.false_eq_true, if_false, if_true, if_neg (not_not_intro hv),
    came_acted]

variable (hok : (s.rowNeed s.nd o).ok = true)
include hok

/-- A fault of the go record parks the node. -/
theorem rowNode_of_fault {c : BitVec 8} (hf : s.rowFault s.nd o a = some c) : s.rowNode o
    = s.acted (s.park s.nd c (BitVec.ofNat 64 (o.base a)) 0 (s.nodeFlags s.nd o.store (!o.scr) (BitVec.ofNat 64 (o.base a)))) := by
  unfold State.rowNode
  refine (nodeStep_of_ready h).trans ?_
  simp only [hbusy, h.head_a, h.data_a, hm, hok, hf, Bool.not_true, Bool.false_eq_true, if_false, if_true, if_neg (not_not_intro hv), came_acted]

/-- Without a fault the operation begins. -/
theorem rowNode_of_begin (hf : s.rowFault s.nd o a = none) (hh : s.rowHeld s.nd o a = false) : s.rowNode o
    = s.acted (s.modRt s.nd.n s.nd.t (fun r => { r with mops := r.mops ++ [{
        slot := BitVec.ofNat 3 s.nd.slot, op := o.instr, go := a, idx := i, due := s.now s.nd.n + 1
        regs := if o.acc then [] else [o.reg], acc := o.acc, rows := s.prog s.nd }] })) := by
  unfold State.rowNode
  refine (nodeStep_of_ready h).trans ?_
  simp only [hbusy, h.head_a, h.data_a, hm, hok, hf, hh, Bool.not_true, Bool.false_eq_true, if_false, if_true, if_neg (not_not_intro hv),
    came_acted]

end

/-! ## Faults of a go record -/

/-- Bytes of a row of a row operation. -/
def State.rowLen (s : State) (d : Nd) (o : RowOp) : Nat := ((s.rowDims d o).2 + 7) / 8

/-- A scratchpad row of the operation leaves the region's scratchpads. -/
def State.rowOutside (s : State) (d : Nd) (o : RowOp) (a : Token) : Prop :=
  ∃ q x, q < (s.rowDims d o).1 ∧ x < s.rowLen d o ∧ x % 8 = 0 ∧ scrSpot d.img (o.base a + q * o.stride a + x) = none

section
variable (s : State) (d : Nd) (o : RowOp) (a : Token)

theorem rowDims_fst : (s.rowDims d o).1 = if o.acc then 32 else shRows (s.rowShape d o) := by
  unfold State.rowDims; split <;> rfl

theorem rowDims_snd : (s.rowDims d o).2 = if o.acc then 2048 else shCols (s.rowShape d o) * shSb (s.rowShape d o) := by
  unfold State.rowDims; split <;> rfl

theorem rowLen_eq : s.rowLen d o = if o.acc then 256 else (shCols (s.rowShape d o) * shSb (s.rowShape d o) + 7) / 8 := by
  rw [State.rowLen, rowDims_snd]; split <;> rfl

/-- The pieces of a row that lie outside the region's scratchpads are those that begin there. -/
theorem any_isNone_iff : (List.range (s.rowDims d o).1).any (fun r =>
      (rowPieces (o.base a + r * o.stride a) (((s.rowDims d o).2 + 7) / 8)).any (fun p => (s.scrAddr d p.1).isNone)) = true
    ↔ s.rowOutside d o a := by
  simp only [List.any_eq_true, List.mem_range, rowPieces, List.mem_map, State.rowOutside, State.rowLen, State.scrAddr, Option.isNone_map,
    Option.isNone_iff_eq_none]
  constructor
  · rintro ⟨q, hq, p, ⟨k, hk, rfl⟩, hp⟩
    exact ⟨q, 8 * k, hq, by omega, by omega, hp⟩
  · rintro ⟨q, x, hq, hx, h8, hp⟩
    exact ⟨q, hq, _, ⟨x / 8, by omega, rfl⟩, by rw [show 8 * (x / 8) = x by omega]; exact hp⟩

theorem rowFault_of_misaligned (h : o.base a % 8 ≠ 0 ∨ o.stride a % 8 ≠ 0) : s.rowFault d o a = some cALIGN := if_pos h

variable (hb : o.base a % 8 = 0) (hst : o.stride a % 8 = 0)
include hb hst

theorem rowFault_of_short (h : o.store = true) (hl : o.stride a < s.rowLen d o) : s.rowFault d o a = some cACCESS :=
  (if_neg (by simp [hb, hst])).trans (if_pos ⟨h, hl⟩)

variable (hl : o.store = true → s.rowLen d o ≤ o.stride a)
include hl

theorem rowFault_of_outside (h : o.scr = true) (ho : s.rowOutside d o a) : s.rowFault d o a = some cACCESS := by
  have hs : ¬(o.store = true ∧ o.stride a < s.rowLen d o) := fun q => absurd (hl q.1) (Nat.not_le.mpr q.2)
  exact (if_neg (by simp [hb, hst])).trans ((if_neg hs).trans (if_pos ⟨h, (any_isNone_iff s d o a).mpr ho⟩))

theorem rowFault_of_none (h : o.scr = true → ¬s.rowOutside d o a) : s.rowFault d o a = none := by
  have hs : ¬(o.store = true ∧ o.stride a < s.rowLen d o) := fun q => absurd (hl q.1) (Nat.not_le.mpr q.2)
  exact (if_neg (by simp [hb, hst])).trans ((if_neg hs).trans (if_neg (fun q => h q.1 ((any_isNone_iff s d o a).mp q.2))))

end

/-- The words of a row operation. -/
theorem exec_of_rowOp {op : Instr} {o : RowOp} (h : rowOp op = some o) (s : State) : exec op s = .next (s.rowNode o) ∧ o.instr = op := by
  cases op <;> simp only [rowOp, reduceCtorEq, Option.some.injEq] at h <;> subst h <;> exact ⟨rfl, rfl⟩

/-- A row operation's shape is fit for a record, where it has one. -/
theorem rowNeed_ok (s : State) (d : Nd) (o : RowOp) : (s.rowNeed d o).ok = (o.acc || shapeOk (s.rowShape d o)) := by
  unfold State.rowNeed
  cases o.acc
  · cases o.store <;> rfl
  · rfl

/-- The nodes of the row operations. -/
theorem rowNodes : Rule.RowNodes := by
  intro s b r n k c sc a i d ops h hbusy p hp o lanes base stride shape rows len outside parks
  have hop : rowOp p.1 = some o ∧ o.scope = sc := by
    simp only [ops, List.mem_cons, List.not_mem_nil, or_false] at hp
    rcases hp with rfl | rfl | rfl | rfl <;> exact ⟨rfl, rfl⟩
  obtain ⟨hop, hsc⟩ := hop
  obtain ⟨hexec, hinstr⟩ := exec_of_rowOp hop s
  have hrows : (s.rowDims d o).1 = rows := rowDims_fst s d o
  have hlen : s.rowLen d o = len := rowLen_eq s d o
  have hout : s.rowOutside d o a ↔ outside := by rw [State.rowOutside, hrows, hlen]; rfl
  have hfault : ∀ cause, s.matReady d (s.rowNeed d o) = true → a.valid &&& lanes = lanes → (s.rowNeed d o).ok = true →
      s.rowFault d o a = some cause → parks cause := fun cause hm hv hok hf =>
    hexec.trans (congrArg _ (rowNode_of_fault h hbusy hm hv hok hf))
  refine ⟨fun hm => ?_, fun hv hm => ?_, fun hv hm => ⟨fun hacc hshape => ?_, fun hshape => ?_⟩⟩
  · rw [hexec, rowNode_of_not_ready h hbusy hm]
  · rw [hexec, rowNode_of_not_valid h hbusy hm hv, hsc]
  · have hok : (s.rowNeed d o).ok = false := by rw [rowNeed_ok, hacc]; exact hshape
    rw [hexec, rowNode_of_bad_shape h hbusy hm hv hok]; rfl
  have hok : (s.rowNeed d o).ok = true := by rw [rowNeed_ok, Bool.or_eq_true]; exact hshape
  refine ⟨fun hmis => ?_, fun hb hst => ⟨fun hstore hl => ?_, fun hl => ⟨fun hscr ho => ?_, fun ho hheld => ?_⟩⟩⟩
  · exact hfault _ hm hv hok (rowFault_of_misaligned s d o a hmis)
  · exact hfault _ hm hv hok (rowFault_of_short s d o a hb hst hstore (hlen ▸ hl))
  · exact hfault _ hm hv hok (rowFault_of_outside s d o a hb hst (hlen ▸ hl) hscr (hout.mpr ho))
  · rw [hexec, rowNode_of_begin h hbusy hm hv hok (rowFault_of_none s d o a hb hst (hlen ▸ hl) (fun e q => ho e (hout.mp q))) hheld, hinstr]

end Sys2Proof.Machine
end

section
/-! PROOFS, O40. One row of a row operation: what is moved, and what the event makes of it. -/

namespace Sys2Proof.Machine
open State

/-! ## A row as a step -/

/-- The pieces of the next row of a row operation. -/
def State.rowAt (s : State) (d : Nd) (o : RowOp) (m : MatOp) : List (Nat × Nat) :=
  rowPieces (o.base m.go + m.rows * o.stride m.go) (s.rowLen d o)

/-- What follows a row that has been moved: the shape is set, the region was active, and the operation goes on or completes. -/
def State.rowAfter (s : State) (d : Nd) (o : RowOp) (m : MatOp) (rows : Nat) (bad : Bool) : State :=
  let m' : MatOp := { m with rows := m.rows + 1, capped := m.capped || bad }
  let s := (s.rowShaped d o m.rows).modReg d.n (fun r => { r with active := s.now d.n })
  if m.rows + 1 = rows then s.rowDone d o m' m'.capped
  else s.modRt d.n d.t (fun t => { t with mops := t.mops.map (fun k => if k.slot == m.slot then m' else k) })

/-- Pieces are read one after the other, the first lowest: the state, the bytes, and whether one was poisoned. -/
def State.gather (s : State) (ps : List (Nat × Nat)) (rd : State → Nat → Nat → State × Nat × Bool) : State × Nat × Bool :=
  ps.zipIdx.foldl (fun (x : State × Nat × Bool) p =>
    match rd x.1 p.1.1 p.1.2 with
    | (s, v, b) => (s, x.2.1 + v * 2 ^ (64 * p.2), x.2.2 || b)) (s, 0, false)

/-- The place of a piece in the region's scratchpads. -/
def State.scrAt (s : State) (d : Nd) (a : Nat) : BitVec 8 × Nat := (s.scrAddr d a).getD (0, 0)

/-- The bytes of a row go to a scratchpad. -/
def State.scrRow (s : State) (d : Nd) (ps : List (Nat × Nat)) (v : Nat) (bad : Bool) : State :=
  ps.zipIdx.foldl (fun s p =>
    s.scrWrite (clusterOf d.n) (s.scrAt d p.1.1).1 (s.scrAt d p.1.1).2 p.1.2 (bytesOf v (8 * p.2) p.1.2) bad) s

/-- One piece of a row goes to memory. -/
def State.storePiece (s : State) (d : Nd) (cr : Capt) (sc : BitVec 3) (key n v : Nat) (bad : Bool) : State :=
  let c := clusterOf d.n
  let mask := byteMask (key % 64) n
  let s := s.l2Store c (key / 64) (BitVec.ofNat 512 (v * 2 ^ (8 * (key % 64)))) mask bad (cr.marks key)
  if 3 ≤ sc.toNat then s.writeBackMask c (key / 64) mask else s

/-- The bytes of a row go to memory. -/
def State.memRow (s : State) (d : Nd) (cr : Capt) (sc : BitVec 3) (keys : List (Nat × Nat)) (v : Nat) (bad : Bool) : State :=
  keys.zipIdx.foldl (fun s p => s.storePiece d cr sc p.1.1 p.1.2 (bytesOf v (8 * p.2) p.1.2) bad) s

section
variable (s : State) (d : Nd) {o : RowOp} (m : MatOp)

theorem rowStep_scr_store (hscr : o.scr = true) (hst : o.store = true) : s.rowStep d o m =
    (((s.rowRead d o m.rows (s.rowDims d o).2).scrRow d (s.rowAt d o m)
      ((s.rowRead d o m.rows (s.rowDims d o).2).rowBits d o m.rows (s.rowDims d o).2).1
      ((s.rowRead d o m.rows (s.rowDims d o).2).rowBits d o m.rows (s.rowDims d o).2).2).rowAfter d o m (s.rowDims d o).1 false) := by
  unfold State.rowStep
  simp only [hscr, hst, if_true]
  rfl

theorem rowStep_scr_load (hscr : o.scr = true) (hst : o.store = false) {u : State} {v : Nat} {bad : Bool}
    (hg : s.gather (s.rowAt d o m) (fun s a n => s.scrRead (clusterOf d.n) (s.scrAt d a).1 (s.scrAt d a).2 n) = (u, v, bad)) :
    s.rowStep d o m = ((u.rowIn d o m.rows (s.rowDims d o).2 v bad).rowAfter d o m (s.rowDims d o).1 bad) := by
  unfold State.rowStep
  simp only [hscr, hst, if_true, Bool.false_eq_true, if_false]
  unfold State.gather State.rowAt State.rowLen State.scrAt at hg
  rw [hg]
  rfl

/-- The walk of a memory row's pieces, all of them before one is moved (R343). -/
def State.rowWalk : State × Except (Option (BitVec 8 × Word)) (List (Nat × Nat)) :=
  State.resolveRow (s.reg d.n).capt (if o.store then .write else .read) (.node ⟨d.n, d.t, BitVec.ofNat 3 d.slot⟩) (s.rowAt d o m) s

variable {u : State} (hscr : o.scr = false)
include hscr

theorem rowStep_mem_wait (hw : s.rowWalk d m (o := o) = (u, .error none)) : s.rowStep d o m = u := by
  unfold State.rowWalk State.rowAt State.rowLen at hw
  unfold State.rowStep
  simp only [hscr, Bool.false_eq_true, if_false, hw]

theorem rowStep_mem_fault {c : BitVec 8} {va : Word} (hw : s.rowWalk d m (o := o) = (u, .error (some (c, va)))) :
    s.rowStep d o m = u.park d c va (m.rows * s.rowLen d o) (u.nodeFlags d o.store true va) := by
  unfold State.rowWalk State.rowAt State.rowLen at hw
  unfold State.rowStep
  simp only [hscr, Bool.false_eq_true, if_false, hw]
  rfl

variable {keys : List (Nat × Nat)} (hw : s.rowWalk d m (o := o) = (u, .ok keys))
include hw

theorem rowStep_mem_store (hst : o.store = true) : s.rowStep d o m =
    (((u.rowRead d o m.rows (s.rowDims d o).2).memRow d (s.reg d.n).capt o.scope keys
      ((u.rowRead d o m.rows (s.rowDims d o).2).rowBits d o m.rows (s.rowDims d o).2).1
      ((u.rowRead d o m.rows (s.rowDims d o).2).rowBits d o m.rows (s.rowDims d o).2).2).rowAfter d o m (s.rowDims d o).1 false) := by
  unfold State.rowWalk State.rowAt State.rowLen at hw
  unfold State.rowStep
  simp only [hst, if_true] at hw
  simp only [hscr, hst, Bool.false_eq_true, if_false, if_true, hw]
  rfl

/-- Where the next row of a memory load is read. -/
def State.rowPoint (s : State) (d : Nd) (o : RowOp) : ReadPoint :=
  pointOf (widthOf (Nat.max (o.scope.toNat + 1) (Nat.max (s.orderSeen d) (s.orderHead d))))

theorem rowStep_mem_load (hst : o.store = false) {t : State} {v : Nat} {bad : Bool}
    (hg : u.gather keys (fun s a n => s.fabricLoad (clusterOf d.n) (quadOf ((s.reg d.n).absTile d.t)) (u.rowPoint d o) a n) = (t, v, bad)) :
    s.rowStep d o m = ((t.rowIn d o m.rows (s.rowDims d o).2 v bad).rowAfter d o m (s.rowDims d o).1 bad) := by
  unfold State.rowWalk State.rowAt State.rowLen at hw
  unfold State.rowStep
  simp only [hst, Bool.false_eq_true, if_false] at hw
  simp only [hscr, hst, Bool.false_eq_true, if_false, hw]
  unfold State.gather State.rowPoint at hg
  rw [hg]
  rfl

end

/-- The event of a row operation in progress performs its next row. -/
theorem exec_row {s : State} {m : MatOp} {o : RowOp} (hw : s.ev.w ≠ 0) (hst : (s.reg s.ev.n).st.toNat ∈ [4, 5, 6])
    (hp : (s.rt s.ev.n s.ev.t).parked.any (fun p => p.slot == s.ev.s) = false)
    (hm : (s.rt s.ev.n s.ev.t).mops.find? (fun p => p.slot == s.ev.s && decide (p.due ≤ s.now s.ev.n)) = some m) (ho : rowOp m.op = some o) :
    exec .memoryAccessPerformed s
      = .next (s.rowStep { n := s.ev.n, t := s.ev.t, slot := s.ev.s.toNat, img := (s.reg s.ev.n).image } o m) := by
  have hacts : actsIn (s.reg s.ev.n).st = true := by
    generalize (s.reg s.ev.n).st = st at hst ⊢
    revert st
    decide
  show execMemoryAccessPerformed s = _
  simp only [execMemoryAccessPerformed, hacts, hw, hp, hm, ho, Bool.not_true, Bool.false_eq_true, if_false]

/-- What follows a row, by the fields of its word: a load or a store of register R or acc, with SETS, KEEP and scope. -/
def rowThen (d : Nd) (R : Nat) (sets acc : Bool) (k : BitVec 1) (sc : BitVec 3) (m : MatOp) (rows : Nat) (load : Bool) (w : State) (bad : Bool) :
    State :=
  let w := if load ∧ sets = true ∧ m.rows = 0 then w.setTm d R { w.tm d R with shape := d.const } else w
  let w := w.modReg d.n (fun g => { g with active := w.now d.n })
  if m.rows + 1 = rows then
    let w := (w.modRt d.n d.t (fun t => { t with mops := t.mops.filter (fun p => p.slot != m.slot) })).setProg d 0
    let w := if load then w.setTm d R { w.tm d R with full := true, cursor := 0, ncut := 0 }
      else if k = 1 then w
      else if acc then w.releaseAcc d false else w.setTm d R { w.tm d R with full := false }
    let w := if w.orderHead d = 0 then w else (w.popAt d 3).setCounts d [Nat.max (w.orderSeen d) (w.orderHead d)]
    (w.popAt d 0).emit d 0 (if m.capped || bad then poisonTok else orderTok sc) m.idx
  else w.modRt d.n d.t (fun t => { t with mops := t.mops.map (fun p =>
    if p.slot == m.slot then { m with rows := m.rows + 1, capped := m.capped || bad } else p) })

section
variable {o : RowOp} (d : Nd) (m : MatOp) (rows : Nat) (w : State) (bad : Bool)

theorem rowAfter_load (hst : o.store = false) (hacc : o.acc = false) (acc : Bool) (k : BitVec 1) :
    w.rowAfter d o m rows bad = rowThen d o.reg o.setShape acc k o.scope m rows true w bad := by
  unfold State.rowAfter rowThen State.rowShaped State.rowDone
  simp only [hst, hacc, Bool.false_eq_true, if_false, true_and, if_true]
  by_cases hc : o.setShape = true ∧ m.rows = 0
  · simp only [if_pos hc]; rfl
  · simp only [if_neg hc]

theorem rowAfter_store (hst : o.store = true) (hset : o.setShape = false) {k : BitVec 1} (hk : o.keep = (k == 1)) (sets : Bool) :
    w.rowAfter d o m rows bad = rowThen d o.reg sets o.acc k o.scope m rows false w bad := by
  unfold State.rowAfter rowThen State.rowShaped State.rowDone State.releaseReg State.releaseAcc
  simp only [hst, hset, hk, Bool.false_eq_true, if_false, false_and, if_true, beq_iff_eq]
  by_cases h1 : k = 1
  · simp only [h1, if_true, ite_self]
  · simp only [h1, if_false]

end

end Sys2Proof.Machine
end

section
/-! PROOFS, O40. Rows to and from scratchpads. -/

namespace Sys2Proof.Machine
open State

/-! ## Reads without injection -/

theorem injectRead_of_calm {s : State} (h : s.module.armed 1 = false) (u : BankUnit) (q lo hi : Nat) : s.injectRead u q lo hi = s := by
  simp only [State.injectRead, State.injectReadBy, h, Bool.false_and, Bool.false_eq_true, if_false]

theorem rowRead_of_calm {s : State} (h : s.module.armed 1 = false) (d : Nd) (o : RowOp) (r bits : Nat) : s.rowRead d o r bits = s := by
  unfold State.rowRead
  split
  · rfl
  · exact injectRead_of_calm h ..

/-! ## Bytes of a number -/

theorem ofNat_bytesOf_div {v off n j : Nat} (h : j < n) : BitVec.ofNat 8 (bytesOf v off n / 256 ^ j) = BitVec.ofNat 8 (v / 256 ^ (off + j)) := by
  apply BitVec.eq_of_getLsbD_eq
  intro i hi
  rw [BitVec.getLsbD_ofNat, BitVec.getLsbD_ofNat, bytesOf, show (256 : Nat) = 2 ^ 8 from rfl, ← Nat.pow_mul, ← Nat.pow_mul, Nat.testBit_div_two_pow,
    Nat.testBit_div_two_pow, Nat.testBit_mod_two_pow, Nat.testBit_shiftRight]
  simp only [show i + 8 * j < 8 * n by omega, decide_true, Bool.true_and]
  rw [show 8 * off + (i + 8 * j) = i + 8 * (off + j) by omega]

theorem getLsbD_ofNat_div (v x : Nat) {j : Nat} (h : j < 8) : (BitVec.ofNat 8 (v / 256 ^ x)).getLsbD j = v.testBit (8 * x + j) := by
  rw [BitVec.getLsbD_ofNat, show (256 : Nat) = 2 ^ 8 from rfl, ← Nat.pow_mul, Nat.testBit_div_two_pow, Nat.add_comm]
  simp [h]

/-! ## Places in a scratchpad -/

/-- The bytes of an aligned dword lie side by side. -/
theorem scrSpot_add (img : Nat) {a j : Nat} (ha : a % 8 = 0) (hj : j < 8) :
    scrSpot img (a + j) = (scrSpot img a).map (fun p => (p.1, p.2 + j)) := by
  have h1 : (a + j) / 2 ^ 17 = a / 2 ^ 17 := by omega
  have h2 : (a + j) / 2 ^ 21 = a / 2 ^ 21 := by omega
  have h3 : (a + j) % 2 ^ 17 = a % 2 ^ 17 + j := by omega
  have h4 : (a % 2 ^ 17 + j) / 8192 = a % 2 ^ 17 / 8192 := by omega
  have h5 : 2 ^ 25 ≤ a + j ↔ 2 ^ 25 ≤ a := by omega
  simp only [scrSpot, h1, h2, h3, h4, h5]
  split <;> rfl

theorem mod_eight_of_scrSpot {img a : Nat} (ha : a % 8 = 0) {p : TileNo × Nat} (h : scrSpot img a = some p) : p.2 % 8 = 0 := by
  simp only [scrSpot] at h
  split at h
  · exact absurd h (by simp)
  · obtain rfl := Option.some.inj h
    show a % 2 ^ 17 % 8 = 0
    omega

section
variable (s : State) (d : Nd) {a : Nat}

/-- Where the scratchpad of a tile of a cluster keeps a byte. -/
def State.scrPhys (s : State) (c : BitVec 5) (p : BitVec 8 × Nat) : BitVec 8 × Nat :=
  (p.1, 8192 * ((s.clu c).tile p.1).scrBanks.phys (p.2 / 8192) + p.2 % 8192)

theorem scrPlace_eq (a : Nat) : s.scrPlace d a = (s.scrAddr d a).map (s.scrPhys (clusterOf d.n)) := rfl

theorem mod_eight_of_scrAddr (ha : a % 8 = 0) {p : BitVec 8 × Nat} (h : s.scrAddr d a = some p) : p.2 % 8 = 0 := by
  obtain ⟨q, hq, rfl⟩ := Option.map_eq_some_iff.mp h
  have h8 := mod_eight_of_scrSpot ha hq
  exact h8

theorem scrPlace_add (ha : a % 8 = 0) {j : Nat} (hj : j < 8) : s.scrPlace d (a + j) = (s.scrPlace d a).map (fun p => (p.1, p.2 + j)) := by
  simp only [scrPlace_eq, State.scrAddr, scrSpot_add _ ha hj, Option.map_map]
  cases h : scrSpot d.img a with
  | none => rfl
  | some p =>
    have h8 := mod_eight_of_scrSpot ha h
    have h1 : (p.2 + j) / 8192 = p.2 / 8192 := by omega
    have h2 : (p.2 + j) % 8192 = p.2 % 8192 + j := by omega
    simp only [Option.map_some, Function.comp, State.scrPhys, h1, h2, Nat.add_assoc]

theorem scrPlace_of_isSome (h : (s.scrPlace d a).isSome) : s.scrPlace d a = some (s.scrPhys (clusterOf d.n) (s.scrAt d a)) := by
  rw [scrPlace_eq, State.scrAt] at *
  cases h' : s.scrAddr d a with
  | none => rw [h'] at h; exact absurd h (by simp)
  | some p => rfl

end

/-! ## Changes of scratchpads alone -/

theorem clu_modTile (s : State) (c : BitVec 5) (t : BitVec 8) (f : TileMem → TileMem) :
    (s.modTile c t f).clu c = { s.clu c with tiles := Tab.set (s.clu c).tiles t.toNat (f ((s.clu c).tile t)) } := by
  rw [State.modTile, State.clu_modClu]

theorem tile_modTile (s : State) (c : BitVec 5) (t k : BitVec 8) (f : TileMem → TileMem) :
    ((s.modTile c t f).clu c).tile k = if k = t then f ((s.clu c).tile t) else (s.clu c).tile k := by
  rw [clu_modTile]
  split
  · next h => subst h; exact Tab.get_set ..
  · next h => exact Tab.get_set_ne _ _ _ (fun e => h (BitVec.eq_of_toNat_eq e))

/-- From s to w only scratchpads of a cluster's tiles change, and their poison marks. -/
structure ScrOnly (c : BitVec 5) (s w : State) : Prop where
  shape : { w with clusters := s.clusters } = s
  other : ∀ j, j ≠ c → w.clu j = s.clu j
  rest : { w.clu c with tiles := (s.clu c).tiles } = s.clu c
  tile : ∀ t, { (w.clu c).tile t with scr := ((s.clu c).tile t).scr, scrPoison := ((s.clu c).tile t).scrPoison } = (s.clu c).tile t

theorem ScrOnly.refl (c : BitVec 5) (s : State) : ScrOnly c s s := ⟨rfl, fun _ _ => rfl, rfl, fun _ => rfl⟩

theorem ScrOnly.trans {c : BitVec 5} {s t u : State} (h : ScrOnly c s t) (k : ScrOnly c t u) : ScrOnly c s u := by
  refine ⟨?_, fun j e => (k.other j e).trans (h.other j e), ?_, fun x => ?_⟩
  · have e : ({ u with clusters := s.clusters } : State) = { ({ u with clusters := t.clusters } : State) with clusters := s.clusters } := rfl
    rw [e, k.shape, h.shape]
  · have e : ({ u.clu c with tiles := (s.clu c).tiles } : Cluster)
        = { ({ u.clu c with tiles := (t.clu c).tiles } : Cluster) with tiles := (s.clu c).tiles } := rfl
    rw [e, k.rest, h.rest]
  · have e : ({ (u.clu c).tile x with scr := ((s.clu c).tile x).scr, scrPoison := ((s.clu c).tile x).scrPoison } : TileMem)
        = { ({ (u.clu c).tile x with scr := ((t.clu c).tile x).scr, scrPoison := ((t.clu c).tile x).scrPoison } : TileMem) with
            scr := ((s.clu c).tile x).scr, scrPoison := ((s.clu c).tile x).scrPoison } := rfl
    rw [e, k.tile, h.tile]

theorem ScrOnly.threads {c : BitVec 5} {s w : State} (h : ScrOnly c s w) : w.threads = s.threads :=
  show ({ w with clusters := s.clusters } : State).threads = s.threads by rw [h.shape]

theorem ScrOnly.scrBanks {c : BitVec 5} {s w : State} (h : ScrOnly c s w) (t : BitVec 8) :
    ((w.clu c).tile t).scrBanks = ((s.clu c).tile t).scrBanks := by
  conv_rhs => rw [← h.tile t]

theorem ScrOnly.scrAddr {c : BitVec 5} {s w : State} (h : ScrOnly c s w) (d : Nd) (a : Nat) : w.scrAddr d a = s.scrAddr d a := by
  simp only [State.scrAddr, reg_of_threads h.threads]

theorem ScrOnly.scrPhys {c : BitVec 5} {s w : State} (h : ScrOnly c s w) (p : BitVec 8 × Nat) : w.scrPhys c p = s.scrPhys c p := by
  simp only [State.scrPhys, h.scrBanks]

theorem scrOnly_scrWrite (s : State) (c : BitVec 5) (t : BitVec 8) (addr n v : Nat) (bad : Bool) :
    ScrOnly c s (s.scrWrite c t addr n v bad) := by
  refine ⟨rfl, fun j e => s.clu_modClu_ne _ e, ?_, fun x => ?_⟩
  · rw [State.scrWrite, clu_modTile]
  · rw [State.scrWrite, tile_modTile]
    split
    · next h => subst h; rfl
    · rfl

/-- The scratchpads of a cluster's tiles have the canonical form. -/
def State.scrWf (s : State) (c : BitVec 5) : Prop := ∀ t, Memory.wf ((s.clu c).tile t).scr = true

theorem scrWf_scrWrite {s : State} {c : BitVec 5} (h : s.scrWf c) (t : BitVec 8) (addr n v : Nat) (bad : Bool) :
    (s.scrWrite c t addr n v bad).scrWf c := by
  intro x
  rw [State.scrWrite, tile_modTile]
  split
  · exact writeLE_wf _ _ _ _ (h t)
  · exact h x

/-- A write to a scratchpad changes its own bytes and no other. -/
theorem scrCell_scrWrite {s : State} {n : BitVec 9} (h : s.scrWf (clusterOf n)) (p : BitVec 8 × Nat) (k v : Nat) (bad : Bool) (q : BitVec 8 × Nat) :
    (s.scrWrite (clusterOf n) p.1 p.2 k v bad).scrCell n q =
      if q.1 = (s.scrPhys (clusterOf n) p).1 ∧ (s.scrPhys (clusterOf n) p).2 ≤ q.2 ∧ q.2 < (s.scrPhys (clusterOf n) p).2 + k
        then BitVec.ofNat 8 (v / 256 ^ (q.2 - (s.scrPhys (clusterOf n) p).2)) else s.scrCell n q := by
  simp only [State.scrCell, State.scrWrite, tile_modTile]
  by_cases e : q.1 = p.1
  · rw [if_pos e]
    show cellRead (writeLE _ _ _ _) q.2 = _
    rw [cellRead_writeLE _ _ _ _ _ (h p.1), e]
    simp only [State.scrPhys, true_and]
  · rw [if_neg e, if_neg (fun h => e h.1)]

/-! ## A row to scratchpads -/

/-- The pieces of a row with their places in it. -/
theorem zipIdx_rowPieces (addr len : Nat) :
    (rowPieces addr len).zipIdx = (List.range ((len + 7) / 8)).map (fun k => ((addr + 8 * k, Nat.min 8 (len - 8 * k)), k)) := by
  apply List.ext_getElem
  · simp [rowPieces]
  · intro k h1 h2
    simp [rowPieces]

/-- Piece k of a row of bytes goes to a scratchpad. -/
def State.scrPiece (s : State) (d : Nd) (addr len v : Nat) (bad : Bool) (k : Nat) : State :=
  s.scrWrite (clusterOf d.n) (s.scrAt d (addr + 8 * k)).1 (s.scrAt d (addr + 8 * k)).2 (Nat.min 8 (len - 8 * k))
    (bytesOf v (8 * k) (Nat.min 8 (len - 8 * k))) bad

theorem scrRow_eq (s : State) (d : Nd) (addr len v : Nat) (bad : Bool) :
    s.scrRow d (rowPieces addr len) v bad = (List.range ((len + 7) / 8)).foldl (fun s k => s.scrPiece d addr len v bad k) s := by
  rw [State.scrRow, zipIdx_rowPieces, List.foldl_map]; rfl

/-- The first K pieces of a row have gone to their places: its bytes below 8K, and nothing else. -/
structure ScrMoved (d : Nd) (addr len v K : Nat) (s w : State) : Prop where
  only : ScrOnly (clusterOf d.n) s w
  wf : w.scrWf (clusterOf d.n)
  bytes : ∀ x p, x < len → x < 8 * K → s.scrPlace d (addr + x) = some p → w.scrCell d.n p = BitVec.ofNat 8 (v / 256 ^ x)
  others : ∀ p, (∀ x, x < len → x < 8 * K → s.scrPlace d (addr + x) ≠ some p) → w.scrCell d.n p = s.scrCell d.n p

section
variable {s : State} {d : Nd} {addr len v : Nat} {bad : Bool} (ha : addr % 8 = 0)
  (hsome : ∀ x, x < len → (s.scrPlace d (addr + x)).isSome)
  (hinj : ∀ x y, x < len → y < len → s.scrPlace d (addr + x) = s.scrPlace d (addr + y) → x = y)
include ha hsome hinj

theorem scrMoved_succ {K : Nat} {w : State} (hK : 8 * K < len) (h : ScrMoved d addr len v K s w) :
    ScrMoved d addr len v (K + 1) s (w.scrPiece d addr len v bad K) := by
  have hat : ∀ a, w.scrAt d a = s.scrAt d a := fun a => by simp only [State.scrAt, h.only.scrAddr]
  have h8 : (addr + 8 * K) % 8 = 0 := by omega
  have hP := scrPlace_of_isSome s d (hsome (8 * K) hK)
  have hplace : ∀ j, j < 8 → s.scrPlace d (addr + (8 * K + j))
      = some ((s.scrPhys (clusterOf d.n) (s.scrAt d (addr + 8 * K))).1, (s.scrPhys (clusterOf d.n) (s.scrAt d (addr + 8 * K))).2 + j) := by
    intro j hj
    rw [show addr + (8 * K + j) = addr + 8 * K + j by omega, scrPlace_add s d h8 hj, hP]; rfl
  have hcell := fun q => scrCell_scrWrite h.wf (w.scrAt d (addr + 8 * K)) (Nat.min 8 (len - 8 * K)) (bytesOf v (8 * K) (Nat.min 8 (len - 8 * K))) bad q
  rw [h.only.scrPhys, hat] at hcell
  generalize s.scrPhys (clusterOf d.n) (s.scrAt d (addr + 8 * K)) = P at hplace hcell
  have hn : Nat.min 8 (len - 8 * K) = min 8 (len - 8 * K) := rfl
  have hin : ∀ p : BitVec 8 × Nat, p.1 = P.1 ∧ P.2 ≤ p.2 ∧ p.2 < P.2 + Nat.min 8 (len - 8 * K) →
      s.scrPlace d (addr + (8 * K + (p.2 - P.2))) = some p := by
    rintro p ⟨h1, h2, h3⟩
    rw [hplace _ (by omega), ← h1, show P.2 + (p.2 - P.2) = p.2 by omega]
  refine ⟨h.only.trans (scrOnly_scrWrite ..), scrWf_scrWrite h.wf _ _ _ _ _, fun x p hx hxK hp => ?_, fun p hp => ?_⟩
  · rw [State.scrPiece, hat, hcell]
    by_cases hlt : x < 8 * K
    · rw [if_neg, h.bytes x p hx hlt hp]
      intro hc
      have := hinj x (8 * K + (p.2 - P.2)) hx (by omega) (by rw [hp, hin p hc])
      omega
    · obtain ⟨j, rfl⟩ := Nat.exists_eq_add_of_le (Nat.le_of_not_lt hlt)
      obtain rfl := Option.some.inj ((hplace j (by omega)).symm.trans hp)
      rw [if_pos ⟨rfl, by omega, by omega⟩, Nat.add_sub_cancel_left, ofNat_bytesOf_div (by omega)]
  · rw [State.scrPiece, hat, hcell, if_neg, h.others p (fun x hx hxK => hp x hx (by omega))]
    exact fun hc => hp _ (by omega) (by omega) (hin p hc)

theorem scrMoved_range (hwf : s.scrWf (clusterOf d.n)) {K : Nat} (hK : K ≤ (len + 7) / 8) :
    ScrMoved d addr len v K s ((List.range K).foldl (fun s k => s.scrPiece d addr len v bad k) s) := by
  induction K with
  | zero => exact ⟨ScrOnly.refl _ _, hwf, fun x _ _ hx => by omega, fun _ _ => rfl⟩
  | succ K ih =>
    rw [List.range_succ, List.foldl_append]
    exact scrMoved_succ ha hsome hinj (by omega) (ih (by omega))

/-- A row has gone to its places. -/
theorem scrMoved_scrRow (hwf : s.scrWf (clusterOf d.n)) :
    ScrMoved d addr len v ((len + 7) / 8) s (s.scrRow d (rowPieces addr len) v bad) := by
  rw [scrRow_eq]; exact scrMoved_range ha hsome hinj hwf (Nat.le_refl _)

end

/-! ## The bits of a stored row -/

/-- A bit of register R or acc of a node's tile, as a row operation stores it. -/
def State.rowBit (s : State) (d : Nd) (acc : Bool) (R j : Nat) : Bool :=
  if acc then (s.tmem d.n d.t).acc.getLsbD j else (s.treg d R).getLsbD j

theorem testBit_rowBits (s : State) (d : Nd) (o : RowOp) (r : Nat) {bits : Nat} (hb : o.acc = true → bits = 2048) (i : Nat) :
    (s.rowBits d o r bits).1.testBit i = (decide (i < bits) && s.rowBit d o.acc o.reg (bits * r + i)) := by
  unfold State.rowBits State.rowBit
  split
  · next h =>
    rw [hb h, Nat.testBit_mod_two_pow]
    show (decide (i < 2048) && ((s.tmem d.n d.t).acc >>> (2048 * r)).getLsbD i) = _
    rw [BitVec.getLsbD_ushiftRight]
  · rw [Nat.testBit_mod_two_pow]
    show (decide (i < bits) && (s.treg d o.reg >>> (bits * r)).getLsbD i) = _
    rw [BitVec.getLsbD_ushiftRight]

end Sys2Proof.Machine
end

section
/-! PROOFS, O40. Rows into registers. -/

namespace Sys2Proof.Machine
open State

/-! ## Pieces read one after the other -/

/-- The number that pieces of values V make, the first lowest. -/
def piecesVal (V : Nat → Nat → Nat × Bool) (ps : List (Nat × Nat)) : Nat :=
  ps.zipIdx.foldl (fun x p => x + (V p.1.1 p.1.2).1 * 2 ^ (64 * p.2)) 0

theorem piecesVal_concat (V : Nat → Nat → Nat × Bool) (ps : List (Nat × Nat)) (p : Nat × Nat) :
    piecesVal V (ps ++ [p]) = 2 ^ (64 * ps.length) * (V p.1 p.2).1 + piecesVal V ps := by
  simp only [piecesVal, List.zipIdx_append, List.foldl_append, List.zipIdx_cons, List.zipIdx_nil, List.foldl_cons, List.foldl_nil, Nat.zero_add]
  rw [Nat.mul_comm (2 ^ _), Nat.add_comm]

theorem piecesVal_lt {V : Nat → Nat → Nat × Bool} {ps : List (Nat × Nat)} (h : ∀ p ∈ ps, (V p.1 p.2).1 < 2 ^ 64) :
    piecesVal V ps < 2 ^ (64 * ps.length) := by
  induction ps using List.reverseRecOn with
  | nil => simp [piecesVal]
  | append_singleton ps p ih =>
    have hp := h p (by simp)
    have hps := ih (fun q hq => h q (by simp [hq]))
    rw [piecesVal_concat, List.length_append, List.length_singleton, Nat.mul_add, Nat.mul_one, Nat.pow_add]
    calc 2 ^ (64 * ps.length) * (V p.1 p.2).1 + piecesVal V ps
        < 2 ^ (64 * ps.length) * (V p.1 p.2).1 + 2 ^ (64 * ps.length) := Nat.add_lt_add_left hps _
      _ = 2 ^ (64 * ps.length) * ((V p.1 p.2).1 + 1) := by rw [Nat.mul_add, Nat.mul_one]
      _ ≤ 2 ^ (64 * ps.length) * 2 ^ 64 := Nat.mul_le_mul_left _ hp

theorem testBit_piecesVal {V : Nat → Nat → Nat × Bool} {ps : List (Nat × Nat)} (h : ∀ p ∈ ps, (V p.1 p.2).1 < 2 ^ 64) {k i : Nat}
    (hk : k < ps.length) (hi : i < 64) : (piecesVal V ps).testBit (64 * k + i) = (V ps[k].1 ps[k].2).1.testBit i := by
  induction ps using List.reverseRecOn with
  | nil => exact absurd hk (Nat.not_lt_zero _)
  | append_singleton ps p ih =>
    have hps := fun q hq => h q (List.mem_append_left [p] hq)
    rw [piecesVal_concat, Nat.testBit_two_pow_mul_add _ (piecesVal_lt hps)]
    by_cases hlt : k < ps.length
    · rw [if_pos (by omega), ih hps hlt, List.getElem_append_left hlt]
    · have e : k = ps.length := by simp at hk; omega
      subst e
      rw [if_neg (by omega), Nat.add_sub_cancel_left, List.getElem_append_right (Nat.le_refl _)]
      simp

/-- Reads that keep P and give V of each piece give the number of V. -/
theorem gather_eq {P : State → Prop} {V : Nat → Nat → Nat × Bool} {rd : State → Nat → Nat → State × Nat × Bool}
    {ps : List (Nat × Nat)} {s : State}
    (h0 : P s) (h : ∀ t, P t → ∀ p ∈ ps, P (rd t p.1 p.2).1 ∧ (rd t p.1 p.2).2 = V p.1 p.2) :
    ∃ t, P t ∧ s.gather ps rd = (t, piecesVal V ps, ps.any (fun p => (V p.1 p.2).2)) := by
  induction ps using List.reverseRecOn with
  | nil => exact ⟨s, h0, rfl⟩
  | append_singleton ps p ih =>
    obtain ⟨t, ht, hg⟩ := ih (fun t ht q hq => h t ht q (List.mem_append_left [p] hq))
    obtain ⟨hP, hV⟩ := h t ht p (by simp)
    refine ⟨(rd t p.1 p.2).1, hP, ?_⟩
    unfold State.gather at hg ⊢
    rw [List.zipIdx_append, List.foldl_append, hg, piecesVal_concat]
    simp only [List.zipIdx_cons, List.zipIdx_nil, List.foldl_cons, List.foldl_nil, Nat.zero_add, hV, List.any_append, List.any_cons, List.any_nil,
      Bool.or_false]
    rw [Nat.mul_comm (2 ^ _), Nat.add_comm (piecesVal V ps)]

/-! ## A row into a register -/

/-- From s to w only one register's storage in a node's tile changes, and the register's poison marks. -/
structure TregOnly (d : Nd) (R : Nat) (s w : State) : Prop where
  shape : { w with clusters := s.clusters } = s
  other : ∀ j, j ≠ clusterOf d.n → w.clu j = s.clu j
  rest : { w.clu (clusterOf d.n) with tiles := (s.clu (clusterOf d.n)).tiles } = s.clu (clusterOf d.n)
  tiles : ∀ t, t ≠ (s.reg d.n).absTile d.t → (w.clu (clusterOf d.n)).tile t = (s.clu (clusterOf d.n)).tile t
  tile : { w.tmem d.n d.t with treg := (s.tmem d.n d.t).treg, tregPoison := (s.tmem d.n d.t).tregPoison } = s.tmem d.n d.t
  regs : ∀ p, p ≠ (s.tmem d.n d.t).tregBanks.phys R → Tab.get 0 (w.tmem d.n d.t).treg p = Tab.get 0 (s.tmem d.n d.t).treg p

theorem tmem_modTmem (s : State) (n : BitVec 9) (t : TileNo) (f : TileMem → TileMem) : (s.modTmem n t f).tmem n t = f (s.tmem n t) := by
  rw [State.tmem, State.modTmem, tile_modTile]
  exact if_pos rfl

theorem tregOnly_modTmem {d : Nd} {R : Nat} {s : State} {f : TileMem → TileMem}
    (hf : { f (s.tmem d.n d.t) with treg := (s.tmem d.n d.t).treg, tregPoison := (s.tmem d.n d.t).tregPoison } = s.tmem d.n d.t)
    (hr : ∀ p, p ≠ (s.tmem d.n d.t).tregBanks.phys R → Tab.get 0 (f (s.tmem d.n d.t)).treg p = Tab.get 0 (s.tmem d.n d.t).treg p) :
    TregOnly d R s (s.modTmem d.n d.t f) := by
  refine ⟨rfl, fun j e => s.clu_modClu_ne _ e, ?_, fun t e => ?_, ?_, ?_⟩
  · rw [State.modTmem, clu_modTile]
  · rw [State.modTmem, tile_modTile, if_neg e]
  · rw [tmem_modTmem]; exact hf
  · rw [tmem_modTmem]; exact hr

theorem TregOnly.reg {d : Nd} {R : Nat} {s w : State} (h : TregOnly d R s w) (n : BitVec 9) : w.reg n = s.reg n :=
  reg_of_threads (show ({ w with clusters := s.clusters } : State).threads = s.threads by rw [h.shape]) n

theorem TregOnly.banks {d : Nd} {R : Nat} {s w : State} (h : TregOnly d R s w) : (w.tmem d.n d.t).tregBanks = (s.tmem d.n d.t).tregBanks := by
  conv_rhs => rw [← h.tile]

theorem TregOnly.trans {d : Nd} {R : Nat} {s t u : State} (h : TregOnly d R s t) (k : TregOnly d R t u) : TregOnly d R s u := by
  refine ⟨?_, fun j e => (k.other j e).trans (h.other j e), ?_, fun x e => ?_, ?_, fun p e => ?_⟩
  · have e : ({ u with clusters := s.clusters } : State) = { ({ u with clusters := t.clusters } : State) with clusters := s.clusters } := rfl
    rw [e, k.shape, h.shape]
  · have e : ({ u.clu (clusterOf d.n) with tiles := (s.clu (clusterOf d.n)).tiles } : Cluster)
        = { ({ u.clu (clusterOf d.n) with tiles := (t.clu (clusterOf d.n)).tiles } : Cluster) with tiles := (s.clu (clusterOf d.n)).tiles } := rfl
    rw [e, k.rest, h.rest]
  · rw [k.tiles x (by rw [h.reg]; exact e), h.tiles x e]
  · have e : ({ u.tmem d.n d.t with treg := (s.tmem d.n d.t).treg, tregPoison := (s.tmem d.n d.t).tregPoison } : TileMem)
        = { ({ u.tmem d.n d.t with treg := (t.tmem d.n d.t).treg, tregPoison := (t.tmem d.n d.t).tregPoison } : TileMem) with
            treg := (s.tmem d.n d.t).treg, tregPoison := (s.tmem d.n d.t).tregPoison } := rfl
    rw [e, k.tile, h.tile]
  · rw [k.regs p (by rw [h.banks]; exact e), h.regs p e]

theorem tregOnly_patchTreg (s : State) (d : Nd) (R lo len v : Nat) : TregOnly d R s (s.patchTreg d R lo len v) :=
  tregOnly_modTmem rfl (fun _ e => Tab.get_set_ne _ _ _ e)

theorem tregOnly_rowIn (s : State) (d : Nd) (o : RowOp) (r bits v : Nat) (bad : Bool) : TregOnly d o.reg s (s.rowIn d o r bits v bad) := by
  unfold State.rowIn
  dsimp only
  split
  · exact (tregOnly_patchTreg ..).trans (tregOnly_modTmem rfl (fun _ _ => rfl))
  · exact tregOnly_patchTreg ..

theorem getLsbD_regBits_patchTreg (s : State) (d : Nd) (R lo len v j : Nat) : ((s.patchTreg d R lo len v).regBits d R).getLsbD j =
    if lo ≤ j ∧ j < lo + len ∧ j < 32768 then v.testBit (j - lo) else (s.regBits d R).getLsbD j := by
  have hmask : (BitVec.ofNat 32768 ((2 ^ len - 1) * 2 ^ lo)).getLsbD j = decide (j < 32768 ∧ lo ≤ j ∧ j < lo + len) := by
    rw [BitVec.getLsbD_ofNat, Nat.testBit_mul_two_pow, Nat.testBit_two_pow_sub_one, Bool.eq_iff_iff]
    simp; omega
  have hval : (BitVec.ofNat 32768 (v * 2 ^ lo)).getLsbD j = (decide (j < 32768) && (decide (lo ≤ j) && v.testBit (j - lo))) := by
    rw [BitVec.getLsbD_ofNat, Nat.testBit_mul_two_pow]
  unfold State.regBits State.patchTreg
  rw [tmem_modTmem]
  dsimp only
  rw [Tab.get_set]
  generalize Tab.get (0 : BitVec 32768) (s.tmem d.n d.t).treg ((s.tmem d.n d.t).tregBanks.phys R) = old
  rw [BitVec.getLsbD_or, BitVec.getLsbD_and, BitVec.getLsbD_and, BitVec.getLsbD_not, hmask, hval]
  by_cases h : lo ≤ j ∧ j < lo + len ∧ j < 32768
  · obtain ⟨h1, h2, h3⟩ := h
    simp [h1, h2, h3]
  · by_cases h3 : j < 32768
    · simp only [h3, and_true, true_and] at h ⊢
      simp [h]
    · rw [BitVec.getLsbD_of_ge old j (by omega)]; simp [h3]

/-- A loaded row lies in its bits of the register; the others are as before. -/
theorem getLsbD_regBits_rowIn (s : State) (d : Nd) (o : RowOp) (r bits v : Nat) (bad : Bool) (j : Nat) :
    ((s.rowIn d o r bits v bad).regBits d o.reg).getLsbD j =
      if bits * r ≤ j ∧ j < bits * r + bits ∧ j < 32768 then (v % 2 ^ bits).testBit (j - bits * r) else (s.regBits d o.reg).getLsbD j := by
  rw [← getLsbD_regBits_patchTreg]
  unfold State.rowIn
  dsimp only
  split
  · rw [State.regBits, tmem_modTmem]; rfl
  · rfl

end Sys2Proof.Machine
end

section
/-! PROOFS, O40. What a row load reads from scratchpads and from memory. -/

namespace Sys2Proof.Machine
open State

/-! ## Scratchpads -/

theorem scrRead_of_calm {s : State} (h : s.module.armed 1 = false) (c : BitVec 5) (p : BitVec 8 × Nat) (n : Nat) :
    s.scrRead c p.1 p.2 n = (s, readLE ((s.clu c).tile p.1).scr (s.scrPhys c p).2 n, poisonIn ((s.clu c).tile p.1).scrPoison (s.scrPhys c p).2 n) := by
  simp only [State.scrRead, injectRead_of_calm h, State.scrPhys]

theorem testBit_readLE (m : Memory) (a : Nat) {n i : Nat} (h : i / 8 < n) :
    (readLE m a n).testBit i = (cellRead m (a + i / 8)).getLsbD (i % 8) := by
  rw [← ofNat_readLE_div m h, getLsbD_ofNat_div _ _ (Nat.mod_lt _ (by decide)), Nat.div_add_mod]

/-- A dword is poisoned where its word is marked. -/
theorem poisonIn_dword (l : List Nat) {a n : Nat} (ha : a % 8 = 0) (h0 : 0 < n) (h8 : n ≤ 8) : poisonIn l a n = true ↔ a / 8 ∈ l := by
  simp only [poisonIn, List.any_eq_true, Bool.and_eq_true, decide_eq_true_eq]
  constructor
  · rintro ⟨w, hw, h1, h2⟩
    rwa [show a / 8 = w by omega]
  · exact fun h => ⟨_, h, Nat.le_refl _, by omega⟩

theorem readLE_lt_of_le (m : Memory) (a : Nat) {n : Nat} (h : n ≤ 8) : readLE m a n < 2 ^ 64 :=
  (readLE_lt m a n).trans_le (by rw [show (256 : Nat) = 2 ^ 8 from rfl, ← Nat.pow_mul]; exact Nat.pow_le_pow_right (by decide) (by omega))

theorem getElem_rowPieces {addr len K : Nat} (hK : K < (rowPieces addr len).length) :
    (rowPieces addr len)[K] = (addr + 8 * K, Nat.min 8 (len - 8 * K)) := by
  simp [rowPieces]

/-- What a read of a piece of scratchpad gives. -/
def State.scrVal (s : State) (d : Nd) (a n : Nat) : Nat × Bool :=
  let p := s.scrPhys (clusterOf d.n) (s.scrAt d a)
  (readLE ((s.clu (clusterOf d.n)).tile p.1).scr p.2 n, poisonIn ((s.clu (clusterOf d.n)).tile p.1).scrPoison p.2 n)

section
variable {s : State} {d : Nd} {addr len : Nat} (ha : addr % 8 = 0) (hsome : ∀ x, x < len → (s.scrPlace d (addr + x)).isSome)
include ha hsome

/-- The places of a row's bytes: those of piece K lie side by side from an aligned one. -/
theorem scrPlace_piece {K : Nat} (hK : 8 * K < len) : (s.scrPhys (clusterOf d.n) (s.scrAt d (addr + 8 * K))).2 % 8 = 0
    ∧ ∀ j, j < 8 → s.scrPlace d (addr + (8 * K + j)) = some ((s.scrPhys (clusterOf d.n) (s.scrAt d (addr + 8 * K))).1,
        (s.scrPhys (clusterOf d.n) (s.scrAt d (addr + 8 * K))).2 + j) := by
  have h8 : (addr + 8 * K) % 8 = 0 := by omega
  have hP := scrPlace_of_isSome s d (hsome (8 * K) hK)
  constructor
  · have hat : (s.scrAt d (addr + 8 * K)).2 % 8 = 0 := by
      unfold State.scrAt
      cases h : s.scrAddr d (addr + 8 * K) with
      | none => rfl
      | some p => exact mod_eight_of_scrAddr s d h8 h
    show (8192 * _ + (s.scrAt d (addr + 8 * K)).2 % 8192) % 8 = 0
    omega
  · intro j hj
    rw [show addr + (8 * K + j) = addr + 8 * K + j by omega, scrPlace_add s d h8 hj, hP]; rfl

/-- A row read from scratchpads: its bits, and whether a word of it is poisoned. -/
theorem gather_scr (hc : s.module.armed 1 = false) :
    ∃ v bad, s.gather (rowPieces addr len) (fun s a n => s.scrRead (clusterOf d.n) (s.scrAt d a).1 (s.scrAt d a).2 n) = (s, v, bad)
      ∧ (∀ x p, x < 8 * len → s.scrPlace d (addr + x / 8) = some p → v.testBit x = (s.scrCell d.n p).getLsbD (x % 8))
      ∧ (bad = true ↔ ∃ x p, x < len ∧ s.scrPlace d (addr + x) = some p ∧ p.2 / 8 ∈ ((s.clu (clusterOf d.n)).tile p.1).scrPoison) := by
  obtain ⟨t, rfl, hg⟩ := gather_eq (P := (· = s)) (V := s.scrVal d) (ps := rowPieces addr len) (s := s)
    (rd := fun s a n => s.scrRead (clusterOf d.n) (s.scrAt d a).1 (s.scrAt d a).2 n) rfl
    (fun t ht p _ => by subst ht; rw [scrRead_of_calm hc]; exact ⟨rfl, rfl⟩)
  have hlen : (rowPieces addr len).length = (len + 7) / 8 := by simp [rowPieces]
  have hmin : ∀ k, Nat.min 8 (len - 8 * k) = min 8 (len - 8 * k) := fun _ => rfl
  refine ⟨_, _, hg, fun x p hx hp => ?_, ?_⟩
  · obtain ⟨k, i, hi, rfl⟩ : ∃ k i, i < 64 ∧ x = 64 * k + i := ⟨x / 64, x % 64, Nat.mod_lt _ (by decide), (Nat.div_add_mod x 64).symm⟩
    have hk : k < (rowPieces addr len).length := by rw [hlen]; omega
    have hlt : ∀ q ∈ rowPieces addr len, (t.scrVal d q.1 q.2).1 < 2 ^ 64 := by
      intro q hq
      obtain ⟨k, _, rfl⟩ := List.mem_map.mp hq
      exact readLE_lt_of_le _ _ (by rw [hmin]; omega)
    obtain ⟨_, hplace⟩ := scrPlace_piece ha hsome (K := k) (by omega)
    rw [show addr + (64 * k + i) / 8 = addr + (8 * k + i / 8) by omega, hplace _ (by omega)] at hp
    obtain rfl := Option.some.inj hp
    rw [testBit_piecesVal hlt hk hi, getElem_rowPieces hk, show (64 * k + i) % 8 = i % 8 by omega]
    exact testBit_readLE _ _ (by rw [hmin]; omega)
  · rw [List.any_eq_true]
    constructor
    · rintro ⟨q, hq, hbad⟩
      obtain ⟨k, hk, rfl⟩ := List.mem_map.mp hq
      rw [List.mem_range] at hk
      obtain ⟨h8, hplace⟩ := scrPlace_piece ha hsome (K := k) (by omega)
      exact ⟨8 * k, _, by omega, hplace 0 (by decide), (poisonIn_dword _ h8 (by rw [hmin]; omega) (by rw [hmin]; omega)).mp hbad⟩
    · rintro ⟨x, p, hx, hp, hbad⟩
      obtain ⟨h8, hplace⟩ := scrPlace_piece ha hsome (K := x / 8) (by omega)
      rw [show addr + x = addr + (8 * (x / 8) + x % 8) by omega, hplace _ (Nat.mod_lt _ (by decide))] at hp
      obtain rfl := Option.some.inj hp
      have hword : ∀ b, b % 8 = 0 → (b + x % 8) / 8 = b / 8 := fun b hb => by omega
      refine ⟨_, List.mem_map_of_mem (List.mem_range.mpr (show x / 8 < (len + 7) / 8 by omega)),
        (poisonIn_dword _ h8 (by rw [hmin]; omega) (by rw [hmin]; omega)).mpr ?_⟩
      rw [← hword _ h8]; exact hbad

end

end Sys2Proof.Machine
end

section
/-! PROOFS, O40. Loads of the fabric one after the other read what each would have read alone. -/

namespace Sys2Proof.Machine
open State

/-! ## The line a load reads -/

/-- The home's copy of a line. -/
def State.homeCopy (s : State) (line : Nat) : Line where
  data := BitVec.ofNat 512 (readLE s.mem (64 * line) 64)
  valid := -1
  poison := (List.range 8).foldl (fun r k => if s.poison.contains (8 * line + k) then r ||| 1#8 <<< k else r) 0

theorem homeLine_of_calm {s : State} (h : s.module.armed 0 = false) (line : Nat) : s.homeLine line = (s, s.homeCopy line) := by
  simp only [State.homeCopy, State.homeLine, State.injectHome, h, Bool.false_eq_true, false_and, if_false]

/-- The whole line as a cluster's slice has it, what it lacks filled from the home. -/
def State.fullLine (s : State) (c : BitVec 5) (line : Nat) : Line :=
  if (s.l2Line c line).valid = -1 then s.l2Line c line else (s.l2Line c line).fillFrom (s.homeCopy line)

theorem fullLine_congr {s t : State} {c : BitVec 5} {j : Nat} (hl : t.l2Line c j = s.l2Line c j) (hm : t.mem = s.mem)
    (hp : t.poison = s.poison) : t.fullLine c j = s.fullLine c j := by
  simp only [State.fullLine, State.homeCopy, hl, hm, hp]

theorem fullLine_valid (s : State) (c : BitVec 5) (line : Nat) : (s.fullLine c line).valid = -1 := by
  unfold State.fullLine
  split
  · next h => exact h
  · rfl

theorem l2Get_of_calm {s : State} (h : s.module.armed 0 = false) (c : BitVec 5) (line : Nat) : (s.l2Get c line).2 = s.fullLine c line
    ∧ ((s.l2Get c line).1 = s ∨ (s.l2Get c line).1 = s.setL2 c line (s.fullLine c line)) := by
  unfold State.l2Get State.fullLine
  rw [homeLine_of_calm h]
  dsimp only
  split
  · exact ⟨rfl, Or.inl rfl⟩
  · split
    · exact ⟨rfl, Or.inl rfl⟩
    · exact ⟨rfl, Or.inr rfl⟩

/-- The line a load of a tile reads at a point. -/
def State.seenLine (s : State) (c : BitVec 5) (q : BitVec 6) (p : ReadPoint) (line : Nat) : Line :=
  match p with
  | .home => ({ s.l2Line c line with valid := (s.l2Line c line).dirty } : Line).fillFrom (s.homeCopy line)
  | .slice => s.fullLine c line
  | .quad =>
    let l : Line := Tab.get {} (Tab.get [] (s.clu c).quad q.toNat) line
    if l.valid = -1 then l else s.fullLine c line

theorem fabricLoad_of_calm {s : State} (h : s.module.armed 0 = false) (c : BitVec 5) (q : BitVec 6) (p : ReadPoint) (pa n : Nat) :
    (s.fabricLoad c q p pa n).2 = (s.seenLine c q p (pa / 64)).bytes (pa % 64) n := by
  unfold State.fabricLoad State.seenLine
  cases p with
  | home => dsimp only; rw [homeLine_of_calm h]
  | slice => dsimp only; rw [(l2Get_of_calm h c _).1]
  | quad =>
    dsimp only
    split
    · rfl
    · rw [(l2Get_of_calm h c _).1]

/-! ## What a load leaves as it was -/

/-- From s to t caches alone have changed, and every load of a tile of a cluster at a point reads as before. -/
structure LoadsAlike (c : BitVec 5) (q : BitVec 6) (p : ReadPoint) (s t : State) : Prop where
  shape : { t with clusters := s.clusters } = s
  tiles : ∀ k, (t.clu k).tiles = (s.clu k).tiles
  lines : ∀ j, (t.seenLine c q p j).data = (s.seenLine c q p j).data ∧ (t.seenLine c q p j).poison = (s.seenLine c q p j).poison

section
variable {c : BitVec 5} {q : BitVec 6} {p : ReadPoint} {s t u : State}

theorem LoadsAlike.refl (s : State) : LoadsAlike c q p s s := ⟨rfl, fun _ => rfl, fun _ => ⟨rfl, rfl⟩⟩

theorem LoadsAlike.trans (h : LoadsAlike c q p s t) (k : LoadsAlike c q p t u) : LoadsAlike c q p s u := by
  refine ⟨?_, fun j => (k.tiles j).trans (h.tiles j), fun j => ⟨(k.lines j).1.trans (h.lines j).1, (k.lines j).2.trans (h.lines j).2⟩⟩
  have e : ({ u with clusters := s.clusters } : State) = { ({ u with clusters := t.clusters } : State) with clusters := s.clusters } := rfl
  rw [e, k.shape, h.shape]

theorem LoadsAlike.module (h : LoadsAlike c q p s t) : t.module = s.module :=
  show ({ t with clusters := s.clusters } : State).module = s.module by rw [h.shape]

theorem LoadsAlike.threads (h : LoadsAlike c q p s t) : t.threads = s.threads :=
  show ({ t with clusters := s.clusters } : State).threads = s.threads by rw [h.shape]

/-- Lines of one content give the same bytes and marks. -/
theorem Line.bytes_congr {l m : Line} (hd : l.data = m.data) (hp : l.poison = m.poison) (off n : Nat) : l.bytes off n = m.bytes off n := by
  simp only [Line.bytes, hd, hp]

theorem LoadsAlike.value (h : LoadsAlike c q p s t) (hc : s.module.armed 0 = false) (pa n : Nat) :
    (t.fabricLoad c q p pa n).2 = (s.fabricLoad c q p pa n).2 := by
  rw [fabricLoad_of_calm hc, fabricLoad_of_calm (by rw [h.module]; exact hc)]
  exact Line.bytes_congr (h.lines _).1 (h.lines _).2 _ _

/-- A line kept whole in its slice is read as it was filled. -/
theorem fullLine_setL2 (s : State) (c : BitVec 5) (line j : Nat) : (s.setL2 c line (s.fullLine c line)).fullLine c j = s.fullLine c j := by
  have hv := fullLine_valid s c line
  have hne : (s.fullLine c line).valid ≠ 0 := by rw [hv]; decide
  by_cases e : j = line
  · subst e
    have hl : (s.setL2 c j (s.fullLine c j)).l2Line c j = s.fullLine c j := by rw [State.l2Line_setL2, if_pos rfl, if_neg hne]
    rw [State.fullLine, hl, if_pos hv]
  · have hl : (s.setL2 c line (s.fullLine c line)).l2Line c j = s.l2Line c j := by rw [State.l2Line_setL2, if_neg e]
    exact fullLine_congr hl rfl rfl

theorem loadsAlike_setL2 (hp : p ≠ .home) (line : Nat) : LoadsAlike c q p s (s.setL2 c line (s.fullLine c line)) := by
  have hquad : ((s.setL2 c line (s.fullLine c line)).clu c).quad = (s.clu c).quad := by rw [State.setL2, State.clu_modClu]
  refine ⟨rfl, fun k => ?_, fun j => ?_⟩
  · rw [State.setL2, modClu_clu]
    split
    · next h => subst h; rfl
    · rfl
  · have hfull := fullLine_setL2 s c line j
    cases p with
    | home => exact absurd rfl hp
    | slice => exact ⟨congrArg Line.data hfull, congrArg Line.poison hfull⟩
    | quad => simp only [State.seenLine, hquad, hfull, and_self]

/-- A line put into a quad cache that lacks it is read as its slice has it. -/
theorem loadsAlike_modQuad {line : Nat} (hl : (Tab.get ({} : Line) (Tab.get [] (s.clu c).quad q.toNat) line).valid ≠ -1) :
    LoadsAlike c q .quad s (s.modQuad c q (fun t => Tab.set t line { s.fullLine c line with dirty := 0, marks := [] })) := by
  have hclu : (s.modQuad c q (fun t => Tab.set t line { s.fullLine c line with dirty := 0, marks := [] })).clu c
      = { s.clu c with
          quad := Tab.set (s.clu c).quad q.toNat (Tab.set (Tab.get [] (s.clu c).quad q.toNat) line
            { s.fullLine c line with dirty := 0, marks := [] }) } := by
    rw [State.modQuad, State.clu_modClu]
  refine ⟨rfl, fun k => ?_, fun j => ?_⟩
  · rw [State.modQuad, modClu_clu]
    split
    · next h => subst h; rfl
    · rfl
  · have hfull : (s.modQuad c q (fun t => Tab.set t line { s.fullLine c line with dirty := 0, marks := [] })).fullLine c j = s.fullLine c j :=
      fullLine_congr (by simp only [State.l2Line, hclu]) rfl rfl
    simp only [State.seenLine, hclu, hfull, Tab.get_set]
    by_cases e : j = line
    · subst e
      rw [Tab.get_set, if_pos (fullLine_valid s c j), if_neg hl]
      exact ⟨rfl, rfl⟩
    · rw [Tab.get_set_ne _ _ _ e]
      exact ⟨rfl, rfl⟩

theorem loadsAlike_l2Get (hc : s.module.armed 0 = false) (hp : p ≠ .home) (line : Nat) : LoadsAlike c q p s (s.l2Get c line).1 := by
  rcases (l2Get_of_calm hc c line).2 with e | e
  · rw [e]; exact LoadsAlike.refl s
  · rw [e]; exact loadsAlike_setL2 hp line

/-- A load leaves every load as it was. -/
theorem loadsAlike_fabricLoad (hc : s.module.armed 0 = false) (pa n : Nat) : LoadsAlike c q p s (s.fabricLoad c q p pa n).1 := by
  unfold State.fabricLoad
  cases p with
  | home => dsimp only; rw [homeLine_of_calm hc]; exact LoadsAlike.refl s
  | slice => exact loadsAlike_l2Get hc (by decide) _
  | quad =>
    dsimp only
    split
    · exact LoadsAlike.refl s
    · next hl =>
      have h1 : LoadsAlike c q .quad s (s.l2Get c (pa / 64)).1 := loadsAlike_l2Get hc (by decide) _
      split
      · exact h1
      · obtain ⟨hv, hk⟩ := l2Get_of_calm hc c (pa / 64)
        refine h1.trans ?_
        rw [hv]
        rcases hk with e | e
        · rw [e]; exact loadsAlike_modQuad hl
        · have hfull := fullLine_setL2 s c (pa / 64) (pa / 64)
          have hquad : ((s.setL2 c (pa / 64) (s.fullLine c (pa / 64))).clu c).quad = (s.clu c).quad := by rw [State.setL2, State.clu_modClu]
          rw [e]
          generalize s.setL2 c (pa / 64) (s.fullLine c (pa / 64)) = u at hfull hquad ⊢
          rw [← hfull]
          exact loadsAlike_modQuad (by rw [hquad]; exact hl)

/-- The words resolved for a row's pieces: one key for each piece, and what translating may change. -/
theorem resolveRow_ok {cr : Capt} {k : Access} {who : Waiter} {ps keys : List (Nat × Nat)} {s u : State}
    (h : State.resolveRow cr k who ps s = (u, .ok keys)) : keys.map Prod.snd = ps.map Prod.snd ∧ u.threads = s.threads := by
  induction ps generalizing s keys with
  | nil =>
    obtain ⟨rfl, hk⟩ := Prod.mk.inj h
    obtain rfl := Except.ok.inj hk
    exact ⟨rfl, rfl⟩
  | cons p r ih =>
    obtain ⟨a, n⟩ := p
    unfold State.resolveRow at h
    cases hr : s.resolve cr k false (BitVec.ofNat 64 a) who with
    | mk t res =>
      rw [hr] at h
      cases res with
      | fault c => exact absurd (Prod.mk.inj h).2 (by simp)
      | wait => exact absurd (Prod.mk.inj h).2 (by simp)
      | ok key x =>
        cases hl : State.resolveRow cr k who r t with
        | mk v e =>
          dsimp only at h
          rw [hl] at h
          cases e with
          | error e => exact absurd (Prod.mk.inj h).2 (by simp)
          | ok l =>
            obtain ⟨rfl, hk⟩ := Prod.mk.inj h
            obtain rfl := Except.ok.inj hk
            obtain ⟨hn, ht⟩ := ih hl
            exact ⟨by simp [hn], ht.trans (resolve_threads_of hr)⟩

theorem bytesOf_lt {v off n : Nat} (h : n ≤ 8) : bytesOf v off n < 2 ^ 64 :=
  (Nat.mod_lt _ (Nat.two_pow_pos _)).trans_le (Nat.pow_le_pow_right (by decide) (by omega))

/-- A row read from memory, each of its pieces as a load of its own would read it. -/
theorem gather_mem {keys : List (Nat × Nat)} {d : Nd} (hc : u.module.armed 0 = false) (hn : ∀ p ∈ keys, p.2 ≤ 8) :
    ∃ t v bad, u.gather keys (fun s a n => s.fabricLoad c (quadOf ((s.reg d.n).absTile d.t)) p a n) = (t, v, bad)
      ∧ { t with clusters := u.clusters } = u ∧ (∀ k, (t.clu k).tiles = (u.clu k).tiles)
      ∧ (∀ k i, k < keys.length → i < 64 → v.testBit (64 * k + i)
          = (u.fabricLoad c (quadOf ((u.reg d.n).absTile d.t)) p (keys.getD k (0, 0)).1 (keys.getD k (0, 0)).2).2.1.testBit i)
      ∧ (bad = true ↔ ∃ k, k < keys.length
          ∧ (u.fabricLoad c (quadOf ((u.reg d.n).absTile d.t)) p (keys.getD k (0, 0)).1 (keys.getD k (0, 0)).2).2.2 = true) := by
  let V := fun a n => (u.fabricLoad c (quadOf ((u.reg d.n).absTile d.t)) p a n).2
  obtain ⟨t, ht, hg⟩ := gather_eq (P := LoadsAlike c (quadOf ((u.reg d.n).absTile d.t)) p u) (V := V) (ps := keys)
    (rd := fun s a n => s.fabricLoad c (quadOf ((s.reg d.n).absTile d.t)) p a n) (LoadsAlike.refl u)
    (fun t ht x _ => by
      have hreg : t.reg d.n = u.reg d.n := reg_of_threads ht.threads d.n
      rw [hreg]
      exact ⟨ht.trans (loadsAlike_fabricLoad (by rw [ht.module]; exact hc) _ _), ht.value hc _ _⟩)
  have hlt : ∀ x ∈ keys, (V x.1 x.2).1 < 2 ^ 64 := by
    intro x hx
    simp only [V, fabricLoad_of_calm hc, Line.bytes]
    exact bytesOf_lt (hn x hx)
  refine ⟨t, _, _, hg, ht.shape, ht.tiles, fun k i hk hi => ?_, ?_⟩
  · rw [testBit_piecesVal hlt hk hi, List.getD_eq_getElem _ _ hk]
  · rw [List.any_eq_true]
    constructor
    · rintro ⟨x, hx, hbad⟩
      obtain ⟨k, hk, rfl⟩ := List.getElem_of_mem hx
      exact ⟨k, hk, by rw [List.getD_eq_getElem _ _ hk]; exact hbad⟩
    · rintro ⟨k, hk, hbad⟩
      rw [List.getD_eq_getElem _ _ hk] at hbad
      exact ⟨_, List.getElem_mem hk, hbad⟩

end

end Sys2Proof.Machine
end

section
/-! PROOFS, O40. A row to memory: one piece after the other goes to the slice, and with the scope of the machine on to the home. -/

namespace Sys2Proof.Machine
open State

/-! ## Lines without marks -/

/-- A line that marks no bitmap, and whose dirty bytes are valid. -/
def Line.Plain (l : Line) : Prop := l.marks = [] ∧ l.dirty &&& ~~~l.valid = 0

theorem Line.Plain.valid_of_dirty {l : Line} (h : l.Plain) {i : Nat} (hi : l.dirty.getLsbD i = true) : l.valid.getLsbD i = true := by
  have hlt : i < 64 := BitVec.lt_of_getLsbD hi
  have hz := congrArg (·.getLsbD i) h.2
  simpa [hi, hlt] using hz

theorem Line.plain_of {l : Line} (hm : l.marks = []) (h : ∀ i, l.dirty.getLsbD i = true → l.valid.getLsbD i = true) : l.Plain := by
  refine ⟨hm, BitVec.eq_of_getLsbD_eq fun i hi => ?_⟩
  have := h i
  cases hd : l.dirty.getLsbD i <;> simp_all

theorem Line.plain_empty : ({} : Line).Plain := ⟨rfl, rfl⟩

theorem Line.Plain.store {l : Line} (h : l.Plain) (new : BitVec 512) (m : BitVec 64) (bad : Bool) : (l.store new m bad []).Plain := by
  refine Line.plain_of (by simp [Line.store, h.1]) fun i hi => ?_
  rw [Line.store_valid]
  simp only [Line.store, BitVec.getLsbD_or, Bool.or_eq_true] at hi
  rcases hi with hi | hi
  · rw [h.valid_of_dirty hi]; rfl
  · rw [hi, Bool.or_true]

/-- The line with the bytes of a mask no longer dirty. -/
def Line.cleaned (l : Line) (d : BitVec 64) : Line := { l with dirty := l.dirty &&& ~~~d }

theorem Line.cleaned_zero (l : Line) : l.cleaned 0 = l := by
  have e : l.dirty &&& ~~~(0 : BitVec 64) = l.dirty := BitVec.and_allOnes
  rw [Line.cleaned, e]

theorem Line.Plain.cleaned {l : Line} (h : l.Plain) (d : BitVec 64) : (l.cleaned d).Plain := by
  refine Line.plain_of h.1 fun i hi => h.valid_of_dirty ?_
  rw [Line.cleaned, BitVec.getLsbD_and, Bool.and_eq_true] at hi
  exact hi.1

/-! ## A store to a slice that marks nothing -/

section
variable {s : State} {c : BitVec 5} {line : Nat} {new : BitVec 512} {m : BitVec 64} {bad : Bool}

theorem l2Store_l2Line_plain (hm : m ≠ 0) {j : Nat} (h : (s.l2Line c j).Plain) : ((s.l2Store c line new m bad []).l2Line c j).Plain := by
  by_cases hd : (s.clu c).l2Live (slicePage line) = 0 ∧ (s.l2Line c line).valid = 0
  · rw [l2Store_of_dead hd]
    simpa only [State.l2Line, State.clu, homeMerge_clu, markAll_clusters] using h
  · rw [l2Store_of_live hd, State.l2Line_setL2, if_neg (Line.store_valid_ne_zero _ _ _ _ hm)]
    split
    · next e => subst e; exact h.store new m bad
    · exact h

/-- The masked bytes read as stored; where the line does not hold one as dirty, so does the home's. -/
theorem l2Store_sliceByte_of_masks (hw : Memory.wf s.mem = true) (hm : m ≠ 0) {b : Nat} (hb : masks line m b) :
    (s.l2Store c line new m bad []).sliceByte c b = fld new (8 * (b % 64)) 8
      ∧ (((s.l2Store c line new m bad []).l2Line c line).dirty.getLsbD (b % 64) = false →
          cellRead (s.l2Store c line new m bad []).mem b = fld new (8 * (b % 64)) 8) := by
  classical
  obtain ⟨e, hbit⟩ := hb
  have hdata : ∀ l : Line, (fld (l.store new m bad []).data (8 * (b % 64)) 8 : Byte) = fld new (8 * (b % 64)) 8 := fun l => by
    rw [Line.store_data, if_pos hbit]
  by_cases hd : (s.clu c).l2Live (slicePage line) = 0 ∧ (s.l2Line c line).valid = 0
  · have hread : cellRead (s.l2Store c line new m bad []).mem b = fld new (8 * (b % 64)) 8 := by
      rw [l2Store_of_dead hd]
      exact (cellRead_homeMerge_unmarked s line m b hw (Line.store_empty_marks ..)).trans ((if_pos ⟨e, hbit⟩).trans (hdata _))
    have hline : (s.l2Store c line new m bad []).l2Line c (b / 64) = s.l2Line c line := by
      rw [l2Store_of_dead hd, e]
      simp only [State.l2Line, State.clu, homeMerge_clu, markAll_clusters]
    refine ⟨?_, fun _ => hread⟩
    rw [State.sliceByte, hline, hd.2]
    simpa using hread
  · have hline : (s.l2Store c line new m bad []).l2Line c line = (s.l2Line c line).store new m bad [] := by
      rw [l2Store_of_live hd, State.l2Line_setL2, if_pos rfl, if_neg (Line.store_valid_ne_zero _ _ _ _ hm)]
    refine ⟨?_, fun h => ?_⟩
    · rw [State.sliceByte, e, hline, Line.store_valid, hbit, Bool.or_true, if_pos rfl, hdata]
    · rw [hline] at h
      simp [Line.store, hbit] at h

/-! ## Bytes written back -/

theorem cacheOnly_wf {s t : State} (h : CacheOnly s t) (hw : Memory.wf s.mem = true) : Memory.wf t.mem = true := by
  obtain ⟨_, _, _, rfl, hk⟩ := h
  exact hk hw

theorem writeBackMask_cacheOnly : CacheOnly s (s.writeBackMask c line m) := by
  unfold State.writeBackMask
  dsimp only
  split
  · exact CacheOnly.refl s
  · exact (homeMerge_shape ..).trans (setL2_cacheOnly ..)

theorem writeBackMask_l2Line (hp : (s.l2Line c line).Plain) : ∃ d, ∀ j, (s.writeBackMask c line m).l2Line c j
    = if j = line then (s.l2Line c line).cleaned d else s.l2Line c j := by
  unfold State.writeBackMask
  dsimp only
  split
  · refine ⟨0, fun j => ?_⟩
    split
    · next e => subst e; exact (Line.cleaned_zero _).symm
    · rfl
  · next hd =>
    have hv : (s.l2Line c line).valid ≠ 0 := by
      intro hv
      obtain ⟨_, h2⟩ := hp
      rw [hv, show ~~~(0 : BitVec 64) = BitVec.allOnes 64 from rfl, BitVec.and_allOnes] at h2
      exact hd (by rw [h2]; exact BitVec.zero_and)
    refine ⟨(s.l2Line c line).dirty &&& m, fun j => ?_⟩
    have hl : (s.homeMerge line (s.l2Line c line) ((s.l2Line c line).dirty &&& m)).l2Line c j = s.l2Line c j := by
      simp only [State.l2Line, State.clu, homeMerge_clu]
    rw [State.l2Line_setL2, hl]
    exact if_congr Iff.rfl (if_neg hv) rfl

/-- The home takes the dirty bytes of the mask. -/
theorem writeBackMask_read (hw : Memory.wf s.mem = true) (hp : (s.l2Line c line).Plain) (b : Nat) :
    cellRead (s.writeBackMask c line m).mem b =
      if b / 64 = line ∧ m.getLsbD (b % 64) = true ∧ (s.l2Line c line).dirty.getLsbD (b % 64) = true
        then fld (s.l2Line c line).data (8 * (b % 64)) 8 else cellRead s.mem b := by
  classical
  unfold State.writeBackMask
  dsimp only
  split
  · next hd =>
    rw [if_neg]
    rintro ⟨_, h1, h2⟩
    have hz := congrArg (·.getLsbD (b % 64)) hd
    simp [h1, h2] at hz
  · rw [setL2_mem, cellRead_homeMerge_unmarked _ _ _ _ hw hp.1]
    exact if_congr (by rw [masks, BitVec.getLsbD_and, Bool.and_eq_true, and_comm (a := _ = true)]) rfl rfl

theorem writeBackMask_sliceByte (hw : Memory.wf s.mem = true) (hp : (s.l2Line c line).Plain) (b : Nat) :
    (s.writeBackMask c line m).sliceByte c b = s.sliceByte c b := by
  obtain ⟨d, hl⟩ := writeBackMask_l2Line (m := m) hp
  simp only [State.sliceByte, hl, writeBackMask_read hw hp]
  by_cases e : b / 64 = line
  · rw [if_pos e, e]
    exact if_ctx_congr Iff.rfl (fun _ => rfl) (fun hv => if_neg (fun h => hv (hp.valid_of_dirty h.2.2)))
  · rw [if_neg e, if_neg (fun h : _ ∧ _ => e h.1)]

end

/-! ## One piece -/

/-- n bytes of the number v have gone to an address: loads through the slice read them there, and every other byte as before, and with a scope
of 3 or more the home has them too. -/
structure PieceStored (c : BitVec 5) (sc : BitVec 3) (key n v : Nat) (s w : State) : Prop where
  only : CacheOnly s w
  bytes : ∀ b, w.sliceByte c b = if key ≤ b ∧ b < key + n then BitVec.ofNat 8 (v / 256 ^ (b - key)) else s.sliceByte c b
  home : 3 ≤ sc.toNat → ∀ b, key ≤ b ∧ b < key + n → cellRead w.mem b = BitVec.ofNat 8 (v / 256 ^ (b - key))
  mem : ∀ b, ¬(key ≤ b ∧ b < key + n) → cellRead w.mem b = cellRead s.mem b
  plain : ∀ j, (s.l2Line c j).Plain → (w.l2Line c j).Plain

theorem pieceStored_storePiece {s : State} {d : Nd} {cr : Capt} {sc : BitVec 3} {key n v : Nat} {bad : Bool} (hw : Memory.wf s.mem = true)
    (hn : 0 < n) (hin : key % 64 + n ≤ 64) (hv : v < 2 ^ (8 * n)) (hcr : cr.marks key = []) (hp : (s.l2Line (clusterOf d.n) (key / 64)).Plain) :
    PieceStored (clusterOf d.n) sc key n v s (s.storePiece d cr sc key n v bad) := by
  have hm : byteMask (key % 64) n ≠ 0 := byteMask_ne_zero hn (Nat.mod_lt _ (by decide))
  have hmask : ∀ b, masks (key / 64) (byteMask (key % 64) n) b ↔ key ≤ b ∧ b < key + n := fun b => masks_byteMask key n b hin
  have hnew : ∀ b, key ≤ b ∧ b < key + n →
      (fld (BitVec.ofNat 512 (v * 2 ^ (8 * (key % 64)))) (8 * (b % 64)) 8 : Byte) = BitVec.ofNat 8 (v / 256 ^ (b - key)) := by
    intro b hb
    have h := fld_storedLine (v := v) (off := key % 64) (n := n) (i := b % 64) (by omega) (by omega) hin
    rwa [Nat.mod_eq_of_lt hv, show b % 64 - key % 64 = b - key by omega] at h
  unfold State.storePiece
  dsimp only
  rw [hcr]
  generalize BitVec.ofNat 512 (v * 2 ^ (8 * (key % 64))) = new at hnew ⊢
  have hc := l2Store_cacheOnly s (clusterOf d.n) (key / 64) new (byteMask (key % 64) n) bad []
  have hpl := fun j => l2Store_l2Line_plain (s := s) (c := clusterOf d.n) (line := key / 64) (new := new) (bad := bad) hm (j := j)
  have hin' := fun b hb => l2Store_sliceByte_of_masks (c := clusterOf d.n) (new := new) (bad := bad) hw hm (b := b) ((hmask b).mpr hb)
  have hout := fun b hb => l2Store_sliceByte_of_not_masks s (clusterOf d.n) new bad [] hw hm (b := b) ((not_congr (hmask b)).mpr hb)
  have hread := fun b hb => l2Store_read_of_not_masks s (clusterOf d.n) new bad [] hw hm (b := b) ((not_congr (hmask b)).mpr hb)
  generalize s.l2Store (clusterOf d.n) (key / 64) new (byteMask (key % 64) n) bad [] = t at hc hpl hin' hout hread ⊢
  have hbytes : ∀ b, t.sliceByte (clusterOf d.n) b
      = if key ≤ b ∧ b < key + n then BitVec.ofNat 8 (v / 256 ^ (b - key)) else s.sliceByte (clusterOf d.n) b := by
    intro b
    by_cases hb : key ≤ b ∧ b < key + n
    · rw [if_pos hb, (hin' b hb).1, hnew b hb]
    · rw [if_neg hb]; exact hout b hb
  split
  · next hsc =>
    have hwt := cacheOnly_wf hc hw
    have hpt := hpl _ hp
    refine ⟨hc.trans writeBackMask_cacheOnly, fun b => (writeBackMask_sliceByte hwt hpt b).trans (hbytes b), fun _ b hb => ?_, fun b hb => ?_,
      fun j hj => ?_⟩
    · obtain ⟨hl, hbit⟩ := (hmask b).mpr hb
      obtain ⟨hs, hd⟩ := hin' b hb
      rw [writeBackMask_read hwt hpt]
      split
      · next h =>
        rw [← hnew b hb, ← hs, State.sliceByte, hl, if_pos (hpt.valid_of_dirty h.2.2)]
      · next h => rw [← hnew b hb]; exact hd (Bool.eq_false_iff.mpr fun q => h ⟨hl, hbit, q⟩)
    · rw [writeBackMask_read hwt hpt, if_neg]
      · exact hread b hb
      · exact fun h => hb ((hmask b).mp ⟨h.1, h.2.1⟩)
    · obtain ⟨e, hl⟩ := writeBackMask_l2Line (m := byteMask (key % 64) n) hpt
      rw [hl]
      split
      · exact hpt.cleaned e
      · exact hpl j hj
  · next hsc => exact ⟨hc, hbytes, fun h => absurd h hsc, hread, hpl⟩

end Sys2Proof.Machine
end

section
/-! PROOFS, O40. All pieces of a row to memory. -/

namespace Sys2Proof.Machine
open State

/-- The address of byte x of a row whose pieces lead to keys. -/
def rowKey (keys : List (Nat × Nat)) (x : Nat) : Nat := (keys.getD (x / 8) (0, 0)).1 + x % 8

/-- The keys of a row of bytes: one for each eight bytes, of the size of its piece, aligned, of granules and lines that no bitmap marks, and no
two bytes of the row at one address. -/
structure RowKeys (s : State) (c : BitVec 5) (cr : Capt) (keys : List (Nat × Nat)) (len : Nat) : Prop where
  length : keys.length = (len + 7) / 8
  size : ∀ k, k < keys.length → (keys.getD k (0, 0)).2 = min 8 (len - 8 * k)
  aligned : ∀ k, k < keys.length → (keys.getD k (0, 0)).1 % 8 = 0
  marks : ∀ k, k < keys.length → cr.marks (keys.getD k (0, 0)).1 = []
  plain : ∀ k, k < keys.length → (s.l2Line c ((keys.getD k (0, 0)).1 / 64)).Plain
  inj : ∀ x y, x < len → y < len → rowKey keys x = rowKey keys y → x = y

/-- The first K pieces of a row have gone to their keys: its bytes below 8K, and nothing else. -/
structure MemMoved (c : BitVec 5) (sc : BitVec 3) (keys : List (Nat × Nat)) (len v K : Nat) (s w : State) : Prop where
  only : CacheOnly s w
  bytes : ∀ x, x < len → x < 8 * K → w.sliceByte c (rowKey keys x) = BitVec.ofNat 8 (v / 256 ^ x)
  home : 3 ≤ sc.toNat → ∀ x, x < len → x < 8 * K → cellRead w.mem (rowKey keys x) = BitVec.ofNat 8 (v / 256 ^ x)
  others : ∀ y, (∀ x, x < len → x < 8 * K → rowKey keys x ≠ y) → w.sliceByte c y = s.sliceByte c y ∧ cellRead w.mem y = cellRead s.mem y
  plain : ∀ j, (s.l2Line c j).Plain → (w.l2Line c j).Plain

/-- Piece k of a row goes to its key. -/
def State.keyPiece (s : State) (d : Nd) (cr : Capt) (sc : BitVec 3) (keys : List (Nat × Nat)) (v : Nat) (bad : Bool) (k : Nat) : State :=
  s.storePiece d cr sc (keys.getD k (0, 0)).1 (keys.getD k (0, 0)).2 (bytesOf v (8 * k) (keys.getD k (0, 0)).2) bad

theorem zipIdx_eq_range (keys : List (Nat × Nat)) : keys.zipIdx = (List.range keys.length).map (fun k => (keys.getD k (0, 0), k)) := by
  apply List.ext_getElem
  · simp
  · intro k h1 h2
    have hk : k < keys.length := by simpa using h1
    simp [hk]

theorem memRow_eq (s : State) (d : Nd) (cr : Capt) (sc : BitVec 3) (keys : List (Nat × Nat)) (v : Nat) (bad : Bool) :
    s.memRow d cr sc keys v bad = (List.range keys.length).foldl (fun s k => s.keyPiece d cr sc keys v bad k) s := by
  rw [State.memRow, zipIdx_eq_range, List.foldl_map]; rfl

section
variable {s : State} {d : Nd} {cr : Capt} {sc : BitVec 3} {keys : List (Nat × Nat)} {len v : Nat} {bad : Bool}
  (hk : RowKeys s (clusterOf d.n) cr keys len)
include hk

/-- The bytes of piece K are those of the row from 8K on. -/
theorem rowKey_of_piece {K : Nat} (hK : K < keys.length) {b : Nat}
    (hb : (keys.getD K (0, 0)).1 ≤ b ∧ b < (keys.getD K (0, 0)).1 + (keys.getD K (0, 0)).2) :
    8 * K + (b - (keys.getD K (0, 0)).1) < len ∧ b - (keys.getD K (0, 0)).1 < 8
      ∧ rowKey keys (8 * K + (b - (keys.getD K (0, 0)).1)) = b := by
  have hn := hk.size K hK
  rw [rowKey, show (8 * K + (b - (keys.getD K (0, 0)).1)) / 8 = K by omega]
  omega

theorem piece_of_rowKey {x : Nat} (hx : x < len) : (keys.getD (x / 8) (0, 0)).1 ≤ rowKey keys x
    ∧ rowKey keys x < (keys.getD (x / 8) (0, 0)).1 + (keys.getD (x / 8) (0, 0)).2
    ∧ rowKey keys x - (keys.getD (x / 8) (0, 0)).1 = x % 8 := by
  have hn := hk.size (x / 8) (by rw [hk.length]; omega)
  rw [rowKey]
  omega

theorem memMoved_succ {K : Nat} {w : State} (hw : Memory.wf s.mem = true) (hK : K < keys.length)
    (h : MemMoved (clusterOf d.n) sc keys len v K s w) :
    MemMoved (clusterOf d.n) sc keys len v (K + 1) s (w.keyPiece d cr sc keys v bad K) := by
  have hlen := hk.length
  have hn := hk.size K hK
  have hin : (keys.getD K (0, 0)).1 % 64 + (keys.getD K (0, 0)).2 ≤ 64 := by have := hk.aligned K hK; omega
  have hp : PieceStored (clusterOf d.n) sc (keys.getD K (0, 0)).1 (keys.getD K (0, 0)).2 (bytesOf v (8 * K) (keys.getD K (0, 0)).2) w
      (w.keyPiece d cr sc keys v bad K) :=
    pieceStored_storePiece (cacheOnly_wf h.only hw) (by omega) hin (Nat.mod_lt _ (Nat.two_pow_pos _)) (hk.marks K hK) (h.plain _ (hk.plain K hK))
  have hbyte : ∀ x, x < len → x / 8 = K →
      BitVec.ofNat 8 (bytesOf v (8 * K) (keys.getD K (0, 0)).2 / 256 ^ (rowKey keys x - (keys.getD K (0, 0)).1)) = BitVec.ofNat 8 (v / 256 ^ x) := by
    intro x hx e
    obtain ⟨h1, h2, h3⟩ := piece_of_rowKey hk hx
    rw [e] at h1 h2 h3
    rw [h3, ofNat_bytesOf_div (by omega), show 8 * K + x % 8 = x by omega]
  have hpiece : ∀ x, x < len → x / 8 = K → (keys.getD K (0, 0)).1 ≤ rowKey keys x
      ∧ rowKey keys x < (keys.getD K (0, 0)).1 + (keys.getD K (0, 0)).2 := by
    rintro x hx rfl
    exact ⟨(piece_of_rowKey hk hx).1, (piece_of_rowKey hk hx).2.1⟩
  have hearlier : ∀ x, x < len → x < 8 * K → ¬((keys.getD K (0, 0)).1 ≤ rowKey keys x
      ∧ rowKey keys x < (keys.getD K (0, 0)).1 + (keys.getD K (0, 0)).2) := by
    intro x hx hlt hb
    obtain ⟨h1, _, h3⟩ := rowKey_of_piece hk hK hb
    have := hk.inj _ _ h1 hx h3
    omega
  refine ⟨h.only.trans hp.only, fun x hx hlt => ?_, fun hsc x hx hlt => ?_, fun y hy => ?_, fun j hj => hp.plain j (h.plain j hj)⟩
  · rw [hp.bytes]
    by_cases e : x < 8 * K
    · rw [if_neg (hearlier x hx e), h.bytes x hx e]
    · rw [if_pos (hpiece x hx (by omega)), hbyte x hx (by omega)]
  · by_cases e : x < 8 * K
    · rw [hp.mem _ (hearlier x hx e), h.home hsc x hx e]
    · rw [hp.home hsc _ (hpiece x hx (by omega)), hbyte x hx (by omega)]
  · have hnot : ¬((keys.getD K (0, 0)).1 ≤ y ∧ y < (keys.getD K (0, 0)).1 + (keys.getD K (0, 0)).2) := fun hb => by
      obtain ⟨h1, h2, h3⟩ := rowKey_of_piece hk hK hb
      exact hy _ h1 (by omega) h3
    obtain ⟨h1, h2⟩ := h.others y (fun x hx hlt => hy x hx (by omega))
    rw [hp.bytes, if_neg hnot, hp.mem y hnot]
    exact ⟨h1, h2⟩

theorem memMoved_range (hw : Memory.wf s.mem = true) {K : Nat} (hK : K ≤ keys.length) :
    MemMoved (clusterOf d.n) sc keys len v K s ((List.range K).foldl (fun s k => s.keyPiece d cr sc keys v bad k) s) := by
  induction K with
  | zero => exact ⟨CacheOnly.refl s, fun x _ hx => by omega, fun _ x _ hx => by omega, fun _ _ => ⟨rfl, rfl⟩, fun _ h => h⟩
  | succ K ih =>
    rw [List.range_succ, List.foldl_append]
    exact memMoved_succ hk hw (by omega) (ih (by omega))

/-- A row has gone to its keys. -/
theorem memMoved_memRow (hw : Memory.wf s.mem = true) :
    MemMoved (clusterOf d.n) sc keys len v keys.length s (s.memRow d cr sc keys v bad) := by
  rw [memRow_eq]; exact memMoved_range hk hw (Nat.le_refl _)

end

end Sys2Proof.Machine
end

section
/-! PROOFS, O40. The rows of the four row operations. -/

namespace Sys2Proof.Machine
open State

/-- Rows of an aligned base and stride are aligned. -/
theorem rowAt_aligned {o : RowOp} {t : Token} (hb : o.base t % 8 = 0) (hs : o.stride t % 8 = 0) (q : Nat) :
    (o.base t + q * o.stride t) % 8 = 0 := by
  rw [Nat.add_mod, hb, Nat.mul_mod, hs, Nat.mul_zero]

section
variable {s : State} {d : Nd} {o : RowOp} {m : MatOp} {rows bits : Nat} (hdims : s.rowDims d o = (rows, bits))
include hdims

theorem rowLen_of_dims : s.rowLen d o = (bits + 7) / 8 := by rw [State.rowLen, hdims]

theorem bits_of_acc (h : o.acc = true) : bits = 2048 := by
  have h2 := rowDims_snd s d o
  rwa [hdims, if_pos h] at h2

/-- A bit of a byte of the stored row: the register's or acc's, zero in the pad. -/
theorem getLsbD_rowByte (v : State) (x : Nat) {j : Nat} (hj : j < 8) :
    (BitVec.ofNat 8 ((v.rowBits d o m.rows bits).1 / 256 ^ x)).getLsbD j
      = (decide (8 * x + j < bits) && v.rowBit d o.acc o.reg (bits * m.rows + (8 * x + j))) := by
  rw [getLsbD_ofNat_div _ _ hj, testBit_rowBits _ _ _ _ (bits_of_acc hdims)]

section
variable (hscr : o.scr = true) (hb : o.base m.go % 8 = 0) (hs : o.stride m.go % 8 = 0) (hc : s.module.armed 1 = false)
  (hsome : ∀ x, x < (bits + 7) / 8 → (s.scrPlace d (o.base m.go + m.rows * o.stride m.go + x)).isSome)
include hscr hb hs hc hsome

/-- A row to scratchpads. -/
theorem rowStep_tsts (hst : o.store = true) (hset : o.setShape = false) {k : BitVec 1} (hk : o.keep = (k == 1)) (sets : Bool)
    (hinj : ∀ x y, x < (bits + 7) / 8 → y < (bits + 7) / 8 → s.scrPlace d (o.base m.go + m.rows * o.stride m.go + x)
      = s.scrPlace d (o.base m.go + m.rows * o.stride m.go + y) → x = y) (hwf : s.scrWf (clusterOf d.n)) :
    ∃ w, s.rowStep d o m = rowThen d o.reg sets o.acc k o.scope m rows false w false ∧ ScrOnly (clusterOf d.n) s w
      ∧ (∀ x p, x < (bits + 7) / 8 → s.scrPlace d (o.base m.go + m.rows * o.stride m.go + x) = some p →
          ∀ j, j < 8 → (w.scrCell d.n p).getLsbD j = (decide (8 * x + j < bits) && s.rowBit d o.acc o.reg (bits * m.rows + (8 * x + j))))
      ∧ (∀ p, (∀ x, x < (bits + 7) / 8 → s.scrPlace d (o.base m.go + m.rows * o.stride m.go + x) ≠ some p) →
          w.scrCell d.n p = s.scrCell d.n p) := by
  have hmoved := scrMoved_scrRow (v := (s.rowBits d o m.rows bits).1) (bad := (s.rowBits d o m.rows bits).2)
    (rowAt_aligned hb hs m.rows) hsome hinj hwf
  refine ⟨_, ?_, hmoved.only, fun x p hx hp j hj => ?_, fun p hp => hmoved.others p (fun x hx _ => hp x hx)⟩
  · rw [rowStep_scr_store s d m hscr hst, rowAfter_store d m _ _ false hst hset hk sets, rowRead_of_calm hc, hdims, State.rowAt,
      rowLen_of_dims hdims]
  · rw [hmoved.bytes x p hx (by omega) hp, getLsbD_rowByte hdims s x hj]

/-- A row from scratchpads. -/
theorem rowStep_tlds (hst : o.store = false) (hacc : o.acc = false) (acc : Bool) (k : BitVec 1) :
    ∃ w bad, s.rowStep d o m = rowThen d o.reg o.setShape acc k o.scope m rows true w bad ∧ TregOnly d o.reg s w
      ∧ (∀ x p, x < bits → bits * m.rows + x < 32768 → s.scrPlace d (o.base m.go + m.rows * o.stride m.go + x / 8) = some p →
          (w.regBits d o.reg).getLsbD (bits * m.rows + x) = (s.scrCell d.n p).getLsbD (x % 8))
      ∧ (∀ j, j < bits * m.rows ∨ bits * (m.rows + 1) ≤ j → (w.regBits d o.reg).getLsbD j = (s.regBits d o.reg).getLsbD j)
      ∧ (bad = true ↔ ∃ x p, x < (bits + 7) / 8 ∧ s.scrPlace d (o.base m.go + m.rows * o.stride m.go + x) = some p
          ∧ p.2 / 8 ∈ ((s.clu (clusterOf d.n)).tile p.1).scrPoison) := by
  obtain ⟨v, bad, hg, hv, hbad⟩ := gather_scr (rowAt_aligned hb hs m.rows) hsome hc
  rw [← rowLen_of_dims hdims] at hg
  refine ⟨s.rowIn d o m.rows bits v bad, bad, ?_, tregOnly_rowIn .., fun x p hx hx' hp => ?_, fun j hj => ?_, hbad⟩
  · rw [rowStep_scr_load s d m hscr hst hg, rowAfter_load d m _ _ _ hst hacc acc k, hdims]
  · rw [getLsbD_regBits_rowIn, if_pos (by omega), Nat.add_sub_cancel_left, Nat.testBit_mod_two_pow, decide_eq_true hx, Bool.true_and]
    exact hv x p (by omega) hp
  · rw [getLsbD_regBits_rowIn, if_neg]
    rw [Nat.mul_add, Nat.mul_one] at hj
    omega

end

section
variable {u : State} {keys : List (Nat × Nat)} (hw : s.rowWalk d m (o := o) = (u, .ok keys))
include hw

/-- The keys of a row are as many as its pieces, and of their sizes. -/
theorem rowWalk_keys : keys.length = ((bits + 7) / 8 + 7) / 8
    ∧ (∀ k, k < keys.length → (keys.getD k (0, 0)).2 = min 8 ((bits + 7) / 8 - 8 * k)) ∧ u.threads = s.threads := by
  obtain ⟨hm, ht⟩ := resolveRow_ok hw
  rw [State.rowAt, rowLen_of_dims hdims] at hm
  have hlen : keys.length = (rowPieces (o.base m.go + m.rows * o.stride m.go) ((bits + 7) / 8)).length := by
    rw [← List.length_map (f := Prod.snd), hm, List.length_map]
  refine ⟨by rw [hlen]; simp [rowPieces], fun k hk => ?_, ht⟩
  have hget : (keys.map Prod.snd)[k]? = some (keys.getD k (0, 0)).2 := by simp [hk]
  rw [hm, List.getElem?_map, List.getElem?_eq_getElem (hlen ▸ hk), getElem_rowPieces] at hget
  exact (Option.some.inj hget).symm

variable (hscr : o.scr = false)
include hscr

/-- A row from memory. -/
theorem rowStep_tld (hc : ∀ x, u.module.armed x = false) (hst : o.store = false) (hacc : o.acc = false) (acc : Bool) (k : BitVec 1) :
    let load (x : Nat) := u.fabricLoad (clusterOf d.n) (quadOf ((s.reg d.n).absTile d.t)) (u.rowPoint d o)
      (keys.getD x (0, 0)).1 (keys.getD x (0, 0)).2
    ∃ w bad, s.rowStep d o m = rowThen d o.reg o.setShape acc k o.scope m rows true w bad ∧ { w with clusters := u.clusters } = u
      ∧ (∀ p, p ≠ (u.tmem d.n d.t).tregBanks.phys o.reg → Tab.get 0 (w.tmem d.n d.t).treg p = Tab.get 0 (u.tmem d.n d.t).treg p)
      ∧ (∀ x, x < bits → bits * m.rows + x < 32768 →
          (w.regBits d o.reg).getLsbD (bits * m.rows + x) = (load (x / 64)).2.1.testBit (x % 64))
      ∧ (∀ j, j < bits * m.rows ∨ bits * (m.rows + 1) ≤ j → (w.regBits d o.reg).getLsbD j = (u.regBits d o.reg).getLsbD j)
      ∧ (bad = true ↔ ∃ x, x < keys.length ∧ (load x).2.2 = true) := by
  intro load
  obtain ⟨hlen, hsize, hthreads⟩ := rowWalk_keys hdims hw
  have hreg : u.reg d.n = s.reg d.n := reg_of_threads hthreads d.n
  obtain ⟨t, v, bad, hg, hshape, htiles, hv, hbad⟩ := gather_mem (c := clusterOf d.n) (p := u.rowPoint d o) (d := d) (keys := keys) (hc 0)
    (fun p hp => by
      obtain ⟨k, hk, rfl⟩ := List.getElem_of_mem hp
      have := hsize k hk
      rw [List.getD_eq_getElem _ _ hk] at this
      omega)
  have hload : ∀ k, u.fabricLoad (clusterOf d.n) (quadOf ((u.reg d.n).absTile d.t)) (u.rowPoint d o) (keys.getD k (0, 0)).1
      (keys.getD k (0, 0)).2 = load k := fun k => by rw [hreg]
  have htreg : t.reg d.n = u.reg d.n :=
    reg_of_threads (show ({ t with clusters := u.clusters } : State).threads = u.threads by rw [hshape]) d.n
  have htmem : t.tmem d.n d.t = u.tmem d.n d.t := by
    simp only [State.tmem, htreg, Cluster.tile, htiles]
  have honly := tregOnly_rowIn t d o m.rows bits v bad
  have hbits : t.regBits d o.reg = u.regBits d o.reg := by simp only [State.regBits, htmem]
  refine ⟨t.rowIn d o m.rows bits v bad, bad, ?_, ?_, fun p hp => ?_, fun x hx hx' => ?_, fun j hj => ?_, ?_⟩
  · rw [rowStep_mem_load s d m hscr hw hst hg, rowAfter_load d m _ _ _ hst hacc acc k, hdims]
  · have e : ({ t.rowIn d o m.rows bits v bad with clusters := u.clusters } : State)
        = { ({ t.rowIn d o m.rows bits v bad with clusters := t.clusters } : State) with clusters := u.clusters } := rfl
    rw [e, honly.shape, hshape]
  · rw [honly.regs p (by rw [htmem]; exact hp), htmem]
  · have hx64 := Nat.div_add_mod x 64
    rw [getLsbD_regBits_rowIn, if_pos (by omega), Nat.add_sub_cancel_left, Nat.testBit_mod_two_pow, decide_eq_true hx, Bool.true_and, ← hload]
    rw [← hv (x / 64) (x % 64) (by omega) (Nat.mod_lt _ (by decide)), hx64]
  · rw [getLsbD_regBits_rowIn, if_neg, hbits]
    rw [Nat.mul_add, Nat.mul_one] at hj
    omega
  · rw [hbad]
    exact exists_congr fun k => by rw [hload]

/-- A row to memory. -/
theorem rowStep_tst (hc : ∀ x, u.module.armed x = false) (hst : o.store = true) (hset : o.setShape = false) {k : BitVec 1}
    (hk : o.keep = (k == 1)) (sets : Bool)
    (hkeys : ∀ p ∈ keys, p.1 % 8 = 0 ∧ (s.reg d.n).capt.marks p.1 = [] ∧ (u.l2Line (clusterOf d.n) (p.1 / 64)).Plain)
    (hwf : Memory.wf u.mem = true)
    (hinj : ∀ x y, x < (bits + 7) / 8 → y < (bits + 7) / 8 → rowKey keys x = rowKey keys y → x = y) :
    ∃ w, s.rowStep d o m = rowThen d o.reg sets o.acc k o.scope m rows false w false
      ∧ { w with clusters := u.clusters, mem := u.mem, poison := u.poison } = u
      ∧ (∀ x, x < (bits + 7) / 8 → ∀ j, j < 8 →
          (w.sliceByte (clusterOf d.n) (rowKey keys x)).getLsbD j
            = (decide (8 * x + j < bits) && u.rowBit d o.acc o.reg (bits * m.rows + (8 * x + j)))
          ∧ (3 ≤ o.scope.toNat → (cellRead w.mem (rowKey keys x)).getLsbD j
            = (decide (8 * x + j < bits) && u.rowBit d o.acc o.reg (bits * m.rows + (8 * x + j)))))
      ∧ (∀ y, (∀ x, x < (bits + 7) / 8 → rowKey keys x ≠ y) →
          w.sliceByte (clusterOf d.n) y = u.sliceByte (clusterOf d.n) y ∧ cellRead w.mem y = cellRead u.mem y) := by
  obtain ⟨hlen, hsize, _⟩ := rowWalk_keys hdims hw
  have hat : ∀ k, k < keys.length → keys.getD k (0, 0) ∈ keys := fun k hk => by
    rw [List.getD_eq_getElem _ _ hk]; exact List.getElem_mem hk
  have hrow : RowKeys u (clusterOf d.n) (s.reg d.n).capt keys ((bits + 7) / 8) :=
    ⟨hlen, hsize, fun k hk => (hkeys _ (hat k hk)).1, fun k hk => (hkeys _ (hat k hk)).2.1, fun k hk => (hkeys _ (hat k hk)).2.2, hinj⟩
  have hmoved := memMoved_memRow (sc := o.scope) (v := (u.rowBits d o m.rows bits).1) (bad := (u.rowBits d o m.rows bits).2) hrow hwf
  refine ⟨_, ?_, ?_, fun x hx j hj => ⟨?_, fun hsc => ?_⟩, fun y hy => hmoved.others y (fun x hx _ => hy x hx)⟩
  · rw [rowStep_mem_store s d m hscr hw hst, rowAfter_store d m _ _ false hst hset hk sets, rowRead_of_calm (hc 1), hdims]
  · obtain ⟨_, _, _, e, _⟩ := hmoved.only
    rw [e]
  · rw [hmoved.bytes x hx (by omega), getLsbD_rowByte hdims u x hj]
  · rw [hmoved.home hsc x hx (by omega), getLsbD_rowByte hdims u x hj]

end

end

end Sys2Proof.Machine
end

section
/-! PROOFS, O40. The rows of the row operations at their event. -/

namespace Sys2Proof.Machine
open State

/-- Rows and bits of a row of a store. -/
theorem rowDims_of_store (s : State) (d : Nd) {o : RowOp} (hset : o.setShape = false) : s.rowDims d o
    = (if o.acc = true then 32 else shRows (s.tm d o.reg).shape,
      if o.acc = true then 2048 else shCols (s.tm d o.reg).shape * shSb (s.tm d o.reg).shape) := by
  rw [Prod.ext_iff, rowDims_fst, rowDims_snd]
  simp only [State.rowShape, hset, Bool.false_eq_true, if_false, and_self]

/-- Those of a load. -/
theorem rowDims_of_load (s : State) (d : Nd) {o : RowOp} (hacc : o.acc = false) : s.rowDims d o
    = (shRows (if o.setShape = true then d.const else (s.tm d o.reg).shape),
      shCols (if o.setShape = true then d.const else (s.tm d o.reg).shape) * shSb (if o.setShape = true then d.const else (s.tm d o.reg).shape)) := by
  rw [Prod.ext_iff, rowDims_fst, rowDims_snd]
  simp only [State.rowShape, hacc, Bool.false_eq_true, if_false, and_self]

/-- The row operation of a load word. -/
def loadOp (i : Instr) (scr : Bool) (b : BitVec 2) (r : BitVec 4) (sc : BitVec 3) : RowOp where
  instr := i
  reg := r.toNat
  store := false
  scr := scr
  scope := sc
  setShape := b == 1

/-- The row operation of a store word. -/
def storeOp (i : Instr) (scr : Bool) (r : BitVec 4) (sc : BitVec 3) (k c : BitVec 1) : RowOp where
  instr := i
  reg := r.toNat
  acc := c == 1
  keep := k == 1
  store := true
  scr := scr
  scope := sc

/-- The row operations' words name these. -/
theorem rowOp_words (b : BitVec 2) (r : BitVec 4) (n k c : BitVec 1) (sc : BitVec 3) :
    rowOp (.tld b r n sc) = some (loadOp (.tld b r n sc) false b r sc) ∧ rowOp (.tlds b r sc) = some (loadOp (.tlds b r sc) true b r sc)
      ∧ rowOp (.tst r n sc k c) = some (storeOp (.tst r n sc k c) false r sc k c)
      ∧ rowOp (.tsts r sc k c) = some (storeOp (.tsts r sc k c) true r sc k c) := ⟨rfl, rfl, rfl, rfl⟩

/-- A row operation in progress performs its rows one by one. -/
theorem rowTransfers : Rule.RowTransfers := by
  intro s u b r n k c sc m keys e d R cl tile q calm hw hst hp hm hcs hcu sets acc shape rows bits len base stride addr bit stored after event places
    walk key
  have hload : ∀ o : RowOp, o.acc = false → o.setShape = sets → o.reg = R → s.rowDims d o = (rows true, bits true) := by
    intro o h1 h2 h3
    rw [rowDims_of_load s d h1, h2, h3]
    simp [rows, bits, shape]
  have hstore : ∀ o : RowOp, o.setShape = false → o.acc = acc → o.reg = R → s.rowDims d o = (rows false, bits false) := by
    intro o h1 h2 h3
    rw [rowDims_of_store s d h1, h2, h3]
    simp [rows, bits, shape]
  have hwalk : ∀ (o : RowOp), o.scr = false → s.rowDims d o = (rows (!o.store), bits (!o.store)) → s.rowWalk d m (o := o) = walk o.store := by
    intro o h1 h2
    rw [State.rowWalk, State.rowAt, rowLen_of_dims h2, show BitVec.ofNat 3 d.slot = e.s from BitVec.ofNat_toNat ..]
    rw [RowOp.base, RowOp.stride, h1]
  have hev : ∀ o, rowOp m.op = some o → event = .next (s.rowStep d o m) := fun o ho => exec_row hw hst hp hm ho
  obtain ⟨htld, htlds, htst, htsts⟩ := rowOp_words b r n k c sc
  refine ⟨fun hop hb hs hplaces hwf => ?_, fun hop hb hs hplaces => ?_, fun hop => ?_, fun hop => ?_⟩
  · have ho := hev _ ((congrArg rowOp hop).trans htsts)
    have hd := hstore (storeOp (.tsts r sc k c) true r sc k c) rfl rfl rfl
    obtain ⟨w, hrow, honly, hbytes, hothers⟩ := rowStep_tsts hd rfl hb hs (hcs 1) hplaces.1 rfl rfl (k := k) rfl sets hplaces.2 hwf
    exact ⟨w, ho.trans (congrArg Host.Outcome.next hrow), honly.shape, honly.other, honly.rest, honly.tile, hbytes, hothers⟩
  · have ho := hev _ ((congrArg rowOp hop).trans htlds)
    have hd := hload (loadOp (.tlds b r sc) true b r sc) rfl rfl rfl
    obtain ⟨w, bad, hrow, honly, hbits, hothers, hbad⟩ := rowStep_tlds hd rfl hb hs (hcs 1) hplaces rfl rfl acc k
    have htile : w.tmem d.n d.t = (w.clu cl).tile tile := by rw [State.tmem, honly.reg]
    have hmine := honly.tile
    rw [htile] at hmine
    exact ⟨w, bad, ho.trans (congrArg Host.Outcome.next hrow), honly.shape, honly.other, honly.rest, honly.tiles, hmine,
      honly.regs, hbits, hothers, hbad⟩
  · have ho := hev _ ((congrArg rowOp hop).trans htld)
    have hd := hload (loadOp (.tld b r n sc) false b r sc) rfl rfl rfl
    have hk := hwalk (loadOp (.tld b r n sc) false b r sc) rfl hd
    refine ⟨fun hok _ => ?_, fun f va hf => ?_, fun hwait => ?_⟩
    · intro load
      obtain ⟨w, bad, hrow, hshape, hregs, hbits, hothers, hbad⟩ := rowStep_tld hd (hk.trans hok) rfl hcu rfl rfl acc k
      exact ⟨w, bad, ho.trans (congrArg Host.Outcome.next hrow), hshape, hregs, hbits, hothers, hbad⟩
    · rw [ho, rowStep_mem_fault s d m rfl (hk.trans hf), rowLen_of_dims hd]
      rfl
    · rw [ho, rowStep_mem_wait s d m rfl (hk.trans hwait)]
  · have ho := hev _ ((congrArg rowOp hop).trans htst)
    have hd := hstore (storeOp (.tst r n sc k c) false r sc k c) rfl rfl rfl
    have hk := hwalk (storeOp (.tst r n sc k c) false r sc k c) rfl hd
    refine ⟨fun hok hkeys hwf hinj => ?_, fun f va hf => ?_, fun hwait => ?_⟩
    · obtain ⟨w, hrow, hshape, hbytes, hothers⟩ := rowStep_tst hd (hk.trans hok) rfl hcu rfl rfl (k := k) rfl sets
        (fun p hp => by
          obtain ⟨h1, _, h3, h4⟩ := hkeys p hp
          exact ⟨h1, h3, h4⟩) hwf hinj
      exact ⟨w, ho.trans (congrArg Host.Outcome.next hrow), hshape, hbytes, hothers⟩
    · rw [ho, rowStep_mem_fault s d m rfl (hk.trans hf), rowLen_of_dims hd]
      rfl
    · rw [ho, rowStep_mem_wait s d m rfl (hk.trans hwait)]

/-- Settles O40: a row operation's rows go to or come from the bytes their addresses lead to, piece by piece; the nodes that begin them and the
ordering and command nodes do what a firing of each does. -/
theorem rowsAndOrder : Obligations.RowsAndOrder := by
  exact ⟨rowNodes, rowTransfers, orderNodes⟩

end Sys2Proof.Machine
end

section
/-! PROOFS, O1, O2. Integer words.  Each is `int2`, `int1` or LDHI, whose `put` writes the register; what is left is that the model's form of
the result is that of the tables. -/

namespace Sys2Proof.Machine
open State

theorem writes_int2 (f : Word → Word → Word) {s : State} {d a b : BitVec 5} {v : Word} (h : f (s.rd a) (s.rd b) = v) :
    Writes s (int2 f d a b s) d v (s.pc + 4) :=
  h ▸ writes_put s d _

theorem writes_int1 (f : Word → Word) {s : State} {d a : BitVec 5} {v : Word} (h : f (s.rd a) = v) :
    Writes s (int1 f d a s) d v (s.pc + 4) :=
  h ▸ writes_put s d _

/-! ## Shifts, comparisons and choices -/

theorem shamt_eq_mod (y : Word) : shamt y = y.toNat % 64 := by simp [shamt]

theorem shiftLeft_eq_ofNat (x : Word) (k : Nat) : x <<< k = BitVec.ofNat 64 (x.toNat * 2 ^ k) := by
  apply BitVec.eq_of_toNat_eq
  simp [Nat.shiftLeft_eq]

theorem ushiftRight_eq_ofNat (x : Word) (k : Nat) : x >>> k = BitVec.ofNat 64 (x.toNat / 2 ^ k) := by
  apply BitVec.eq_of_toNat_eq
  have h : x.toNat / 2 ^ k < 2 ^ 64 := lt_of_le_of_lt (Nat.div_le_self _ _) x.isLt
  rw [BitVec.toNat_ushiftRight, Nat.shiftRight_eq_div_pow, BitVec.toNat_ofNat, Nat.mod_eq_of_lt h]

theorem sshiftRight_eq_ofInt (x : Word) (k : Nat) : x.sshiftRight k = BitVec.ofInt 64 (x.toInt / 2 ^ k) := by
  rw [BitVec.sshiftRight, Int.shiftRight_eq_div_pow]
  rfl

theorem flag_sLt (x y : Word) : flag (sLt x y) = if x.toInt < y.toInt then 1 else 0 :=
  flag_eq_ite BitVec.slt_iff_toInt_lt

theorem flag_uLt (x y : Word) : flag (uLt x y) = if x.toNat < y.toNat then 1 else 0 :=
  flag_eq_ite BitVec.ult_iff_lt

/-- The choice between two operands by a comparison is that by the comparison the other way round. -/
theorem ite_of_iff_not {b : Bool} {p : Prop} [Decidable p] {α : Type} {x y : α} (h : b = true ↔ ¬p) : (if b then y else x) = if p then x else y := by
  simp only [h, ite_not]

theorem sLt_iff_not_le (x y : Word) : sLt x y = true ↔ ¬y.toInt ≤ x.toInt := by
  rw [not_le]; exact BitVec.slt_iff_toInt_lt

theorem uLt_iff_not_le (x y : Word) : uLt x y = true ↔ ¬y.toNat ≤ x.toNat := by
  rw [not_le]; exact BitVec.ult_iff_lt

theorem integerWords : Rule.IntegerWords := by
  intro s d a b x y k gives
  refine ⟨writes_int2 (· + ·) rfl, writes_int2 (· - ·) rfl, writes_int2 (· &&& ·) rfl, writes_int2 (· ||| ·) rfl,
    writes_int2 (· ^^^ ·) rfl, writes_int2 (fun x y => x &&& ~~~y) rfl,
    writes_int2 (fun x y => x <<< shamt y) ?_, writes_int2 (fun x y => x >>> shamt y) ?_,
    writes_int2 (fun x y => x.sshiftRight (shamt y)) ?_,
    writes_int2 (fun x y => flag (sLt x y)) (flag_sLt x y), writes_int2 (fun x y => flag (uLt x y)) (flag_uLt x y),
    writes_int2 (fun x y => if sLt y x then y else x) (ite_of_iff_not (sLt_iff_not_le y x)),
    writes_int2 (fun x y => if sLt x y then y else x) (ite_of_iff_not (sLt_iff_not_le x y)),
    writes_int2 (fun x y => if uLt y x then y else x) (ite_of_iff_not (uLt_iff_not_le y x)),
    writes_int2 (fun x y => if uLt x y then y else x) (ite_of_iff_not (uLt_iff_not_le x y))⟩
  · exact (congrArg _ (shamt_eq_mod y)).trans (shiftLeft_eq_ofNat x k)
  · exact (congrArg _ (shamt_eq_mod y)).trans (ushiftRight_eq_ofNat x k)
  · exact (congrArg _ (shamt_eq_mod y)).trans (sshiftRight_eq_ofInt x k)

/-! ## Bit counts (Table 3.4) -/

/-- `clzN n x` zeros stand at the top of the low n bits of x, and below them, if they are not all, a one. -/
theorem clzN_spec (x : Word) (n : Nat) : clzN n x ≤ n ∧ (∀ i, n - clzN n x ≤ i → i < n → x.getLsbD i = false)
    ∧ (clzN n x < n → x.getLsbD (n - 1 - clzN n x) = true) := by
  induction n with
  | zero => exact ⟨le_rfl, fun i _ hi => absurd hi (Nat.not_lt_zero i), fun h => absurd h (Nat.not_lt_zero _)⟩
  | succ n ih =>
    obtain ⟨hle, hzeros, hone⟩ := ih
    cases hx : x.getLsbD n with
    | true =>
      simp only [clzN, hx, if_true]
      exact ⟨Nat.zero_le _, fun i h1 h2 => absurd h2 (by omega), fun _ => hx⟩
    | false =>
      simp only [clzN, hx, Bool.false_eq_true, if_false]
      refine ⟨by omega, fun i h1 h2 => ?_, fun h => ?_⟩
      · obtain rfl | hi := Nat.eq_or_lt_of_le (Nat.le_of_lt_succ h2)
        · exact hx
        · exact hzeros i (by omega) hi
      · rw [show n + 1 - 1 - (1 + clzN n x) = n - 1 - clzN n x by omega]
        exact hone (by omega)

theorem popN_eq_length_filter (x : Word) (n : Nat) : popN n x = ((List.range n).filter (fun i => x.getLsbD i)).length := by
  induction n with
  | zero => rfl
  | succ n ih =>
    rw [List.range_succ, List.filter_append, List.length_append, popN, ih, Nat.add_comm]
    cases hx : x.getLsbD n <;> simp [hx]

theorem bitCountWords : Rule.BitCountWords := by
  intro s d a x
  obtain ⟨hle, hzeros, hone⟩ := clzN_spec x 64
  refine ⟨⟨clzN 64 x, hle, fun i hi => ?_, hone, writes_int1 (fun x => BitVec.ofNat 64 (clzN 64 x)) rfl⟩,
    writes_int1 (fun x => BitVec.ofNat 64 (popN 64 x)) (congrArg _ (popN_eq_length_filter x 64))⟩
  by_cases h : i < 64
  · exact hzeros i hi h
  · exact BitVec.getLsbD_of_ge _ _ (Nat.le_of_not_lt h)

/-! ## Immediates -/

theorem sext_shiftLeft_sixteen (i : BitVec 16) : sext i 64 <<< 16 = BitVec.ofInt 64 (i.toInt * 65536) := by
  rw [BitVec.ofInt_mul, sext, BitVec.signExtend, BitVec.shiftLeft_eq_mul_twoPow]
  rfl

theorem toInt_sext (i : BitVec 16) : (sext i 64).toInt = i.toInt := BitVec.toInt_signExtend_of_le (by decide)

theorem immediateWords : Rule.ImmediateWords := by
  intro s d a i k x gives
  refine ⟨writes_int1 (· + sext i 64) rfl, writes_int1 (· &&& zext i 64) rfl, writes_int1 (· ||| zext i 64) rfl,
    writes_int1 (· ^^^ zext i 64) rfl, writes_int1 (· <<< k.toNat) (shiftLeft_eq_ofNat x _),
    writes_int1 (· >>> k.toNat) (ushiftRight_eq_ofNat x _), writes_int1 (·.sshiftRight k.toNat) (sshiftRight_eq_ofInt x _),
    sext_shiftLeft_sixteen i ▸ writes_put s d _,
    writes_int1 (fun x => flag (sLt x (sext i 64))) ?_⟩
  exact (flag_sLt x _).trans (by rw [toInt_sext])

/-- Settles O1: the words of two operands, the bit counts and the immediates each write one register through `put`. -/
theorem integerArithmetic : Obligations.IntegerArithmetic := ⟨integerWords, bitCountWords, immediateWords⟩

/-! ## Products and quotients (Table 3.5) -/

/-- Settles O2: division by zero gives all ones and the dividend, and −2^63 by −1 wraps to itself with no remainder. -/
theorem multiplyDivideWords : Obligations.MultiplyDivideWords := by
  intro s d a b x y gives
  refine ⟨writes_int2 (· * ·) ?_, writes_int2 (fun x y => BitVec.ofInt 64 (x.toInt * y.toInt / 2 ^ 64)) rfl,
    writes_int2 (fun x y => BitVec.ofNat 64 (x.toNat * y.toNat / 2 ^ 64)) rfl,
    writes_int2 (fun x y => if y = 0 then -1 else BitVec.ofInt 64 (x.toInt.tdiv y.toInt)) ?_,
    writes_int2 (fun x y => if y = 0 then -1 else BitVec.ofNat 64 (x.toNat / y.toNat)) rfl,
    writes_int2 (fun x y => if y = 0 then x else BitVec.ofInt 64 (x.toInt.tmod y.toInt)) ?_,
    writes_int2 (fun x y => if y = 0 then x else BitVec.ofNat 64 (x.toNat % y.toNat)) rfl⟩
  · rw [BitVec.ofInt_mul, BitVec.ofInt_toInt, BitVec.ofInt_toInt]
  · refine if_congr Iff.rfl rfl ?_
    split
    next h =>
      obtain ⟨hx, hy⟩ := h
      rw [hx, hy]
      rfl
    next => rfl
  · refine if_congr Iff.rfl rfl ?_
    split
    next h =>
      obtain ⟨hx, hy⟩ := h
      rw [hx, hy]
      rfl
    next => rw [Int.tmod_def]

end Sys2Proof.Machine
end

section
/-! PROOFS, O4, O5, O6, O12. Branches, traps, waits and the delivery of a trigger. -/

namespace Sys2Proof.Machine
open State

/-! ## Branches and jumps (R73 to R75) -/

/-- A branch offset is in words. -/
theorem rel_eq (s : State) {n : Nat} (o : BitVec n) : s.rel o = s.pc + o.signExtend 64 * 4 := by
  rw [State.rel, sext, BitVec.shiftLeft_eq_mul_twoPow]
  rfl

/-- An address is aligned to a word when its low two bits are zero. -/
theorem fld_two_eq_zero_iff (x : Word) : fld x 0 2 = 0 ↔ x.toNat % 4 = 0 := by
  rw [← BitVec.toNat_inj]
  simp

theorem execBr_of_none {c : BitVec 3} {s : State} {a b : BitVec 5} (o : BitVec 13) (h : brHolds c (s.rd a) (s.rd b) = none) :
    execBr a b c o s = .next (s.illegal (.br a b c o)) := by
  simp only [execBr, h]

/-- A branch goes to its target where its condition holds, and to the next word where not. -/
theorem becomes_execBr {c : BitVec 3} {s : State} {a b : BitVec 5} (o : BitVec 13) {v : Bool} {p : Prop}
    (hv : brHolds c (s.rd a) (s.rd b) = some v) (hp : v = true ↔ p) :
    (p → Becomes s (execBr a b c o s) { s.me with pc := s.pc + o.signExtend 64 * 4 })
      ∧ (¬p → Becomes s (execBr a b c o s) { s.me with pc := s.pc + 4 }) := by
  cases v with
  | true =>
    refine ⟨fun _ => ?_, fun hn => absurd (hp.mp rfl) hn⟩
    simp only [execBr, hv]
    exact rel_eq s o ▸ becomes_modMe s (fun t => { t with pc := s.rel o })
  | false =>
    refine ⟨fun h => absurd (hp.mpr h) (by decide), fun _ => ?_⟩
    simp only [execBr, hv]
    exact becomes_modMe s (fun t => { t with pc := t.pc + 4 })

theorem not_sLt_iff (x y : Word) : (!sLt x y) = true ↔ y.toInt ≤ x.toInt := by
  rw [Bool.not_eq_true', Bool.eq_false_iff, ne_eq, sLt, BitVec.slt_iff_toInt_lt, not_lt]

theorem not_uLt_iff (x y : Word) : (!uLt x y) = true ↔ y.toNat ≤ x.toNat := by
  rw [Bool.not_eq_true', Bool.eq_false_iff, ne_eq, uLt, BitVec.ult_iff_lt, BitVec.lt_def, not_lt]

theorem brHolds_of_ge {c : BitVec 3} (hc : 6 ≤ c.toNat) (x y : Word) : brHolds c x y = none := by
  have : c = 6 ∨ c = 7 := by
    revert c
    decide
  obtain rfl | rfl := this
  all_goals rfl

theorem branchWord : Rule.BranchWord := by
  intro s a b c o x y goes
  refine ⟨?_, ?_, ?_, ?_, ?_, ?_, fun hc => ?_⟩
  · rintro rfl
    exact becomes_execBr o rfl beq_iff_eq
  · rintro rfl
    exact becomes_execBr o rfl bne_iff_ne
  · rintro rfl
    exact becomes_execBr o rfl BitVec.slt_iff_toInt_lt
  · rintro rfl
    exact becomes_execBr o rfl (not_sLt_iff x y)
  · rintro rfl
    exact becomes_execBr o rfl BitVec.ult_iff_lt
  · rintro rfl
    exact becomes_execBr o rfl (not_uLt_iff x y)
  · have hbr : exec (.br a b c o) s = .next (s.illegal (.br a b c o)) := execBr_of_none o (brHolds_of_ge hc x y)
    rw [hbr]
    exact traps_trap s 0x01 _

theorem jumpWords : Rule.JumpWords := by
  intro s d a o
  refine ⟨rel_eq s o ▸ writes_goto s (s.rel o), rel_eq s o ▸ writes_modMe s 1 (s.pc + 4) (s.rel o), fun h => ?_, fun h => ?_⟩
  · have hjr : exec (.jr d a) s = .next (s.modMe (fun t => { t.wr d (t.pc + 4) with pc := s.rd a })) :=
      if_neg (not_not.mpr ((fld_two_eq_zero_iff _).mpr h))
    rw [hjr]
    exact writes_modMe s d (s.pc + 4) (s.rd a)
  · have hjr : exec (.jr d a) s = .next (s.trap cALIGN (s.rd a)) := if_pos (mt (fld_two_eq_zero_iff _).mp h)
    rw [hjr]
    exact traps_trap s 0x03 _

/-- Settles O4: the six conditions of BR are one lemma over the condition; JMP, CALL and JR set the PC and one register. -/
theorem branchesAndJumps : Obligations.BranchesAndJumps := ⟨branchWord, jumpWords⟩

/-! ## Traps and returns (R93, R94, R353) -/

theorem trapWord : Rule.TrapWord := fun s c => becomes_modMe s (fun t => t.trapTo 0x10 (zext c 64) (t.pc + 4))

theorem illegalWord : Rule.IllegalWord := fun s w => traps_trap s 0x01 (zext w 64)

/-- The return once its checks are past. -/
theorem sysret_of_good {s : State} (hbad : ¬(s.me.ppl = 3 ∨ s.me.pl < s.me.ppl)) (hal : fld s.me.trappc 0 2 = 0) :
    s.sysret = s.modMe (fun t => { t with
      trapcause := if t.ppl < t.pl then 0 else t.trapcause
      trapinfo := if t.ppl < t.pl then 0 else t.trapinfo
      status := mkStatus 1 t.pie 0 t.ppl
      pc := t.trappc }) := by
  rw [State.sysret, if_neg hbad, if_neg (not_not.mpr hal)]

theorem sysretWord : Rule.SysretWord := by
  intro s m pl ppl bad
  refine ⟨fun h => ?_, fun h hal => ?_, fun h hal => ?_⟩
  · have hret : exec .sysret s = .next (s.trap cPRIV 0) := congrArg _ (if_pos h)
    rw [hret]
    exact traps_trap s 0x02 0
  · have hret : exec .sysret s = .next (s.trap cALIGN s.me.trappc) :=
      congrArg _ ((if_neg h).trans (if_pos (mt (fld_two_eq_zero_iff _).mp hal)))
    rw [hret]
    exact traps_trap s 0x03 _
  · have hret : exec .sysret s = .next s.sysret := rfl
    rw [hret, sysret_of_good h ((fld_two_eq_zero_iff _).mpr hal)]
    exact becomes_modMe s _

/-- Settles O5: TRAP and an unassigned word take the trap sequence, SYSRET makes its two checks and returns. -/
theorem trapsAndReturn : Obligations.TrapsAndReturn := ⟨trapWord, illegalWord, sysretWord⟩

/-! ## HALT and WFE (R95, R96) -/

theorem haltAndWait : Rule.HaltAndWait := fun s =>
  ⟨becomes_modMe_modMe s (fun t => { t with pc := t.pc + 4 }) (fun t => { t with run := .halted }),
    becomes_modMe s (fun t => { t with wait := .wfe })⟩

theorem Thread.wake_of_wfe {t : Thread} (h : t.wait = .wfe) : t.wake = { t with wait := .none, pc := t.pc + 4 } := if_pos h

theorem waitEnds : Rule.WaitEnds := fun s h =>
  ⟨_, rfl, Thread.wake_of_wfe h ▸ onlyThread_modThr s s.ev.n Thread.wake⟩

/-- Settles O6: both words change the running thread's context alone, and the end of a WFE that of its thread. -/
theorem haltAndWaitForEvent : Obligations.HaltAndWaitForEvent := ⟨haltAndWait, waitEnds⟩

/-! ## The delivery of a trigger (R97, R101) -/

/-- The lowest entry with V set and events pending is the one due. -/
theorem dueTrigger_eq_some {t : Thread} {i : Fin 16} (hv : trigV t.trig[i] = true) (hp : trigPend t.trig[i] ≠ 0)
    (hlow : ∀ j : Fin 16, j < i → ¬(trigV t.trig[j] = true ∧ trigPend t.trig[j] ≠ 0)) : t.dueTrigger = some i := by
  refine List.find?_eq_some_iff_getElem.mpr ⟨by simpa using ⟨hv, hp⟩, i.val, by simp, by simp, fun j hj => ?_⟩
  simpa [imp_iff_not_or] using hlow ⟨j, hj.trans i.isLt⟩ hj

/-- A ready thread at user level with IE set and no save asked of it, at a boundary, takes the trigger that is due (R97, R103). -/
theorem deliverable_of_due {t : Thread} {i : Fin 16} (hdue : t.dueTrigger = some i) (hrun : t.run = .ready) (hie : t.ie = 1)
    (hpl : t.pl = 0) (hsaver : t.saver = none)
    (hwait : t.wait = .none ∨ t.wait = .reissue ∨ t.wait = .wfe ∨ ∃ d, t.wait = .claim d) : t.deliverable = true := by
  simp only [Thread.deliverable, hdue, hrun, hie, hpl, hsaver]
  obtain h | h | h | ⟨d, h⟩ := hwait <;> rw [h] <;> rfl

/-- The events still pending, as TRAPINFO has them. -/
theorem zext_sub_one {p : BitVec 8} (hp : p ≠ 0) : zext (p - 1) 64 = BitVec.ofNat 64 (p.toNat - 1) := by
  have hpos : 1 ≤ p.toNat := Nat.one_le_iff_ne_zero.mpr fun h => hp (BitVec.eq_of_toNat_eq h)
  have hsub : (p - 1).toNat = p.toNat - 1 := BitVec.toNat_sub_of_le hpos
  apply BitVec.eq_of_toNat_eq
  rw [zext, BitVec.toNat_setWidth, hsub, BitVec.toNat_ofNat]

/-- Settles O12: the entry named is the one due, the thread is one it is delivered to, and the delivery sets the registers named. -/
theorem triggerDelivery : Obligations.TriggerDelivery := by
  intro s i m e hrun hie hpl hsaver hwait hv hp hlow
  have hdue := dueTrigger_eq_some hv hp hlow
  have hdel := deliverable_of_due hdue hrun hie hpl hsaver hwait
  have hexec : exec .triggerDelivery s = .next (s.modThr s.ev.n (fun _ => m.deliver i)) := by
    change execTriggerDelivery s = _
    simp only [execTriggerDelivery, hdue, m, hdel, if_true]
    rfl
  have hstatus : mkStatus 1 0 0 m.pl = 0#58 ++ 1#1 ++ 0#1 ++ 0#2 ++ 0#2 := congrArg (mkStatus 1 0 0) hpl
  rw [hexec, Thread.deliver, hstatus, zext_sub_one hp]
  exact ⟨_, rfl, onlyThread_modThr s s.ev.n _⟩

end Sys2Proof.Machine
end

section
/-! PROOFS, O8, O9, O10. Writes of system registers.  A permitted write is `sysWrite`; what it leaves in a thread's register is said once for
the registers with a fixed mask, and SWR, SSET and SCLR are one lemma over what `sysWrite` leaves. -/

namespace Sys2Proof.Machine
open State

/-! ## What a write leaves in the register (R80) -/

theorem masked_all (old v : Word) : masked old v 0xFFFFFFFFFFFFFFFF = v := by
  rw [masked, show (0xFFFFFFFFFFFFFFFF : Word) = BitVec.allOnes 64 from rfl, BitVec.and_allOnes, BitVec.not_allOnes, BitVec.and_zero,
    BitVec.zero_or]

/-- Fields put back after a write are fields the write leaves out. -/
theorem masked_restore (old v m f : Word) : masked (masked old v m) old f = masked old v (m &&& ~~~f) := by
  ext i hi
  simp only [masked, BitVec.getElem_or, BitVec.getElem_and, BitVec.getElem_not]
  cases old[i] <;> cases v[i] <;> cases m[i] <;> cases f[i] <;> rfl

/-- Two writes of one value are one under both masks. -/
theorem masked_twice (old v m f : Word) : masked (masked old v m) v f = masked old v (m ||| f) := by
  ext i hi
  simp only [masked, BitVec.getElem_or, BitVec.getElem_and, BitVec.getElem_not]
  cases old[i] <;> cases v[i] <;> cases m[i] <;> cases f[i] <;> rfl

theorem sysWrite_trig (t : Thread) (v : Word) (k : Fin 16) : t.sysWrite (0x100 + BitVec.ofNat 12 k.val) v
    = { t with trig := t.trig.set k.val (masked t.trig[k] v 0xFF00FFFFFFFFFFFF) } := by
  fin_cases k <;> rfl

/-- A write of a register with a fixed mask changes the fields under the mask. -/
theorem sysWrite_of_mem_plainRegs (t : Thread) (v : Word) :
    ∀ q ∈ plainRegs, t.sysWrite q.num v = q.set t (masked (q.get t) v q.mask) := by
  simp only [plainRegs, List.forall_mem_append, List.forall_mem_cons, List.forall_mem_map, masked_all]
  exact ⟨⟨rfl, rfl, rfl, rfl, rfl, rfl, rfl, rfl, rfl, rfl, rfl, rfl, rfl, rfl, by simp⟩, fun k _ => sysWrite_trig t v k⟩

/-- It changes neither the general registers nor the PC. -/
theorem set_of_mem_plainRegs (t : Thread) (v : Word) : ∀ q ∈ plainRegs, (q.set t v).g = t.g ∧ (q.set t v).pc = t.pc := by
  simp [plainRegs]

/-- The registers with a fixed mask are the thread's own. -/
theorem State.sysWrite_of_mem_plainRegs (s : State) (n : BitVec 9) (v : Word) :
    ∀ q ∈ plainRegs, s.sysWrite n q.num v = s.modThr n (fun t => t.sysWrite q.num v) := by
  simp only [plainRegs, List.forall_mem_append, List.forall_mem_cons, List.forall_mem_map]
  refine ⟨⟨rfl, rfl, rfl, rfl, rfl, rfl, rfl, rfl, rfl, rfl, rfl, rfl, rfl, rfl, by simp⟩, fun k _ => ?_⟩
  fin_cases k <;> rfl

theorem isMboxout_of_mem_plainRegs : ∀ q ∈ plainRegs, isMboxout q.num = false := by decide +kernel

/-! ## Permission (R79) -/

theorem writePerm_eq_ok {r : BitVec 12} {pl : BitVec 2} {lr lw : Nat} (hlev : sysLevels r = some (lr, some lw)) (hle : lw ≤ pl.toNat) :
    writePerm r pl = .ok := by
  simp [writePerm, hlev, Nat.not_lt.mpr hle]

theorem execSwr_of_ok {s : State} {a : BitVec 5} {r : BitVec 12} (hok : writePerm r s.me.pl = .ok) (hout : isMboxout r = false) :
    execSwr a r s = .next (s.sysWrite s.cur r (s.rd a)).advance := by
  simp only [execSwr, hok, hout, Bool.false_eq_true, if_false]

theorem sysModify_of_ok {s : State} {r : BitVec 12} (d : BitVec 5) (f : Word → Word) (hok : writePerm r s.me.pl = .ok)
    (hread : readPerm r s.me.pl ≠ .priv) (hout : isMboxout r = false) (hin : mboxinOf r = none) :
    s.sysModify d r f = (s.sysWrite s.cur r (f (s.sysRead s.cur r))).put d (s.sysRead s.cur r) := by
  simp [State.sysModify, hok, hread, hout, hin]

/-! ## SWR, SSET and SCLR of a thread's register -/

/-- A change of the running thread that keeps its registers and PC, then `advance`. -/
theorem becomes_advance {s : State} {f : Thread → Thread} (hpc : (f s.me).pc = s.pc) :
    Becomes s (.next (s.modMe f).advance) { f s.me with pc := s.pc + 4 } := by
  rw [← hpc]
  exact becomes_modMe_modMe s f (fun t => { t with pc := t.pc + 4 })

/-- A change of the running thread that keeps its registers and PC, then `put`. -/
theorem modMe_put {s : State} {f : Thread → Thread} (d : BitVec 5) (v : Word) (hg : (f s.me).g = s.me.g) (hpc : (f s.me).pc = s.pc) :
    RegsSet s ((s.modMe f).put d v) d v ∧ OnlyMe s ((s.modMe f).put d v) { f s.me with g := ((s.modMe f).put d v).me.g, pc := s.pc + 4 } := by
  obtain ⟨_, hnext, hregs, honly⟩ := writes_put (s.modMe f) d v
  cases hnext
  have hrd (r : BitVec 5) : (s.modMe f).rd r = s.rd r := by
    rw [State.rd, me_modMe]
    exact Thread.rd_congr hg r
  refine ⟨fun r => hrd r ▸ hregs r, ?_⟩
  have h := (onlyMe_modMe s f).trans honly
  rwa [State.pc, me_modMe, hpc] at h

/-- Register r is the running thread's own, at its level and no mailbox: it reads as old, and a write of v makes the thread `new v`, its
general registers and PC kept. -/
structure ThreadRegister (s : State) (r : BitVec 12) (old : Word) (new : Word → Thread) : Prop where
  level : ∃ lr lw, sysLevels r = some (lr, some lw) ∧ lr ≤ s.me.pl.toNat ∧ lw ≤ s.me.pl.toNat
  noBox : isMboxout r = false ∧ mboxinOf r = none
  reads : s.sysRead s.cur r = old
  thread : ∀ v, s.sysWrite s.cur r v = s.modMe (fun t => t.sysWrite r v)
  writes : ∀ v, s.me.sysWrite r v = new v
  keeps : ∀ v, (new v).g = s.me.g ∧ (new v).pc = s.pc

/-- SWR, SSET and SCLR of such a register. -/
theorem ThreadRegister.written {s : State} {r : BitVec 12} {old : Word} {new : Word → Thread} (h : ThreadRegister s r old new) (d a : BitVec 5) :
    Becomes s (exec (.swr a r) s) { new (s.rd a) with pc := s.pc + 4 }
      ∧ (∃ t, exec (.sset d a r) s = .next t ∧ RegsSet s t d old ∧ OnlyMe s t { new (old ||| s.rd a) with g := t.me.g, pc := s.pc + 4 })
      ∧ (∃ t, exec (.sclr d a r) s = .next t ∧ RegsSet s t d old ∧ OnlyMe s t { new (old &&& ~~~s.rd a) with g := t.me.g, pc := s.pc + 4 }) := by
  obtain ⟨⟨lr, lw, hlev, hlr, hlw⟩, ⟨hout, hin⟩, hreads, hthread, hwrites, hkeeps⟩ := h
  have hok := writePerm_eq_ok hlev hlw
  have hread := readPerm_ne_priv_of_level_le hlev hlr
  have hkept (v : Word) := hwrites v ▸ hkeeps v
  have hmodify (f : Word → Word) : RegsSet s (s.sysModify d r f) d old
      ∧ OnlyMe s (s.sysModify d r f) { new (f old) with g := (s.sysModify d r f).me.g, pc := s.pc + 4 } := by
    rw [sysModify_of_ok d f hok hread hout hin, hreads, hthread, ← hwrites]
    obtain ⟨hg, hpc⟩ := hkept (f old)
    exact modMe_put d old hg hpc
  refine ⟨?_, ⟨_, rfl, hmodify (· ||| s.rd a)⟩, ⟨_, rfl, hmodify (· &&& ~~~s.rd a)⟩⟩
  have hswr : exec (.swr a r) s = _ := execSwr_of_ok hok hout
  obtain ⟨-, hpc⟩ := hkept (s.rd a)
  rw [hswr, hthread, ← hwrites]
  exact becomes_advance hpc

/-- Those with a fixed mask are such registers. -/
theorem threadRegister_of_mem_plainRegs {s : State} {q : PlainReg} (hq : q ∈ plainRegs) (hle : q.level ≤ s.me.pl.toNat) :
    ThreadRegister s q.num (q.get s.me) (fun v => q.set s.me (masked (q.get s.me) v q.mask)) where
  level := ⟨_, _, sysLevels_of_mem_plainRegs q hq, hle, hle⟩
  noBox := ⟨isMboxout_of_mem_plainRegs q hq, mboxinOf_of_mem_plainRegs q hq⟩
  reads := sysRead_of_mem_plainRegs s s.cur q hq
  thread v := s.sysWrite_of_mem_plainRegs s.cur v q hq
  writes v := sysWrite_of_mem_plainRegs s.me v q hq
  keeps _ := set_of_mem_plainRegs s.me _ q hq

theorem systemRegisterWrites : Rule.SystemRegisterWrites := fun _ d a _ hq hle => (threadRegister_of_mem_plainRegs hq hle).written d a

/-! ## Registers whose fields are kept from some values -/

theorem partitionWrite_eq (old v : Word) : partitionWrite old v
    = masked old v (if (fld v 26 6 : BitVec 6).toNat ≤ 32 then 0xFFFFFFFFFFFFFFFC else 0xFFFFFFFF03FFFFFC) := by
  unfold partitionWrite
  split
  next h => exact (masked_restore old v _ _).trans (by rw [if_neg (by omega)]; rfl)
  next h => rw [if_pos (by omega)]; rfl

theorem faultqbaseWrite_eq (old v : Word) :
    (if (fld v 0 4 : BitVec 4).toNat ≤ 11 then rwFields (rwFields old v 0xFFFFFFFFFF000) v 0xF else rwFields old v 0xFFFFFFFFFF000)
      = masked old v (if (fld v 0 4 : BitVec 4).toNat ≤ 11 then 0xFFFFFFFFFF00F else 0xFFFFFFFFFF000) := by
  split
  · exact (masked_twice old v _ _).trans rfl
  · rfl

theorem guardedRegisterWrites : Rule.GuardedRegisterWrites := by
  intro s d a m pl x does
  have hdoes {r : BitVec 12} {old : Word} {new : Word → Thread} (h : ThreadRegister s r old new) : does r old new := h.written d a
  clear_value does
  refine ⟨fun h => hdoes ?_, fun h => hdoes ?_, fun h => hdoes ?_, fun h => hdoes ?_, hdoes ?_⟩
  · exact ⟨⟨1, 1, rfl, h, h⟩, ⟨rfl, rfl⟩, rfl, fun _ => rfl, fun _ => rfl, fun _ => ⟨rfl, rfl⟩⟩
  · refine ⟨⟨1, 1, rfl, h, h⟩, ⟨rfl, rfl⟩, rfl, fun _ => rfl, fun _ => rfl, fun v => ?_⟩
    split <;> exact ⟨rfl, rfl⟩
  · exact ⟨⟨1, 2, rfl, Nat.le_trans (by decide) h.ge, h.ge⟩, ⟨rfl, rfl⟩, rfl, fun _ => rfl,
      fun v => congrArg (fun w => { m with partition := w }) (partitionWrite_eq m.partition v), fun _ => ⟨rfl, rfl⟩⟩
  · exact ⟨⟨1, 1, rfl, h, h⟩, ⟨rfl, rfl⟩, rfl, fun _ => rfl,
      fun v => congrArg (fun w => { m with faultqbase := w }) (faultqbaseWrite_eq m.faultqbase v), fun _ => ⟨rfl, rfl⟩⟩
  · exact ⟨⟨0, 0, rfl, Nat.zero_le _, Nat.zero_le _⟩, ⟨rfl, rfl⟩, rfl, fun _ => rfl, fun _ => rfl, fun _ => ⟨rfl, rfl⟩⟩

theorem statusWrites : Rule.StatusWrites := by
  intro s a new
  have hswr : exec (.swr a 0x002) s = _ :=
    execSwr_of_ok (a := a) (r := 0x002) (writePerm_eq_ok (lr := 0) (lw := 0) rfl (Nat.zero_le _)) rfl
  refine ⟨?_, _, rfl, onlyThread_modThr s s.ev.n (fun t => t.sysWrite 0x002 s.ev.v)⟩
  rw [hswr]
  exact becomes_advance (f := fun t => t.sysWrite 0x002 (s.rd a)) rfl

/-- Settles O8: a thread's registers written by SWR, SSET and SCLR, those with guarded fields, and `STATUS`. -/
theorem threadRegisterWrites : Obligations.ThreadRegisterWrites := ⟨systemRegisterWrites, guardedRegisterWrites, statusWrites⟩

/-! ## Registers of a cluster and of the module (R109, R374, R398) -/

theorem injctlWrite_eq (m : Module) (w : Word) : m.injctlWrite w = { m with
    injctl := (w &&& 0x3FFCFFFFFFFF07FF) ||| (if w.getLsbD 63 ∧ fld w 58 2 ≠ 3#2 then 1#64 <<< 63 else 0)
      ||| (if m.injctl.getLsbD 62 ∧ ¬w.getLsbD 62 then 1#64 <<< 62 else 0)
    injSeen := 0 } := by
  simp [Module.injctlWrite]

theorem sharedRegisterWrites : Rule.SharedRegisterWrites := by
  intro s a pl v c on inj
  have hon {r : BitVec 12} {lr lw : Nat} {u : State} (hlev : sysLevels r = some (lr, some lw)) (hle : lw ≤ pl) (hout : isMboxout r = false)
      (hu : s.sysWrite s.cur r v = u) : on r u := hu ▸ execSwr_of_ok (writePerm_eq_ok hlev hle) hout
  have hinj (w : Word) : ({ s with module := s.module.injctlWrite w } : State) = { s with module := { s.module with injctl := inj w, injSeen := 0 } } :=
    congrArg (fun m => { s with module := m }) (injctlWrite_eq s.module w)
  exact ⟨fun h => ⟨hon rfl h rfl rfl, hon rfl h rfl rfl⟩,
    fun h => ⟨hon rfl h.ge rfl rfl, hon rfl h.ge rfl (hinj v), hon rfl h.ge rfl rfl, hon rfl h.ge rfl rfl⟩,
    congrArg Host.Outcome.next (hinj s.ev.v)⟩

theorem registerWriteStep : Rule.RegisterWriteStep := by
  intro s q hq hk m hle
  have hnum : BitVec.ofNat 12 s.ev.k = q.num := by rw [hk, BitVec.ofNat_toNat, BitVec.setWidth_eq]
  have hstep : exec .sysregWrite s = .next (s.modThr s.ev.n (fun t => t.sysWrite q.num s.ev.v)) := by
    change execSysregWrite s = _
    have hok : writePerm q.num (s.thr s.ev.n).pl = .ok := writePerm_eq_ok (sysLevels_of_mem_plainRegs q hq) hle
    simp only [execSysregWrite, hnum, hok, if_true, s.sysWrite_of_mem_plainRegs _ _ q hq]
  exact ⟨_, hstep, sysWrite_of_mem_plainRegs m s.ev.v q hq ▸ onlyThread_modThr s s.ev.n (fun t => t.sysWrite q.num s.ev.v)⟩

/-- Settles O10: a permitted write of a shared register is its `sysWrite`, and the write of a thread's register as a step of its own is that
of O8 on the thread named. -/
theorem clusterAndModuleWrites : Obligations.ClusterAndModuleWrites := ⟨sharedRegisterWrites, registerWriteStep⟩

/-! ## Levels (R79, R82) -/

theorem execSrd_of_below {s : State} {d : BitVec 5} {r : BitVec 12} {lr : Nat} {lw : Option Nat} (hlev : sysLevels r = some (lr, lw))
    (hlt : s.me.pl.toNat < lr) (hin : mboxinOf r = none) : execSrd d r s = .next (s.trap cPRIV (zext r 64)) := by
  simp [execSrd, hin, readPerm, hlev, hlt]

theorem writePerm_eq_priv {r : BitVec 12} {pl : BitVec 2} {lr lw : Nat} (hlev : sysLevels r = some (lr, some lw)) (hlt : pl.toNat < lw) :
    writePerm r pl = .priv := by
  simp [writePerm, hlev, hlt]

/-- A number with no write level. -/
def NoWriteLevel (r : BitVec 12) : Prop := sysLevels r = none ∨ ∃ lr, sysLevels r = some (lr, none)

theorem writePerm_of_noWriteLevel {r : BitVec 12} (h : NoWriteLevel r) (pl : BitVec 2) : writePerm r pl = if pl = 0 then .priv else .ignored := by
  obtain h | ⟨lr, h⟩ := h <;> rw [writePerm, h]

theorem traps_swr {s : State} {a : BitVec 5} {r : BitVec 12} (h : writePerm r s.me.pl = .priv) :
    Traps s (exec (.swr a r) s) 0x02 (r.setWidth 64) := by
  have hswr : exec (.swr a r) s = .next (s.trap cPRIV (zext r 64)) := by
    change execSwr a r s = _
    simp only [execSwr, h]
  rw [hswr]
  exact traps_trap s 0x02 _

theorem becomes_swr_of_ignored {s : State} {a : BitVec 5} {r : BitVec 12} (h : writePerm r s.me.pl = .ignored) :
    Becomes s (exec (.swr a r) s) { s.me with pc := s.pc + 4 } := by
  have hswr : exec (.swr a r) s = .next s.advance := by
    change execSwr a r s = _
    simp only [execSwr, h]
  rw [hswr]
  exact becomes_modMe s (fun t => { t with pc := t.pc + 4 })

/-- The registers whose SSET and SCLR write zero: MBOXOUT and MBOXIN0 to MBOXIN3. -/
def IsBox (r : BitVec 12) : Prop := r = 0x041 ∨ 0x48 ≤ r.toNat ∧ r.toNat ≤ 0x4B

theorem mboxinOf_isSome {r : BitVec 12} (h : 0x48 ≤ r.toNat ∧ r.toNat ≤ 0x4B) : (mboxinOf r).isSome = true := by
  have hfld : fld r 2 10 = 0x012#10 := by
    apply BitVec.eq_of_toNat_eq
    simp [Nat.shiftRight_eq_div_pow]
    omega
  rw [mboxinOf, if_pos hfld]
  rfl

theorem isBox_iff (r : BitVec 12) : IsBox r ↔ isMboxout r = true ∨ (mboxinOf r).isSome = true := by
  have hin : (mboxinOf r).isSome = true ↔ 0x48 ≤ r.toNat ∧ r.toNat ≤ 0x4B := by
    refine ⟨fun h => ?_, mboxinOf_isSome⟩
    by_contra hn
    rw [mboxinOf_eq_none hn] at h
    exact absurd h (by decide)
  rw [IsBox, hin, isMboxout, beq_iff_eq]
  exact Iff.rfl

/-- MBOXIN0 to MBOXIN3 have no write level. -/
theorem noWriteLevel_of_mboxin {r : BitVec 12} (h1 : 0x48 ≤ r.toNat) (h2 : r.toNat ≤ 0x4B) : NoWriteLevel r := by
  refine .inr ⟨0, ?_⟩
  simp only [sysLevels]
  grind

/-- SSET and SCLR are `sysModify` of some change of the old value. -/
theorem forall_modify {s : State} {d a : BitVec 5} {r : BitVec 12} {p : Out → Prop} (h : ∀ f, p (.next (s.sysModify d r f))) :
    p (exec (.sset d a r) s) ∧ p (exec (.sclr d a r) s) :=
  ⟨h (fun old => old ||| s.rd a), h (fun old => old &&& ~~~s.rd a)⟩

section modify
variable {s : State} {r : BitVec 12} (d : BitVec 5) (f : Word → Word)

theorem sysModify_of_box (h : IsBox r) : s.sysModify d r f = s.put d 0 := if_pos ((isBox_iff r).mp h)

variable (hbox : ¬IsBox r)
include hbox

theorem sysModify_of_noRead (h : readPerm r s.me.pl = .priv) : s.sysModify d r f = s.trap cPRIV (zext r 64) := by
  rw [State.sysModify, if_neg (mt (isBox_iff r).mpr hbox), if_pos h]

theorem sysModify_of_priv (h : writePerm r s.me.pl = .priv) : s.sysModify d r f = s.trap cPRIV (zext r 64) := by
  rw [State.sysModify, if_neg (mt (isBox_iff r).mpr hbox)]
  simp only [h, ite_self]

theorem sysModify_of_ignored (hread : readPerm r s.me.pl ≠ .priv) (h : writePerm r s.me.pl = .ignored) :
    s.sysModify d r f = s.put d (s.sysRead s.cur r) := by
  rw [State.sysModify, if_neg (mt (isBox_iff r).mpr hbox), if_neg hread]
  simp only [h]

end modify

/-- The mailbox registers are read, and MBOXOUT is written, at every level. -/
theorem sysLevels_of_isBox {r : BitVec 12} (h : IsBox r) : sysLevels r = some (0, none) ∨ sysLevels r = some (0, some 0) := by
  obtain rfl | ⟨h1, h2⟩ := h
  · exact .inr rfl
  · simp only [sysLevels]
    grind

/-- A register with no write level is read at every level. -/
theorem readPerm_of_noWriteLevel {r : BitVec 12} (h : NoWriteLevel r) (pl : BitVec 2) : readPerm r pl ≠ .priv := by
  obtain h | ⟨lr, h⟩ := h
  · simp [readPerm_of_unlisted h]
  · have hlr : lr = 0 := by
      revert h
      fun_cases sysLevels r <;> rintro ⟨⟩ <;> rfl
    exact readPerm_ne_priv_of_level_le h (hlr ▸ Nat.zero_le _)

/-- SSET and SCLR where `sysModify` traps. -/
theorem traps_modify {s : State} {d : BitVec 5} {r : BitVec 12} (a : BitVec 5) (h : ∀ f, s.sysModify d r f = s.trap cPRIV (zext r 64)) :
    Traps s (exec (.sset d a r) s) 0x02 (r.setWidth 64) ∧ Traps s (exec (.sclr d a r) s) 0x02 (r.setWidth 64) :=
  forall_modify (p := fun o => Traps s o 0x02 (r.setWidth 64)) fun f => h f ▸ traps_trap s 0x02 _

/-- SRD below the level of a register. -/
theorem traps_srd {s : State} {d : BitVec 5} {r : BitVec 12} {lr : Nat} {lw : Option Nat} (hlev : sysLevels r = some (lr, lw))
    (hlt : s.me.pl.toNat < lr) (hin : mboxinOf r = none) : Traps s (exec (.srd d r) s) 0x02 (r.setWidth 64) := by
  have hsrd : exec (.srd d r) s = _ := execSrd_of_below hlev hlt hin
  rw [hsrd]
  exact traps_trap s 0x02 _

/-- SSET and SCLR of a register with no write level, above user level, do what SRD does. -/
theorem modify_of_noWriteLevel {s : State} {d a : BitVec 5} {r : BitVec 12} (hno : NoWriteLevel r) (hbox : ¬IsBox r) (hpl : s.me.pl ≠ 0) :
    ∀ i ∈ [Instr.sset d a r, .sclr d a r], exec i s = exec (.srd d r) s
      ∧ ∃ v, Writes s (exec i s) d v (s.pc + 4) ∧ (sysLevels r = none → v = 0) := by
  have hread := readPerm_of_noWriteLevel hno s.me.pl
  have hwrite : writePerm r s.me.pl = .ignored := (writePerm_of_noWriteLevel hno _).trans (if_neg hpl)
  have hin : mboxinOf r = none := Option.not_isSome_iff_eq_none.mp fun h => hbox ((isBox_iff r).mpr (.inr h))
  have hsrd : exec (.srd d r) s = .next (s.put d (s.sysRead s.cur r)) := by
    change execSrd d r s = _
    simp only [execSrd, hin, if_neg hread]
  have hmodify := forall_modify (s := s) (d := d) (a := a) (r := r) (p := fun o => o = exec (.srd d r) s)
    fun f => (congrArg _ (sysModify_of_ignored d f hbox hread hwrite)).trans hsrd.symm
  have hwrites := writes_srd_of_readPerm d hin hread
  intro i hi
  have hi : exec i s = exec (.srd d r) s := by
    obtain rfl | rfl : i = .sset d a r ∨ i = .sclr d a r := by simpa using hi
    · exact hmodify.1
    · exact hmodify.2
  exact ⟨hi, _, hi ▸ hwrites, fun h => sysRead_of_unlisted h s s.cur⟩

/-- Settles O9: each clause is what SRD, SWR and `sysModify` do at a level that may not read, may not write or has no write level. -/
theorem systemRegisterLevels : Obligations.SystemRegisterLevels := by
  intro s d a r pl priv box
  have huser : s.me.pl = 0 ↔ pl = 0 := BitVec.toNat_inj.symm
  have hpriv (hno : NoWriteLevel r) (h : pl = 0) : writePerm r s.me.pl = .priv := (writePerm_of_noWriteLevel hno _).trans (if_pos (huser.mpr h))
  have hignored (hno : NoWriteLevel r) (h : pl ≠ 0) : writePerm r s.me.pl = .ignored :=
    (writePerm_of_noWriteLevel hno _).trans (if_neg (mt huser.mp h))
  refine ⟨fun lr lw hlev hlt => ?_, fun lr lw hlev hlt => ?_, fun hno h => traps_swr (hpriv hno h),
    fun hno h => becomes_swr_of_ignored (hignored hno h),
    fun hno hbox => ⟨fun h => traps_modify a fun f => sysModify_of_priv d f hbox (hpriv hno h), fun h => modify_of_noWriteLevel hno hbox (mt huser.mp h)⟩,
    fun hbox => ?_, fun h1 h2 => ⟨fun h => traps_swr (hpriv (noWriteLevel_of_mboxin h1 h2) h),
      fun h => becomes_swr_of_ignored (hignored (noWriteLevel_of_mboxin h1 h2) h)⟩⟩
  · have hbox : ¬IsBox r := fun h => by
      obtain h | h := sysLevels_of_isBox h
      all_goals
        obtain ⟨rfl, -⟩ : lr = 0 ∧ _ := by simpa [hlev] using h
        exact Nat.not_lt_zero _ hlt
    have hread : readPerm r s.me.pl = .priv := by
      simp only [readPerm, hlev]
      exact if_pos hlt
    have hin : mboxinOf r = none := Option.not_isSome_iff_eq_none.mp fun h => hbox ((isBox_iff r).mpr (.inr h))
    exact ⟨traps_srd hlev hlt hin, traps_modify a fun f => sysModify_of_noRead d f hbox hread⟩
  · have hbox : ¬IsBox r := fun h => by
      obtain h | h := sysLevels_of_isBox h
      · simp [hlev] at h
      · obtain ⟨-, rfl⟩ : _ ∧ lw = 0 := by simpa [hlev] using h
        exact Nat.not_lt_zero _ hlt
    have hwrite : writePerm r s.me.pl = .priv := writePerm_eq_priv hlev hlt
    exact ⟨traps_swr hwrite, traps_modify a fun f => sysModify_of_priv d f hbox hwrite⟩
  · have h := forall_modify (s := s) (d := d) (a := a) (r := r) (p := fun o => Writes s o d 0 (s.pc + 4))
      fun f => sysModify_of_box d f hbox ▸ writes_put s d 0
    simpa using h

end Sys2Proof.Machine
end

section
/-! PROOFS, O60. The state after reset. -/

namespace Sys2Proof.Machine
open State

theorem thr_reset (n : BitVec 9) : State.reset.thr n = { run := if n = 0 then .halted else .empty } := by
  by_cases h : n = 0
  · subst h
    rfl
  · rw [if_neg h]
    exact if_neg fun e : 0 = n.toNat => h (BitVec.eq_of_toNat_eq e.symm)

/-- A context with nothing but a run state reads zero in each register with a fixed mask. -/
theorem plainRegs_get_fresh (r : Run) : ∀ q ∈ plainRegs, q.get { run := r } = 0 := by
  simp [plainRegs]

theorem bankSet_reset (u : BankUnit) : State.reset.bankSet u = u.fresh := by
  cases u <;> rfl

/-- Settles O60: a context is fresh but for its run state, a cluster and a unit's bank map are the tables' defaults. -/
theorem resetState : Obligations.ResetState := by
  refine ⟨rfl, fun n hn => ?_, fun n => ?_, fun c => ⟨rfl, rfl, rfl, rfl, rfl, rfl, rfl⟩, fun n => rfl, rfl, rfl, rfl, rfl,
    rfl, rfl, rfl, rfl, rfl, fun u => ?_, rfl⟩
  · rw [thr_reset, if_neg hn]
  · rw [thr_reset]
    exact ⟨rfl, plainRegs_get_fresh _, rfl, rfl, rfl, rfl, rfl, rfl, rfl, rfl, rfl, rfl, rfl, rfl, rfl⟩
  · rw [bankSet_reset]
    exact ⟨rfl, rfl, rfl⟩

end Sys2Proof.Machine
end

section
/-! PROOFS, O11. Mailboxes: sending, receiving, the arrival of a flit and the doorbells. -/

namespace Sys2Proof.Machine
open State

/-! ## Sending (R87, R88) -/

/-- A destination is barred to a thread of a function that R322 checks whose CLMASK leaves its cluster out. -/
theorem mayMail_eq_false_iff (m : Thread) : m.mayMail = false ↔ (fld m.partition 26 6 : BitVec 6) ≠ 0 ∧ (fld m.status 0 2 : BitVec 2).toNat < 2
    ∧ m.partition.getLsbD (32 + (clusterOf (fld m.mboxdest 0 9)).toNat) = false := by
  have hpl : (BitVec.ult m.pl 2 = true) ↔ m.pl.toNat < 2 := BitVec.ult_iff_lt
  have hchecked : m.cred.checked = true ↔ (fld m.partition 26 6 : BitVec 6) ≠ 0 ∧ (fld m.status 0 2 : BitVec 2).toNat < 2 := by
    rw [Capt.checked, Bool.and_eq_true, bne_iff_ne]
    exact and_congr Iff.rfl hpl
  rw [Thread.mayMail, Bool.or_eq_false_iff, Bool.not_eq_false', hchecked, and_assoc]
  exact Iff.rfl

theorem exec_swr_mboxout (s : State) (a : BitVec 5) : exec (.swr a 0x041) s = .next (s.mboxout (s.rd a)) := by
  have hok : writePerm 0x041 s.me.pl = .ok := by simp [writePerm, sysLevels]
  change execSwr a 0x041 s = _
  simp only [execSwr, hok]
  rfl

theorem mailboxSend : Rule.MailboxSend := by
  intro s a flit barred
  have hmay (m : Thread) (h : ¬barred m) : m.mayMail = true := Bool.of_not_eq_false (mt (mayMail_eq_false_iff m).mp h)
  refine ⟨fun h => ?_, fun h => ?_, fun h => ?_⟩
  · rw [exec_swr_mboxout, State.mboxout, if_pos (hmay _ h)]
    rfl
  · rw [exec_swr_mboxout, State.mboxout, if_neg (Bool.eq_false_iff.mp ((mayMail_eq_false_iff _).mpr h))]
    exact traps_trap s 0x05 _
  · exact congrArg Host.Outcome.next (if_pos (hmay _ h))

/-! ## Receiving (R90) -/

/-- The oldest flit moves to the register. -/
theorem regsSet_mboxTake (s : State) (d : BitVec 5) (b : BitVec 2) (v : Word) (r : List Word) : RegsSet s (s.mboxTake d b v r) d v := by
  intro k
  rw [State.rd, mboxTake, me_modMe]
  exact (Thread.rd_congr rfl k).trans (Thread.rd_wr _ d k v)

theorem onlyMe_mboxTake (s : State) (d : BitVec 5) (b : BitVec 2) (v : Word) (r : List Word) :
    OnlyMe s (s.mboxTake d b v r) { s.me with g := (s.mboxTake d b v r).me.g, mbox := s.me.mbox.set b.toNat r } := by
  have h := onlyMe_modMe s (fun t => { t.wr d v with mbox := t.mbox.set b.toNat r })
  rw [mboxTake, me_modMe]
  rwa [Thread.wr_eq] at h ⊢

theorem mboxinOf_mboxin (b : BitVec 2) : mboxinOf (0x048 + b.setWidth 12) = some b := by
  revert b
  decide

theorem exec_srd_mboxin (s : State) (d : BitVec 5) (b : BitVec 2) : exec (.srd d (0x048 + b.setWidth 12)) s = .next (s.mboxin d b) := by
  change execSrd d _ s = _
  simp only [execSrd, mboxinOf_mboxin]

/-- The word waits while the mailbox is empty. -/
theorem mboxin_of_empty {s : State} {b : BitVec 2} (d : BitVec 5) (h : s.me.mbox[b.toNat] = []) : s.mboxin d b = s.stay .reissue := by
  rw [State.mboxin, h]

theorem mboxin_of_cons {s : State} {b : BitVec 2} {v : Word} {r : List Word} (d : BitVec 5) (h : s.me.mbox[b.toNat] = v :: r) :
    s.mboxin d b = (s.mboxTake d b v r).advance := by
  rw [State.mboxin, h]

theorem execMboxinRead_of_cons {s : State} {b : BitVec 2} {v : Word} {r : List Word} (hb : s.ev.k = b.toNat)
    (h : ({ s with cur := s.ev.n } : State).me.mbox[b.toNat] = v :: r) :
    execMboxinRead s = .next (({ s with cur := s.ev.n } : State).mboxTake (fld s.ev.w 0 5) b v r) := by
  have hbox : BitVec.ofNat 2 s.ev.k = b := by rw [hb, BitVec.ofNat_toNat, BitVec.setWidth_eq]
  simp only [execMboxinRead, hbox, h]

theorem mailboxReceive : Rule.MailboxReceive := by
  intro s d b
  refine ⟨fun v r h => ?_, fun h => ?_, ?_⟩
  · rw [exec_srd_mboxin, mboxin_of_cons d h]
    have hadv := onlyMe_modMe (s.mboxTake d b v r) (fun t => { t with pc := t.pc + 4 })
    have h := onlyMe_mboxTake s d b v r
    refine ⟨_, rfl, fun k => ?_, ?_⟩
    · rw [State.rd, State.advance, me_modMe]
      exact (Thread.rd_congr rfl k).trans (regsSet_mboxTake s d b v r k)
    · have hboth := h.trans hadv
      rw [State.advance, me_modMe]
      rwa [h.me] at hboth
  · rw [exec_srd_mboxin, mboxin_of_empty d h]
    exact becomes_modMe s (fun t => { t with wait := .reissue })
  · intro u hk hd v r h
    subst hd
    exact ⟨_, execMboxinRead_of_cons hk h, regsSet_mboxTake u _ b v r, onlyMe_mboxTake u _ b v r⟩

/-! ## The arrival of a flit (R89, R99, R100, R368) -/

theorem onlyThread_setThr (s : State) (n : BitVec 9) (t : Thread) : OnlyThread s (s.setThr n t) n t := onlyThread_modThr s n (fun _ => t)

/-- Two changes of one thread's context are one. -/
theorem OnlyThread.trans {s t u : State} {n : BitVec 9} {m k : Thread} (h : OnlyThread s t n m) (g : OnlyThread t u n k) :
    OnlyThread s u n k := by
  obtain ⟨-, hothers, hrest⟩ := h
  obtain ⟨hn, hothers', hrest'⟩ := g
  refine ⟨hn, fun j hj => (hothers' j hj).trans (hothers j hj), ?_⟩
  have e : ({ u with threads := s.threads } : State) = { ({ u with threads := t.threads } : State) with threads := s.threads } := rfl
  rw [e, hrest', hrest]

/-- The entry of a mailbox in the trigger table. -/
theorem toNat_mailEntry (b : BitVec 2) : (10 + zext b 4 : BitVec 4).toNat = 10 + b.toNat := by
  revert b
  decide

/-- A woken thread, field by field. -/
theorem Thread.wake_eq (t : Thread) : t.wake = { t with
    wait := if t.wait = .wfe then .none else t.wait
    pc := if t.wait = .wfe then t.pc + 4 else t.pc } := by
  rw [Thread.wake]
  split <;> rfl

theorem Thread.wake_wake (t : Thread) : t.wake.wake = t.wake := by
  by_cases h : t.wait = .wfe
  · rw [Thread.wake_of_wfe h]
    rfl
  · rw [Thread.wake, Thread.wake, if_neg h, if_neg h]

/-- A thread with an event on an entry of its trigger table (R100). -/
def Thread.noted (t : Thread) (i : Nat) : Thread := { t with trig := t.trig.setIfInBounds i (trigEvent t.trig[i]!) }

theorem Thread.noted_eq (t : Thread) (i : BitVec 4) :
    t.noted i.toNat = { t with trig := t.trig.set i.toNat (trigEvent t.trig[i.toNat]) } := by
  have hset : t.trig.setIfInBounds i.toNat (trigEvent t.trig[i.toNat]!) = t.trig.set i.toNat (trigEvent t.trig[i.toNat]) := by
    ext1 j hj
    rw [Vector.getElem_setIfInBounds hj, Vector.getElem_set, getElem!_pos t.trig i.toNat i.isLt]
  rw [Thread.noted, hset]

/-- An event leaves its thread with the event noted, and awake once it is woken. -/
theorem wake_thr_event (s : State) (n : BitVec 9) (i : BitVec 4) : ((s.event n i).thr n).wake = ((s.thr n).noted i.toNat).wake := by
  rw [State.event, thr_modThr, Thread.noted_eq]
  dsimp only
  split
  · rfl
  · exact Thread.wake_wake _

theorem onlyThread_event_wake (s : State) (n : BitVec 9) (i : BitVec 4) :
    OnlyThread s ((s.event n i).modThr n Thread.wake) n ((s.thr n).noted i.toNat).wake := by
  rw [← wake_thr_event]
  exact (onlyThread_modThr s n _).trans (onlyThread_modThr (s.event n i) n Thread.wake)

/-- A mailbox that holds 16 flits or is closed counts the flit as lost. -/
theorem onlyThread_mboxArrive_lost {s : State} {n : BitVec 9} {b : BitVec 2} (v : Word)
    (h : ¬((s.thr n).run ≠ .empty ∧ (s.thr n).frozen = false ∧ (s.thr n).mbox[b.toNat].length < 16)) :
    OnlyThread s (s.mboxArrive n b v) n { s.thr n with lost := (s.thr n).lost.set b.toNat (sat8 (s.thr n).lost[b.toNat]) } := by
  have hclosed : (s.thr n).run = .empty ∨ (s.thr n).frozen = true ∨ 16 ≤ (s.thr n).mbox[b.toNat].length := by
    simp only [ne_eq, not_and_or, not_not, not_lt, Bool.not_eq_false] at h
    exact h
  rw [State.mboxArrive, if_pos hclosed]
  exact onlyThread_setThr s n _

/-- An open one takes it, which is an event on its entry and ends a WFE. -/
theorem onlyThread_mboxArrive_taken {s : State} {n : BitVec 9} {b : BitVec 2} (v : Word)
    (h : (s.thr n).run ≠ .empty ∧ (s.thr n).frozen = false ∧ (s.thr n).mbox[b.toNat].length < 16) :
    OnlyThread s (s.mboxArrive n b v) n
      (({ s.thr n with mbox := (s.thr n).mbox.set b.toNat ((s.thr n).mbox[b.toNat] ++ [v]) } : Thread).noted (10 + b.toNat)).wake := by
  obtain ⟨hrun, hfrozen, hroom⟩ := h
  have hopen : ¬((s.thr n).run = .empty ∨ (s.thr n).frozen = true ∨ 16 ≤ (s.thr n).mbox[b.toNat].length) := by
    simp [hrun, hfrozen, hroom]
  rw [State.mboxArrive, if_neg hopen, ← toNat_mailEntry]
  have hbox := onlyThread_modThr s n (fun t => { t with mbox := t.mbox.set b.toNat (t.mbox[b.toNat] ++ [v]) })
  have h := hbox.trans (onlyThread_event_wake _ n (10 + zext b 4))
  rwa [thr_modThr] at h

theorem sat8_eq (x : BitVec 8) : sat8 x = if x = 255 then 255 else x + 1 := by
  rw [sat8]
  split
  next h => exact h
  next => rfl

/-- The oldest flit of its sender and mailbox arrives. -/
theorem execMboxFlitArrival_of_oldest {s : State} {f : MboxFlit} (hf : s.flits[s.ev.k]? = some f)
    (hold : ∀ g ∈ s.flits.take s.ev.k, ¬(g.src = f.src ∧ g.dest = f.dest ∧ g.box = f.box)) :
    execMboxFlitArrival s = .next (({ s with flits := s.flits.eraseIdx s.ev.k } : State).mboxArrive f.dest f.box f.val) := by
  have hnone : (s.flits.take s.ev.k).any (fun g => g.src == f.src && g.dest == f.dest && g.box == f.box) = false := by
    rw [List.any_eq_false]
    intro g hg
    simpa [and_assoc] using hold g hg
  simp only [execMboxFlitArrival, hf, hnone, Bool.false_eq_true, if_false]

theorem flitArrival : Rule.FlitArrival := by
  intro s f hf hold m i e e' lost
  refine ⟨_, execMboxFlitArrival_of_oldest hf hold, ?_⟩
  split
  next h =>
    have h := onlyThread_mboxArrive_taken (s := { s with flits := s.flits.eraseIdx s.ev.k }) f.val h
    rwa [Thread.wake_eq] at h
  next h =>
    have h := onlyThread_mboxArrive_lost (s := { s with flits := s.flits.eraseIdx s.ev.k }) f.val h
    rwa [sat8_eq] at h

/-! ## Doorbells (R408) -/

theorem Tab.get_set_eq {α : Type} (d : α) (m : Tab α) (k : Nat) (v : α) (j : Nat) :
    Tab.get d (Tab.set m k v) j = if j = k then v else Tab.get d m j := by
  split
  next h => rw [h, Tab.get_set]
  next h => exact Tab.get_set_ne d m v h

section doorbell
variable {s : State} {f : BitVec 6} (hf : f.toNat ≤ 32)
include hf

theorem doorbellFlit_of_sent (hallowed : f = 0 ∨ s.fnMask f (clusterOf (fld (Tab.get {} s.doorbells f.toNat).dest 0 9)) = true) (v : Word) :
    s.doorbellFlit f 8 v = { s with flits := s.flits ++ [⟨512 + f.toNat, fld (Tab.get {} s.doorbells f.toNat).dest 0 9,
      fld (Tab.get {} s.doorbells f.toNat).dest 9 2, v⟩] } := by
  have hnot : ¬(f ≠ 0 ∧ (!s.fnMask f (clusterOf (fld (Tab.get {} s.doorbells f.toNat).dest 0 9))) = true) := by
    rintro ⟨h0, hm⟩
    obtain h | h := hallowed
    · exact h0 h
    · rw [h] at hm
      exact absurd hm (by decide)
  rw [State.doorbellFlit, if_neg (by omega), if_neg hnot]

theorem doorbellFlit_of_barred (hbarred : ¬(f = 0 ∨ s.fnMask f (clusterOf (fld (Tab.get {} s.doorbells f.toNat).dest 0 9)) = true)) (v : Word) :
    s.doorbellFlit f 8 v = { s with doorbells := Tab.set s.doorbells f.toNat { Tab.get {} s.doorbells f.toNat with
      discards := if (Tab.get {} s.doorbells f.toNat).discards = 0xFFFFFFFF then (Tab.get {} s.doorbells f.toNat).discards
        else (Tab.get {} s.doorbells f.toNat).discards + 1 } } := by
  obtain ⟨h0, hm⟩ := not_or.mp hbarred
  rw [State.doorbellFlit, if_neg (by omega), if_pos ⟨h0, (Bool.not_eq_true' _).mpr (Bool.eq_false_iff.mpr hm)⟩]
  rfl

theorem clearDiscards_eq : s.clearDiscards f
    = { s with doorbells := Tab.set s.doorbells f.toNat { Tab.get {} s.doorbells f.toNat with discards := 0 } } := by
  rw [State.clearDiscards, if_neg (by omega)]

end doorbell

theorem doorbellFlit_of_narrow {s : State} {k : Nat} (hk : k ≠ 8) (f : BitVec 6) (v : Word) : s.doorbellFlit f k v = s := if_pos (.inl hk)

theorem doorbells : Rule.Doorbells := by
  intro s hf f b n allowed
  refine ⟨fun hk h => ?_, fun hk h => ?_, fun hk => congrArg Host.Outcome.next (doorbellFlit_of_narrow hk _ _),
    _, congrArg Host.Outcome.next (clearDiscards_eq hf), rfl, Tab.get_set_eq _ _ _ _⟩
  · change Host.Outcome.next (s.doorbellFlit s.ev.f s.ev.k s.ev.v) = _
    rw [hk, doorbellFlit_of_sent hf h]
  · have hbell : exec .doorbellFlit s = .next (s.doorbellFlit s.ev.f s.ev.k s.ev.v) := rfl
    rw [hk, doorbellFlit_of_barred hf h] at hbell
    exact ⟨_, hbell, rfl, Tab.get_set_eq _ _ _ _⟩

/-- Settles O11: the write and the read of a mailbox register, the arrival of a flit and the doorbell's writes. -/
theorem mailboxes : Obligations.Mailboxes := ⟨mailboxSend, mailboxReceive, flitArrival, doorbells⟩

end Sys2Proof.Machine
end

section
/-! PROOFS, O16. Words at sync objects: what comes before the object is read, and the ranges bound to it. -/

namespace Sys2Proof.Machine
open State

/-! ## Reaching the object (R76, R290, R291) -/

section home
variable {s u : State} {va : Word} {x : Xl} (f : State → Nat → State)

theorem withHome_of_error {c : BitVec 8} (h : s.translate s.me.cred .write false va = (u, .error c)) : s.withHome va f = u.trap c va := by
  simp only [State.withHome, h]

variable (h : s.translate s.me.cred .write false va = (u, .ok x))
include h

theorem withHome_of_host {fn : BitVec 6} {pasid : BitVec 20} {ha : Nat} (hx : x.target = .host fn pasid ha) :
    s.withHome va f = u.trap cACCESS va := by
  simp only [State.withHome, h, hx]

theorem withHome_of_unmarked {pa : Nat} (hx : x.target = .device pa) (hm : u.me.cred.marksOk pa = false) :
    s.withHome va f = u.trap cACCESS va := by
  simp only [State.withHome, h, hx, hm, Bool.false_eq_true, if_false]

theorem withHome_of_ok {pa : Nat} (hx : x.target = .device pa) (hm : u.me.cred.marksOk pa = true) : s.withHome va f = f u pa := by
  simp only [State.withHome, h, hx, hm, if_true]

end home

theorem me_of_translate {s u : State} {cr : Capt} {k : Access} {sh : Bool} {va : Word} {x : Except (BitVec 8) Xl}
    (h : s.translate cr k sh va = (u, x)) : u.me = s.me := by
  have := (translate_xlOnly s cr k sh va).me
  rwa [h] at this

/-- ACQX or ACQS at an object found at pa. -/
def State.acqAt (s : State) (excl : Bool) (o : Word) (pa : Nat) : State :=
  if s.me.held.any (fun h => h.1 == o) ∨ 8 ≤ s.me.held.length then s.trap cACCESS o
  else
    match s.homeRead pa 64 with
    | (s, _, bad) =>
      if bad then s.trap cUNCORR o
      else (s.homeStore s.me.cred pa 4 (readLE s.mem pa 4 + 1)).acqPoll excl o (BitVec.ofNat 32 (readLE s.mem pa 4)) pa

/-- A thread without a ticket asks for one at the object. -/
theorem acq_of_fresh {s : State} (hwait : ∀ e b t, s.me.wait ≠ .ticket e b t) (excl : Bool) (a : BitVec 5) :
    s.acq excl a = if (s.rd a).toNat % 64 ≠ 0 then s.trap cALIGN (s.rd a) else s.withHome (s.rd a) (fun u pa => u.acqAt excl (s.rd a) pa) := by
  unfold State.acq
  split
  next e b t h => exact absurd h (hwait e b t)
  next => rfl

section read
variable {s w : State} {o : Word} {pa v : Nat}

theorem acqAt_of_held (excl : Bool) (pa : Nat) (h : (∃ h ∈ s.me.held, h.1 = o) ∨ 8 ≤ s.me.held.length) :
    s.acqAt excl o pa = s.trap cACCESS o :=
  if_pos (h.imp_left fun ⟨e, he, ho⟩ => List.any_eq_true.mpr ⟨e, he, beq_iff_eq.mpr ho⟩)

variable (h : ¬((∃ h ∈ s.me.held, h.1 = o) ∨ 8 ≤ s.me.held.length))
include h

theorem acqAt_of_free (excl : Bool) {bad : Bool} (hread : s.homeRead pa 64 = (w, v, bad)) : s.acqAt excl o pa
    = if bad then w.trap cUNCORR o
      else (w.homeStore w.me.cred pa 4 (readLE w.mem pa 4 + 1)).acqPoll excl o (BitVec.ofNat 32 (readLE w.mem pa 4)) pa := by
  have hfree : ¬(s.me.held.any (fun h => h.1 == o) = true ∨ 8 ≤ s.me.held.length) :=
    mt (Or.imp_left fun q => (List.any_eq_true.mp q).imp fun _ e => ⟨e.1, beq_iff_eq.mp e.2⟩) h
  rw [State.acqAt, if_neg hfree]
  simp only [hread]

end read

/-- REL at an object found at pa. -/
def State.relAt (s : State) (o : Word) (pa : Nat) : State :=
  match s.homeRead pa 64 with
  | (s, _, bad) =>
    if bad then s.trap cUNCORR o
    else
      match s.boundTo o with
      | (s, rs) => if rs.asked then s.stay .busy else (s.writeBackIn (clusterOf s.cur) rs.list).release o pa

theorem execRel_eq (s : State) (a : BitVec 5) : execRel a s
    = .next (if (s.rd a).toNat % 64 ≠ 0 then s.trap cALIGN (s.rd a) else s.withHome (s.rd a) (fun u pa => u.relAt (s.rd a) pa)) := by
  rw [execRel]
  dsimp only
  split <;> rfl

/-- Each of the three words checks its operand's alignment and then reaches the object. -/
theorem exec_syncWord {s : State} (hwait : ∀ e b t, s.me.wait ≠ .ticket e b t) (a : BitVec 5) :
    ∀ i ∈ [Instr.acqx a, .acqs a, .rel a], ∃ f, exec i s
      = .next (if (s.rd a).toNat % 64 ≠ 0 then s.trap cALIGN (s.rd a) else s.withHome (s.rd a) f) := by
  simp only [List.forall_mem_cons]
  exact ⟨⟨_, congrArg _ (acq_of_fresh hwait true a)⟩, ⟨_, congrArg _ (acq_of_fresh hwait false a)⟩, ⟨_, execRel_eq s a⟩, by simp⟩

theorem acquireTraps : Rule.AcquireTraps := by
  intro s u w a pa v x o m hwait
  refine ⟨fun i hi => ?_, fun hal htr hx hm => ⟨?_, fun hread => ?_⟩⟩
  · obtain ⟨f, hf⟩ := exec_syncWord hwait a i hi
    rw [hf]
    refine ⟨fun h => ?_, fun hal => ⟨fun c hc => ?_, fun htr => ⟨fun fn pasid ha hx => ?_, fun hx hm => ?_⟩⟩⟩
    · exact if_pos h ▸ traps_trap s 0x03 o
    · rw [if_neg (not_not.mpr hal), withHome_of_error f hc]
      exact traps_trap u c o
    · rw [if_neg (not_not.mpr hal), withHome_of_host f htr hx]
      exact traps_trap u 0x05 o
    · rw [if_neg (not_not.mpr hal), withHome_of_unmarked f htr hx hm]
      exact traps_trap u 0x05 o
  · intro i hi
    obtain ⟨excl, hexec⟩ : ∃ excl, exec i s = .next (s.acq excl a) := by
      obtain rfl | rfl : i = .acqx a ∨ i = .acqs a := by simpa using hi
      · exact ⟨true, rfl⟩
      · exact ⟨false, rfl⟩
    rw [hexec, acq_of_fresh hwait, if_neg (not_not.mpr hal), withHome_of_ok _ htr hx hm]
    refine ⟨fun h => ?_, fun h hread => ?_⟩
    · rw [acqAt_of_held excl pa h]
      exact traps_trap u 0x05 o
    · rw [acqAt_of_free h excl hread]
      exact traps_trap w 0x09 o
  · have hexec : exec (.rel a) s = _ := execRel_eq s a
    rw [hexec, if_neg (not_not.mpr hal), withHome_of_ok _ htr hx hm, State.relAt]
    simp only [hread, if_true]
    exact traps_trap w 0x09 o

end Sys2Proof.Machine
end

section
/-! PROOFS, O16. The ranges bound to an object, what their maintenance leaves in the caches, and the acquire and the release. -/

namespace Sys2Proof.Machine
open State

/-! ## Finding the ranges (R291) -/

theorem foldl_pair_xlOnly {α β : Type} {f : State × β → α → State × β} (hf : ∀ p a, XlOnly p.1 (f p a).1) (l : List α) (p : State × β) :
    XlOnly p.1 (l.foldl f p).1 := by
  induction l generalizing p with
  | nil => exact XlOnly.refl _
  | cons a l ih => exact (hf p a).trans (ih _)

theorem maintTarget_xlOnly (s : State) (cr : Capt) (va : Word) : XlOnly s (s.maintTarget cr va).1 := by
  unfold State.maintTarget
  have hwalk := walkFromBase_xlOnly s cr va
  split
  · exact XlOnly.refl s
  · split <;> rename_i h <;> rw [h] at hwalk
    · exact hwalk
    · rename_i u l
      split
      · split
        · exact hwalk.trans (touchPte_xlOnly u l .read)
        · exact hwalk
      · have hbuf := bufferTarget_xlOnly u cr l false va
        split <;> rename_i h <;> rw [h] at hbuf
        · exact hwalk.trans hbuf
        · exact (hwalk.trans hbuf).trans (touchPte_xlOnly _ l .read)
      · exact hwalk.trans (touchPte_xlOnly u l .read)

theorem hostPieces_xlOnly (s : State) (n : BitVec 9) (va : Word) (fn : BitVec 6) (pasid : BitVec 20) (ha len : Nat) (r : Ranges) :
    XlOnly s (hostPieces s n va fn pasid ha len r).1 := by
  refine foldl_pair_xlOnly (fun p k => ?_) _ (s, r)
  dsimp only
  split
  · exact XlOnly.refl _
  · split
    · exact XlOnly.refl _
    · exact XlOnly.refl _
    · exact askAts_xlOnly _ _ _ _

theorem XlOnly.of_fst {α : Type} {s t : State} {p : State × α} {a : α} (h : XlOnly s p.1) (e : p = (t, a)) : XlOnly s t := by
  rwa [e] at h

theorem boundRange_xlOnly (s : State) (n : BitVec 9) (cr : Capt) (base len : Nat) (r : Ranges) : XlOnly s (s.boundRange n cr base len r).1 := by
  unfold State.boundRange
  refine foldl_pair_xlOnly (p := (s, r)) (fun p k => ?_) _
  obtain ⟨t, r⟩ := p
  dsimp only
  split
  next h => exact (maintTarget_xlOnly t cr _).of_fst h
  next h => exact (maintTarget_xlOnly t cr _).of_fst h
  next h => exact ((maintTarget_xlOnly t cr _).of_fst h).trans (hostPieces_xlOnly _ _ _ _ _ _ _ _)

theorem boundTo_xlOnly (s : State) (o : Word) : XlOnly s (s.boundTo o).1 := by
  unfold State.boundTo
  refine foldl_pair_xlOnly (p := (s, ({} : Ranges))) (fun p e => ?_) _
  obtain ⟨t, r⟩ := p
  exact boundRange_xlOnly t _ _ _ _ r

/-! ## Maintenance of the ranges -/

/-- A sweep over a slice's lines that acts on those in the ranges is one over the lines in the ranges. -/
theorem foldl_lineIn (f : State → Nat → State) (rs : List (Nat × Nat)) (l : Tab Line) (s : State) :
    l.foldl (fun s p => if lineIn rs p.1 then f s p.1 else s) s = ((l.map (·.1)).filter (lineIn rs)).foldl f s := by
  rw [List.foldl_filter, List.foldl_map]

/-- A line of the ranges is one the sweep visits, or the slice does not hold it. -/
theorem mem_or_l2Line_empty (s : State) (c : BitVec 5) {rs : List (Nat × Nat)} {line : Nat} (h : lineIn rs line = true) :
    line ∈ ((s.clu c).l2.map (·.1)).filter (lineIn rs) ∨ s.l2Line c line = {} := by
  rw [List.mem_filter]
  obtain he | hm := Tab.get_mem ({} : Line) (s.clu c).l2 line
  · exact .inr he
  · exact .inl ⟨List.mem_map_of_mem hm, h⟩

theorem writeBackIn_cacheOnly (s : State) (c : BitVec 5) (rs : List (Nat × Nat)) : CacheOnly s (s.writeBackIn c rs) := by
  rw [State.writeBackIn, foldl_lineIn]
  exact writeBacks_shape c _ s

theorem writeBackIn_dirty (s : State) (c : BitVec 5) {rs : List (Nat × Nat)} {line : Nat} (h : lineIn rs line = true) :
    ((s.writeBackIn c rs).l2Line c line).dirty = 0 := by
  rw [State.writeBackIn, foldl_lineIn, writeBacks_dirty]
  split
  next => rfl
  next hn => rw [(mem_or_l2Line_empty s c h).resolve_left hn]

theorem dropCleanIn_shape (s : State) (c : BitVec 5) (rs : List (Nat × Nat)) : ∃ k, s.dropCleanIn c rs = { s with clusters := k } := by
  rw [State.dropCleanIn, foldl_lineIn]
  exact dropCleans_shape c _ s

/-- Clean bytes of a line. -/
def Line.clean (l : Line) : BitVec 64 := l.valid &&& ~~~l.dirty

theorem dropClean_clean (s : State) (c : BitVec 5) (line j : Nat) :
    ((s.dropClean c line).l2Line c j).clean = if j = line then 0 else (s.l2Line c j).clean := by
  rw [dropClean_l2]
  by_cases hj : j = line
  · subst hj
    by_cases hv : (s.l2Line c j).valid = 0
    · rw [if_neg (by simp [hv]), if_pos rfl, Line.clean, hv]
      exact BitVec.zero_and
    · rw [if_pos ⟨rfl, hv⟩, if_pos rfl]
      split
      · rfl
      · rw [Line.clean, BitVec.and_assoc, BitVec.and_not_self]
        exact BitVec.and_zero
  · rw [if_neg (fun q => hj q.1), if_neg hj]

theorem dropCleans_clean (c : BitVec 5) (ls : List Nat) (s : State) (j : Nat) :
    ((ls.foldl (fun s k => s.dropClean c k) s).l2Line c j).clean = if j ∈ ls then 0 else (s.l2Line c j).clean := by
  induction ls generalizing s with
  | nil => simp
  | cons k r ih =>
    rw [List.foldl_cons, ih, dropClean_clean]
    simp only [List.mem_cons]
    by_cases hk : j = k <;> by_cases hr : j ∈ r <;> simp [hk, hr]

theorem dropCleanIn_clean (s : State) (c : BitVec 5) {rs : List (Nat × Nat)} {line : Nat} (h : lineIn rs line = true) :
    ((s.dropCleanIn c rs).l2Line c line).clean = 0 := by
  rw [State.dropCleanIn, foldl_lineIn, dropCleans_clean]
  split
  next => rfl
  next hn =>
    rw [(mem_or_l2Line_empty s c h).resolve_left hn]
    rfl

theorem setL2_l1 (s : State) (c : BitVec 5) (line : Nat) (l : Line) (k : BitVec 5) : ((s.setL2 c line l).clu k).l1 = (s.clu k).l1 := by
  rw [State.setL2, modClu_clu]
  split
  next h => rw [h]
  next => rfl

theorem dropClean_l1 (s : State) (c : BitVec 5) (line : Nat) (k : BitVec 5) : ((s.dropClean c line).clu k).l1 = (s.clu k).l1 := by
  simp only [State.dropClean]
  split
  · rfl
  · exact setL2_l1 _ _ _ _ _

theorem dropCleanIn_l1 (s : State) (c : BitVec 5) (rs : List (Nat × Nat)) (k : BitVec 5) : ((s.dropCleanIn c rs).clu k).l1 = (s.clu k).l1 := by
  rw [State.dropCleanIn, foldl_lineIn]
  generalize ((s.clu c).l2.map (·.1)).filter (lineIn rs) = ls
  induction ls generalizing s with
  | nil => rfl
  | cons j r ih => rw [List.foldl_cons, ih, dropClean_l1]

theorem get_filter_of_not {α : Type} (d : α) (p : Nat → Bool) (m : Tab α) {k : Nat} (h : p k = false) :
    Tab.get d (m.filter (fun e => p e.1)) k = d := by
  induction m with
  | nil => rfl
  | cons e r ih =>
    obtain ⟨j, v⟩ := e
    by_cases hj : p j = true
    · rw [List.filter_cons_of_pos (p := fun e : Nat × α => p e.1) hj, Tab.get, ih, if_neg (by rintro rfl; simp [hj] at h)]
    · rw [List.filter_cons_of_neg (p := fun e : Nat × α => p e.1) hj, ih]

theorem dropL1In_l1Line (s : State) (k : BitVec 7) {rs : List (Nat × Nat)} {line : Nat} (h : lineIn rs line = true) :
    l1Line (s.dropL1In k rs) k line = {} := by
  simp only [l1Line, State.dropL1In, State.modL1, State.clu_modClu, Cluster.l1Of, Tab.get_set]
  exact get_filter_of_not _ (fun j => !lineIn rs j) _ (by simp [h])

/-- The quad caches hold no line of the slices and of a core's own. -/
theorem modRegionQuads_caches (s : State) (n : BitVec 9) (f : Tab Line → Tab Line) (k : BitVec 5) :
    ((s.modRegionQuads n f).clu k).l1 = (s.clu k).l1 ∧ ((s.modRegionQuads n f).clu k).l2 = (s.clu k).l2 := by
  rw [State.modRegionQuads, modClu_clu]
  split
  next h => rw [h]; exact ⟨rfl, rfl⟩
  next => exact ⟨rfl, rfl⟩

/-! ## Stores at the object -/

theorem homeStore_shape (s : State) (cr : Capt) (pa n v : Nat) : ∃ m p, s.homeStore cr pa n v = { s with mem := m, poison := p } := by
  rw [State.homeStore, markAll_eq]
  exact ⟨_, _, rfl⟩

/-- A store at the home leaves threads and caches as they were. -/
theorem homeStore_keeps (s : State) (cr : Capt) (pa n v : Nat) : (s.homeStore cr pa n v).threads = s.threads
    ∧ (s.homeStore cr pa n v).cur = s.cur ∧ (s.homeStore cr pa n v).clusters = s.clusters := by
  obtain ⟨m, p, h⟩ := homeStore_shape s cr pa n v
  rw [h]
  exact ⟨rfl, rfl, rfl⟩

/-- State t has the threads and caches of s, the same thread running. -/
def Alike (s t : State) : Prop := t.threads = s.threads ∧ t.cur = s.cur ∧ t.clusters = s.clusters

theorem Alike.trans {s t u : State} (h : Alike s t) (g : Alike t u) : Alike s u :=
  ⟨g.1.trans h.1, g.2.1.trans h.2.1, g.2.2.trans h.2.2⟩

theorem Alike.me {s t : State} (h : Alike s t) : t.me = s.me := by
  obtain ⟨ht, hc, -⟩ := h
  simp only [State.me, State.thr, ht, hc]

theorem Alike.l2Line {s t : State} (h : Alike s t) (c : BitVec 5) (line : Nat) : t.l2Line c line = s.l2Line c line := by
  obtain ⟨-, -, hc⟩ := h
  simp only [State.l2Line, State.clu, hc]

theorem alike_of_xlOnly {s t : State} (h : XlOnly s t) : Alike s t := ⟨h.threads, h.cur, h.clusters⟩

theorem OnlyThread.clusters {s t : State} {n : BitVec 9} {m : Thread} (h : OnlyThread s t n m) : t.clusters = s.clusters :=
  show ({ t with threads := s.threads } : State).clusters = s.clusters by rw [h.2.2]

/-! ## The acquire (R290) -/

/-- What a granted ticket does past its stores at the object. -/
def State.acqTaken (s : State) (excl : Bool) (o : Word) (rs : List (Nat × Nat)) : State :=
  let s := s.dropL1In (coreOf s.cur) rs
  let s := s.dropCleanIn (clusterOf s.cur) rs
  let s := s.modRegionQuads s.cur (fun q => q.filter (fun p => !lineIn rs p.1))
  s.modMe (fun m => { m with wait := .none, held := m.held ++ [(o, excl)], pc := m.pc + 4 })

/-- The stores at the object that grant a ticket t. -/
def State.acqStored (s : State) (excl : Bool) (cr : Capt) (pa sharers t : Nat) : State :=
  if excl then s.homeStore cr (pa + 0x10) 4 (s.cur.toNat + 1)
  else (s.homeStore cr (pa + 0x14) 4 (sharers + 1)).homeStore cr (pa + 4) 4 (t + 1)

theorem acqStored_alike (s : State) (excl : Bool) (cr : Capt) (pa sharers t : Nat) : Alike s (s.acqStored excl cr pa sharers t) := by
  cases excl
  · exact Alike.trans (homeStore_keeps s _ _ _ _) (homeStore_keeps _ _ _ _ _)
  · exact homeStore_keeps s _ _ _ _

theorem acqPoll_of_waiting {s : State} (excl : Bool) (o : Word) {t : BitVec 32} {pa : Nat} (h : readLE s.mem (pa + 4) 4 ≠ t.toNat) :
    s.acqPoll excl o t pa = s.stay (.ticket excl o t) := if_pos (.inl h)

theorem acqPoll_of_served {s y : State} {excl : Bool} {o : Word} {t : BitVec 32} {pa : Nat} {rs : Ranges}
    (hserved : readLE s.mem (pa + 4) 4 = t.toNat) (hsharers : excl = true → readLE s.mem (pa + 0x14) 4 = 0) (hbound : s.boundTo o = (y, rs))
    (hasked : rs.asked = false) : s.acqPoll excl o t pa
      = (y.acqStored excl s.me.cred pa (readLE s.mem (pa + 0x14) 4) (readLE s.mem (pa + 4) 4)).acqTaken excl o rs.list := by
  have hgo : ¬(readLE s.mem (pa + 4) 4 ≠ t.toNat ∨ (excl = true ∧ readLE s.mem (pa + 0x14) 4 ≠ 0)) := by
    rintro (h | ⟨he, h⟩)
    · exact h hserved
    · exact h (hsharers he)
  rw [State.acqPoll]
  simp only [if_neg hgo, hbound, hasked, Bool.false_eq_true, if_false]
  rfl

/-- The same thread runs throughout. -/
theorem acqTaken_eq (s : State) (excl : Bool) (o : Word) (rs : List (Nat × Nat)) : s.acqTaken excl o rs
    = (((s.dropL1In (coreOf s.cur) rs).dropCleanIn (clusterOf s.cur) rs).modRegionQuads s.cur (fun q => q.filter (fun p => !lineIn rs p.1))).modMe
        (fun m => { m with wait := .none, held := m.held ++ [(o, excl)], pc := m.pc + 4 }) := by
  have hcur : ((s.dropL1In (coreOf s.cur) rs).dropCleanIn (clusterOf s.cur) rs).cur = s.cur := by
    obtain ⟨k, hk⟩ := dropCleanIn_shape (s.dropL1In (coreOf s.cur) rs) (clusterOf s.cur) rs
    rw [hk]
    rfl
  change State.modMe (State.modRegionQuads _ ((s.dropL1In (coreOf s.cur) rs).dropCleanIn (clusterOf s.cur) rs).cur _) _ = _
  rw [hcur]
  rfl

theorem acqTaken_shape (s : State) (excl : Bool) (o : Word) (rs : List (Nat × Nat)) :
    ∃ k, OnlyMe { s with clusters := k } (s.acqTaken excl o rs)
      { s.me with wait := .none, held := s.me.held ++ [(o, excl)], pc := s.pc + 4 } := by
  obtain ⟨k, hk⟩ := dropCleanIn_shape (s.dropL1In (coreOf s.cur) rs) (clusterOf s.cur) rs
  rw [acqTaken_eq, hk]
  exact ⟨_, onlyMe_modMe _ _⟩

theorem clusterOf_eq_fld (n : BitVec 9) : clusterOf n = fld (coreOf n) 2 5 := by
  rw [coreOf, fld_fld n (by decide)]
  rfl

theorem fld_coreOf (n : BitVec 9) : (fld n 2 2 : BitVec 2) = fld (coreOf n) 0 2 := by
  rw [coreOf, fld_fld n (by decide)]

/-- The lines of the ranges leave the core's L1 and leave the slices but for dirty bytes. -/
theorem acqTaken_caches (s : State) (excl : Bool) (o : Word) {rs : List (Nat × Nat)} {line : Nat} (h : lineIn rs line = true) :
    Tab.get {} (((s.acqTaken excl o rs).clu (clusterOf s.cur)).l1Of (fld s.cur 2 2 : BitVec 2).toNat) line = ({} : Line)
      ∧ ((s.acqTaken excl o rs).l2Line (clusterOf s.cur) line).clean = 0 := by
  obtain ⟨hl1, hl2⟩ := modRegionQuads_caches ((s.dropL1In (coreOf s.cur) rs).dropCleanIn (clusterOf s.cur) rs) s.cur
    (fun q => q.filter (fun p => !lineIn rs p.1)) (clusterOf s.cur)
  have hl1 := hl1.trans (dropCleanIn_l1 (s.dropL1In (coreOf s.cur) rs) (clusterOf s.cur) rs (clusterOf s.cur))
  rw [acqTaken_eq]
  refine ⟨?_, ?_⟩
  · rw [fld_coreOf]
    rw [clusterOf_eq_fld] at hl1 ⊢
    exact (l1Line_congr hl1 line).trans (dropL1In_l1Line s (coreOf s.cur) h)
  · refine Eq.trans ?_ (dropCleanIn_clean (s.dropL1In (coreOf s.cur) rs) (clusterOf s.cur) h)
    exact congrArg (fun t => (Tab.get ({} : Line) t line).clean) hl2

theorem acquireWords : Rule.AcquireWords := by
  intro s u w y a pa v x rs o cr c hwait hal htr hx hm hfree hroom hread ticket took sharers served hbound hasked after
  have hu : XlOnly s u := by
    have := translate_xlOnly s cr .write false o
    rwa [htr] at this
  have hw : XlOnly u w := by
    have := homeRead_xlOnly u pa 64
    rwa [hread] at this
  have hsw := alike_of_xlOnly (hu.trans hw)
  have htook : Alike s took := hsw.trans (homeStore_keeps w cr _ _ _)
  have hy : Alike s y := htook.trans (alike_of_xlOnly ((boundTo_xlOnly took o).of_fst hbound))
  have hticket : (BitVec.ofNat 32 ticket).toNat = ticket := Nat.mod_eq_of_lt (readLE_lt w.mem pa 4)
  have hnot : ¬((∃ h ∈ u.me.held, h.1 = o) ∨ 8 ≤ u.me.held.length) := by
    rw [hu.me]
    rintro (⟨h, hh, ho⟩ | h)
    · exact hfree h hh ho
    · omega
  have hacq (excl : Bool) : s.acq excl a = took.acqPoll excl o (BitVec.ofNat 32 ticket) pa := by
    rw [acq_of_fresh hwait, if_neg (not_not.mpr hal), withHome_of_ok _ htr hx (hu.me ▸ hm), acqAt_of_free hnot excl hread,
      if_neg Bool.false_ne_true, hsw.me]
  have hgranted (i : Instr) (excl : Bool) (hi : exec i s = .next (s.acq excl a)) (hserved : served) (hsharers : excl = true → sharers = 0) :
      after i excl (y.acqStored excl cr pa sharers ticket) := by
    have hst := hy.trans (acqStored_alike y excl cr pa sharers ticket)
    have hpoll := acqPoll_of_served (excl := excl) (hserved.trans hticket.symm) hsharers hbound hasked
    rw [htook.me, show readLE took.mem (pa + 4) 4 = ticket from hserved] at hpoll
    obtain ⟨k, honly⟩ := acqTaken_shape (y.acqStored excl cr pa sharers ticket) excl o rs.list
    have hme := honly.me
    rw [State.pc, hst.me] at hme
    obtain ⟨hthr, hcur, -⟩ := hst
    refine ⟨_, hi.trans (congrArg _ ((hacq excl).trans hpoll)), hme, honly.mem, fun n hn => ?_, fun line hl => ?_⟩
    · rw [honly.2.1 n (by rwa [hcur])]
      simp only [State.thr, hthr]
    · have := acqTaken_caches (y.acqStored excl cr pa sharers ticket) excl o hl
      rwa [hcur] at this
  refine ⟨fun hserved hsharers => ?_, fun hserved => ?_, fun hnot p hp => ?_⟩
  · have := hgranted (.acqx a) true rfl hserved (fun _ => hsharers)
    rwa [State.acqStored, if_pos rfl, hy.2.1] at this
  · exact hgranted (.acqs a) false rfl hserved (fun h => absurd h (by decide))
  · have hi : exec p.1 s = .next (s.acq p.2 a) := by
      obtain rfl | rfl : p = (.acqx a, true) ∨ p = (.acqs a, false) := by simpa using hp
      all_goals rfl
    refine ⟨_, hi.trans (congrArg _ ((hacq p.2).trans (acqPoll_of_waiting p.2 o (hticket.symm ▸ hnot)))), ?_⟩
    have := onlyMe_modMe took (fun m => { m with wait := .ticket p.2 o (BitVec.ofNat 32 ticket) })
    rwa [htook.me] at this

/-! ## The release (R291) -/

/-- The stores of a release at the object. -/
def State.released (s : State) (cr : Capt) (o : Word) (pa : Nat) : State :=
  let raise (m : State) (off n by_ : Nat) : State := m.homeStore cr (pa + off) n (readLE m.mem (pa + off) n + by_)
  if (o, true) ∈ s.me.held then raise ((raise s 8 8 1).homeStore cr (pa + 0x10) 4 0) 4 4 1
  else if (o, false) ∈ s.me.held then raise s 0x14 4 (2 ^ 32 - 1) else raise s 8 8 1

theorem release_eq (s : State) (o : Word) (pa : Nat) : s.release o pa
    = (s.released s.me.cred o pa).advance.modMe (fun t => { t with held := t.held.filter (fun h => h.1 != o) }) := by
  simp only [State.release, State.released, List.contains_iff_mem]

theorem released_alike (s : State) (cr : Capt) (o : Word) (pa : Nat) : Alike s (s.released cr o pa) := by
  unfold State.released
  extract_lets raise
  have hraise (m : State) (off n by_ : Nat) : Alike m (raise m off n by_) := homeStore_keeps _ _ _ _ _
  split
  · exact ((hraise s 8 8 1).trans (homeStore_keeps _ _ _ _ _)).trans (hraise _ _ _ _)
  · split
    · exact hraise _ _ _ _
    · exact hraise _ _ _ _

theorem onlyMe_release (s : State) (o : Word) (pa : Nat) : OnlyMe (s.released s.me.cred o pa) (s.release o pa)
    { s.me with held := s.me.held.filter (fun h => h.1 != o), pc := s.pc + 4 } := by
  have h := (onlyMe_modMe (s.released s.me.cred o pa) (fun t => { t with pc := t.pc + 4 })).trans
    (onlyMe_modMe _ (fun t => { t with held := t.held.filter (fun h => h.1 != o) }))
  rw [State.me_modMe, (released_alike s s.me.cred o pa).me] at h
  rw [release_eq]
  exact h

theorem relAt_of_good {s w y : State} {o : Word} {pa v : Nat} {rs : Ranges} (hread : s.homeRead pa 64 = (w, v, false))
    (hbound : w.boundTo o = (y, rs)) (hasked : rs.asked = false) :
    s.relAt o pa = (y.writeBackIn (clusterOf y.cur) rs.list).release o pa := by
  simp only [State.relAt, hread, hbound, hasked, Bool.false_eq_true, if_false]

theorem releaseWord : Rule.ReleaseWord := by
  intro s u w y a pa v x rs o cr c hal htr hx hm hread hbound hasked raise back
  have hu : XlOnly s u := by
    have := translate_xlOnly s cr .write false o
    rwa [htr] at this
  have hw : XlOnly u w := by
    have := homeRead_xlOnly u pa 64
    rwa [hread] at this
  have hy : XlOnly s y := (hu.trans hw).trans ((boundTo_xlOnly w o).of_fst hbound)
  have hback : CacheOnly y back := writeBackIn_cacheOnly y c rs.list
  have hme : back.me = s.me := hback.me.trans hy.me
  have hcur : back.cur = s.cur := hback.cur.trans hy.cur
  have hrel : exec (.rel a) s = .next (back.release o pa) := by
    have h : exec (.rel a) s = _ := execRel_eq s a
    rw [h, if_neg (not_not.mpr hal), withHome_of_ok _ htr hx (hu.me ▸ hm), relAt_of_good hread hbound hasked, hy.cur]
  have hst := released_alike back cr o pa
  have honly := onlyMe_release back o pa
  rw [State.pc, hme] at honly
  refine ⟨_, hrel, ?_, fun line hl => ?_, honly.me, fun n hn => ?_⟩
  · rw [honly.mem, State.released, hme]
  · have hl2 : (back.release o pa).l2Line c line = back.l2Line c line :=
      congrArg (fun k : Tab Cluster => Tab.get ({} : Line) (Tab.get ({} : Cluster) k c.toNat).l2 line) (honly.clusters.trans hst.2.2)
    rw [hl2]
    exact writeBackIn_dirty y c hl
  · have hthreads : (back.released cr o pa).threads = s.threads := hst.1.trans (hback.threads.trans hy.threads)
    exact (honly.2.1 n (by rwa [hst.2.1, hcur])).trans (congrArg (fun t : Tab Thread => Tab.get ({} : Thread) t n.toNat) hthreads)

/-- Settles O16: the checks before the object is read, the ticket and what its grant does, and the release. -/
theorem acquireAndRelease : Obligations.AcquireAndRelease := ⟨acquireWords, releaseWord, acquireTraps⟩

end Sys2Proof.Machine
end

section
/-! PROOFS, O49. Nodes at a marker, what a passage comes to, and the stop of a thread to be saved. -/

namespace Sys2Proof.Machine
open State

/-! ## A node saves (R356, R357) -/

section node
variable {s : State} {m : Passage} (hmark : (s.reg s.ev.n).mark = some m) (hacts : actsIn (s.reg s.ev.n).st = true)
  (hnode : isNode (s.reg s.ev.n).image s.ev.t s.ev.s.toNat = true)
include hmark hacts hnode

theorem exec_nodeMarkSave_of_marked (hsaved : s.ev.s.toNat ∈ (s.rt s.ev.n s.ev.t).marked)
    (hcode : opCode (opWord (s.reg s.ev.n).image s.ev.t s.ev.s.toNat) ≠ 0x53) : exec .nodeMarkSave s = .next s := by
  have h : exec .nodeMarkSave s = execNodeMarkSave s := rfl
  rw [h, execNodeMarkSave]
  simp [hmark, hacts, hnode, hsaved, hcode]

variable (hsaved : s.ev.s.toNat ∉ (s.rt s.ev.n s.ev.t).marked)
include hsaved

theorem exec_nodeMarkSave_source (hcode : opCode (opWord (s.reg s.ev.n).image s.ev.t s.ev.s.toNat) = 0x56) :
    exec .nodeMarkSave s = .next (s.stopCounter s.ev.n (s.ev.t, s.ev.s.toNat) m.num) := by
  have h : exec .nodeMarkSave s = execNodeMarkSave s := rfl
  rw [h, execNodeMarkSave]
  simp [hmark, hacts, hnode, hsaved, hcode]

/-- Any other node saves when its MARKs have come, nothing of it is in progress and it can no longer fire. -/
theorem exec_nodeMarkSave_node {ready : Prop} [Decidable ready]
    (hready : ready ↔ (∀ j ∈ slotsRead (s.reg s.ev.n).image s.ev.t s.ev.s.toNat, s.markAt s.ev.n (s.ev.t, s.ev.s.toNat) j = true)
      ∧ (∀ o ∈ (s.rt s.ev.n s.ev.t).mops, o.slot.toNat ≠ s.ev.s.toNat) ∧ (∀ a ∈ (s.rt s.ev.n s.ev.t).accs, a.slot.toNat ≠ s.ev.s.toNat)
      ∧ s.canAct s.ev.n (s.ev.t, s.ev.s.toNat) = false ∧ s.onlyLatency s.ev.n (s.ev.t, s.ev.s.toNat) = false
      ∧ (s.waitsOnTag s.ev.n (s.ev.t, s.ev.s.toNat) = false ∨ s.onlyTagsWait s.ev.n = true))
    (hchain : opCode (opWord (s.reg s.ev.n).image s.ev.t s.ev.s.toNat) ≠ 0x53)
    (hsource : opCode (opWord (s.reg s.ev.n).image s.ev.t s.ev.s.toNat) ≠ 0x56) :
    exec .nodeMarkSave s = if ready then .next (s.saveNode s.ev.n (s.ev.t, s.ev.s.toNat) m.num) else .next s := by
  have h : exec .nodeMarkSave s = execNodeMarkSave s := rfl
  rw [h, execNodeMarkSave]
  simp [hmark, hacts, hnode, hsaved, hchain, hsource, hready, and_assoc]

end node

/-- What a change of a tile leaves of its region. -/
theorem modRt_image (s : State) (n : BitVec 9) (t : TileNo) (f : RTile → RTile) : ((s.modRt n t f).reg n).image = (s.reg n).image := by
  rw [State.modRt, reg_modReg]

/-- A SOURCE with no emission owed saves as it stops. -/
theorem stopCounter_of_free {s : State} {n : BitVec 9} {v : TileNo × Nat} (h : (Tab.get ({} : ChainPos) (s.rt n v.1).chain v.2).owed = false)
    (num : BitVec 16) : s.stopCounter n v num = (s.modRt n v.1 (fun r =>
      { r with chain := Tab.set r.chain v.2 { Tab.get ({} : ChainPos) (s.rt n v.1).chain v.2 with stopped := true } })).saveNode n v num := by
  rw [State.stopCounter]
  exact if_neg (ne_true_of_eq_false h)

theorem nodeMarks : Rule.NodeMarks := by
  intro s m n t k r rt d c slots saves ready stays
  refine ⟨fun hnone => ?_, fun hmark hacts hnode => ⟨?_, fun hsaved hchain hsource => ?_, fun hsaved hsource p hp howed => ?_⟩⟩
  · have h : exec .nodeMarkSave s = execNodeMarkSave s := rfl
    have hnone : (s.reg s.ev.n).mark = none := hnone
    exact h.trans (by simp only [execNodeMarkSave, hnone])
  · exact exec_nodeMarkSave_of_marked hmark hacts hnode
  · have := Classical.propDecidable ready
    have h := exec_nodeMarkSave_node hmark hacts hnode hsaved (ready := ready) Iff.rfl hchain hsource
    exact ⟨fun hready => h.trans (by rw [if_pos hready]; rfl), fun hnot => h.trans (by rw [if_neg hnot])⟩
  · have h := exec_nodeMarkSave_source hmark hacts hnode hsaved hsource
    subst hp
    rw [stopCounter_of_free howed, State.saveNode, modRt_image] at h
    exact h

/-! ## What a save leaves of its region (R355, R356) -/

theorem foldl_threads {α : Type} {f : State → α → State} (h : ∀ s a, (f s a).threads = s.threads) (l : List α) (s : State) :
    (l.foldl f s).threads = s.threads := by
  induction l generalizing s with
  | nil => rfl
  | cons a r ih => exact (ih _).trans (h s a)

theorem modTile_threads (s : State) (c : BitVec 5) (t : BitVec 8) (f : TileMem → TileMem) : (s.modTile c t f).threads = s.threads := rfl

theorem modBanks_threads (s : State) (u : BankUnit) (f : BankSet → BankSet) : (s.modBanks u f).threads = s.threads := by
  cases u <;> rfl

theorem poisonUnit_threads (s : State) (u : BankUnit) (w : Nat) : (s.poisonUnit u w).threads = s.threads := by
  cases u <;> rfl

theorem retireLeft_threads (s : State) (u : BankUnit) (p : Nat) : (s.retireLeft u p).threads = s.threads := by
  unfold State.retireLeft
  split
  · exact modBanks_threads ..
  · rfl

theorem letGo_threads (s : State) (u : BankUnit) : (s.letGo u).threads = s.threads := by
  unfold State.letGo
  split
  · rfl
  · exact modBanks_threads ..

theorem releaseHeld_threads (s : State) (n : BitVec 9) : (s.releaseHeld n).threads = s.threads := foldl_threads letGo_threads _ _

section inject
variable {ret : State → BankUnit → Nat → State} (hret : ∀ s u p, (ret s u p).threads = s.threads) (s : State) (u : BankUnit)
include hret

theorem correctedBy_threads (p word : Nat) : (s.correctedBy ret u p word).threads = s.threads := by
  unfold State.correctedBy
  dsimp only
  split
  · exact (hret ..).trans (modBanks_threads ..)
  · exact modBanks_threads ..

theorem injectBankBy_threads (bank main lo hi : Nat) : (s.injectBankBy ret u bank main lo hi).threads = s.threads := by
  unfold State.injectBankBy
  dsimp only
  split
  · split
    · exact correctedBy_threads hret ..
    · exact (hret ..).trans (poisonUnit_threads ..)
    · exact poisonUnit_threads ..
  · rfl

theorem injectReadBy_threads (q lo hi : Nat) : (s.injectReadBy ret u q lo hi).threads = s.threads := by
  unfold State.injectReadBy
  dsimp only
  split
  · exact injectBankBy_threads hret ..
  · rfl

end inject

theorem readTiles_threads (s : State) (n : BitVec 9) : (s.readTiles n).threads = s.threads :=
  foldl_threads (fun _ _ => (foldl_threads (fun _ _ => injectReadBy_threads retireLeft_threads ..) _ _).trans
    (foldl_threads (fun _ _ => injectReadBy_threads retireLeft_threads ..) _ _)) _ _

/-- Thread n's region in t is that in s but for what is known of its area. -/
def AreaOnly (n : BitVec 9) (s t : State) : Prop := ∃ ok owed, t.reg n = { s.reg n with inArea := ok, areaOwed := owed }

theorem AreaOnly.of_threads {n : BitVec 9} {s t u : State} (h : AreaOnly n s t) (hu : u.threads = t.threads) : AreaOnly n s u := by
  obtain ⟨ok, owed, h⟩ := h
  exact ⟨ok, owed, (reg_of_threads hu n).trans h⟩

theorem areaOnly_modReg {s u : State} (n : BitVec 9) (hu : u.threads = s.threads) (ok owed : Bool) :
    AreaOnly n s (u.modReg n (fun r => { r with inArea := ok, areaOwed := owed })) :=
  ⟨ok, owed, by rw [reg_modReg, reg_of_threads hu]⟩

theorem areaPages_threads (cr : Capt) (base : Word) (off len v : Nat) (poison : List Nat) (who : Waiter) (k page : Nat) (s : State) :
    (s.areaPages cr base off len v poison who k page).1.threads = s.threads := by
  induction k generalizing s page with
  | zero => rfl
  | succ k ih =>
    unfold State.areaPages
    dsimp only
    split
    next h => exact resolve_threads_of h
    next h => exact resolve_threads_of h
    next h =>
      refine (ih ..).trans ?_
      dsimp only
      rw [(homeStore_keeps ..).1, resolve_threads_of h]

theorem areaWrite_threads (s : State) (cr : Capt) (base : Word) (off len v : Nat) (poison : List Nat) (who : Waiter) :
    (s.areaWrite cr base off len v poison who).1.threads = s.threads := by
  unfold State.areaWrite
  split
  · rfl
  · exact areaPages_threads ..

theorem areaWrite_fst_threads {s u : State} {cr : Capt} {base : Word} {off len v : Nat} {poison : List Nat} {who : Waiter} {w : Wrote}
    (h : s.areaWrite cr base off len v poison who = (u, w)) : u.threads = s.threads := by
  rw [← areaWrite_threads s cr base off len v poison who, h]

theorem noteSaved_threads (s : State) (n : BitVec 9) (sec : Nat) : (s.noteSaved n sec).threads = s.threads := rfl

theorem dropCommandScore_threads (s : State) (n : BitVec 9) : (s.dropCommandScore n).threads = s.threads := rfl

/-- The section goes to memory, and the region learns whether it did. -/
theorem writeSection_areaOnly (s : State) (n : BitVec 9) : AreaOnly n s (s.writeSection n) := by
  fun_cases State.writeSection
  case case1 => exact areaOnly_modReg n rfl ..
  case case2 hhead _ hbody =>
    exact (areaOnly_modReg n ((areaWrite_fst_threads hbody).trans (areaWrite_fst_threads hhead)) ..).of_threads (noteSaved_threads ..)
  case case3 hhead _ hbody => exact areaOnly_modReg n ((areaWrite_fst_threads hbody).trans (areaWrite_fst_threads hhead)) ..
  case case4 hhead _ _ _ hbody => exact areaOnly_modReg n ((areaWrite_fst_threads hbody).trans (areaWrite_fst_threads hhead)) ..
  case case5 hhead => exact areaOnly_modReg n (areaWrite_fst_threads hhead) ..
  case case6 hhead => exact areaOnly_modReg n (areaWrite_fst_threads hhead) ..

/-- A region saved with its section: SAVED, with the state it came from, the marker's number and no marker in passage. -/
theorem save_marker_reg (s : State) (n : BitVec 9) {m : Passage} (hmark : (s.reg n).mark = some m) :
    ((s.save n .marker true).reg n).st = 8 ∧ ((s.save n .marker true).reg n).prev = (s.reg n).st
      ∧ ((s.save n .marker true).reg n).mark = none ∧ ((s.save n .marker true).reg n).marker = m.num
      ∧ ((s.save n .marker true).reg n).image = (s.reg n).image ∧ ((s.save n .marker true).reg n).claim = (s.reg n).claim := by
  have hread : (s.readTiles n).reg n = s.reg n := reg_of_threads (readTiles_threads s n) n
  unfold State.save
  simp only [if_true]
  rw [reg_of_threads ((releaseHeld_threads _ n).trans (dropCommandScore_threads ..)) n]
  obtain ⟨ok, owed, h⟩ := writeSection_areaOnly _ n
  rw [h, reg_modReg, hread]
  simp only [hmark]
  exact ⟨trivial, trivial, trivial, trivial, rfl, rfl⟩

/-! ## The end of a passage (R344, R355, R356) -/

/-- Whether a passage is complete, port by port. -/
theorem passed_iff (r : Region) : r.passed_ = true ↔ (∀ v ∈ imgNodes r.image, v.2 ∈ (Tab.get ({} : RTile) r.tiles v.1.toNat).marked)
    ∧ (∀ p ∈ r.ports, p.kind.inward = false → p.markSent = true) ∧ ∀ f ∈ r.flight, f.tok.kind = kMARK := by
  simp only [Region.passed_, Bool.and_eq_true, List.all_eq_true, List.contains_iff_mem, beq_iff_eq, and_assoc]
  refine and_congr_right fun _ => and_congr_left fun _ => forall₂_congr fun p _ => ?_
  cases p.kind <;> simp [PortKind.inward]

theorem exec_markerPassageComplete (s : State) : exec .markerPassageComplete s
    = if (s.reg s.ev.n).mark.isSome && (s.reg s.ev.n).passed_ then .next (s.endPassage s.ev.n .marker) else .next s := rfl

theorem exec_markerTimeout_of_mark {s : State} {m : Passage} (h : (s.reg s.ev.n).mark = some m) : exec .markerTimeout s
    = if m.start + 16384 ≤ s.now s.ev.n ∨ (s.reg s.ev.n).anyParked then .next (s.endPassage s.ev.n .eviction) else .next s := by
  have he : exec .markerTimeout s = execMarkerTimeout s := rfl
  rw [he, execMarkerTimeout]
  simp only [h]

theorem endPassage_rmark {s : State} {n : BitVec 9} {m : Passage} (hmark : (s.reg n).mark = some m) (hwhy : m.why = .rmark)
    (hacts : actsIn (s.reg n).st = true) : s.endPassage n .marker = s.save n .marker true := by
  unfold State.endPassage
  simp [hmark, hwhy, hacts]

/-! ## A thread stops to be saved (R351, R360) -/

/-- A thread whose save is accepted, at a boundary. -/
theorem exec_threadPreemption (s : State) : exec .threadPreemption s = .next
    (if (s.thr s.ev.n).saver.isNone || (s.thr s.ev.n).stopped || (s.thr s.ev.n).undivided then s
     else (s.forget (Waiter.ofThread s.ev.n)).modThr s.ev.n (fun t => { t with
      stopped := true, wait := match t.wait with | .ticket e o k => .ticket e o k | _ => .none
      pc := if t.wait = .wfe ∧ Config.wfeEnds s.tick then t.pc + 4 else t.pc })) := rfl

theorem ofThread_iff (n : BitVec 9) (w : Waiter) : Waiter.ofThread n w = true ↔ w = .thread n ∨ w = .maint n := by
  cases w <;> simp [Waiter.ofThread]

/-- What is asked of the host goes on without those given up. -/
theorem mem_forget_waiters {s : State} {gone : Waiter → Bool} {q : HostReq} (hq : q ∈ (s.forget gone).ats ++ (s.forget gone).pri)
    {w : HostWaiter} (hw : w ∈ q.waiters) : gone w.who = false := by
  simp only [State.forget, List.mem_append, List.mem_map] at hq
  obtain ⟨r, -, rfl⟩ | ⟨r, -, rfl⟩ := hq <;> simpa using (List.mem_filter.mp hw).2

theorem passages : Rule.Passages := by
  constructor
  · intro s m n r all
    refine ⟨fun hnone => ?_, fun hmark hnot => ?_, fun hmark hall => ?_, fun hmark hover => ?_, fun hmark hearly hfree => ?_⟩
    · have hnone : (s.reg s.ev.n).mark = none := hnone
      have htimeout : exec .markerTimeout s = execMarkerTimeout s := rfl
      exact ⟨by rw [exec_markerPassageComplete]; simp [hnone], by rw [htimeout, execMarkerTimeout]; simp [hnone]⟩
    · rw [exec_markerPassageComplete, if_neg]
      exact fun h => hnot ((passed_iff r).mp (Bool.and_eq_true_iff.mp h).2)
    · have hdone : exec .markerPassageComplete s = .next (s.endPassage n .marker) := by
        rw [exec_markerPassageComplete, if_pos]
        exact Bool.and_eq_true_iff.mpr ⟨Option.isSome_iff_exists.mpr ⟨m, hmark⟩, (passed_iff r).mpr hall⟩
      refine ⟨hdone, fun hwhy hacts => ⟨_, hdone, ?_⟩⟩
      rw [endPassage_rmark hmark hwhy hacts]
      exact save_marker_reg s n hmark
    · rw [exec_markerTimeout_of_mark hmark, if_pos hover]
    · rw [exec_markerTimeout_of_mark hmark, if_neg]
      rintro (h | h)
      · exact absurd h (Nat.not_le.mpr hearly)
      · exact absurd (h.symm.trans hfree) (by decide)
  · intro s m held
    refine ⟨fun hheld => ?_, fun hfree => ?_⟩
    · rw [exec_threadPreemption, if_pos]
      simpa [held, or_assoc] using hheld
    · have hfree : ¬((s.thr s.ev.n).saver.isNone || (s.thr s.ev.n).stopped || (s.thr s.ev.n).undivided) = true := by
        simpa [held, or_assoc] using hfree
      refine ⟨_, by rw [exec_threadPreemption, if_neg hfree], ?_, fun q hq w hw => ?_, fun q hq => ?_⟩
      · exact onlyThread_modThr (s.forget (Waiter.ofThread s.ev.n)) s.ev.n _
      · have := mem_forget_waiters hq hw
        exact not_or.mp (mt (ofThread_iff s.ev.n w.who).mpr (by simp [this]))
      · refine ⟨_, List.mem_map_of_mem hq, rfl, fun w hw hthread hmaint => List.mem_filter.mpr ⟨hw, ?_⟩⟩
        have := mt (ofThread_iff s.ev.n w.who).mp (not_or.mpr ⟨hthread, hmaint⟩)
        simpa using this

end Sys2Proof.Machine
end

section
/-! PROOFS, O49. A move Nitinol makes (R110, R111). -/

namespace Sys2Proof.Machine
open State

/-! ## What a move leaves alone -/

/-- From s to t nothing changes but the contents of clusters, and each tile keeps its bank maps. -/
structure TilesOnly (s t : State) : Prop where
  only : t = { s with clusters := t.clusters }
  scr : ∀ c x, ((t.clu c).tile x).scrBanks = ((s.clu c).tile x).scrBanks
  treg : ∀ c x, ((t.clu c).tile x).tregBanks = ((s.clu c).tile x).tregBanks

theorem TilesOnly.refl (s : State) : TilesOnly s s := ⟨rfl, fun _ _ => rfl, fun _ _ => rfl⟩

theorem TilesOnly.trans {s t u : State} (h : TilesOnly s t) (k : TilesOnly t u) : TilesOnly s u :=
  ⟨k.only.trans (congrArg (fun x : State => { x with clusters := u.clusters }) h.only), fun c x => (k.scr c x).trans (h.scr c x),
    fun c x => (k.treg c x).trans (h.treg c x)⟩

theorem TilesOnly.threads {s t : State} (h : TilesOnly s t) : t.threads = s.threads := by rw [h.only]

/-- Whether tiles meet a footprint is a matter of their bank maps. -/
theorem TilesOnly.meets {s t : State} (h : TilesOnly s t) (c : BitVec 5) (img w k o : Nat) : t.meets c img w k o = s.meets c img w k o := by
  simp only [State.meets, h.scr, h.treg]

theorem tilesOnly_foldl {α : Type} {f : State → α → State} (h : ∀ s a, TilesOnly s (f s a)) (l : List α) (s : State) :
    TilesOnly s (l.foldl f s) := by
  induction l generalizing s with
  | nil => exact TilesOnly.refl s
  | cons a r ih => exact (h s a).trans (ih _)

/-- A change of one cluster that keeps its tiles' bank maps. -/
theorem tilesOnly_modClu {s : State} {c : BitVec 5} {f : Cluster → Cluster} (hscr : ∀ x, ((f (s.clu c)).tile x).scrBanks = ((s.clu c).tile x).scrBanks)
    (htreg : ∀ x, ((f (s.clu c)).tile x).tregBanks = ((s.clu c).tile x).tregBanks) : TilesOnly s (s.modClu c f) := by
  refine ⟨rfl, fun d x => ?_, fun d x => ?_⟩ <;> rw [modClu_clu] <;> split
  · next h => rw [hscr, h]
  · rfl
  · next h => rw [htreg, h]
  · rfl

theorem tilesOnly_install (s : State) (c : BitVec 5) (t : BitVec 8) (k : TileMem) (img : Nat) :
    TilesOnly s (s.modTile c t (fun m => m.install k img)) := by
  have htile (x : BitVec 8) := tile_modTile s c t x (fun m => m.install k img)
  rw [State.modTile, State.clu_modClu] at htile
  refine tilesOnly_modClu (fun x => ?_) (fun x => ?_) <;> rw [htile] <;> split
  · next h => rw [h]; rfl
  · rfl
  · next h => rw [h]; rfl
  · rfl

theorem tilesOnly_modRegionQuads (s : State) (n : BitVec 9) (f : Tab Line → Tab Line) : TilesOnly s (s.modRegionQuads n f) := by
  rw [State.modRegionQuads]
  exact tilesOnly_modClu (fun _ => rfl) (fun _ => rfl)

/-- With no injection armed a read of tiles is only a read (R398). -/
theorem readTiles_of_calm {s : State} (h : s.module.armed 1 = false) (n : BitVec 9) : s.readTiles n = s := by
  have hread (u : BankUnit) (q lo hi : Nat) : s.injectReadBy State.retireLeft u q lo hi = s := by
    simp only [State.injectReadBy, h, Bool.false_and, Bool.false_eq_true, if_false]
  have hunit (u : BankUnit) (l : List Nat) : l.foldl (fun s q => s.injectReadBy State.retireLeft u q 0 u.words) s = s :=
    List.foldl_fixed' (fun q => hread u q 0 u.words) l
  refine List.foldl_fixed' (fun t => ?_) _
  simp only [hunit]

/-- A move changes the region's origin, and where its tiles' contents stand. -/
theorem moveTo_of_calm {s : State} (h : s.module.armed 1 = false) (n : BitVec 9) (o : BitVec 4) :
    TilesOnly (s.modReg n (fun r => { r with origin := o })) (s.moveTo n o) := by
  unfold State.moveTo
  rw [readTiles_of_calm h]
  exact (tilesOnly_foldl (fun _ _ => tilesOnly_install ..) _ _).trans (tilesOnly_modRegionQuads ..)

/-- From s to t only thread n's region and the contents of clusters change. -/
theorem TilesOnly.onlyThread {s t : State} {n : BitVec 9} {f : Region → Region} (h : TilesOnly (s.modReg n f) t) :
    OnlyThread s { t with clusters := s.clusters } n { s.thr n with region := f (s.reg n) } := by
  have e : ({ t with clusters := s.clusters } : State) = s.modReg n f := congrArg (fun x : State => { x with clusters := s.clusters }) h.only
  rw [e]
  exact onlyThread_modThr s n _

theorem keepMet_of_meets {s : State} {n : BitVec 9}
    (h : s.meets (clusterOf n) (s.reg n).image (claimW (s.reg n).claim) (claimH (s.reg n).claim) (s.reg n).origin.toNat = true) : s.keepMet n = s :=
  if_pos h

/-! ## When Nitinol moves -/

theorem exec_nitinolMove (s : State) : exec .nitinolMove s
    = if !s.moving (clusterOf s.ev.n) && s.mayMove s.ev.n s.ev.k && (s.errands (clusterOf s.ev.n)).any (fun e => s.nearer (clusterOf s.ev.n) e (s.ev.n, s.ev.k)) then
        .next (if (s.reg s.ev.n).movable then (s.moveTo s.ev.n (BitVec.ofNat 4 s.ev.k)).keepMet s.ev.n
          else s.startMark s.ev.n 0 (.move (BitVec.ofNat 4 s.ev.k)))
      else .next s := rfl

theorem mayMove_of_outside {s : State} {n : BitVec 9} {o : Nat} (h : rect (claimW (s.reg n).claim) (claimH (s.reg n).claim) o = none) :
    s.mayMove n o = false := by
  simp only [State.mayMove, h]

theorem mayMove_iff {s : State} {n : BitVec 9} {o : Nat} {ps : List Nat} (h : rect (claimW (s.reg n).claim) (claimH (s.reg n).claim) o = some ps) :
    s.mayMove n o = true ↔ (s.reg n).canMove = true ∧ o < 16 ∧ o ≠ (s.reg n).origin.toNat ∧ (∀ p ∈ ps, p ∉ s.othersHold n)
      ∧ s.meets (clusterOf n) (s.reg n).image (claimW (s.reg n).claim) (claimH (s.reg n).claim) o = true ∧ (s.reg n).keepsQuarters o = true := by
  simp [State.mayMove, h, State.suits, and_assoc]

/-- A region that may move and is not movable at once runs, with nothing parked. -/
theorem anyParked_of_canMove {r : Region} (hcan : r.canMove = true) (hmov : r.movable = false) : r.anyParked = false := by
  simp only [Region.canMove, hmov, Bool.false_or, Bool.and_eq_true, Bool.not_eq_true'] at hcan
  exact hcan.2

/-- A movable region stands at its new origin, which its tiles meet, and its tiles' contents with it. -/
theorem moveTo_keepMet {s : State} {n : BitVec 9} {o : Nat} (hcalm : s.module.injctl.getLsbD 63 = false) (ho : o < 16)
    (hmeets : s.meets (clusterOf n) (s.reg n).image (claimW (s.reg n).claim) (claimH (s.reg n).claim) o = true) :
    (s.moveTo n (BitVec.ofNat 4 o)).keepMet n = s.moveTo n (BitVec.ofNat 4 o)
      ∧ OnlyThread s { s.moveTo n (BitVec.ofNat 4 o) with clusters := s.clusters } n
        { s.thr n with region := { s.reg n with origin := BitVec.ofNat 4 o } } := by
  have harmed : s.module.armed 1 = false := by rw [Module.armed, hcalm, Bool.false_and]
  have hmove := moveTo_of_calm harmed n (BitVec.ofNat 4 o)
  have hreg : (s.moveTo n (BitVec.ofNat 4 o)).reg n = { s.reg n with origin := BitVec.ofNat 4 o } :=
    (reg_of_threads hmove.threads n).trans (reg_modReg ..)
  refine ⟨keepMet_of_meets ?_, hmove.onlyThread⟩
  have hsame : (s.modReg n (fun r => { r with origin := BitVec.ofNat 4 o })).meets = s.meets := rfl
  rw [hmove.meets, hsame, hreg]
  simpa only [BitVec.toNat_ofNat, Nat.mod_eq_of_lt (show o < 2 ^ 4 from ho)] using hmeets

theorem nitinolMoves : Rule.NitinolMoves := by
  intro s ps n r c may stays
  have hexec := exec_nitinolMove s
  refine ⟨fun hnone => ?_, fun hout => ?_, fun hin => ?_⟩
  · have hnone : s.errands (clusterOf s.ev.n) = [] := hnone
    rw [hnone, List.any_nil, Bool.and_false] at hexec
    exact hexec
  · rw [mayMove_of_outside hout, Bool.and_false, Bool.false_and] at hexec
    exact hexec
  · have hmay : (!s.moving c && s.mayMove n s.ev.k && (s.errands c).any (fun e => s.nearer c e (n, s.ev.k))) = true ↔ may := by
      simp only [Bool.and_eq_true, Bool.not_eq_true', mayMove_iff hin, List.any_eq_true, may, and_assoc]
      rfl
    refine ⟨fun hnot => hexec.trans (if_neg (mt hmay.mp hnot)), fun h hmov hcalm => ?_, fun h hmov => ?_⟩
    · have hexec := hexec.trans (if_pos (hmay.mpr h))
      obtain ⟨-, -, ho, -, -, hmeets, -⟩ := h
      obtain ⟨hkeep, honly⟩ := moveTo_keepMet hcalm ho hmeets
      rw [if_pos hmov, hkeep] at hexec
      exact ⟨_, hexec, honly⟩
    · have hexec := hexec.trans (if_pos (hmay.mpr h))
      obtain ⟨-, hcan, -⟩ := h
      rw [if_neg (ne_true_of_eq_false hmov), State.startMark, if_neg (ne_true_of_eq_false (anyParked_of_canMove hcan hmov))] at hexec
      exact hexec

/-- Settles O49: nodes save at their marker; a passage ends complete, late or at a parked node; Nitinol moves a region at once or through a
marker. -/
theorem markersAndMoves : Obligations.MarkersAndMoves := ⟨nodeMarks, passages, nitinolMoves⟩

end Sys2Proof.Machine
end

section
/-! PROOFS, O46. The counterexample: a replay by the read of a loaded save's buffer, at the completion of its period.
The completion store itself is as stated. -/

namespace Sys2Proof.Machine
open State

/-! ## The completion store (R120, R284, R337) -/

theorem writeBackAll_foldl (s : State) (c : BitVec 5) : s.writeBackAll c = ((s.clu c).l2.map (·.1)).foldl (fun s k => s.writeBack c k) s := by
  rw [State.writeBackAll, List.foldl_map]

/-- After the write-back no line of the cluster's slices is dirty. -/
theorem writeBackAll_dirty (s : State) (c : BitVec 5) (line : Nat) : ((s.writeBackAll c).l2Line c line).dirty = 0 := by
  rw [writeBackAll_foldl, writeBacks_dirty]
  split
  next => rfl
  next hn =>
    have hempty := (Tab.get_mem ({} : Line) (s.clu c).l2 line).resolve_right (fun h => hn (List.mem_map_of_mem h))
    rw [State.l2Line, hempty]

theorem writeBackAll_threads (s : State) (c : BitVec 5) : (s.writeBackAll c).threads = s.threads := by
  rw [writeBackAll_foldl]
  exact (writeBacks_shape c _ s).threads

theorem completionStore : Rule.CompletionStore := by
  intro s u n w key x status
  refine ⟨fun c h => ?_, fun h => ?_, fun h => ?_, ?_, writeBackAll_dirty s (clusterOf n)⟩
  · simp only [State.storeWord, h]
    rfl
  · simp only [State.storeWord, h]
  · simp only [State.storeWord, h]
  · have hreg : (s.writeBackAll (clusterOf n)).reg n = s.reg n := reg_of_threads (writeBackAll_threads ..) n
    have hcoord : (s.writeBackAll (clusterOf n)).originCoord n = s.originCoord n := by simp only [State.originCoord, hreg]
    rw [State.finishPeriod]
    simp only [hreg, hcoord]
    rfl

/-! ## A period completed as it starts over -/

/-- A period of thread 0 whose one sink has reported, with an END counted.  It goes on from a loaded save that wrote through buffer 1, whose
descriptor did not read; the page table it would be translated by is poisoned. -/
def lostBuffer : State :=
  { State.reset with
    threads := [(0, { region := { st := 4, image := fieldAt 0xE 2 1, running := true, left := 0, ends := 1, unread := [1] } })]
    poison := [0] }

/-- The machine when the period's buffers have been published: the read of the descriptor has started the region over. -/
def lostBufferPublished : State := (lostBuffer.writeBackAll 0).publishAll 0

/-- The completion word of thread 0's region after an outcome. -/
def keptWord (o : Out) : Option Word := match o with | .next t => (t.reg 0).last | _ => none

/-- The read meets poison, so the region is killed and replayed (R384): RUNNING again, with its sink yet to report and no END. -/
theorem lostBufferPublished_replayed : (lostBufferPublished.reg 0).st = 4 ∧ (lostBufferPublished.reg 0).left = 1
    ∧ (lostBufferPublished.reg 0).ends = 0 ∧ (lostBufferPublished.reg 0).replays = 1 := by decide +kernel

theorem lostBufferPublished_unpublished : (lostBufferPublished.reg 0).published = none := by decide +kernel

/-- The event completes the replayed period all the same, with the count of ENDs of its first cycle. -/
theorem lostBuffer_keptWord : keptWord (exec .periodCompletion lostBuffer) = some 0 := by decide +kernel

/-- Refutes O46, in PeriodEvents: a completed period is to keep the word with the ENDs its sinks reported, but in `lostBuffer` the read of
the unread descriptor meets poison, which replays the region and clears its ENDs, and the event then completes the period it has just
started over.  CompletionStore holds (`completionStore`). -/
theorem not_periodsEnd : ¬ Obligations.PeriodsEnd := by
  rintro ⟨⟨h, -, -⟩, -⟩
  obtain ⟨-, h⟩ := h lostBuffer lostBufferPublished (lostBufferPublished.completionWaits 0).1
  obtain ⟨-, -, -, -, -, h⟩ := h (by decide +kernel)
  obtain ⟨-, -, -, h⟩ := h rfl
  obtain ⟨w, hw, -, hlast, -⟩ := h lostBufferPublished_replayed.1
    (fun ⟨t, ht, _⟩ => Option.some_ne_none t (ht.symm.trans lostBufferPublished_unpublished))
    (Prod.ext rfl (by decide +kernel))
  have hword : keptWord (exec .periodCompletion lostBuffer) = (w.reg 0).last := congrArg keptWord hw
  exact absurd ((lostBuffer_keptWord.symm.trans hword).trans hlast) (by decide +kernel)

end Sys2Proof.Machine
end

section
/-! PROOFS, O19 to O24. How a region word answers (R105, Table 4.11). -/

namespace Sys2Proof.Machine
open State

theorem State.modMe_modMe (s : State) (f g : Thread → Thread) : OnlyMe s ((s.modMe f).modMe g) (g (f s.me)) := by
  have h := (onlyMe_modMe s f).trans (onlyMe_modMe (s.modMe f) g)
  rwa [State.me_modMe] at h

theorem next_congr {s t : State} (h : s = t) : (.next s : Out) = .next t := h ▸ rfl

/-- A word that answers with a status. -/
theorem answers_status (s : State) (d : BitVec 5) {code : Nat} (hcode : code < 65536) (detail : Nat) :
    Answers s (.next (s.status d code detail)) d code detail := by
  have hword : statusWord code detail = BitVec.ofNat 64 detail <<< 32 ||| BitVec.ofNat 64 code := by
    rw [statusWord, Nat.mod_eq_of_lt hcode]
  have hme : (s.status d code detail).me = { s.me.wr d (statusWord code detail) with pc := s.pc + 4, wait := .none } := by
    simp only [State.status, State.put, State.me_modMe]; rfl
  refine ⟨_, rfl, fun r => ?_, ?_⟩
  · rw [State.rd, hme, ← hword]
    exact (Thread.rd_congr rfl r).trans (Thread.rd_wr ..)
  · exact ⟨hme.trans (by rw [Thread.wr_eq, hme]), (s.modMe_modMe _ _).2⟩

theorem answers_of_eq {s : State} {o : Out} {d : BitVec 5} {code detail : Nat} (h : o = .next (s.status d code detail)) (hcode : code < 65536) :
    Answers s o d code detail := h ▸ answers_status s d hcode detail

section states
variable {s : State} {d : BitVec 5} {ok : List Nat} {f : State → State}

theorem State.inStates_of_mem (h : s.my.st.toNat ∈ ok) : s.inStates d ok f = f s :=
  if_pos (List.contains_iff_mem.mpr h)

theorem answers_inStates (h : s.my.st.toNat ∉ ok) : Answers s (.next (s.inStates d ok f)) d (if s.my.st = 0 then 0x101 else 0x102) 0 := by
  have hNot : ok.contains s.my.st.toNat = false := by simpa using h
  have hZero : s.my.st.toNat = 0 ↔ s.my.st = 0 := by rw [← BitVec.toNat_inj]; rfl
  have hEq : s.inStates d ok f = s.status d (if s.my.st = 0 then 0x101 else 0x102) := by
    simp only [State.inStates, hNot, hZero]
    rfl
  rw [hEq]
  exact answers_status s d (by split <;> decide) 0

end states

/-- Settles O19: each word asks `inStates` first, RSWEEP and RMARK where they do not go on, RSWAP.td after checks of a RUNNING region alone. -/
theorem regionStateRefusals : Obligations.RegionStateRefusals := by
  intro s d a b st refuses
  have hRefuses {i : Instr} {ok : List Nat} (hExec : st.toNat ∉ ok → ∃ f, exec i s = .next (s.inStates d ok f)) : refuses i ok := by
    intro h
    obtain ⟨f, hf⟩ := hExec h
    exact hf ▸ answers_inStates h
  have hSame {i : Instr} {ok : List Nat} (hExec : ∃ f, exec i s = .next (s.inStates d ok f)) : refuses i ok := hRefuses fun _ => hExec
  refine ⟨hSame ⟨_, rfl⟩, hSame ⟨_, rfl⟩, hSame ⟨_, rfl⟩, fun hWait => hSame ⟨_, congrArg _ (if_neg hWait)⟩, hSame ⟨_, rfl⟩, hSame ⟨_, rfl⟩,
    hSame ⟨_, rfl⟩, hSame ⟨_, rfl⟩, hSame ⟨_, rfl⟩, hSame ⟨_, rfl⟩, hSame ⟨_, rfl⟩, hRefuses fun h => ?_, fun hWait => hSame ⟨_, if_neg hWait⟩⟩
  have hSt : s.my.st ≠ 4 := fun e => h (by simp [st, show (s.reg s.cur).st = 4 from e])
  exact ⟨_, (if_neg fun e => hSt e.1).trans (if_neg fun e => hSt e.1)⟩

end Sys2Proof.Machine
end

section
/-! PROOFS, O23. RDRAIN, RWAIT and RSTAT (R121, R125, Table 4.9). -/

namespace Sys2Proof.Machine
open State

section wait
variable {s : State} {d : BitVec 5} {fin : Region → Bool}

theorem rwait_of_none (h : s.my.st = 0) : s.rwait d fin = s.put d (refusalWord stNOREGION) := by
  simp only [State.rwait, h]; rfl

theorem rwait_of_unloaded (h : s.my.st = 1 ∨ s.my.st = 2) : s.rwait d fin = s.put d (refusalWord stBADSTATE) := by
  rcases h with h | h <;> simp only [State.rwait, h] <;> rfl

theorem rwait_of_over (h : s.my.st = 3 ∨ 4 ≤ s.my.st.toNat ∧ s.my.st ≠ 8 ∧ fin s.my = true) : s.rwait d fin = s.rwaitDone d := by
  rcases h with h | ⟨hLe, hNot, hFin⟩
  · simp only [State.rwait, h]; rfl
  · have hNot : s.my.st.toNat ≠ 8 := fun e => hNot (BitVec.eq_of_toNat_eq e)
    unfold State.rwait
    dsimp only
    split
    case h_6 => exact if_pos hFin
    all_goals omega

theorem rwait_of_waiting (h : 4 ≤ s.my.st.toNat) (hNot : s.my.st = 8 ∨ fin s.my = false) : s.rwait d fin = s.stay .reissue := by
  unfold State.rwait
  dsimp only
  split
  case h_5 => rfl
  case h_6 h8 =>
    rcases hNot with e | e
    · exact absurd (congrArg BitVec.toNat e) h8
    · simp [e]
  all_goals omega

theorem acquire_shape (s : State) : ∃ k, s.acquire = { s with clusters := k } := by
  obtain ⟨k, hk⟩ := dropCleans_shape (clusterOf s.cur) (((s.modL1 (coreOf s.cur) (fun _ => [])).clu (clusterOf s.cur)).l2.map (·.1))
    (s.modL1 (coreOf s.cur) (fun _ => []))
  rw [List.foldl_map] at hk
  exact ⟨k, hk⟩

theorem acquire_pc (s : State) : s.acquire.pc = s.pc := by
  obtain ⟨k, hk⟩ := acquire_shape s
  rw [hk]; rfl

/-- The word an ended wait returns: the last completion word, with an acquire. -/
theorem writes_rwaitDone_of_some {w : Word} (h : s.my.last = some w) : Writes s.acquire (.next (s.rwaitDone d)) d w (s.pc + 4) := by
  simp only [State.rwaitDone, h]
  exact acquire_pc s ▸ writes_put s.acquire d w

theorem writes_rwaitDone_of_none (h : s.my.last = none) : Writes s (.next (s.rwaitDone d)) d (refusalWord stBADSTATE) (s.pc + 4) := by
  simp only [State.rwaitDone, h]
  exact writes_put s d _

end wait

theorem wordWritten_iff (s : State) : s.wordWritten = true ↔ s.me.region.running = false ∧ s.me.stores = [] := by
  simp [State.wordWritten, State.my, State.reg, State.me]

/-- RSTAT of a legal selector writes its word. -/
theorem writes_rstat {s : State} {sel : BitVec 6} (h : sel.toNat < 4) {v : Word} (hv : s.rstat s.cur sel.toNat = v) (d : BitVec 5) :
    Writes s (exec (.rstat d sel) s) d v (s.pc + 4) := by
  have hExec : exec (.rstat d sel) s = .next (s.put d (s.rstat s.cur sel.toNat)) := if_neg (Nat.not_le.mpr h)
  exact hExec ▸ hv ▸ writes_put s d _

/-- The word of RSTAT's selector by the claim pending or, where none is, the region's own. -/
theorem rstat_of_region {s : State} (h : s.me.region.st ≠ 0) (k : Nat) : s.rstat s.cur k =
    (let r := s.me.region
     let claim := match s.me.claim with | some k => k.word | none => r.claim
     let bypass := match s.me.claim with | some k => k.bypass | none => 0
     match k with
     | 0 => (imgConfig r.image).setWidth 64 <<< 48 ||| BitVec.ofNat 64 bypass <<< 32 ||| r.flags.setWidth 64 <<< 16 ||| r.st.setWidth 64
     | 1 => r.origin.setWidth 64 <<< 4 ||| (fld claim 0 4 : BitVec 4).setWidth 64
     | 2 => r.ends.setWidth 64 <<< 32 ||| BitVec.ofNat 64 r.left
     | _ => BitVec.ofNat 64 (s.minLive s.cur (fun k => k.tregBanks.live)) <<< 8 ||| BitVec.ofNat 64 (s.minLive s.cur (fun k => k.scrBanks.live))) := by
  unfold State.rstat
  refine (if_neg h).trans ?_
  rw [show s.thr s.cur = s.me from rfl]
  cases s.me.claim <;> rfl

/-- Settles O23: RWAIT is over or waits, by the region's state; RSTAT's words are those of its selector. -/
theorem drainWaitStatWords : Obligations.DrainWaitStatWords := by
  intro s d sel w m r word ends claim bypass stat
  have hEnds {i : Instr} {over_ : Prop} (fin : Region → Bool) (hExec : exec i s = .next (s.rwait d fin)) (hFin : fin s.my = true ↔ over_) :
      ends i over_ := by
    refine ⟨fun h => ?_, fun h => ?_, fun h => ⟨fun hLast => ?_, fun hLast => ?_⟩, fun hLe h => ?_⟩
    · exact hExec ▸ rwait_of_none h ▸ writes_put s d _
    · exact hExec ▸ rwait_of_unloaded h ▸ writes_put s d _
    · rw [hExec, rwait_of_over (h.imp_right (·.imp_right (·.imp_right hFin.mpr)))]
      exact writes_rwaitDone_of_some hLast
    · rw [hExec, rwait_of_over (h.imp_right (·.imp_right (·.imp_right hFin.mpr)))]
      exact writes_rwaitDone_of_none hLast
    · rw [hExec, rwait_of_waiting hLe (h.imp_right fun e => by rwa [← hFin, Bool.not_eq_true] at e)]
      exact becomes_modMe s _
  have hStat {k : Nat} (hk : k < 4) {v : Word} (hv : r.st ≠ 0 → s.rstat s.cur k = v) : stat k v := by
    rintro hSt rfl
    exact writes_rstat hk (hv hSt) d
  refine ⟨fun h => ?_, hEnds _ rfl (wordWritten_iff s), hEnds _ rfl (by simp [r, State.my, State.reg, m, State.me]), hStat (by decide) (rstat_of_region · 0),
    hStat (by decide) (rstat_of_region · 1), hStat (by decide) (rstat_of_region · 2), hStat (by decide) (rstat_of_region · 3), fun h hk => ?_, fun hk => ?_⟩
  · refine ⟨_, onlyMe_modMe s (fun t => { t with region := { t.region with drainAsked := true, st := if t.region.st = 5 then 6 else t.region.st } }), ?_⟩
    have hMem : s.my.st.toNat ∈ [4, 5] := by rcases h with h | h <;> simp [show s.my.st = _ from h]
    have hExec : exec (.rdrain d) s = .next (State.status _ d stOK) := congrArg _ (inStates_of_mem hMem)
    exact hExec ▸ answers_status _ d (by decide) 0
  · exact writes_rstat hk (if_pos h) d
  · have hExec : exec (.rstat d sel) s = .next (s.illegal (.rstat d sel)) := if_pos hk
    exact hExec ▸ traps_trap s _ _

end Sys2Proof.Machine
end

section
/-! PROOFS, O22. The tensor table and the bindings of ports (R115 to R119, R126, R319, R320). -/

namespace Sys2Proof.Machine
open State

/-! ## The tensor table -/

theorem Tab.has_del {α : Type} (t : Tab α) (k : Nat) : Tab.has (Tab.del t k) k = false := by
  simp [Tab.has, Tab.del]

theorem l1Load_me (s : State) (k : BitVec 7) (pa n : Nat) : (s.l1Load k pa n).1.me = s.me := by
  simp only [State.me, State.thr, l1Load_threads, l1Load_cur]

/-- R126: an index of 64 or more is refused first; TDSET reads, TDGET writes and TDCLR empties an entry. -/
theorem tensorWords : Rule.TensorWords := by
  intro s u w d a b key v x k va
  refine ⟨fun hk i hi => ?_, fun hk hAlign hRes hLoad => ?_, fun hk hAlign hRes => ?_, fun hk => ?_⟩
  · simp only [List.mem_cons, List.not_mem_nil, or_false] at hi
    rcases hi with rfl | rfl | rfl <;> exact answers_of_eq (if_pos hk) (by decide)
  · have hMe : w.me = s.me := by rw [show w = (u.l1Load (coreOf s.cur) key 64).1 by rw [hLoad], l1Load_me, resolve_me hRes]
    have hExec : exec (.tdset d a b) s = .next (if dscOk (BitVec.ofNat 512 v) then
        (w.modMe (fun t => { t with tensors := Tab.set t.tensors k (BitVec.ofNat 512 v) })).status d stOK else w.status d stBADARG) :=
      (if_neg (Nat.not_le.mpr hk)).trans (next_congr (memRead_of_ok hAlign hRes hLoad _))
    refine ⟨fun hOk => ?_, fun hBad => answers_of_eq (hExec.trans (next_congr (by rw [hBad]; rfl))) (by decide)⟩
    rw [hOk] at hExec
    refine ⟨_, answers_of_eq hExec (by decide), ?_, fun j => ?_⟩
    · have h := onlyMe_modMe w (fun t => { t with tensors := Tab.set t.tensors k (BitVec.ofNat 512 v) })
      rwa [State.me_modMe, ← hMe]
    · rw [State.me_modMe, hMe]
      exact Tab.get_set_eq ..
  · have hMe : (u.l1Store (coreOf s.cur) key 64 (Tab.get (0 : BitVec 512) s.me.tensors k).toNat (s.me.cred.marks key)).me = s.me :=
      (l1Store_cacheOnly ..).me.trans (resolve_me hRes)
    have hExec : exec (.tdget d a b) s = _ := (if_neg (Nat.not_le.mpr hk)).trans (next_congr (memWrite_of_ok hAlign hRes
      (Tab.get (0 : BitVec 512) s.me.tensors k).toNat (fun w => w.status d (if Tab.has w.me.tensors k then stOK else stUNBOUND))))
    rw [hMe] at hExec
    exact answers_of_eq hExec (by split <;> decide)
  · have hExec : exec (.tdclr d a) s = .next ((s.modMe (fun t => { t with tensors := Tab.del t.tensors k })).status d stOK) :=
      if_neg (Nat.not_le.mpr hk)
    refine ⟨_, answers_of_eq hExec (by decide), ?_, ?_, fun j hj => ?_⟩
    · rw [State.me_modMe]; exact onlyMe_modMe s _
    · rw [State.me_modMe]; exact Tab.has_del ..
    · rw [State.me_modMe]; exact (Tab.get_del ..).trans (if_neg hj)

/-! ## Bindings -/

theorem bound_states {s : State} (h : s.me.region.st = 3 ∨ s.me.region.st = 5 ∨ s.me.region.st = 7) : s.my.st.toNat ∈ [3, 5, 7] := by
  rcases h with h | h | h <;> simp [show s.my.st = _ from h]

/-- A port word that names a port of the image, and a number within its bound. -/
theorem fits_port {w : Word} {ports : List (BitVec 14)} {k bound : Nat} (hZero : (fld w 14 50 : BitVec 50) = 0) (hId : fld w 0 14 ∈ ports)
    (hLt : k < bound) : ¬((fld w 14 50 : BitVec 50) ≠ 0 ∨ (!ports.contains (fld w 0 14)) = true ∨ bound ≤ k) := by
  simp only [not_or, not_not, Nat.not_le, Bool.not_eq_true', Bool.not_eq_false]
  exact ⟨hZero, List.contains_iff_mem.mpr hId, hLt⟩

/-- A binding takes the place of the port's earlier one and changes nothing else. -/
theorem onlyMe_bindPort (s : State) (p : Port) : OnlyMe s (s.bindPort p) { s.me with region := { s.me.region with
    ports := s.me.region.ports.filter (fun q => !(q.id == p.id && q.kind.inward == p.kind.inward)) ++ [p] } } :=
  onlyMe_modMe s (fun t => { t with region := { t.region with ports := t.region.ports.filter (fun q => !q.same p) ++ [p] } })

section tensor
variable {s : State} {a b : BitVec 5} {ports : Nat → List (BitVec 14)} {kind : PortKind} {flag : BitVec 512 → Bool}

/-- What a binding to a tensor asks: no reserved bit, a port of the image, an index of the table, and a descriptor of that direction. -/
def State.tensorFits (s : State) (a b : BitVec 5) (ports : Nat → List (BitVec 14)) (flag : BitVec 512 → Bool) : Prop :=
  (fld (s.rd a) 14 50 : BitVec 50) = 0 ∧ fld (s.rd a) 0 14 ∈ ports s.me.region.image ∧ (s.rd b).toNat < 64
    ∧ (Tab.has s.me.tensors (s.rd b).toNat = true → flag (Tab.get 0 s.me.tensors (s.rd b).toNat) = true)

variable (hSt : s.me.region.st = 3 ∨ s.me.region.st = 5 ∨ s.me.region.st = 7) (d : BitVec 5)
include hSt

theorem bindTensor_of_fits (h : s.tensorFits a b ports flag) : s.bindTensor d a b ports kind flag
    = (s.bindPort { id := fld (s.rd a) 0 14, kind := kind, num := (s.rd b).toNat }).status d stOK := by
  obtain ⟨hZero, hId, hLt, hFlag⟩ := h
  refine (inStates_of_mem (bound_states hSt)).trans ((if_neg (fits_port hZero hId hLt)).trans (if_neg ?_))
  rintro ⟨hHas, hNot⟩
  exact absurd (hFlag hHas) (by simpa using hNot)

theorem bindTensor_of_not_fits (h : ¬s.tensorFits a b ports flag) : s.bindTensor d a b ports kind flag = s.status d stBADARG := by
  refine (inStates_of_mem (bound_states hSt)).trans (ite_eq_left_iff.mpr fun hFirst => ite_eq_left_iff.mpr fun hSecond => (h ?_).elim)
  simp only [not_or, not_not, Nat.not_le, Bool.not_eq_true', Bool.not_eq_false, List.contains_iff_mem] at hFirst
  obtain ⟨hZero, hId, hLt⟩ := hFirst
  exact ⟨hZero, hId, hLt, by simpa using hSecond⟩

end tensor

/-- R115, R118: RFEED and RTAP are one binding, of an ingress or an egress port. -/
theorem tensorBindings : Rule.TensorBindings := by
  intro s d a b r id k dsc binds hSt
  have hBinds {i : Instr} {ports : Nat → List (BitVec 14)} {kind : PortKind} {flag : BitVec 512 → Bool} {bit : Nat}
      (hExec : exec i s = .next (s.bindTensor d a b ports kind flag)) (hFlag : ∀ v, flag v = v.getLsbD bit) : binds i (ports r.image) kind bit := by
    obtain rfl : flag = fun v => v.getLsbD bit := funext hFlag
    refine ⟨fun h => ⟨s.bindPort { id := id, kind := kind, num := k }, ?_, onlyMe_bindPort s _⟩, fun h => ?_⟩
    · exact answers_of_eq (hExec.trans (next_congr (bindTensor_of_fits hSt d h))) (by decide)
    · exact answers_of_eq (hExec.trans (next_congr (bindTensor_of_not_fits hSt d h))) (by decide)
  exact ⟨hBinds rfl fun _ => rfl, hBinds rfl fun _ => rfl⟩

/-! ## Bridges -/

section bridge
variable {s : State} {num : Nat}

/-- A bridge's buffer is not in use: none is allocated, or what consumes from the port has emitted END (R320). -/
def State.bridgeUnused (s : State) (num : Nat) : Prop :=
  (Tab.get {} s.bridges num : Bridge).live = false
    ∨ ∃ n p, (Tab.get {} s.bridges num : Bridge).consumer = some (n, p) ∧ (s.reg n).edgeFreed p = true

theorem bridgeLive_of_unused (h : s.bridgeUnused num) : s.bridgeLive num = false := by
  unfold State.bridgeLive
  rcases h with h | ⟨n, p, hConsumer, hFreed⟩
  · simp [h]
  · simp [hConsumer, hFreed]

/-- The bridge of a number with another end. -/
def State.setBridge (s : State) (num : Nat) (b : Bridge) : State := { s with bridges := Tab.set s.bridges num b }

theorem bindBridge_of_unused (h : s.bridgeUnused num) (d : BitVec 5) (id : BitVec 14) (consume : Bool) :
    s.bindBridge d id num consume = ((s.setBridge num
      (if consume then { (Tab.get {} s.bridges num : Bridge) with consumer := some (s.cur, id), buffer := {} }
       else { (Tab.get {} s.bridges num : Bridge) with producer := some (s.cur, id) })).bindPort
        { id := id, kind := if consume then .bridgeIn else .bridgeOut, num := num }).status d stOK := by
  unfold State.bindBridge
  rw [bridgeLive_of_unused h]
  rfl

/-- The end of a bridge is set, and the port bound to it. -/
theorem setBridge_bindPort (s : State) (num : Nat) (b : Bridge) (p : Port) :
    let w := (s.setBridge num b).bindPort p
    OnlyMe { s with bridges := w.bridges } w { s.me with region := { s.me.region with
        ports := s.me.region.ports.filter (fun q => !(q.id == p.id && q.kind.inward == p.kind.inward)) ++ [p] } }
      ∧ ∀ j, Tab.get {} w.bridges j = if j = num then b else Tab.get {} s.bridges j :=
  ⟨onlyMe_bindPort (s.setBridge num b) p, fun j => Tab.get_set_eq {} s.bridges num b j⟩

end bridge

/-- R119, R319, R320: an ordinary bridge takes the end bound to it; a command port's number binds the port alone. -/
theorem bridgeBindings : Rule.BridgeBindings := by
  intro s d a b r id k br bound unused hSt hZero hLt
  refine ⟨fun hId hPlain hUnused => ?_, fun hId hPlain hUnused => ?_, fun hId hLo hHi hEngine hFed => ?_⟩
  · have hExec : exec (.rfeedBridge d a b) s = .next (s.bindBridge d id k true) := by
      refine next_congr ((inStates_of_mem (bound_states hSt)).trans (if_neg ?_))
      simp only [not_or, not_not, Nat.not_le, Bool.not_eq_true', Bool.not_eq_false]
      exact ⟨hZero, List.contains_iff_mem.mpr hId, hLt, hPlain⟩
    exact ⟨_, answers_of_eq (hExec.trans (next_congr (bindBridge_of_unused hUnused ..))) (by decide), setBridge_bindPort s k _ _⟩
  · have hExec : exec (.rtapBridge d a b) s = .next (s.bindBridge d id k false) :=
      next_congr ((inStates_of_mem (bound_states hSt)).trans ((if_neg (fits_port hZero hId hLt)).trans (if_neg hPlain)))
    exact ⟨_, answers_of_eq (hExec.trans (next_congr (bindBridge_of_unused hUnused ..))) (by decide), setBridge_bindPort s k _ _⟩
  · have hExec : exec (.rtapBridge d a b) s = .next ((s.bindPort { id := id, kind := .command, num := k - 0xFF00 }).status d stOK) := by
      refine next_congr ((inStates_of_mem (bound_states hSt)).trans ((if_neg (fits_port hZero hId hLt)).trans ((if_pos ⟨hLo, hHi⟩).trans (if_neg ?_))))
      simp only [not_or, Bool.not_eq_true', Bool.not_eq_false]
      exact ⟨hEngine, hFed⟩
    exact ⟨s.bindPort { id := id, kind := .command, num := k - 0xFF00 }, answers_of_eq hExec (by decide), onlyMe_bindPort s _⟩

/-- Settles O22: the tensor table's words are a read, a write and a deletion of an entry; a binding replaces the port's own. -/
theorem tensorsAndBindings : Obligations.TensorsAndBindings := ⟨tensorWords, tensorBindings, bridgeBindings⟩

end Sys2Proof.Machine
end

section
/-! PROOFS, O20. Claims and the arbiter (R106 to R108, R124). -/

namespace Sys2Proof.Machine
open State

/-! ## RCLAIM -/

theorem OnlyThread.tick {s t : State} {n : BitVec 9} {m : Thread} (h : OnlyThread s t n m) : t.tick = s.tick :=
  show ({ t with threads := s.threads } : State).tick = s.tick by rw [h.2.2]

section claim
variable {s : State} {w : Word}

/-- Is the word the one already pending? -/
def Thread.claims (t : Thread) (w : Word) : Bool := t.region.st == 1 && t.claim.map (·.word) == some w

theorem claims_iff (t : Thread) (w : Word) : t.claims w = true ↔ t.region.st = 1 ∧ t.claim.map (·.word) = some w := by
  simp [Thread.claims]

/-- A claim enters PENDING, a word equal to the pending one keeping its age. -/
theorem onlyMe_enterClaim (h : s.me.region.st.toNat ≤ 1) (w : Word) :
    OnlyMe { s with claims := if s.me.claims w then s.claims else s.claims + 1 } (s.enterClaim s.cur w)
      { s.me with claim := if s.me.claims w then s.me.claim else some ⟨w, s.claims, 0⟩, region := { s.me.region with st := 1 } } := by
  by_cases hSame : s.me.claims w = true
  · have hSt := ((claims_iff s.me w).mp hSame).1
    have hEq : s.enterClaim s.cur w = s := if_pos ((claims_iff s.me w).mp hSame)
    rw [hEq, if_pos hSame, if_pos hSame, ← hSt]
    exact ⟨rfl, fun _ _ => rfl, rfl⟩
  · have hEq : s.enterClaim s.cur w = ({ s with claims := s.claims + 1 }.modMe (fun t => { t with claim := some ⟨w, s.claims, 0⟩ })).modMe
        (fun t => { t with region := if t.region.st = 0 then { t.region with st := 1 } else t.region }) := if_neg fun e => hSame ((claims_iff s.me w).mpr e)
    have hRegion : (if s.me.region.st = 0 then { s.me.region with st := 1 } else s.me.region) = { s.me.region with st := 1 } := by
      split
      · rfl
      · next hNe =>
        have hOne : s.me.region.st = 1 := by
          apply BitVec.eq_of_toNat_eq
          have : s.me.region.st.toNat ≠ 0 := fun e => hNe (BitVec.eq_of_toNat_eq e)
          change _ = 1
          omega
        rw [← hOne]
    rw [hEq, if_neg hSame, if_neg hSame, ← hRegion]
    exact modMe_modMe { s with claims := s.claims + 1 } _ _

/-- A legal claim of the running thread: the word's checks, and those of its partition (R106, R322). -/
def State.claimLegal (s : State) (w : Word) : Prop :=
  (fld w 14 50 : BitVec 50) = 0 ∧ ¬(w.getLsbD 12 = true ∧ w.getLsbD 13 = true)
    ∧ (s.me.pl = 0 → (fld w 4 4 : BitVec 4).toNat ≤ (s.clu (clusterOf s.cur)).ceil.toNat)
    ∧ ¬((fld s.me.partition 26 6 : BitVec 6) ≠ 0 ∧ s.me.pl.toNat < 2 ∧ s.me.partition.getLsbD (32 + (clusterOf s.cur).toNat) = false)

theorem claimLegal_iff (s : State) (w : Word) : s.claimLegal w
    ↔ claimOk w s.me.pl (s.clu (clusterOf s.cur)).ceil = true ∧ s.me.mayClaim (clusterOf s.cur) = true := by
  have hOk : claimOk w s.me.pl (s.clu (clusterOf s.cur)).ceil = true ↔ (fld w 14 50 : BitVec 50) = 0
      ∧ ¬(w.getLsbD 12 = true ∧ w.getLsbD 13 = true) ∧ (s.me.pl = 0 → claimRank w ≤ (s.clu (clusterOf s.cur)).ceil.toNat) := by
    simp [claimOk, claimInvar, claimCapok, and_assoc, imp_iff_not_or, or_comm]
  have hMay : s.me.mayClaim (clusterOf s.cur) = true ↔ ¬((fld s.me.partition 26 6 : BitVec 6) ≠ 0 ∧ s.me.pl.toNat < 2
      ∧ s.me.partition.getLsbD (32 + (clusterOf s.cur).toNat) = false) := by
    simp [Thread.mayClaim, Capt.checked, Capt.fn, Thread.cred, clIn, BitVec.ult, imp_iff_not_or, or_assoc]
  rw [hOk, hMay, and_assoc, and_assoc]
  exact Iff.rfl

variable {d a : BitVec 5} (n : BitVec 1)

theorem not_claimed_iff (st : BitVec 4) : ¬(st ≠ 0 ∧ st ≠ 1) ↔ st.toNat ≤ 1 := by decide +revert

/-- A legal claim enters, and is answered by what the arbiter made of it. -/
theorem exec_rclaim_of_legal (hSt : s.me.region.st.toNat ≤ 1) (hLegal : s.claimLegal (s.rd a)) {u v : State}
    (hu : s.enterClaim s.cur (s.rd a) = u) (hv : u.arbiter (clusterOf s.cur) = v) : exec (.rclaim d a n) s = .next
      (if Config.admitsAtOnce s.tick = true ∧ v.me.claim = none then v.status d stOK
       else if n = 1 then u.status d stPENDING else u.stay (.claim d)) := by
  obtain ⟨hOk, hMay⟩ := (claimLegal_iff s _).mp hLegal
  have hOnly := onlyMe_enterClaim hSt (s.rd a)
  rw [hu] at hOnly
  have hTick : u.tick = s.tick := (OnlyThread.tick hOnly :)
  have hCur : u.cur = s.cur := (OnlyThread.cur hOnly :)
  rw [← hCur] at hv
  subst hu hv
  rw [← hTick]
  simp only [← Option.isNone_iff_eq_none]
  exact (if_neg ((not_claimed_iff _).mpr hSt)).trans (if_neg (by simp [hOk, hMay]))

theorem exec_rclaim_of_illegal (hSt : s.me.region.st.toNat ≤ 1) (hLegal : ¬s.claimLegal (s.rd a)) :
    exec (.rclaim d a n) s = .next (s.status d stBADARG) := by
  refine (if_neg ((not_claimed_iff _).mpr hSt)).trans (if_pos ?_)
  rw [claimLegal_iff] at hLegal
  simpa [imp_iff_not_or] using hLegal

theorem exec_rclaim_of_placed (hSt : 2 ≤ s.me.region.st.toNat) : exec (.rclaim d a n) s = .next (s.status d stBADSTATE) :=
  if_pos (not_not.mp fun h => absurd ((not_claimed_iff _).mp h) (Nat.not_le.mpr hSt))

end claim

/-- R106, R124: RCLAIM. -/
theorem claimWord : Rule.ClaimWord := by
  intro s d a m r w pl c legal same m'
  refine ⟨fun hSt hLegal => ?_, fun n hSt hLegal => answers_of_eq (exec_rclaim_of_illegal n hSt hLegal) (by decide),
    fun n hSt => answers_of_eq (exec_rclaim_of_placed n hSt) (by decide)⟩
  have hOnly := onlyMe_enterClaim hSt w
  refine ⟨s.enterClaim s.cur w, hOnly, ?_⟩
  intro v admitted
  have hExec (n : BitVec 1) := exec_rclaim_of_legal (d := d) n hSt hLegal rfl (show _ = v from rfl)
  refine ⟨fun h n => answers_of_eq ((hExec n).trans (next_congr (if_pos h))) (by decide), fun h => ⟨?_, ?_⟩⟩
  · exact answers_of_eq ((hExec 1).trans (next_congr (if_neg h))) (by decide)
  · refine ⟨_, (hExec 0).trans (next_congr (if_neg h)), ?_⟩
    have hStay := onlyMe_modMe (s.enterClaim s.cur w) (fun t => { t with wait := .claim d })
    rwa [OnlyMe.me hOnly] at hStay

/-! ## The arbiter -/

theorem Tab.mem_of_mem_set {α : Type} {t : Tab α} {k : Nat} {v : α} {p : Nat × α} (h : p ∈ Tab.set t k v) : p = (k, v) ∨ p ∈ t := by
  induction t with
  | nil => simpa [Tab.set] using h
  | cons q r ih =>
    obtain ⟨j, w⟩ := q
    simp only [Tab.set] at h
    split at h
    · exact (List.mem_cons.mp h)
    · split at h
      · exact (List.mem_cons.mp h).imp_right (List.mem_cons_of_mem _)
      · rcases List.mem_cons.mp h with h | h
        · exact .inr (h ▸ List.mem_cons_self)
        · exact (ih h).imp_right (List.mem_cons_of_mem _)

theorem Tab.mem_set_self {α : Type} (t : Tab α) (k : Nat) (v : α) : (k, v) ∈ Tab.set t k v := by
  induction t with
  | nil => simp [Tab.set]
  | cons q r ih =>
    simp only [Tab.set]
    split
    · exact List.mem_cons_self
    · split
      · exact List.mem_cons_self
      · exact List.mem_cons_of_mem _ ih

/-- An entry goes on standing, but for the key's first one. -/
theorem Tab.mem_set_of_mem {α : Type} (d : α) {t : Tab α} (k : Nat) (v : α) {p : Nat × α} (h : p ∈ t) :
    p ∈ Tab.set t k v ∨ p = (k, Tab.get d t k) := by
  induction t with
  | nil => exact absurd h (List.not_mem_nil)
  | cons q r ih =>
    obtain ⟨j, w⟩ := q
    simp only [Tab.set, Tab.get]
    split
    · exact .inl (List.mem_cons_of_mem _ h)
    · split
      · next hEq =>
        rcases List.mem_cons.mp h with h | h
        · exact .inr (by rw [if_pos hEq.symm, h, hEq])
        · exact .inl (List.mem_cons_of_mem _ h)
      · next hNe =>
        rw [if_neg (Ne.symm hNe)]
        rcases List.mem_cons.mp h with h | h
        · exact .inl (h ▸ List.mem_cons_self)
        · exact (ih h).imp_left (List.mem_cons_of_mem _)

theorem mem_heldPages {s : State} {c : BitVec 5} {x : Nat} :
    x ∈ s.heldPages c ↔ ∃ p ∈ s.threads, clusterOf (BitVec.ofNat 9 p.1) = c ∧ x ∈ p.2.region.pages := by
  simp [State.heldPages, List.mem_flatMap]

/-- A change of a thread that keeps its region changes no page's holder. -/
theorem heldPages_modThr (s : State) (n : BitVec 9) {f : Thread → Thread} (hf : (f (s.thr n)).region = (s.thr n).region) (c : BitVec 5) (x : Nat) :
    x ∈ (s.modThr n f).heldPages c ↔ x ∈ s.heldPages c := by
  simp only [mem_heldPages]
  constructor
  · rintro ⟨p, hp, hc, hx⟩
    rcases Tab.mem_of_mem_set hp with rfl | hp
    · rcases Tab.get_mem ({} : Thread) s.threads n.toNat with hNone | hMem
      · rw [hf, show s.thr n = _ from hNone] at hx
        exact absurd hx (List.not_mem_nil)
      · exact ⟨_, hMem, hc, hf ▸ hx⟩
    · exact ⟨p, hp, hc, hx⟩
  · rintro ⟨p, hp, hc, hx⟩
    rcases Tab.mem_set_of_mem ({} : Thread) n.toNat (f (s.thr n)) hp with hp | rfl
    · exact ⟨p, hp, hc, hx⟩
    · exact ⟨_, Tab.mem_set_self .., hc, hf ▸ hx⟩

theorem eligible_modThr (s : State) (n : BitVec 9) {f : Thread → Thread} (hf : (f (s.thr n)).region = (s.thr n).region) (c : BitVec 5) (w : Word) :
    (s.modThr n f).eligible c w = s.eligible c w := by
  have hHeld : ((fun p => !((s.modThr n f).heldPages c).contains p) : Nat → Bool) = fun p => !(s.heldPages c).contains p := by
    funext p
    rw [Bool.eq_iff_iff]
    simp [heldPages_modThr s n hf]
  simp only [State.eligible, hHeld]
  rfl

/-- One more bypass, at most 255. -/
def bumpClaim (x : Option Claim) : Option Claim := x.map (fun y => { y with bypass := Nat.min 255 (y.bypass + 1) })

/-- Each of these claims counts a bypass. -/
def State.bumped (s : State) (l : List (BitVec 9 × Claim)) : State :=
  l.foldl (fun s p => s.modThr p.1 (fun t => { t with claim := t.claim.map (fun k => { k with bypass := Nat.min 255 (k.bypass + 1) }) })) s

/-- Bypasses change claims alone. -/
theorem bumped_thr (l : List (BitVec 9 × Claim)) (s : State) (q : BitVec 9) :
    (s.bumped l).thr q = { s.thr q with claim := bumpClaim^[(l.filter (fun p => p.1 == q)).length] (s.thr q).claim } := by
  induction l generalizing s with
  | nil => rfl
  | cons p r ih =>
    rw [State.bumped, List.foldl_cons, ← State.bumped, ih]
    by_cases h : q = p.1
    · subst h
      rw [thr_modThr, List.filter_cons_of_pos (by simp), List.length_cons, Function.iterate_succ_apply]
      rfl
    · rw [thr_modThr_ne _ _ h, List.filter_cons_of_neg (by simpa using Ne.symm h)]

theorem bumped_only (l : List (BitVec 9 × Claim)) (s : State) : ∃ k, s.bumped l = { s with threads := k } := by
  induction l generalizing s with
  | nil => exact ⟨_, rfl⟩
  | cons p r ih =>
    obtain ⟨k, hk⟩ := ih (s.modThr p.1 (fun t => { t with claim := bumpClaim t.claim }))
    exact ⟨k, hk⟩

theorem bumped_eligible (l : List (BitVec 9 × Claim)) (s : State) (c : BitVec 5) (w : Word) : (s.bumped l).eligible c w = s.eligible c w := by
  induction l generalizing s with
  | nil => rfl
  | cons p r ih => exact (ih _).trans (eligible_modThr s p.1 rfl c w)

section arbiter
variable {s : State} {c : BitVec 5} {n : BitVec 9} {k : Claim} {o : Nat}

theorem arbiter_of_blocking (hBlock : s.blocking c = some (n, k)) (hFit : s.eligible c k.word = some o) : s.arbiter c = s.letIn n k.word o := by
  simp only [State.arbiter, hBlock, hFit]

theorem arbiter_of_blocked {p : BitVec 9 × Claim} (hBlock : s.blocking c = some p) (hFit : s.eligible c p.2.word = none) : s.arbiter c = s := by
  simp only [State.arbiter, hBlock, hFit]

theorem arbiter_of_free (hBlock : s.blocking c = none) (hFirst : (s.ranked c).find? (fun p => (s.eligible c p.2.word).isSome) = some (n, k))
    (hFit : s.eligible c k.word = some o) : s.arbiter c = (s.bumped ((s.ranked c).takeWhile (fun p => p.1 != n))).letIn n k.word o := by
  simp only [State.arbiter, hBlock, hFirst]
  rw [show (List.foldl _ s _ : State) = s.bumped ((s.ranked c).takeWhile (fun p => p.1 != n)) from rfl, bumped_eligible, hFit]

/-- In a cluster where no region waits for its pages the event is the arbiter's cycle. -/
theorem exec_arbiterCycle
    (h : s.threads.all (fun p => !(clusterOf (BitVec.ofNat 9 p.1) == s.ev.c && p.2.region.st == 8 && !p.2.region.placed)) = true) :
    exec .arbiterCycle s = .next (s.arbiter s.ev.c) := by
  have hNone : s.threads.filterMap (fun p => if clusterOf (BitVec.ofNat 9 p.1) = s.ev.c ∧ p.2.region.st = 8 ∧ !p.2.region.placed
      then some (BitVec.ofNat 9 p.1 : BitVec 9) else none) = [] := by
    rw [List.filterMap_eq_nil_iff]
    intro p hp
    have hNot := List.all_eq_true.mp h p hp
    simp only [ite_eq_right_iff, reduceCtorEq, imp_false]
    rintro ⟨hc, hSt, hPlaced⟩
    simp [hc, hSt, hPlaced] at hNot
  show Host.Outcome.next (List.foldl _ _ (s.threads.filterMap _)) = _
  rw [hNone]
  rfl

/-- A claim let in: its thread goes on where it waits for it, and the cluster's budget bears it. -/
theorem letIn_thr (hSt : (s.thr n).region.st = 1) (w : Word) (o : Nat) : (s.letIn n w o).thr n = { s.thr n with
      claim := none, region := { (s.thr n).region with st := 2, claim := w, origin := BitVec.ofNat 4 o, placed := true }
      g := ((s.letIn n w o).thr n).g
      wait := match (s.thr n).wait with | .claim _ => .none | w => w
      pc := match (s.thr n).wait with | .claim _ => (s.thr n).pc + 4 | _ => (s.thr n).pc } := by
  have hThr : (s.letIn n w o).thr n = _ := thr_modThr (s.modClu (clusterOf n) _) n _
  rw [hThr, show (s.modClu (clusterOf n) _).thr n = s.thr n from rfl]
  generalize hm : s.thr n = m at hSt ⊢
  cases hWait : m.wait with
  | claim d =>
    simp only [hSt]
    rw [Thread.wr_eq]
    rfl
  | _ =>
    simp only [hSt]
    rfl

theorem letIn_thr_ne {q : BitVec 9} (h : q ≠ n) (w : Word) (o : Nat) : (s.letIn n w o).thr q = s.thr q :=
  thr_modThr_ne (s.modClu (clusterOf n) _) _ h

theorem letIn_used (w : Word) (o : Nat) :
    ((s.letIn n w o).clu (clusterOf n)).used = BitVec.ofNat 8 ((s.clu (clusterOf n)).used.toNat + claimUnits w) := by
  have hClu : (s.letIn n w o).clu (clusterOf n)
      = (s.modClu (clusterOf n) (fun c => { c with used := BitVec.ofNat 8 (c.used.toNat + claimUnits w) })).clu (clusterOf n) := rfl
  rw [hClu, clu_modClu]

/-- A thread that waits in RCLAIM is answered OK. -/
theorem letIn_rd {d : BitVec 5} (h : (s.thr n).wait = .claim d) (w : Word) (o : Nat) (r : BitVec 5) :
    ((s.letIn n w o).thr n).rd r = if r = d ∧ r ≠ 0 then 0 else (s.thr n).rd r := by
  have hThr : (s.letIn n w o).thr n = _ := thr_modThr (s.modClu (clusterOf n) _) n _
  rw [hThr, show (s.modClu (clusterOf n) _).thr n = s.thr n from rfl]
  simp only [h]
  exact (Thread.rd_congr rfl r).trans (Thread.rd_wr ..)

theorem letIn_g (h : ∀ d, (s.thr n).wait ≠ .claim d) (w : Word) (o : Nat) : ((s.letIn n w o).thr n).g = (s.thr n).g := by
  have hThr : (s.letIn n w o).thr n = _ := thr_modThr (s.modClu (clusterOf n) _) n _
  rw [hThr, show (s.modClu (clusterOf n) _).thr n = s.thr n from rfl]
  generalize s.thr n = m at h ⊢
  cases hWait : m.wait with
  | claim d => exact absurd hWait (h d)
  | _ =>
    simp only

end arbiter

/-- R107, R108: the claims ranked before the one let in count a bypass each, and then it takes its pages. -/
theorem arbiterAdmission : Rule.ArbiterAdmission := by
  intro s n k o c m hCalm hFit hCluster hClaim hSt bump admits
  have hAdmits {before : List (BitVec 9 × Claim)} (hNot : before.filter (fun p => p.1 == n) = [])
      (hArbiter : s.arbiter c = (s.bumped before).letIn n k.word o) : admits before := by
    have hMe : (s.bumped before).thr n = m := by rw [bumped_thr, hNot]; rfl
    obtain ⟨l, hOnly⟩ := bumped_only before s
    have hClu : (s.bumped before).clu c = s.clu c := by rw [hOnly]; rfl
    have hThr := letIn_thr (s := s.bumped before) (hMe ▸ hSt) k.word o
    have hRd (d : BitVec 5) := letIn_rd (s := s.bumped before) (n := n) (d := d) (w := k.word) (o := o)
    have hG := letIn_g (s := s.bumped before) (n := n) (w := k.word) (o := o)
    rw [hMe] at hThr hG
    simp only [hMe] at hRd
    refine ⟨_, hArbiter ▸ exec_arbiterCycle hCalm, hThr, fun d h => hRd d h, hG, fun q hq => ?_, ?_, ?_⟩
    · rw [letIn_thr_ne hq, bumped_thr]; rfl
    · rw [← hCluster, letIn_used, hCluster, hClu]
    · rw [letIn_mem, hOnly]
  refine ⟨fun hBlock hFirst => hAdmits ?_ (arbiter_of_free hBlock hFirst hFit), fun hBlock => hAdmits rfl (arbiter_of_blocking hBlock hFit),
    fun p hBlock hNone => (exec_arbiterCycle hCalm).trans (next_congr (arbiter_of_blocked hBlock hNone))⟩
  rw [List.filter_eq_nil_iff]
  intro p hp hEq
  have hNe : (p.1 != n) = true := List.mem_takeWhile_imp (p := fun q : BitVec 9 × Claim => q.1 != n) hp
  exact absurd (eq_of_beq hEq) (by simpa using hNe)

/-- Settles O20: RCLAIM by the state, the word and what the arbiter made of the claim; the arbiter's cycle by the claim it lets in. -/
theorem claimsAndArbiter : Obligations.ClaimsAndArbiter := ⟨claimWord, arbiterAdmission⟩

end Sys2Proof.Machine
end

section
/-! PROOFS, O21. Loading an image and starting a period (R113, R114, R119, R120, R122, R169, R309, R326). -/

namespace Sys2Proof.Machine
open State

/-! ## Reading an image -/

theorem readHome_xlOnly (k : Nat) (va : Word) (s : State) : XlOnly s (State.readHome k va s).1 := by
  induction k generalizing va s with
  | zero => exact XlOnly.refl s
  | succ k ih =>
    unfold State.readHome
    have hRes := resolve_xlOnly s s.me.cred .read false va (.thread s.cur)
    generalize s.resolve s.me.cred .read false va (.thread s.cur) = q at hRes ⊢
    obtain ⟨u, ⟨key, x⟩ | c | _⟩ := q
    · have hRead := homeRead_xlOnly u key 64
      dsimp only
      generalize u.homeRead key 64 = p at hRead ⊢
      obtain ⟨w, v, _ | _⟩ := p
      · have hRest := ih (va + 64) w
        dsimp only
        split
        · next t r h => rw [h] at hRest; exact (hRes.trans hRead).trans hRest
        · exact (hRes.trans hRead).trans hRest
      · exact hRes.trans hRead
    · exact hRes
    · exact hRes

theorem readImage_xlOnly (s : State) (va : Word) : XlOnly s (s.readImage va).1 := by
  have hHead := readHome_xlOnly 1 va s
  unfold State.readImage
  generalize s.readHome 1 va = q at hHead ⊢
  obtain ⟨u, h | _ | _⟩ := q
  · dsimp only
    split
    · exact hHead
    · exact hHead.trans (readHome_xlOnly ..)
  · exact hHead
  · exact hHead

theorem xlOnly_of_readImage {s u : State} {va : Word} {r : LinesRead} (h : s.readImage va = (u, r)) : XlOnly s u :=
  XlOnly.of_fst (readImage_xlOnly s va) h

/-! ## The words that load -/

section load
variable {s u : State} {d a : BitVec 5} {states : List Nat} {act : State → Nat → State} {img : Nat} (hSt : s.my.st.toNat ∈ states)
include hSt

theorem rload_of_misaligned (h : (s.rd a).toNat % 64 ≠ 0) : s.rload d a states act = s.trap cALIGN (s.rd a) :=
  (inStates_of_mem hSt).trans (if_pos h)

variable (hAlign : (s.rd a).toNat % 64 = 0)
include hAlign

theorem rload_of_fault {k : BitVec 8} {va : Word} (h : s.readImage (s.rd a) = (u, .fault k va)) : s.rload d a states act = u.trap k va := by
  refine (inStates_of_mem hSt).trans ((if_neg (not_not.mpr hAlign)).trans ?_)
  simp only [h]

variable (hRead : s.readImage (s.rd a) = (u, .ok img))
include hRead

theorem rload_of_bad {c : BitVec 8} {off : Nat} (h : u.loadCheck s.cur img = some (c, off)) : s.rload d a states act = u.status d c.toNat off := by
  refine (inStates_of_mem hSt).trans ((if_neg (not_not.mpr hAlign)).trans ?_)
  simp only [hRead, (xlOnly_of_readImage hRead).cur, h]

variable (hCheck : u.loadCheck s.cur img = none)
include hCheck

theorem rload_of_wload (h : u.wloadRuns s.cur img = true) : s.rload d a states act = u.stay .again := by
  refine (inStates_of_mem hSt).trans ((if_neg (not_not.mpr hAlign)).trans ?_)
  simp only [hRead, (xlOnly_of_readImage hRead).cur, hCheck, h, if_true]

theorem rload_of_good (h : u.wloadRuns s.cur img = false) : s.rload d a states act = (act u img).status d stOK := by
  refine (inStates_of_mem hSt).trans ((if_neg (not_not.mpr hAlign)).trans ?_)
  simp only [hRead, (xlOnly_of_readImage hRead).cur, hCheck, h]
  rfl

end load

/-- A fold keeps what each of its steps keeps. -/
theorem foldl_keeps {σ α β : Type} {f : σ → α → σ} (g : σ → β) (h : ∀ s a, g (f s a) = g s) (l : List α) (s : σ) :
    g (l.foldl f s) = g s := by
  induction l generalizing s with
  | nil => rfl
  | cons a r ih => exact (ih _).trans (h s a)

theorem zeroTiles_only (s : State) (n : BitVec 9) (img : Nat) (scr : Bool) :
    (s.zeroTiles n img scr).threads = s.threads ∧ (s.zeroTiles n img scr).cur = s.cur := by
  unfold State.zeroTiles
  refine ⟨foldl_keeps State.threads ?_ _ _, foldl_keeps State.cur ?_ _ _⟩ <;> exact fun _ _ => rfl

/-- The region with an image in place (R114). -/
def Region.loaded (r : Region) (img : Nat) : Region :=
  { r with
    st := 3, legal := true, image := img, newImage := none, ports := r.ports.filter (portFits r.image img)
    tiles := freshTiles img, flight := [], pos := [], cmds := [], mark := none, drainAsked := false, kept := [], retry := false
    areaOwed := false, unread := [] }

theorem loadImage_only (s : State) (n : BitVec 9) (img : Nat) :
    (s.loadImage n img).threads = (s.modReg n (·.loaded img)).threads ∧ (s.loadImage n img).cur = s.cur :=
  zeroTiles_only (s.modReg n (·.loaded img)) n img true

/-- The running thread's region is replaced; no other thread changes. -/
structure MyRegion (s w : State) (r : Region) : Prop where
  cur : w.cur = s.cur
  me : w.me = { s.me with region := r }
  others : ∀ n, n ≠ s.cur → w.thr n = s.thr n

theorem myRegion_of_modReg {s w : State} {f : Region → Region} (hThreads : w.threads = (s.modReg s.cur f).threads) (hCur : w.cur = s.cur) :
    MyRegion s w (f s.me.region) where
  cur := hCur
  me := by
    have hThr : w.thr s.cur = (s.modReg s.cur f).thr s.cur := by simp only [State.thr, hThreads]
    rw [State.me, hCur, hThr]
    exact thr_modThr ..
  others n h := by
    have hThr : w.thr n = (s.modReg s.cur f).thr n := by simp only [State.thr, hThreads]
    exact hThr.trans (thr_modThr_ne _ _ h)

/-- What came before by a translation has left the running thread as it was. -/
theorem MyRegion.of_xlOnly {s u w : State} {r : Region} (h : XlOnly s u) (k : MyRegion u w r) : MyRegion s w r where
  cur := k.cur.trans h.cur
  me := k.me.trans (by rw [h.me])
  others n hn := (k.others n (h.cur ▸ hn)).trans (h.thr n)

/-- RLOAD, RSWAP or RSWAP.td in a state that allows it. -/
def LoadAllowed (s : State) (d a : BitVec 5) (i : Instr) : Prop :=
  (i = .rload d a ∧ s.me.region.st = 2) ∨ (i = .rswap d a ∧ (s.me.region.st = 3 ∨ s.me.region.st = 7))
    ∨ (i = .rswapTd d a ∧ s.me.region.st = 4 ∧ imgInvar s.me.region.image = false
        ∧ s.me.region.ports.all (fun p => !((p.kind == .ingress || p.kind == .bridgeIn) && p.endSent)) = true)

/-- The three words are one load, into states and with an effect of their own. -/
theorem exec_load {s : State} {d a : BitVec 5} {i : Instr} (h : LoadAllowed s d a i) :
    ∃ states act, s.my.st.toNat ∈ states ∧ exec i s = .next (s.rload d a states act)
      ∧ ((i = .rswapTd d a ∧ act = fun s img => s.modReg s.cur (fun r => { r with newImage := some img }))
        ∨ i ≠ .rswapTd d a ∧ act = fun s img => s.loadImage s.cur img) := by
  have hMem {k : BitVec 4} (h : s.me.region.st = k) {l : List Nat} (hk : k.toNat ∈ l) : s.my.st.toNat ∈ l := (show s.my.st = k from h) ▸ hk
  rcases h with ⟨rfl, h⟩ | ⟨rfl, h⟩ | ⟨rfl, hSt, hInvar, hEnds⟩
  · exact ⟨[2], _, hMem h (by decide), rfl, .inr ⟨by simp, rfl⟩⟩
  · exact ⟨[3, 7], _, h.elim (hMem · (by decide)) (hMem · (by decide)), rfl, .inr ⟨by simp, rfl⟩⟩
  · refine ⟨[4], _, hMem hSt (by decide), ?_, .inl ⟨rfl, rfl⟩⟩
    have hNot : ¬(s.my.st = 4 ∧ imgInvar s.my.image = true) := fun h => by simp [show imgInvar s.my.image = false from hInvar] at h
    have hLate : ¬(s.my.st = 4 ∧ s.my.ports.any (fun p => (p.kind == .ingress || p.kind == .bridgeIn) && p.endSent) = true) := by
      rintro ⟨-, h⟩
      obtain ⟨p, hp, hSent⟩ := List.any_eq_true.mp h
      have := List.all_eq_true.mp hEnds p hp
      simp [hSent] at this
    exact (if_neg hNot).trans (if_neg hLate)

/-- An image that passes the checks is loaded, or kept to follow. -/
theorem exec_load_of_good {s u : State} {d a : BitVec 5} {img : Nat} {i : Instr} (hi : LoadAllowed s d a i) (hAlign : (s.rd a).toNat % 64 = 0)
    (hRead : s.readImage (s.rd a) = (u, .ok img)) (hCheck : u.loadCheck s.cur img = none) (hFree : u.wloadRuns s.cur img = false) :
    ∃ w r, exec i s = .next (w.status d stOK) ∧ w.mem = u.mem ∧ MyRegion s w r
      ∧ (i = .rswapTd d a → r = { s.me.region with newImage := some img }) ∧ (i ≠ .rswapTd d a → r = s.me.region.loaded img) := by
  obtain ⟨states, act, hSt, hExec, hAct⟩ := exec_load hi
  have hXl := xlOnly_of_readImage hRead
  refine ⟨act u img, ?_⟩
  have hNext := hExec.trans (next_congr (rload_of_good hSt hAlign hRead hCheck hFree))
  rcases hAct with ⟨rfl, rfl⟩ | ⟨hNe, rfl⟩
  · have hMine := MyRegion.of_xlOnly hXl (myRegion_of_modReg (s := u) (f := fun r => { r with newImage := some img }) rfl rfl)
    rw [hXl.me] at hMine
    exact ⟨_, hNext, rfl, hMine, fun _ => rfl, fun h => absurd rfl h⟩
  · have hMine := MyRegion.of_xlOnly hXl (myRegion_of_modReg (loadImage_only u u.cur img).1 (loadImage_only u u.cur img).2)
    rw [hXl.me] at hMine
    exact ⟨_, hNext, loadImage_mem .., hMine, fun h => absurd h hNe, fun _ => rfl⟩

/-- R113, R114, R122, R309: RLOAD, RSWAP and RSWAP.td. -/
theorem loadRegionWords : Rule.LoadRegionWords := by
  intro s u d a img r allowed
  refine ⟨fun h i hi => ?_, fun hAlign k va hRead i hi => ?_, fun hAlign hRead => ⟨fun hCheck hFree i hi => ?_, fun hCheck hRuns i hi => ?_,
    fun c off hCheck i hi => ?_⟩⟩
  · obtain ⟨states, act, hSt, hExec, -⟩ := exec_load hi
    exact hExec ▸ rload_of_misaligned hSt h ▸ traps_trap s _ _
  · obtain ⟨states, act, hSt, hExec, -⟩ := exec_load hi
    exact hExec ▸ rload_of_fault hSt hAlign hRead ▸ traps_trap u _ _
  · obtain ⟨w, q, hExec, hMem, hMine, hTd, hLoaded⟩ := exec_load_of_good hi hAlign hRead hCheck hFree
    have hRegion : w.me.region = q := by rw [hMine.me]
    exact ⟨w, answers_of_eq hExec (by decide), hMem, hMine.others, hMine.me.trans (by rw [hRegion]), fun h => hRegion.trans (hTd h),
      fun h => hRegion.trans (hLoaded h)⟩
  · obtain ⟨states, act, hSt, hExec, -⟩ := exec_load hi
    have hMe := (xlOnly_of_readImage hRead).me
    exact hExec ▸ rload_of_wload hSt hAlign hRead hCheck hRuns ▸ hMe ▸ becomes_modMe u _
  · obtain ⟨states, act, hSt, hExec, -⟩ := exec_load hi
    exact answers_of_eq (hExec.trans (next_congr (rload_of_bad hSt hAlign hRead hCheck))) (by omega)

/-! ## The start of a period -/

theorem XlOnly.now {s t : State} (h : XlOnly s t) (n : BitVec 9) : t.now n = s.now n := by
  obtain ⟨_, _, _, _, _, rfl, _⟩ := h; rfl

theorem modRegionQuads_now (s : State) (n m : BitVec 9) (f : Tab Line → Tab Line) : (s.modRegionQuads n f).now m = s.now m := by
  have hLost : ((s.modRegionQuads n f).clu (clusterOf m)).lost4 = (s.clu (clusterOf m)).lost4 := by
    simp only [State.modRegionQuads, modClu_clu]
    split
    · next h => rw [h]
    · rfl
  simp only [State.now, State.cycleOf, hLost]
  rfl

theorem openBridges_only (s : State) (n : BitVec 9) : (s.openBridges n).threads = s.threads ∧ (s.openBridges n).cur = s.cur := by
  unfold State.openBridges
  refine ⟨foldl_keeps State.threads (fun s p => ?_) _ _, foldl_keeps State.cur (fun s p => ?_) _ _⟩ <;> split <;> rfl

/-- A region as its period begins in a thread's context, in cycle `now` of its cluster (R119, R120, R169). -/
def Region.begun (r : Region) (t : Thread) (comp : Word) (capt : Capt) (now : Nat) : Region :=
  { r with
    st := 4, flags := 0, ends := 0, left := imgSinks r.image, comp := comp, running := true, capt := capt
    seed := t.seed, epoch := t.epoch, drainAsked := false, replays := 0, pos := [], shadow := [], newImage := none
    ports := r.ports.map (fun p => p.opened t), start := now + 1, active := now
    origs := (originUses r.image).map (fun k => (k, dscOrigin (Tab.get 0 t.tensors k)))
    tiles := openTiles r.image r.tiles (now + 1) }

theorem myRegion_beginPeriod (s : State) (comp : Word) (capt : Capt) :
    MyRegion s (s.beginPeriod s.cur comp capt) (s.me.region.begun s.me comp capt (s.now s.cur)) := by
  have hBegin : s.beginPeriod s.cur comp capt = ((s.modRegionQuads s.cur (fun _ => [])).modReg s.cur
      (·.begun s.me comp capt ((s.modRegionQuads s.cur (fun _ => [])).now s.cur))).openBridges s.cur := rfl
  rw [modRegionQuads_now] at hBegin
  obtain ⟨hThreads, hCur⟩ := openBridges_only
    ((s.modRegionQuads s.cur (fun _ => [])).modReg s.cur (·.begun s.me comp capt (s.now s.cur))) s.cur
  rw [hBegin]
  exact myRegion_of_modReg (f := (·.begun s.me comp capt (s.now s.cur))) (hThreads.trans rfl) (hCur.trans rfl)

section start
variable {s u : State} {d a : BitVec 5}
  (hSt : s.me.region.st = 3 ∨ s.me.region.st = 7 ∨ s.me.region.st = 5 ∧ imgInvar s.me.region.image = false)
include hSt

theorem start_states : s.my.st.toNat ∈ if imgInvar s.my.image then [3, 7] else [3, 5, 7] := by
  rcases hSt with h | h | ⟨h, hInvar⟩
  · rw [show s.my.st = _ from h]; split <;> decide
  · rw [show s.my.st = _ from h]; split <;> decide
  · rw [show s.my.st = _ from h, show imgInvar s.my.image = _ from hInvar]; decide

theorem exec_rstart_of_misaligned (h : (s.rd a).toNat % 8 ≠ 0) : exec (.rstart d a) s = .next (s.trap cALIGN (s.rd a)) :=
  next_congr ((inStates_of_mem (start_states hSt)).trans (if_pos h))

variable (hAlign : (s.rd a).toNat % 8 = 0) {key : Nat} {x : Xl}
  (hRes : s.resolve s.me.cred .read false (s.rd a) (.thread s.cur) = (u, .ok key x))
include hAlign hRes

theorem exec_rstart_of_unbound (h : bindingCheck s.me s.me.region ≠ 0) :
    exec (.rstart d a) s = .next (u.status d (bindingCheck s.me s.me.region)) := by
  have hMy : u.my = u.me.region := rfl
  refine next_congr ((inStates_of_mem (start_states hSt)).trans ((if_neg (not_not.mpr hAlign)).trans ((withVa_of_ok hRes _).trans ?_)))
  rw [hMy, resolve_me hRes]
  exact if_pos h

theorem exec_rstart_of_bound (h : bindingCheck s.me s.me.region = 0) :
    exec (.rstart d a) s = .next ((u.beginPeriod u.cur (s.rd a) s.me.cred).status d stOK) := by
  have hMy : u.my = u.me.region := rfl
  refine next_congr ((inStates_of_mem (start_states hSt)).trans ((if_neg (not_not.mpr hAlign)).trans ((withVa_of_ok hRes _).trans ?_)))
  rw [hMy, resolve_me hRes]
  exact if_neg (not_not.mpr h)

end start

/-- What the bindings lack is UNBOUND or BADARG. -/
theorem bindingCheck_lt (t : Thread) (r : Region) : bindingCheck t r < 65536 := by
  unfold bindingCheck
  dsimp only
  split
  · decide
  · split <;> decide

/-- R119, R120, R169, R326: RSTART. -/
theorem startWord : Rule.StartWord := by
  intro s u d a key x m va hSt
  refine ⟨fun h => exec_rstart_of_misaligned hSt h ▸ traps_trap s _ _, fun hAlign hRes => ⟨fun hBound => ?_, fun hNot => ?_⟩⟩
  · have hXl : XlOnly s u := XlOnly.of_fst (resolve_xlOnly ..) hRes
    have hMine := MyRegion.of_xlOnly hXl (myRegion_beginPeriod u va m.cred)
    rw [hXl.me, hXl.now, hXl.cur] at hMine
    refine ⟨u.beginPeriod s.cur va m.cred, answers_of_eq (hXl.cur ▸ exec_rstart_of_bound hSt hAlign hRes hBound) (by decide), beginPeriod_mem ..,
      hMine.others, ?_⟩
    rw [hMine.me]
    rfl
  · exact answers_of_eq (exec_rstart_of_unbound hSt hAlign hRes hNot) (bindingCheck_lt ..)

/-- Settles O21: a load is read, checked and put in place; a period begins where the completion address resolves and the ports are bound. -/
theorem loadAndStart : Obligations.LoadAndStart := ⟨loadRegionWords, startWord⟩

end Sys2Proof.Machine
end

section
/-! PROOFS, O24. What fault records and completion words leave of a thread, and that a record is the same whatever its thread's region and the
clusters hold (R120, R346 to R349). -/

namespace Sys2Proof.Machine
open State

/-! ## A thread's region and registers stand -/

/-- From s to t the same thread runs, and thread n keeps its region and its registers. -/
structure Noted (n : BitVec 9) (s t : State) : Prop where
  cur : t.cur = s.cur
  region : (t.thr n).region = (s.thr n).region
  g : (t.thr n).g = (s.thr n).g

theorem Noted.refl (n : BitVec 9) (s : State) : Noted n s s := ⟨rfl, rfl, rfl⟩

theorem Noted.trans {n : BitVec 9} {s t u : State} (h : Noted n s t) (k : Noted n t u) : Noted n s u :=
  ⟨k.cur.trans h.cur, k.region.trans h.region, k.g.trans h.g⟩

theorem noted_of_threads {n : BitVec 9} {s t : State} (hThreads : t.threads = s.threads) (hCur : t.cur = s.cur) : Noted n s t := by
  have hThr : t.thr n = s.thr n := by simp only [State.thr, hThreads]
  exact ⟨hCur, by rw [hThr], by rw [hThr]⟩

theorem noted_modThr (n : BitVec 9) (s : State) {f : Thread → Thread} (hRegion : (f (s.thr n)).region = (s.thr n).region)
    (hG : (f (s.thr n)).g = (s.thr n).g) : Noted n s (s.modThr n f) :=
  ⟨rfl, by rw [thr_modThr, hRegion], by rw [thr_modThr, hG]⟩

theorem Thread.wake_keeps (t : Thread) : t.wake.region = t.region ∧ t.wake.g = t.g := by
  unfold Thread.wake
  split <;> exact ⟨rfl, rfl⟩

theorem noted_event (n : BitVec 9) (s : State) (i : BitVec 4) : Noted n s (s.event n i) := by
  refine noted_modThr n s ?_ ?_ <;> dsimp only <;> split
  · rfl
  · exact (Thread.wake_keeps _).1
  · rfl
  · exact (Thread.wake_keeps _).2

theorem noted_loseRecord (n : BitVec 9) (s : State) (qerr : Bool) : Noted n s (s.loseRecord n qerr) := noted_modThr n s rfl rfl

theorem noted_homeWrite (n : BitVec 9) (s : State) (ms : List (Nat × Nat)) (pa k v : Nat) : Noted n s ((s.markAll pa ms).homeWrite pa k v) := by
  obtain ⟨m, hMark, -⟩ := markAll_mem s pa ms
  rw [hMark]
  exact noted_of_threads rfl rfl

theorem noted_putRecord (n : BitVec 9) (s : State) (r : FaultRec) : Noted n s (s.putRecord n r).1 := by
  unfold State.putRecord
  extract_lets t slot va own cr
  have hRes := resolve_xlOnly s cr .write false va (.record n)
  generalize s.resolve cr .write false va (.record n) = q at hRes ⊢
  obtain ⟨u, ⟨key, x⟩ | c | _⟩ := q
  · have hFirst : Noted n s u := noted_of_threads hRes.threads hRes.cur
    have hWrite : Noted n u ((u.markAll key (cr.marks key)).homeWrite key 32 r.bytes) := noted_homeWrite n u _ _ _ _
    dsimp only
    generalize (u.markAll key (cr.marks key)).homeWrite key 32 r.bytes = w at hWrite ⊢
    have hTail := (hFirst.trans hWrite).trans
      (noted_modThr n w (f := fun t => { t with faultqtail := fld t.faultqtail 32 32 ++ (fld t.faultqtail 0 32 + 1) }) rfl rfl)
    split
    · exact hTail.trans (noted_event n _ 14)
    · exact hTail
  · exact (noted_of_threads hRes.threads hRes.cur).trans (noted_loseRecord n u true)
  · exact noted_of_threads hRes.threads hRes.cur

theorem noted_flushRecords (k : Nat) (n : BitVec 9) (s : State) : Noted n s (State.flushRecords k n s) := by
  induction k generalizing s with
  | zero => exact Noted.refl n s
  | succ k ih =>
    have hNext (t : State) (rest : List FaultRec) (h : Noted n s t) :
        Noted n s (State.flushRecords k n (t.modThr n (fun t => { t with records := rest }))) :=
      (h.trans (noted_modThr n t rfl rfl)).trans (ih _)
    unfold State.flushRecords
    split
    · exact Noted.refl n s
    · next r rest _ =>
      dsimp only
      split
      · split
        · exact Noted.refl n s
        · exact hNext _ _ (noted_loseRecord n s false)
      · have hPut := noted_putRecord n s r
        split
        · next u h => rw [h] at hPut; exact hNext _ _ hPut
        · next u h => rw [h] at hPut; exact hPut

theorem noted_faultRecord (n : BitVec 9) (s : State) (r : FaultRec) : Noted n s (s.faultRecord n r) := by
  unfold State.faultRecord
  extract_lets r' u t wait
  have hFlush : Noted n s u := noted_flushRecords _ n s
  have hWait (w : State) (h : Noted n s w) : Noted n s (wait w) := h.trans (noted_modThr n w rfl rfl)
  split
  · split
    · exact hWait u hFlush
    · exact hFlush.trans (noted_loseRecord n u false)
  · split
    · exact hWait u hFlush
    · have hPut := hFlush.trans (noted_putRecord n u r')
      split
      · next w h => rw [h] at hPut; exact hPut
      · next w h => rw [h] at hPut; exact hWait w hPut

theorem noted_storeWord (n : BitVec 9) (s : State) (w : WordStore) : Noted n s (s.storeWord n w) := by
  unfold State.storeWord
  have hRes := resolve_xlOnly s w.capt .write false w.va (.word n)
  generalize s.resolve w.capt .write false w.va (.word n) = q at hRes ⊢
  have hFirst : Noted n s q.1 := noted_of_threads hRes.threads hRes.cur
  obtain ⟨u, ⟨key, x⟩ | c | _⟩ := q
  · obtain ⟨hThreads, hCur, -⟩ := homeStore_keeps u w.capt key 8 w.val.toNat
    exact (hFirst.trans (noted_of_threads hThreads hCur)).trans (noted_modThr n _ (Thread.wake_keeps _).1 (Thread.wake_keeps _).2)
  · exact hFirst.trans (noted_faultRecord n u _)
  · exact hFirst.trans (noted_modThr n u rfl rfl)

theorem writeBackAll_cacheOnly (s : State) (c : BitVec 5) : CacheOnly s (s.writeBackAll c) := by
  rw [writeBackAll_foldl]
  exact writeBacks_shape c _ s

theorem dropScore_threads (s : State) (p : Score → Bool) : (s.dropScore p).threads = s.threads := rfl

/-- A scoreboard's entries are no other part of its cluster. -/
theorem dropScore_clu (s : State) (p : Score → Bool) (c : BitVec 5) :
    (s.dropScore p).clu c = { s.clu c with score := (s.clu c).score.filter (fun e => !p e) } := by
  simp only [State.clu, State.dropScore]
  induction s.clusters with
  | nil => rfl
  | cons q r ih =>
    simp only [List.map_cons, Tab.get]
    split
    · rfl
    · exact ih

end Sys2Proof.Machine
end

section
/-! PROOFS, O24. Translation reads neither threads nor clusters: over other ones it comes to the same. -/

namespace Sys2Proof.Machine
open State

/-- The machine with other threads and clusters. -/
def State.over (s : State) (th : Tab Thread) (cl : Tab Cluster) : State := { s with threads := th, clusters := cl }

/-- A step over other threads and clusters comes to the same. -/
def overs {α : Type} (th : Tab Thread) (cl : Tab Cluster) (p : State × α) : State × α := (p.1.over th cl, p.2)

section elsewhere
variable (s : State) (th : Tab Thread) (cl : Tab Cluster)

theorem overs_ite {α : Type} (c : Prop) [Decidable c] (p q : State × α) :
    overs th cl (if c then p else q) = if c then overs th cl p else overs th cl q := apply_ite ..

theorem injectHome_over (pa n : Nat) : (s.over th cl).injectHome pa n = (s.injectHome pa n).over th cl := by
  unfold State.injectHome
  rw [show (s.over th cl).module = s.module from rfl]
  dsimp only
  split
  · split
    · rfl
    · split <;> rfl
  · rfl

theorem homeRead_over (pa n : Nat) : (s.over th cl).homeRead pa n = overs th cl (s.homeRead pa n) := by
  simp only [State.homeRead, injectHome_over]
  rfl

theorem touchPte_over (l : Leaf) (k : Access) : (s.over th cl).touchPte l k = (s.touchPte l k).over th cl := rfl

theorem walk_over (cr : Capt) (va : Word) (ls : List (Nat × Nat × Nat)) (a : Nat) (s : State) :
    State.walk cr va ls a (s.over th cl) = overs th cl (State.walk cr va ls a s) := by
  induction ls generalizing a s with
  | nil => rfl
  | cons p r ih =>
    obtain ⟨lvl, lo, n⟩ := p
    simp only [State.walk, homeRead_over]
    generalize s.homeRead (a + 8 * (va.toNat / 2 ^ lo % 2 ^ n)) 8 = q
    obtain ⟨u, v, bad⟩ := q
    simp only [overs_ite, ← ih]
    rfl

theorem walkFromBase_over (cr : Capt) (va : Word) : (s.over th cl).walkFromBase cr va = overs th cl (s.walkFromBase cr va) := walk_over ..

theorem descriptor_over (cr : Capt) (b : Nat) : (s.over th cl).descriptor cr b = overs th cl (s.descriptor cr b) := by
  simp only [State.descriptor, walkFromBase_over]
  generalize s.walkFromBase cr (BitVec.ofNat 64 (b * 64)) = q
  obtain ⟨u, c | l⟩ := q
  · simp only [overs_ite]; rfl
  · simp only [overs, touchPte_over, homeRead_over]
    split
    · rfl
    · split
      · rfl
      · split <;> rfl

theorem bufferTarget_over (cr : Capt) (l : Leaf) (sh : Bool) (va : Word) :
    (s.over th cl).bufferTarget cr l sh va = overs th cl (s.bufferTarget cr l sh va) := by
  simp only [State.bufferTarget, descriptor_over]
  generalize s.descriptor cr (fld l.pte 32 32).toNat = q
  obtain ⟨u, c | d⟩ := q
  · rfl
  · simp only [overs]
    split <;> rfl

theorem cacheXl_over (cr : Capt) (k : Access) (l : Leaf) (x : Xl) (e : TlbEntry) :
    (s.over th cl).cacheXl cr k l x e = overs th cl (s.cacheXl cr k l x e) := by
  unfold State.cacheXl
  split <;> rfl

theorem form_over (cr : Capt) (k : Access) (sh : Bool) (va : Word) (l : Leaf) :
    (s.over th cl).form cr k sh va l = overs th cl (s.form cr k sh va l) := by
  have hEntry (base size : Nat) (t : Target) (d : Option Desc) : (s.over th cl).tlbEntry cr k sh l base size t d = s.tlbEntry cr k sh l base size t d := rfl
  simp only [State.form, bufferTarget_over, cacheXl_over, hEntry]
  split
  · rfl
  · split
    · rfl
    · generalize s.bufferTarget cr l sh va = q
      obtain ⟨u, c | d⟩ := q
      · rfl
      · exact cacheXl_over u th cl ..
    · rfl

theorem translate_over (cr : Capt) (k : Access) (sh : Bool) (va : Word) :
    (s.over th cl).translate cr k sh va = overs th cl (s.translate cr k sh va) := by
  have hTlb : (s.over th cl).tlb = s.tlb := rfl
  have hServes (e : TlbEntry) : e.serves (s.over th cl) cr k sh va.toNat = e.serves s cr k sh va.toNat := rfl
  simp only [State.translate, walkFromBase_over, hTlb, hServes]
  split
  · rfl
  · split
    · rfl
    · generalize s.walkFromBase cr va = q
      obtain ⟨u, c | l⟩ := q
      · rfl
      · exact form_over u th cl ..

theorem resolve_over (cr : Capt) (k : Access) (sh : Bool) (va : Word) (who : Waiter) :
    (s.over th cl).resolve cr k sh va who = overs th cl (s.resolve cr k sh va who) := by
  simp only [State.resolve, translate_over]
  generalize s.translate cr k sh va = q
  obtain ⟨u, c | x⟩ := q
  · rfl
  · simp only [overs]
    split
    · split <;> rfl
    · next fn pasid ha _ =>
      rw [show (u.over th cl).atcGrants fn pasid ha (k == .write) = u.atcGrants fn pasid ha (k == .write) from rfl]
      split
      · rfl
      · unfold State.askAts
        dsimp only
        rw [show (u.over th cl).ats = u.ats from rfl]
        split <;> rfl

end elsewhere

/-! ## A record of two machines that differ in the region -/

/-- Machine t is s but for clusters, and threads of which n differs in its region alone. -/
def Twin (n : BitVec 9) (s t : State) : Prop := ∃ th cl, t = s.over th cl ∧ ∃ r, t.thr n = { s.thr n with region := r }

theorem Twin.mem {n : BitVec 9} {s t : State} (h : Twin n s t) : t.mem = s.mem := by
  obtain ⟨th, cl, rfl, -⟩ := h; rfl

theorem Twin.thr {n : BitVec 9} {s t : State} (h : Twin n s t) : ∃ r, t.thr n = { s.thr n with region := r } := by
  obtain ⟨_, _, -, h⟩ := h; exact h

/-- A change of thread n that does not read its region. -/
theorem twin_modThr {n : BitVec 9} {s t : State} (h : Twin n s t) {f : Thread → Thread}
    (hf : ∀ m r, ∃ q, f { m with region := r } = { f m with region := q }) : Twin n (s.modThr n f) (t.modThr n f) := by
  obtain ⟨th, cl, rfl, r, hThr⟩ := h
  refine ⟨_, _, rfl, ?_⟩
  rw [thr_modThr, thr_modThr, hThr]
  exact hf _ r

/-- A change of the machine that reads neither threads nor clusters. -/
theorem twin_of_over {n : BitVec 9} {s t u : State} (h : Twin n s t) (hu : u.threads = s.threads) {v : State}
    (hv : v = u.over t.threads t.clusters) : Twin n u v := by
  obtain ⟨th, cl, rfl, r, hThr⟩ := h
  refine ⟨_, _, hv, r, ?_⟩
  subst hv
  exact hThr.trans (by simp only [State.thr, hu])

theorem twin_event {n : BitVec 9} {s t : State} (h : Twin n s t) (i : BitVec 4) : Twin n (s.event n i) (t.event n i) := by
  refine twin_modThr h fun m r => ⟨r, ?_⟩
  dsimp only
  split
  · rfl
  · simp only [Thread.wake]; split <;> rfl

theorem twin_loseRecord {n : BitVec 9} {s t : State} (h : Twin n s t) (qerr : Bool) : Twin n (s.loseRecord n qerr) (t.loseRecord n qerr) :=
  twin_modThr h fun _ r => ⟨r, rfl⟩

theorem twin_homeWrite {n : BitVec 9} {s t : State} (h : Twin n s t) (ms : List (Nat × Nat)) (pa k v : Nat) :
    Twin n ((s.markAll pa ms).homeWrite pa k v) ((t.markAll pa ms).homeWrite pa k v) := by
  obtain ⟨th, cl, rfl, -⟩ := id h
  have hMem := markAll_mem_congr (s := s) (t := s.over th cl) rfl pa ms
  refine twin_of_over h ?_ ?_
  · rw [markAll_eq s]; rfl
  · rw [markAll_eq s, markAll_eq (s.over th cl), hMem]; rfl

theorem twin_putRecord {n : BitVec 9} {s t : State} (h : Twin n s t) (r : FaultRec) :
    Twin n (s.putRecord n r).1 (t.putRecord n r).1 ∧ (t.putRecord n r).2 = (s.putRecord n r).2 := by
  obtain ⟨th, cl, rfl, q, hThr⟩ := id h
  simp only [State.putRecord, hThr, resolve_over]
  rw [show ({ s.thr n with region := q } : Thread).cred = (s.thr n).cred from rfl,
    show ({ s.thr n with region := q } : Thread).faultCap = (s.thr n).faultCap from rfl]
  generalize hCred : ({ (s.thr n).cred with pl := 1 } : Capt) = cr
  generalize hVa : (zext (fld (s.thr n).faultqbase 12 40) 64 <<< 12) + BitVec.ofNat 64 (32 * ((fld (s.thr n).faultqtail 0 32).toNat % (s.thr n).faultCap)) = va
  have hRes := resolve_xlOnly s cr .write false va (.record n)
  generalize s.resolve cr .write false va (.record n) = p at hRes ⊢
  have hTwin : Twin n p.1 (p.1.over th cl) := twin_of_over h hRes.threads rfl
  obtain ⟨u, ⟨key, x⟩ | c | _⟩ := p
  · have hTail := twin_modThr (twin_homeWrite hTwin (cr.marks key) key 32 r.bytes)
      (f := fun t => { t with faultqtail := fld t.faultqtail 32 32 ++ (fld t.faultqtail 0 32 + 1) }) fun _ r => ⟨r, rfl⟩
    simp only [overs]
    split
    · exact ⟨twin_event hTail 14, trivial⟩
    · exact ⟨hTail, trivial⟩
  · exact ⟨twin_loseRecord hTwin true, rfl⟩
  · exact ⟨hTwin, rfl⟩

theorem Twin.stuck {n : BitVec 9} {s t : State} (h : Twin n s t) : (t.thr n).faultStuck = (s.thr n).faultStuck := by
  obtain ⟨r, hr⟩ := h.thr
  rw [hr]; rfl

theorem Twin.records {n : BitVec 9} {s t : State} (h : Twin n s t) : (t.thr n).records = (s.thr n).records := by
  obtain ⟨r, hr⟩ := h.thr
  rw [hr]

theorem twin_flushRecords (k : Nat) {n : BitVec 9} {s t : State} (h : Twin n s t) :
    Twin n (State.flushRecords k n s) (State.flushRecords k n t) := by
  induction k generalizing s t with
  | zero => exact h
  | succ k ih =>
    have hNext {u v : State} (rest : List FaultRec) (g : Twin n u v) :
        Twin n (State.flushRecords k n (u.modThr n (fun t => { t with records := rest })))
          (State.flushRecords k n (v.modThr n (fun t => { t with records := rest }))) := ih (twin_modThr g fun _ r => ⟨r, rfl⟩)
    simp only [State.flushRecords, h.records, h.stuck]
    split
    · exact h
    · next r rest _ =>
      split
      · split
        · exact h
        · exact hNext rest (twin_loseRecord h false)
      · obtain ⟨hPut, hDone⟩ := twin_putRecord h r
        generalize s.putRecord n r = p at hPut hDone ⊢
        generalize t.putRecord n r = q at hPut hDone ⊢
        obtain ⟨u, b⟩ := p
        obtain ⟨v, b'⟩ := q
        obtain rfl : b' = b := hDone
        cases b'
        · exact hPut
        · exact hNext rest hPut

/-- A record is the same whatever the thread's region and the clusters hold. -/
theorem twin_faultRecord {n : BitVec 9} {s t : State} (h : Twin n s t) (r : FaultRec) : Twin n (s.faultRecord n r) (t.faultRecord n r) := by
  simp only [State.faultRecord, h.records]
  have hFlush := twin_flushRecords (s.thr n).records.length h
  generalize State.flushRecords (s.thr n).records.length n s = u at hFlush ⊢
  generalize State.flushRecords (s.thr n).records.length n t = v at hFlush ⊢
  simp only [hFlush.records, hFlush.stuck]
  have hWait {u v : State} (g : Twin n u v) :
      Twin n (u.modThr n (fun t => { t with records := t.records ++ [{ r with owner := zext n 16 }] }))
        (v.modThr n (fun t => { t with records := t.records ++ [{ r with owner := zext n 16 }] })) := twin_modThr g fun _ q => ⟨q, rfl⟩
  split
  · split
    · exact hWait hFlush
    · exact twin_loseRecord hFlush false
  · split
    · exact hWait hFlush
    · obtain ⟨hPut, hDone⟩ := twin_putRecord hFlush { r with owner := zext n 16 }
      generalize u.putRecord n { r with owner := zext n 16 } = p at hPut hDone ⊢
      generalize v.putRecord n { r with owner := zext n 16 } = q at hPut hDone ⊢
      obtain ⟨u', b⟩ := p
      obtain ⟨v', b'⟩ := q
      obtain rfl : b' = b := hDone
      cases b'
      · exact hWait hPut
      · exact hPut

end Sys2Proof.Machine
end

section
/-! PROOFS, O24. RFREE and RKILL (R105, R120, R383, R385). -/

namespace Sys2Proof.Machine
open State

/-! ## RFREE -/

theorem exec_rfree_of_idle {s : State} (h : s.me.region.st.toNat ∈ [0, 1, 2, 3, 5, 7, 9]) (d : BitVec 5) :
    exec (.rfree d) s = .next ((s.freeRegion s.cur).status d stOK) := next_congr (if_pos (List.contains_iff_mem.mpr h))

theorem exec_rfree_of_busy {s : State} (h : s.me.region.st.toNat ∈ [4, 6, 8]) (d : BitVec 5) :
    exec (.rfree d) s = .next (s.status d stBADSTATE) := by
  refine next_congr (if_neg ?_)
  rw [show s.my.st = s.me.region.st from rfl]
  simp only [List.mem_cons, List.not_mem_nil, or_false] at h
  rcases h with h | h | h <;> rw [h] <;> decide

/-- A freed region: its thread has none and no claim, and its pages' energy is given back. -/
theorem freeRegion_only (s : State) (n : BitVec 9) : (s.freeRegion n).cur = s.cur
    ∧ (s.freeRegion n).thr n = { s.thr n with claim := none, region := {} } ∧ (∀ m, m ≠ n → (s.freeRegion n).thr m = s.thr m)
    ∧ ((s.freeRegion n).clu (clusterOf n)).used = if 2 ≤ (s.reg n).st.toNat ∧ (s.reg n).placed = true
        then BitVec.ofNat 8 ((s.clu (clusterOf n)).used.toNat - claimUnits (s.reg n).claim) else (s.clu (clusterOf n)).used := by
  have hUsed : ((s.freeRegion n).clu (clusterOf n)).used = _ := congrArg Cluster.used (dropScore_clu ..)
  rw [hUsed]
  have hHolds : (holdsPages (s.reg n).st && (s.reg n).placed) = decide (2 ≤ (s.reg n).st.toNat ∧ (s.reg n).placed = true) := by
    rw [holdsPages, Bool.decide_and, Bool.decide_eq_true]
  unfold State.freeRegion
  simp only [hHolds, decide_eq_true_eq]
  by_cases h : 2 ≤ (s.reg n).st.toNat ∧ (s.reg n).placed = true
  · simp only [if_pos h]
    refine ⟨rfl, thr_modThr .., fun m hm => thr_modThr_ne _ _ hm, ?_⟩
    show ((s.modClu (clusterOf n) (fun c => { c with used := BitVec.ofNat 8 (c.used.toNat - claimUnits (s.reg n).claim) })).clu (clusterOf n)).used = _
    rw [clu_modClu]
  · simp only [if_neg h]
    exact ⟨rfl, thr_modThr .., fun m hm => thr_modThr_ne _ _ hm, rfl⟩

/-! ## RKILL -/

theorem spoilShadows_only (s : State) (ws : List (Nat × Nat × Nat)) : (s.spoilShadows ws).threads = s.threads ∧ (s.spoilShadows ws).cur = s.cur
    ∧ (s.spoilShadows ws).spaces = s.spaces := by
  unfold State.spoilShadows
  refine ⟨foldl_keeps State.threads ?_ _ _, foldl_keeps State.cur ?_ _ _, foldl_keeps State.spaces ?_ _ _⟩ <;> exact fun _ _ => rfl

/-- The region after the first four steps of a kill. -/
def Region.killed (r : Region) : Region := { r with tiles := [], flight := [], cmds := [], shadow := [], unread := [] }

theorem killSteps_only (s : State) (n : BitVec 9) : (s.killSteps n).cur = s.cur ∧ (s.killSteps n).thr n = { s.thr n with region := (s.reg n).killed } := by
  obtain ⟨hThreads, hCur, -⟩ := spoilShadows_only s (s.reg n).shadow
  refine ⟨hCur, ?_⟩
  have hThr : (s.killSteps n).thr n = _ := thr_modThr ..
  rw [hThr]
  simp only [State.thr, dropScore_threads, hThreads, State.dropCommandScore]
  rfl

/-- A killed region keeps the place it stands at and its space. -/
theorem killSteps_names (s : State) (n : BitVec 9) : (s.killSteps n).originCoord n = s.originCoord n
    ∧ (s.killSteps n).spaceField ((s.killSteps n).reg n).capt = s.spaceField (s.reg n).capt := by
  obtain ⟨-, -, hSpaces⟩ := spoilShadows_only s (s.reg n).shadow
  have hReg : (s.killSteps n).reg n = (s.reg n).killed := by rw [State.reg, (killSteps_only s n).2]
  constructor
  · simp only [State.originCoord, hReg]; rfl
  · have hSpace : (s.killSteps n).spaces = s.spaces := hSpaces
    simp only [State.spaceField, State.gen, hReg, hSpace]; rfl

/-- The last step of a region's end. -/
def Region.over (r : Region) : Region := { r.fresh with st := 9, shadow := [], newImage := none, ports := r.ports }

/-- A region ends: with a completion word of its period, else with a record. -/
def State.lastWords (s : State) (n : BitVec 9) (cause : BitVec 8) : State :=
  if (s.reg n).running then s.finishPeriod n (zext cause 16)
  else s.faultRecord n { place := zext (s.originCoord n) 64, cause := if cause = cOVERCAP then cOVERCAP else cKILLED
                         space := s.spaceField (s.reg n).capt }

theorem endRegion_eq (s : State) (n : BitVec 9) (cause : BitVec 8) :
    s.endRegion n cause = ((s.lastWords n cause).dropCommandScore n).modReg n Region.over := rfl

theorem endRegion_only (s : State) (n : BitVec 9) (cause : BitVec 8) : (s.endRegion n cause).cur = (s.lastWords n cause).cur
    ∧ (s.endRegion n cause).thr n = { (s.lastWords n cause).thr n with region := ((s.lastWords n cause).reg n).over } := by
  rw [endRegion_eq]
  exact ⟨rfl, thr_modThr ..⟩

/-- A period's end keeps the region but for its word, and the thread's registers. -/
theorem finishPeriod_only (s : State) (n : BitVec 9) (status : BitVec 16) : (s.finishPeriod n status).cur = s.cur
    ∧ ((s.finishPeriod n status).thr n).g = (s.thr n).g
    ∧ (s.finishPeriod n status).reg n = { s.reg n with running := false, last := some (imgConfig (s.reg n).image ++ status ++ (s.reg n).ends) } := by
  have hBack := writeBackAll_cacheOnly s (clusterOf n)
  have hThr := hBack.thr n
  have hReg : (s.writeBackAll (clusterOf n)).reg n = s.reg n := congrArg Thread.region hThr
  have hCur := hBack.cur
  unfold State.finishPeriod
  extract_lets u r w
  have hStore := noted_storeWord n u { capt := r.capt, va := r.comp, val := w, place := u.originCoord n }
  generalize u.storeWord n { capt := r.capt, va := r.comp, val := w, place := u.originCoord n } = v at hStore
  refine ⟨hStore.cur.trans hCur, ?_, ?_⟩
  · rw [State.modReg, thr_modThr]
    exact hStore.g.trans (congrArg Thread.g hThr)
  · rw [reg_modReg, State.reg, hStore.region]
    show ({ u.reg n with running := false, last := some (imgConfig (u.reg n).image ++ status ++ (u.reg n).ends) } : Region) = _
    rw [hReg]

/-- The last words of a region keep its thread's registers, and the region but for the word of a period in progress. -/
theorem lastWords_only (s : State) (n : BitVec 9) (cause : BitVec 8) : (s.lastWords n cause).cur = s.cur
    ∧ ((s.lastWords n cause).thr n).g = (s.thr n).g
    ∧ (s.lastWords n cause).reg n = if (s.reg n).running = true
        then { s.reg n with running := false, last := some (imgConfig (s.reg n).image ++ zext cause 16 ++ (s.reg n).ends) } else s.reg n := by
  unfold State.lastWords
  split
  · exact finishPeriod_only s n _
  · have h := noted_faultRecord n s { place := zext (s.originCoord n) 64, cause := if cause = cOVERCAP then cOVERCAP else cKILLED
                                      space := s.spaceField (s.reg n).capt }
    exact ⟨h.cur, h.g, h.region⟩

theorem exec_rkill {s : State} (h : s.me.region.st.toNat ∈ [4, 6, 8]) (d : BitVec 5) :
    exec (.rkill d) s = .next (((s.killSteps s.cur).endRegion s.cur cKILLED).status d stOK) := next_congr (inStates_of_mem h)

/-- The record of a kill outside a period is that of the machine with the shadows spoilt (R120, R317). -/
theorem lastWords_of_idle {s : State} {n : BitVec 9} (h : (s.reg n).running = false) :
    Twin n ((s.spoilShadows (s.reg n).shadow).faultRecord n
      { place := (s.originCoord n).setWidth 64, cause := 0x0A, space := s.spaceField (s.reg n).capt })
      ((s.killSteps n).lastWords n cKILLED) := by
  obtain ⟨hPlace, hSpace⟩ := killSteps_names s n
  have hRun : ((s.killSteps n).reg n).running = false := by rw [State.reg, (killSteps_only s n).2]; exact h
  have hTwin : Twin n (s.spoilShadows (s.reg n).shadow) (s.killSteps n) := ⟨_, _, rfl, _, thr_modThr ..⟩
  unfold State.lastWords
  rw [hRun, hPlace, hSpace]
  exact twin_faultRecord hTwin _

/-- R105, R120, R383, R385: RFREE and RKILL. -/
theorem freeKillWords : Rule.FreeKillWords := by
  intro s d m r c
  refine ⟨fun h => ?_, fun h => answers_of_eq (exec_rfree_of_busy h d) (by decide), fun h => ?_⟩
  · obtain ⟨hCur, hThr, hOthers, hUsed⟩ := freeRegion_only s s.cur
    exact ⟨_, answers_of_eq (exec_rfree_of_idle h d) (by decide), by rw [State.me, hCur]; exact hThr, hOthers, freeRegion_mem .., hUsed⟩
  · obtain ⟨hKillCur, hKillThr⟩ := killSteps_only s s.cur
    have hKillReg : (s.killSteps s.cur).reg s.cur = r.killed := congrArg Thread.region hKillThr
    have hRun : ((s.killSteps s.cur).reg s.cur).running = r.running := by rw [hKillReg]; rfl
    obtain ⟨hCur, hG, hReg⟩ := lastWords_only (s.killSteps s.cur) s.cur cKILLED
    obtain ⟨hEndCur, hEndThr⟩ := endRegion_only (s.killSteps s.cur) s.cur cKILLED
    refine ⟨(s.killSteps s.cur).endRegion s.cur cKILLED, answers_of_eq (exec_rkill h d) (by decide), ?_⟩
    rw [State.me, hEndCur, hCur, hKillCur, hEndThr]
    rw [hRun, hKillReg] at hReg
    refine ⟨rfl, rfl, rfl, rfl, ?_, hG.trans (by rw [hKillThr]; rfl), fun hYes => ?_, fun hNo => ?_⟩
    · rw [hReg]; split <;> rfl
    · rw [hReg, if_pos hYes]; exact ⟨rfl, rfl⟩
    · have hTwin := lastWords_of_idle hNo
      obtain ⟨q, hThr⟩ := hTwin.thr
      have hMem : ((s.killSteps s.cur).endRegion s.cur cKILLED).mem = ((s.killSteps s.cur).lastWords s.cur cKILLED).mem := rfl
      have hRec := noted_faultRecord s.cur (s.spoilShadows r.shadow)
        { place := (s.originCoord s.cur).setWidth 64, cause := 0x0A, space := s.spaceField r.capt }
      have hRecCur := hRec.cur.trans (spoilShadows_only s r.shadow).2.1
      refine ⟨?_, ?_, ?_⟩
      · rw [hReg, if_neg (by simp [hNo])]; exact hNo
      · rw [hReg, if_neg (by simp [hNo])]; rfl
      · intro w
        have hMe : w.me = w.thr s.cur := congrArg w.thr hRecCur
        rw [hMe, hThr, hMem]
        exact ⟨hTwin.mem, rfl, rfl, rfl⟩

end Sys2Proof.Machine
end

section
/-! PROOFS, O24. RSWEEP, RPOST, RMARK and RREPLAY (R179, R181, R342, R355, R386). -/

namespace Sys2Proof.Machine
open State

/-- A region that runs or drains. -/
theorem running_states {s : State} (h : s.me.region.st = 4 ∨ s.me.region.st = 6) : s.my.st.toNat ∈ [4, 6] := by
  rcases h with h | h <;> rw [show s.my.st = _ from h] <;> decide

/-! ## RSWEEP -/

section sweeping
variable {s : State} (d : BitVec 5)

theorem exec_rsweep_of_new (hSt : s.me.region.st = 4 ∨ s.me.region.st = 6) (hWait : s.me.wait ≠ .inside) (hNone : s.me.region.sweep = none) :
    exec (.rsweep d) s = .next ((s.sweepStart s.cur true).stay .inside) := by
  refine next_congr ((if_neg hWait).trans ((inStates_of_mem (running_states hSt)).trans ?_))
  rw [show s.my.sweep = none from hNone]

variable {w : Sweep} (hWait : s.me.wait = .inside) (hSome : s.me.region.sweep = some w)
include hWait hSome

theorem exec_rsweep_of_page {p : BitVec 4} {rest : List (BitVec 4)} (hTodo : w.todo = p :: rest) :
    exec (.rsweep d) s = .next ((s.sweepPage s.cur w p rest).stay .inside) := by
  have hMy : s.my.sweep = some w := hSome
  refine next_congr ((if_pos hWait).trans ?_)
  simp only [hMy, State.sweepOn, hTodo]

theorem exec_rsweep_of_records (hAsked : w.asked = true) (hTodo : w.todo = []) :
    exec (.rsweep d) s = .next ((s.sweepRecords s.cur w).1.status d stOK (s.sweepRecords s.cur w).2) := by
  have hMy : s.my.sweep = some w := hSome
  refine next_congr ((if_pos hWait).trans ?_)
  simp only [hMy, State.sweepOn, hTodo, hAsked, if_true]

end sweeping

/-- A sweep that has found nothing reports nothing. -/
theorem sweepRecords_of_none (s : State) {w : Sweep} (hAsked : w.asked = true) (hFound : w.found = []) :
    s.sweepRecords s.cur w = (s.modMe (fun t => { t with region := { t.region with sweep := none } }), 0) := by
  rw [State.sweepRecords, hFound, hAsked]
  rfl

/-! ## RPOST -/

theorem resumeTok_names (a : Word) : (fld (resumeTok a).pay 0 52 : BitVec 52) = fld a 0 52 := by
  refine BitVec.eq_of_toNat_eq ?_
  simp only [resumeTok, bareTok, fld, BitVec.extractLsb'_toNat, BitVec.toNat_ofNat, Nat.shiftRight_zero]
  omega

theorem unpark_of_parked {s : State} {n : BitVec 9} {t : TileNo} {slot : BitVec 3} {q : Park}
    (h : (s.rt n t).parked.find? (fun p => p.slot == slot) = some q) : s.unpark n t slot = some (s.takeResume n t slot (resumeTok q.addr)) := by
  rw [State.unpark, State.parkedAddr, h]
  rfl

/-- A node that resumes at an address is parked there no more. -/
theorem parked_takeResume (s : State) (n : BitVec 9) (t : TileNo) (slot : BitVec 3) (va : Word) :
    ((s.takeResume n t slot (resumeTok va)).rt n t).parked
      = (s.rt n t).parked.filter (fun p => !(p.slot == slot && (fld p.addr 0 52 : BitVec 52) == fld va 0 52)) := by
  have hKind : ((resumeTok va).kind == kRESUME) = true := by
    change ((resumeTok 0).kind == kRESUME) = true
    decide
  have hRt : (s.takeResume n t slot (resumeTok va)).rt n t
      = (s.modRt n t (fun r => { r with parked := r.parked.filter (fun p => !(p.slot == slot && ((resumeTok va).kind == kRESUME
        && fld (resumeTok va).pay 0 52 == fld p.addr 0 52))) })).rt n t := by
    simp only [State.takeResume, rt_modReg]; rfl
  rw [hRt, rt_modRt]
  refine List.filter_congr fun p _ => ?_
  rw [hKind, resumeTok_names, Bool.true_and, Bool.beq_comm (a := fld va 0 52)]

theorem pc_modReg (s : State) (n : BitVec 9) (f : Region → Region) : (s.modReg n f).pc = s.pc := by
  show ((s.modReg n f).thr s.cur).pc = (s.thr s.cur).pc
  by_cases h : s.cur = n
  · subst h; rw [State.modReg, thr_modThr]
  · rw [State.modReg, thr_modThr_ne _ _ h]

theorem takeResume_pc (s : State) (n : BitVec 9) (t : TileNo) (slot : BitVec 3) (tok : Token) : (s.takeResume n t slot tok).pc = s.pc := by
  simp only [State.takeResume, State.modRt, pc_modReg]

theorem exec_rpost_of_parked {s : State} (d a : BitVec 5) {n : BitVec 9} {t : TileNo} {q : Park}
    (hPl : (fld s.me.status 0 2 : BitVec 2) = 2) (hHigh : fld (s.rd a) 32 32 = 0#32) (hBit : (s.rd a).getLsbD 23 = false)
    (hLow : fld (s.rd a) 0 7 = 0#7)
    (hOwner : s.ownerOf (fld (s.rd a) 21 2 ++ fld (s.rd a) 18 3) (fld (s.rd a) 10 4 ++ fld (s.rd a) 14 4) = some (n, t))
    (hSt : (s.reg n).st = 4 ∨ (s.reg n).st = 6) (hParked : (s.rt n t).parked.find? (fun p => p.slot == fld (s.rd a) 7 3) = some q) :
    exec (.rpost d a) s = .next ((s.takeResume n t (fld (s.rd a) 7 3) (resumeTok q.addr)).status d stOK) := by
  have hMyPl : s.me.pl = 2 := hPl
  have hActs : ¬((s.reg n).st ≠ 4 ∧ (s.reg n).st ≠ 6) := by rintro ⟨h, k⟩; exact hSt.elim h k
  refine (if_neg (by rw [hMyPl]; decide)).trans ((if_neg (by rw [hHigh, hBit, hLow]; decide)).trans
    ((if_neg (by rw [hMyPl]; exact fun h => absurd h.1 (by decide))).trans ?_))
  rw [hOwner]
  dsimp only
  rw [if_neg hActs, unpark_of_parked hParked]

/-! ## RMARK -/

section marking
variable {s : State} (d a : BitVec 5)

theorem exec_rmark_of_saved (hWait : s.me.wait = .inside) (hSt : s.me.region.st = 8) (hOwed : s.me.region.areaOwed = false) :
    exec (.rmark d a) s = .next (s.status d stOK ((s.parts s.cur).len % 2 ^ 32)) := by
  have hMy : s.my.st = 8 := hSt
  refine (if_pos hWait).trans (next_congr ?_)
  have hNot : ¬((s.my.st = 4 ∨ s.my.st = 6) ∧ s.my.mark.isNone = true) := by rw [hMy]; exact fun h => absurd h.1 (by decide)
  have hPaid : ¬s.my.areaOwed = true := by rw [show s.my.areaOwed = false from hOwed]; decide
  simp only [State.rmark, if_neg hNot, if_pos hMy, if_neg hPaid]

theorem exec_rmark_of_new (hSt : s.me.region.st = 4 ∨ s.me.region.st = 6) (hWait : s.me.wait ≠ .inside) (hNum : fld (s.rd a) 16 48 = 0#48)
    (hBase : fld s.me.ctxbase 12 40 ≠ 0#40) (hMark : s.me.region.mark = none) (hParked : s.me.region.anyParked = false) :
    exec (.rmark d a) s = .next ((s.modMe (fun t => { t with region := { t.region with
      mark := some { num := fld (s.rd a) 0 16, start := s.now s.cur, why := .rmark } } })).stay .inside) := by
  have hStart : s.startMark s.cur (fld (s.rd a) 0 16) .rmark = s.modMe (fun t => { t with region := { t.region with
      mark := some { num := fld (s.rd a) 0 16, start := s.now s.cur, why := .rmark } } }) :=
    if_neg (by simp [show (s.reg s.cur).anyParked = false from hParked])
  have hBegin : (s.my.st = 4 ∨ s.my.st = 6) ∧ s.my.mark.isNone = true := ⟨hSt, by rw [show s.my.mark = none from hMark]; rfl⟩
  refine (if_neg hWait).trans (next_congr ((inStates_of_mem (running_states hSt)).trans
    ((if_neg (not_or.mpr ⟨not_not.mpr hNum, hBase⟩)).trans ?_)))
  rw [State.rmark, if_pos hBegin, hStart]
  generalize hu : s.modMe _ = u
  have hMy : u.my.st = s.me.region.st := by
    rw [← hu, show (s.modMe _).my = (s.modMe _).me.region from rfl, State.me_modMe]
  simp only [hMy]
  rcases hSt with h | h <;> rw [h] <;> rfl

end marking

/-! ## RREPLAY -/

/-- A region whose period starts again, in a context of `seed` and `epoch` (R386). -/
def Region.again (r : Region) (t : Thread) (now : Nat) : Region :=
  let q := r.fresh
  { q with
    st := 4, flags := 0, ends := 0, left := q.sinks, running := true, seed := t.seed, epoch := t.epoch
    origs := (originUses q.image).map (fun k => (k, dscOrigin (Tab.get 0 t.tensors k)))
    ports := q.ports.map (fun p => { p.rewind with buf := [], freed := false })
    tiles := openTiles q.image q.tiles (now + 1), pos := [], shadow := [], newImage := none
    drainAsked := false, replays := 0, start := now + 1, active := now }

theorem myRegion_replayAgain (s : State) : ∃ now, MyRegion s (s.replayAgain s.cur) (s.me.region.again s.me now) := by
  obtain ⟨hThreads, hCur⟩ := zeroTiles_only s s.cur (s.reg s.cur).image false
  generalize hz : s.zeroTiles s.cur (s.reg s.cur).image false = z at hThreads hCur
  have hAgain : s.replayAgain s.cur = (z.modThr s.cur (fun t => { t with region := t.region.again t (z.now s.cur) })).openBridges s.cur := by
    rw [← hz]; rfl
  obtain ⟨hOpen, hOpenCur⟩ := openBridges_only (z.modThr s.cur (fun t => { t with region := t.region.again t (z.now s.cur) })) s.cur
  rw [hAgain]
  have hThr (n : BitVec 9) : z.thr n = s.thr n := by simp only [State.thr, hThreads]
  refine ⟨z.now s.cur, hOpenCur.trans hCur, ?_, fun n hn => ?_⟩
  · rw [State.me, hOpenCur.trans hCur, State.thr, hOpen]
    exact (thr_modThr ..).trans (by rw [hThr]; rfl)
  · rw [State.thr, hOpen]
    exact (thr_modThr_ne _ _ hn).trans (hThr n)

theorem exec_rreplay_of_good {s : State} (d : BitVec 5) (hSt : s.me.region.st = 9)
    (hPorts : s.me.region.ports.any (fun p => p.kind == .bridgeIn) = false) (hPlaced : s.me.region.placed = true)
    (hCheck : s.loadCheck s.cur s.me.region.image = none) (hFree : s.wloadRuns s.cur s.me.region.image = false) :
    exec (.rreplay d) s = .next ((s.replayAgain s.cur).status d stOK) := by
  have hMy : s.my = s.me.region := rfl
  refine next_congr ((inStates_of_mem (by rw [hMy, hSt]; decide)).trans ?_)
  simp only [hMy, hPorts, hPlaced, hCheck, hFree]
  rfl

/-- R179, R181, R342, R355, R386: RSWEEP, RPOST, RMARK and RREPLAY. -/
theorem sweepPostMarkReplay : Rule.SweepPostMarkReplay := by
  intro s d a n t m r v blocked
  refine ⟨fun hSt hWait hNone => ?_, fun w p rest hWait hSome hTodo => ?_, fun w u k hWait hSome hAsked hTodo hRec => ?_,
    fun w hWait hSome hAsked hTodo hFound => ?_, fun hPl => ?_, fun hPl hHigh hBit hLow hOwner hSt q hParked => ?_, fun hWait hSt hOwed => ?_,
    fun hSt hWait hNum hBase hMark hParked => ?_, fun hSt hPorts hPlaced hCheck hFree => ?_⟩
  · rw [exec_rsweep_of_new d hSt hWait hNone]
    exact becomes_modMe_modMe ..
  · have hFound : (blocked p).map (fun x => ((x.1.1, x.1.2), x.2)) = blocked p := List.map_id _
    have hPage : s.sweepPage s.cur w p rest = s.modMe (fun t => { t with region := { t.region with
        sweep := some { w with todo := rest, found := w.found ++ blocked p } } }) := hFound ▸ rfl
    rw [exec_rsweep_of_page d hWait hSome hTodo, hPage]
    refine ⟨_, rfl, ?_⟩
    have hOnly := s.modMe_modMe (fun t => { t with region := { t.region with
        sweep := some { w with todo := rest, found := w.found ++ blocked p } } }) (fun t => { t with wait := .inside })
    exact ⟨hOnly.1.trans (by rw [← hWait]), hOnly.2⟩
  · have h := exec_rsweep_of_records d hWait hSome hAsked hTodo
    rw [hRec] at h
    exact answers_of_eq h (by decide)
  · have h := exec_rsweep_of_records d hWait hSome hAsked hTodo
    rw [sweepRecords_of_none s hAsked hFound] at h
    exact ⟨_, answers_of_eq h (by decide), onlyMe_modMe ..⟩
  · have hUser : s.me.pl = 0 := hPl
    rw [show exec (.rpost d a) s = .next (s.trap cPRIV 0) from if_pos hUser]
    exact traps_trap ..
  · exact ⟨_, answers_of_eq (exec_rpost_of_parked d a hPl hHigh hBit hLow hOwner hSt hParked) (by decide), parked_takeResume .., takeResume_mem ..,
      takeResume_pc ..⟩
  · exact answers_of_eq (exec_rmark_of_saved d a hWait hSt hOwed) (by decide)
  · rw [exec_rmark_of_new d a hSt hWait hNum hBase hMark hParked]
    exact becomes_modMe_modMe ..
  · obtain ⟨now, hMine⟩ := myRegion_replayAgain s
    refine ⟨_, answers_of_eq (exec_rreplay_of_good d hSt hPorts hPlaced hCheck hFree) (by decide), ?_⟩
    rw [hMine.me]
    exact ⟨rfl, rfl, rfl, rfl, rfl, rfl, rfl, rfl, replayAgain_mem .., rfl⟩

/-- Settles O24: a busy region is not freed and an idle one is; a kill takes its period's word or leaves a record; a sweep, a post, a mark and
a replay each come to one step of the region. -/
theorem endingAndMarkingWords : Obligations.EndingAndMarkingWords := ⟨freeKillWords, sweepPostMarkReplay⟩

end Sys2Proof.Machine
end

section
/-! PROOFS, O45. What an ingress port does (R118, R121, R122, R170, R355, R359, R384). -/

namespace Sys2Proof.Machine
open State

/-! ## What a port that acts comes to -/

section ingress
variable {s : State} {p : Port} (hPort : (s.reg s.ev.n).ports[s.ev.k]? = some p)
include hPort

theorem exec_ingressAdmit_of_idle (h : p.kind.inward = false ∨ actsIn (s.reg s.ev.n).st = false) : exec .ingressAdmit s = .next s := by
  have hKind : (p.kind == .ingress || p.kind == .bridgeIn) = p.kind.inward := by cases p.kind <;> rfl
  have hIdle : (!p.kind.inward || !actsIn (s.reg s.ev.n).st) = true := by
    rcases h with h | h <;> rw [h]
    · rfl
    · exact Bool.or_true _
  show execIngressAdmit s = _
  simp only [execIngressAdmit, hPort, hKind, hIdle, if_true]

variable (hIn : p.kind.inward = true) (hActs : actsIn (s.reg s.ev.n).st = true)
include hIn hActs

theorem exec_ingressAdmit_of_mark {m : Passage} (hMark : (s.reg s.ev.n).mark = some m) :
    exec .ingressAdmit s = .next (if p.markSent then s
      else if s.midRecord s.ev.n p then s.admitNext s.ev.n p
      else (s.modPort s.ev.n p (fun q => { q with markSent := true })).portEmit s.ev.n p.id (markTok m.num) p.next) := by
  have hKind : (p.kind == .ingress || p.kind == .bridgeIn) = p.kind.inward := by cases p.kind <;> rfl
  show execIngressAdmit s = _
  simp only [execIngressAdmit, hPort, hKind, hIn, hActs, hMark]
  exact if_neg (by decide)

theorem exec_ingressAdmit_of_unmarked (hMark : (s.reg s.ev.n).mark = none) :
    exec .ingressAdmit s = if (s.reg s.ev.n).anyParked then .next s
      else if p.endSent then
        .next (if (s.reg s.ev.n).drainAsked ∧ !p.drainSent then
            (s.modPort s.ev.n p (fun q => { q with drainSent := true })).portEmit s.ev.n p.id (drainTok (imgConfig (s.reg s.ev.n).image)) p.next
          else s)
      else if (s.reg s.ev.n).st = 5 ∧ (s.reg s.ev.n).newImage.isNone then .next s
      else .next (if (s.reg s.ev.n).credit p then s.admitNext s.ev.n p else s) := by
  have hKind : (p.kind == .ingress || p.kind == .bridgeIn) = p.kind.inward := by cases p.kind <;> rfl
  show execIngressAdmit s = _
  simp only [execIngressAdmit, hPort, hKind, hIn, hActs, hMark]
  exact if_neg (by decide)

end ingress

/-! ## What a port admits next -/

section next
variable {s : State} {n : BitVec 9} {p : Port}

theorem admitNext_of_kept {x : Token} (h : p.buf[p.taken]? = some x) : s.admitNext n p = s.admitTok n p (portType (s.reg n).image p.id) x := by
  simp only [State.admitNext, h]

theorem admitNext_of_end (h : p.buf[p.taken]? = none) (hKind : p.kind = .ingress) (hNext : dscTokens p.snap ≤ p.next) :
    s.admitNext n p = s.portEnd n p := by
  simp only [State.admitNext, h, hKind, hNext, if_true]
  exact if_neg (by decide)

theorem admitNext_of_bridge (h : p.buf[p.taken]? = none) (hKind : p.kind = .bridgeIn) :
    s.admitNext n p = if p.endKept then s.portEnd n p else s.bridgeAdmit n p := by
  simp only [State.admitNext, h, hKind, if_true]

section reading
variable {u : State} (h : p.buf[p.taken]? = none) (hKind : p.kind = .ingress) (hNext : p.next < dscTokens p.snap)
include h hKind hNext

theorem admitNext_of_read {t : Token} (hRead : s.readToken n p p.next = (u, .ok t)) : s.admitNext n p = u.admitTok n p (dscType p.snap) t := by
  simp only [State.admitNext, h, hKind, Nat.not_le.mpr hNext, hRead, if_false]
  exact if_neg (by decide)

theorem admitNext_of_wait (hRead : s.readToken n p p.next = (u, .wait)) : s.admitNext n p = u := by
  simp only [State.admitNext, h, hKind, Nat.not_le.mpr hNext, hRead, if_false]
  exact if_neg (by decide)

theorem admitNext_of_bad {c : BitVec 8} {a : Word} {w x : Bool} (hRead : s.readToken n p p.next = (u, .bad c a w x)) :
    s.admitNext n p = u.portBad n p.id c a w := by
  simp only [State.admitNext, h, hKind, Nat.not_le.mpr hNext, hRead, if_false]
  exact if_neg (by decide)

end reading

theorem bridgeAdmit_of_empty (h : (Tab.get ({} : Bridge) s.bridges p.num).buffer.head (s.now n) = none) : s.bridgeAdmit n p = s := by
  simp only [State.bridgeAdmit, h]

theorem bridgeAdmit_of_head {x : Token} {i : Nat} (h : (Tab.get ({} : Bridge) s.bridges p.num).buffer.head (s.now n) = some (x, i)) :
    ∃ w c, w = { s with bridges := Tab.set s.bridges p.num c }
      ∧ s.bridgeAdmit n p = if x.kind = kEND then w.portEnd n p else w.admitTok n p (portType (s.reg n).image p.id) x := by
  let b : Bridge := Tab.get {} s.bridges p.num
  let q := (portQueues (s.reg n).image p.id).head?.getD (0, 0)
  refine ⟨_, { b with buffer := b.buffer.pop (bridgeRecord (queueRec (s.reg n).image q.1 q.2)) }, rfl, ?_⟩
  simp only [State.bridgeAdmit, h]
  rfl

/-- A port inside an sd record stays inside it behind a token that goes on with the record. -/
theorem midRecord_of_kept {x : Token} (hMid : p.mid = true) (h : p.buf[p.taken]? = some x) :
    s.midRecord n p = true ↔ x.kind = kDATA ∧ x.first = false := by
  simp [State.midRecord, h, hMid]

theorem midRecord_of_bridge (hMid : p.mid = true) (h : p.buf[p.taken]? = none) (hKind : p.kind = .bridgeIn) (hEnd : p.endKept = false) :
    s.midRecord n p = true ↔ ∀ x i, (Tab.get ({} : Bridge) s.bridges p.num).buffer.head (s.now n) = some (x, i) → x.kind = kDATA ∧ x.first = false := by
  simp only [State.midRecord, h, hMid, hEnd, hKind]
  rcases (Tab.get ({} : Bridge) s.bridges p.num).buffer.head (s.now n) with _ | ⟨x, i⟩
  · simp
  · simp

end next

/-- R118, R121, R122, R170, R355, R359, R384: what an ingress port does. -/
theorem ingressAdmits : Rule.IngressAdmits := by
  intro s u p t n r v sends stays hPort
  refine ⟨exec_ingressAdmit_of_idle hPort, fun hIn hActs => ⟨fun m hMark => ?_, fun hMark hParked => ?_, fun hMark hParked hEnd => ?_,
    fun hMark hParked hEnd hStop => ?_, fun hMark hParked hEnd hOpen hCredit => ?_⟩⟩
  · have hExec := exec_ingressAdmit_of_mark hPort hIn hActs hMark
    have hMarks (hSent : p.markSent = false) (hMid : s.midRecord n p = false) :
        sends (s.modPort n p (fun q => { q with markSent := true })) (markTok m.num) p.next := by
      rw [hSent, hMid] at hExec; exact hExec
    have hAdmits (hSent : p.markSent = false) (hMid : s.midRecord n p = true) : exec .ingressAdmit s = .next (s.admitNext n p) := by
      rw [hSent, hMid] at hExec; exact hExec
    refine ⟨fun hSent => by rw [hSent] at hExec; exact hExec, fun hSent hOut => hMarks hSent (by rw [State.midRecord, hOut]; rfl),
      fun hSent hMid x hx => ⟨fun hGoes => ?_, fun hNew => hMarks hSent ?_⟩, fun hSent hMid hNone hKind hKept => ?_⟩
    · rw [hAdmits hSent ((midRecord_of_kept hMid hx).mpr hGoes), admitNext_of_kept hx]
    · exact Bool.eq_false_iff.mpr (hNew ∘ (midRecord_of_kept hMid hx).mp)
    · have hBridge := midRecord_of_bridge (s := s) (n := n) hMid hNone hKind hKept
      have hNext : s.admitNext n p = s.bridgeAdmit n p := by rw [admitNext_of_bridge hNone hKind, hKept]; rfl
      refine ⟨fun hEmpty => ?_, fun x i hHead => ⟨fun hGoes => ?_, fun hNew => hMarks hSent ?_⟩⟩
      · exact (hAdmits hSent (hBridge.mpr (by simp [hEmpty]))).trans (next_congr (hNext.trans (bridgeAdmit_of_empty hEmpty)))
      · obtain ⟨w, c, hw, hAdmit⟩ := bridgeAdmit_of_head hHead
        refine ⟨w, c, hw, ?_⟩
        rw [hAdmits hSent (hBridge.mpr (by rintro y j hy; rw [hHead] at hy; cases hy; exact hGoes)), hNext, hAdmit, if_neg (by rw [hGoes.1]; decide)]
      · exact Bool.eq_false_iff.mpr fun h => hNew (hBridge.mp h x i hHead)
  all_goals have hExec := exec_ingressAdmit_of_unmarked hPort hIn hActs hMark
  · exact hExec.trans (if_pos hParked)
  · replace hExec := hExec.trans ((if_neg (Bool.eq_false_iff.mp hParked)).trans (if_pos hEnd))
    have hAsks : (r.drainAsked = true ∧ (!p.drainSent) = true) ↔ r.drainAsked = true ∧ p.drainSent = false := by rw [Bool.not_eq_true']
    exact ⟨fun h => hExec.trans (next_congr (if_pos (hAsks.mpr h))), fun h => hExec.trans (next_congr (if_neg (h ∘ hAsks.mp)))⟩
  · replace hExec := hExec.trans ((if_neg (Bool.eq_false_iff.mp hParked)).trans (if_neg (Bool.eq_false_iff.mp hEnd)))
    rcases hStop with ⟨hDone, hNone⟩ | hNoCredit
    · exact hExec.trans (if_pos ⟨hDone, by rw [hNone]; rfl⟩)
    · refine hExec.trans ((congrArg _ (next_congr (if_neg (Bool.eq_false_iff.mp hNoCredit)))).trans (ite_self _))
  · replace hExec := hExec.trans ((if_neg (Bool.eq_false_iff.mp hParked)).trans ((if_neg (Bool.eq_false_iff.mp hEnd)).trans
      ((if_neg (by rw [Option.isNone_iff_eq_none]; exact hOpen)).trans (next_congr (if_pos hCredit)))))
    refine ⟨fun x hx => by rw [hExec, admitNext_of_kept hx], fun hNone hKind hNext => hExec.trans (next_congr (admitNext_of_end hNone hKind hNext)),
      fun hNone hKind hNext => ⟨fun hRead => by rw [hExec, admitNext_of_read hNone hKind hNext hRead],
        fun hRead => by rw [hExec, admitNext_of_wait hNone hKind hNext hRead],
        fun c a w x hRead => by rw [hExec, admitNext_of_bad hNone hKind hNext hRead]⟩,
      fun hNone hKind hKept => hExec.trans (next_congr ?_), fun hNone hKind hKept => ?_⟩
    · rw [admitNext_of_bridge hNone hKind, if_pos hKept]; rfl
    · rw [admitNext_of_bridge hNone hKind, if_neg (by simp [hKept])] at hExec
      refine ⟨fun hEmpty => hExec.trans (next_congr (bridgeAdmit_of_empty hEmpty)), fun x i hHead => ?_⟩
      obtain ⟨w, c, hw, hAdmit⟩ := bridgeAdmit_of_head (n := n) hHead
      exact ⟨w, c, hw, hExec.trans (next_congr hAdmit)⟩

end Sys2Proof.Machine
end

section
/-! PROOFS, O45. What an egress port bound to a tensor does (R118, R120, R319, R372). -/

namespace Sys2Proof.Machine
open State

/-! ## The event in hand stands -/

theorem XlOnly.ev {s t : State} (h : XlOnly s t) : t.ev = s.ev := by
  obtain ⟨_, _, _, _, _, rfl, _⟩ := h; rfl

theorem CacheOnly.ev {s t : State} (h : CacheOnly s t) : t.ev = s.ev := by
  obtain ⟨_, _, _, rfl, _⟩ := h; rfl

theorem byteKeys_xlOnly (cr : Capt) (k : Access) (sh : Bool) (who : Waiter) (m : Nat) (va : Word) (s : State) :
    XlOnly s (State.byteKeys cr k sh who m va s).1 := by
  induction m generalizing va s with
  | zero => exact XlOnly.refl s
  | succ m ih =>
    unfold State.byteKeys
    have hRes := resolve_xlOnly s cr k sh va who
    generalize s.resolve cr k sh va who = q at hRes ⊢
    obtain ⟨u, ⟨key, x⟩ | c | _⟩ := q
    · have hRest := ih (va + 1) u
      dsimp only
      split
      · next h => rw [h] at hRest; exact hRes.trans hRest
      · exact hRes.trans hRest
    · exact hRes
    · exact hRes

theorem elemKeys_xlOnly (cr : Capt) (k : Access) (sh : Bool) (who : Waiter) (v : BitVec 512) (l : List Nat) (s : State) :
    XlOnly s (State.elemKeys cr k sh who v l s).1 := by
  induction l generalizing s with
  | nil => exact XlOnly.refl s
  | cons p rest ih =>
    unfold State.elemKeys
    have hBytes := byteKeys_xlOnly cr k sh who (dscBytes v) (dscAddr v p) s
    generalize State.byteKeys cr k sh who (dscBytes v) (dscAddr v p) s = q at hBytes ⊢
    obtain ⟨u, l | _ | ⟨c, a, w, x⟩⟩ := q
    · have hRest := ih u
      dsimp only
      split
      · next h => rw [h] at hRest; exact hBytes.trans hRest
      · exact hBytes.trans hRest
    · exact hBytes
    · exact hBytes

theorem shadowKeys_xlOnly (s : State) (cr : Capt) (v : BitVec 512) (ks : List (List (Nat × Option Nat))) :
    XlOnly s (s.shadowKeys cr v ks).1 := by
  unfold State.shadowKeys
  split
  · exact XlOnly.refl s
  · have hDesc := descriptor_xlOnly s cr (dscBufid v)
    split
    · next h => rw [h] at hDesc; exact hDesc
    · next h => rw [h] at hDesc; exact hDesc

theorem l2Get_ev (s : State) (c : BitVec 5) (line : Nat) : (s.l2Get c line).1.ev = s.ev := by
  obtain ⟨_, _, _, h⟩ := l2Get_eq s c line
  rw [h]

theorem keyOld_ev (s : State) (c : BitVec 5) (bs : List (Nat × Nat)) (key : Nat) : (s.keyOld c bs key).1.ev = s.ev := by
  unfold State.keyOld
  split
  · rfl
  · exact l2Get_ev s c (key / 64)

theorem keyWrite_ev (s : State) (c : BitVec 5) (cr : Capt) (bs : List (Nat × Nat)) : (s.keyWrite c cr bs).ev = s.ev := by
  unfold State.keyWrite
  exact foldl_keeps State.ev (fun s line => (l2Store_cacheOnly s ..).ev) _ _

theorem noteShadow_ev (s : State) (n : BitVec 9) (v : BitVec 512) (ks : List (List (Nat × Option Nat))) : (s.noteShadow n v ks).ev = s.ev := by
  unfold State.noteShadow
  split <;> rfl

/-! ## What the token comes to -/

/-- The k-th flight of thread n's region has arrived. -/
def State.took (s : State) (n : BitVec 9) (k : Nat) : State :=
  s.modReg n (fun r => { r with flight := r.flight.eraseIdx k, active := s.now n })

section egress
variable {s : State} {f : Flight} {p : Port}

/-- A due token at an egress port bound to a tensor. -/
theorem exec_egressToken (hActs : actsIn (s.reg s.ev.n).st = true) (hDue : flightDue (s.now s.ev.n) (s.reg s.ev.n).flight s.ev.k = some f)
    (hDest : f.dest = .port p.id) (hPort : (s.reg s.ev.n).ports.find? (fun q => q.id == p.id && !q.kind.inward) = some p) (hKind : p.kind = .egress) :
    exec .egressToken s = if f.tok.kind = kDATA then .next (s.egressData s.ev.n p f.tok (fun x => x.took s.ev.n x.ev.k))
      else if f.tok.kind = kPOISON then .next (s.egressPoison s.ev.n p (fun x => x.took s.ev.n x.ev.k))
      else .next (((s.took s.ev.n s.ev.k).egressControl s.ev.n p f.tok).getD (s.portFault s.ev.n p.id cIMAGE 0)) := by
  obtain ⟨dest, tok, idx, due⟩ := f
  obtain rfl : dest = .port p.id := hDest
  show execEgressToken s = _
  simp only [execEgressToken, hActs, hDue, hPort, hKind]
  refine (if_neg (by decide)).trans (congrArg _ (congrArg _ ?_))
  show (match (s.took s.ev.n s.ev.k).egressControl s.ev.n p tok with | some s => _ | none => _) = _
  cases (s.took s.ev.n s.ev.k).egressControl s.ev.n p tok <;> rfl

theorem egressControl_of_gap {t : Token} {n : BitVec 9} (h : t.kind = kGAP) :
    s.egressControl n p t = some (s.modPort n p (fun q => { q with next := q.next + t.gapCount })) := if_pos h

theorem egressControl_of_end {t : Token} {n : BitVec 9} (h : t.kind = kEND) :
    s.egressControl n p t = some ((s.modPort n p (fun q => { q with endSent := true })).sinkReport n) :=
  (if_neg (by rw [h]; decide)).trans (if_pos h)

theorem egressControl_of_drain {t : Token} {n : BitVec 9} (h : t.kind = kDRAIN) :
    s.egressControl n p t = some (s.modPort n p (fun q => { q with drainSent := true })) :=
  (if_neg (by rw [h]; decide)).trans ((if_neg (by rw [h]; decide)).trans (if_pos h))

theorem egressControl_of_mark {t : Token} {n : BitVec 9} (h : t.kind = kMARK) :
    s.egressControl n p t = some (s.modPort n p (fun q => { q with markSent := true })) :=
  (if_neg (by rw [h]; decide)).trans ((if_neg (by rw [h]; decide)).trans ((if_neg (by rw [h]; decide)).trans (if_pos h)))

/-- Other kinds have no meaning at a tensor. -/
theorem egressControl_of_other {t : Token} {n : BitVec 9} (h : t.kind = kCTRL ∨ t.kind = kORDER ∨ t.kind = kCMD ∨ t.kind = kRESUME) :
    s.egressControl n p t = none := by
  have hNot : t.kind ≠ kGAP ∧ t.kind ≠ kEND ∧ t.kind ≠ kDRAIN ∧ t.kind ≠ kMARK := by
    rcases h with h | h | h | h <;> rw [h] <;> decide
  obtain ⟨hGap, hEnd, hDrain, hMark⟩ := hNot
  exact (if_neg hGap).trans ((if_neg hEnd).trans ((if_neg hDrain).trans (if_neg hMark)))

end egress

/-! ## DATA -/

/-- A fold that appends what each element gives. -/
theorem foldl_append_flatMap {α β γ : Type} (g : α → List β) (l : List α) (w : γ) (acc : List β) :
    l.foldl (fun (x : γ × List β) e => (x.1, x.2 ++ g e)) (w, acc) = (w, acc ++ l.flatMap g) := by
  induction l generalizing acc with
  | nil => simp
  | cons a r ih => simp [ih]

/-- The valid elements of a token, with their positions in a descriptor. -/
def writtenElems (v : BitVec 512) (k : Nat) (t : Token) : List (Nat × Nat) :=
  ((dscPositions v k).zip (t.elems (dscType v))).filterMap (fun e => e.2.map (fun x => (e.1, x)))

/-- The bytes of a token's elements of 4 bits at their keys: each with its half of the byte, over what the slice or an element
before it left. -/
def State.halfBytes (s : State) (c : BitVec 5) (v : BitVec 512) (es : List (List (Nat × Option Nat) × (Nat × Nat))) : State × List (Nat × Nat) :=
  es.foldl (fun (y : State × List (Nat × Nat)) e =>
    let key := (e.1.map (·.1)).headD 0
    let old := y.1.keyOld c y.2 key
    (old.1, y.2 ++ [(key, if dscHigh v e.2.1 then old.2 % 16 + 16 * e.2.2 else old.2 / 16 * 16 + e.2.2)])) (s, [])

theorem halfBytes_ev (s : State) (c : BitVec 5) (v : BitVec 512) (es : List (List (Nat × Option Nat) × (Nat × Nat))) :
    (s.halfBytes c v es).1.ev = s.ev := by
  unfold State.halfBytes
  exact foldl_keeps (fun y : State × List (Nat × Nat) => y.1.ev) (fun y e => keyOld_ev ..) es (s, [])

section data
variable {s u w : State} {n : BitVec 9} {p : Port} {t : Token} {done : State → State} {ks : List (List (Nat × Option Nat))} (hKind : p.kind = .egress)
include hKind

theorem egressData_of_wait (h : State.elemKeys (s.reg n).capt .write (dscShadow p.snap) (.port n p.id false) p.snap
    ((writtenElems p.snap p.next t).map (·.1)) s = (u, .wait)) : s.egressData n p t done = u := by
  rw [writtenElems] at h
  simp only [State.egressData, hKind, PortKind.inward, h]

theorem egressData_of_bad {c : BitVec 8} {a : Word} {b x : Bool} (h : State.elemKeys (s.reg n).capt .write (dscShadow p.snap) (.port n p.id false)
    p.snap ((writtenElems p.snap p.next t).map (·.1)) s = (u, .bad c a b x)) : s.egressData n p t done = u.portBad n p.id c a b := by
  rw [writtenElems] at h
  simp only [State.egressData, hKind, PortKind.inward, h]

variable (hKeys : State.elemKeys (s.reg n).capt .write (dscShadow p.snap) (.port n p.id false) p.snap
  ((writtenElems p.snap p.next t).map (·.1)) s = (u, .ok ks))
include hKeys

theorem egressData_of_outside {c : BitVec 8} {va : Word} {b : Bool} (h : u.shadowKeys (s.reg n).capt p.snap ks = (w, some (c, va, b))) :
    s.egressData n p t done = w.portBad n p.id c va b := by
  rw [writtenElems] at hKeys
  simp only [State.egressData, hKind, PortKind.inward, hKeys, h]

variable (hShadow : u.shadowKeys (s.reg n).capt p.snap ks = (w, none))
include hShadow

theorem egressData_of_half (h : dscHalf p.snap = true) :
    s.egressData n p t done = (let put := w.halfBytes (clusterOf n) p.snap (ks.zip (writtenElems p.snap p.next t))
      done (((put.1.keyWrite (clusterOf n) (s.reg n).capt put.2).noteShadow n p.snap ks).modPort n p (fun q => { q with next := q.next + 1 }))) := by
  rw [writtenElems] at hKeys
  simp only [State.egressData, hKind, PortKind.inward, hKeys, hShadow, h, if_true]
  rfl

theorem egressData_of_whole (h : dscHalf p.snap = false) :
    s.egressData n p t done = (let bytes := (ks.zip (writtenElems p.snap p.next t)).flatMap (fun e =>
        e.1.zipIdx.map (fun k => (k.1.1, e.2.2 / 2 ^ (8 * k.2) % 256)))
      done (((w.keyWrite (clusterOf n) (s.reg n).capt bytes).noteShadow n p.snap ks).modPort n p (fun q => { q with next := q.next + 1 }))) := by
  have hBytes (v k : Nat) : bytesOf v k 1 = v / 2 ^ (8 * k) % 256 := by rw [bytesOf, Nat.shiftRight_eq_div_pow]; rfl
  rw [writtenElems] at hKeys
  simp only [State.egressData, hKind, PortKind.inward, hKeys, hShadow, h, if_false, Bool.false_eq_true, hBytes, foldl_append_flatMap, List.nil_append]
  rfl

end data

/-! ## POISON -/

/-- A byte's word is poisoned in the slices of thread n's cluster. -/
def State.spoil (c : BitVec 5) (cr : Capt) (x : State) (key : Nat) : State :=
  (x.l2Get c (key / 64)).1.l2Store c (key / 64) (x.l2Get c (key / 64)).2.data (byteMask (key % 64 / 8 * 8) 8) true (cr.marks key)

theorem spoil_ev (c : BitVec 5) (cr : Capt) (x : State) (key : Nat) : (x.spoil c cr key).ev = x.ev :=
  (l2Store_cacheOnly ..).ev.trans (l2Get_ev ..)

section poison
variable {s u w : State} {n : BitVec 9} {p : Port} {done : State → State} {ks : List (List (Nat × Option Nat))} (hKind : p.kind = .egress)
include hKind

theorem egressPoison_of_wait (h : State.elemKeys (s.reg n).capt .write (dscShadow p.snap) (.port n p.id false) p.snap
    (dscPositions p.snap p.next) s = (u, .wait)) : s.egressPoison n p done = u := by
  simp only [State.egressPoison, hKind, PortKind.inward, h]

theorem egressPoison_of_bad {c : BitVec 8} {a : Word} {b x : Bool} (h : State.elemKeys (s.reg n).capt .write (dscShadow p.snap) (.port n p.id false)
    p.snap (dscPositions p.snap p.next) s = (u, .bad c a b x)) : s.egressPoison n p done = u.portBad n p.id c a b := by
  simp only [State.egressPoison, hKind, PortKind.inward, h]

variable (hKeys : State.elemKeys (s.reg n).capt .write (dscShadow p.snap) (.port n p.id false) p.snap (dscPositions p.snap p.next) s = (u, .ok ks))
include hKeys

theorem egressPoison_of_outside {c : BitVec 8} {va : Word} {b : Bool} (h : u.shadowKeys (s.reg n).capt p.snap ks = (w, some (c, va, b))) :
    s.egressPoison n p done = w.portBad n p.id c va b := by
  simp only [State.egressPoison, hKind, PortKind.inward, hKeys, h]

theorem egressPoison_of_inside (h : u.shadowKeys (s.reg n).capt p.snap ks = (w, none)) :
    s.egressPoison n p done = done ((((ks.flatMap (fun l => l.map (·.1))).foldl (State.spoil (clusterOf n) (s.reg n).capt) w).noteShadow n p.snap ks).modPort
      n p (fun q => { q with next := q.next + 1 })) := by
  simp only [State.egressPoison, hKind, PortKind.inward, hKeys, h]
  rfl

end poison

/-- R118, R120, R319, R372: what an egress port bound to a tensor does. -/
theorem egressTokens : Rule.EgressTokens := by
  intro s u w f p ks n r t v i taken on ws keys hActs hFlight hDue hFirst hDest hPort hKind
  have hExec := exec_egressToken hActs (flightDue_of_due hFlight hDue hFirst) hDest hPort hKind
  have hControl (hData : t.kind ≠ kDATA) (hPoison : t.kind ≠ kPOISON) {x : State} (h : (taken s).egressControl n p t = some x) : i = .next x :=
    hExec.trans ((if_neg hData).trans ((if_neg hPoison).trans (by rw [show s.took s.ev.n s.ev.k = taken s from rfl, h]; rfl)))
  have hTaken {x : State} (h : x.ev = s.ev) : x.took s.ev.n x.ev.k = taken x := by rw [h]; rfl
  refine ⟨fun h => hControl (by rw [h]; decide) (by rw [h]; decide) (egressControl_of_gap h),
    fun h => hControl (by rw [h]; decide) (by rw [h]; decide) (egressControl_of_end h),
    fun h => hControl (by rw [h]; decide) (by rw [h]; decide) (egressControl_of_drain h),
    fun h => hControl (by rw [h]; decide) (by rw [h]; decide) (egressControl_of_mark h), fun h => ?_, fun h => ?_, fun h => ?_⟩
  · have hData : t.kind ≠ kDATA ∧ t.kind ≠ kPOISON := by rcases h with h | h | h | h <;> rw [h] <;> decide
    exact hExec.trans ((if_neg hData.1).trans ((if_neg hData.2).trans (by rw [egressControl_of_other h]; rfl)))
  · replace hExec := hExec.trans (if_pos h)
    have hEv (hKeys : keys (ws.map (·.1)) = (u, .ok ks)) (hShadow : u.shadowKeys r.capt v ks = (w, none)) : w.ev = s.ev :=
      (XlOnly.of_fst (shadowKeys_xlOnly ..) hShadow).ev.trans (XlOnly.of_fst (elemKeys_xlOnly ..) hKeys).ev
    refine ⟨fun hKeys => hExec.trans (next_congr (egressData_of_wait hKind hKeys)),
      fun c a b x hKeys => hExec.trans (next_congr (egressData_of_bad hKind hKeys)),
      fun c va b hKeys hShadow => hExec.trans (next_congr (egressData_of_outside hKind hKeys hShadow)),
      fun hKeys hShadow hHalf => hExec.trans (next_congr ?_), fun hKeys hShadow hHalf => hExec.trans (next_congr ?_)⟩
    · refine (egressData_of_half hKind hKeys hShadow hHalf).trans (hTaken ?_)
      exact (noteShadow_ev ..).trans ((keyWrite_ev ..).trans ((halfBytes_ev ..).trans (hEv hKeys hShadow)))
    · refine (egressData_of_whole hKind hKeys hShadow hHalf).trans (hTaken ?_)
      exact (noteShadow_ev ..).trans ((keyWrite_ev ..).trans (hEv hKeys hShadow))
  · replace hExec := hExec.trans ((if_neg (by rw [show f.tok.kind = kPOISON from h]; decide)).trans (if_pos h))
    have hEv (hKeys : keys (dscPositions v p.next) = (u, .ok ks)) (hShadow : u.shadowKeys r.capt v ks = (w, none)) : w.ev = s.ev :=
      (XlOnly.of_fst (shadowKeys_xlOnly ..) hShadow).ev.trans (XlOnly.of_fst (elemKeys_xlOnly ..) hKeys).ev
    refine ⟨fun hKeys => hExec.trans (next_congr (egressPoison_of_wait hKind hKeys)),
      fun c a b x hKeys => hExec.trans (next_congr (egressPoison_of_bad hKind hKeys)),
      fun c va b hKeys hShadow => hExec.trans (next_congr (egressPoison_of_outside hKind hKeys hShadow)),
      fun hKeys hShadow => hExec.trans (next_congr ?_)⟩
    refine (egressPoison_of_inside hKind hKeys hShadow).trans (hTaken ?_)
    exact (noteShadow_ev ..).trans ((foldl_keeps State.ev (spoil_ev _ _) ..).trans (hEv hKeys hShadow))

/-- Settles O45: an ingress port's next step and an egress port's token, each by the state of the port and the kind of the token. -/
theorem portTokens : Obligations.PortTokens := ⟨ingressAdmits, egressTokens⟩

end Sys2Proof.Machine
end

section
/-! PROOFS, O37. The nodes that steer a stream (R154 to R156, R159, R162). -/

namespace Sys2Proof.Machine
open State

/-! ## How such a node acts -/

theorem nodeOnly_setProg (d : Nd) (s : State) (k : Nat) : NodeOnly d s (s.setProg d k) := nodeOnly_modRt ..

theorem nodeOnly_setNstate (d : Nd) (s : State) (v : BitVec 512) : NodeOnly d s (s.setNstate d v) := nodeOnly_modRt ..

section node
variable {s : State} {ks : List Nat} {hs : List Taken} {i : Nat}

theorem State.Stands.head (h : s.Stands ks hs) {x : Taken} (hx : x ∈ hs) : s.headAt s.nd x.1 = some x.2 := by
  obtain ⟨-, -, -, hHead, -⟩ := h
  exact hHead x hx

theorem State.Ready.data (h : s.Ready ks hs i) {x : Taken} (hx : x ∈ hs) (hSlot : x.1 ≠ 2) : x.2.1.kind = kDATA :=
  (h.2 x hx).2.resolve_right fun e => hSlot e.1

/-- One record at the slots a node aligns: it fires. -/
theorem node_of_ready {op : NodeOp} {w : State} (h : s.Ready ks hs i) (hne : hs ≠ []) (hslots : op.slots = ks) (hhold : op.hold s hs = false)
    (hFire : op.fire s hs = w) (hOnly : NodeOnly s.nd s w) : s.node op = s.fired w := by
  obtain ⟨⟨hLive, -, hks, hHead, -⟩, hRec⟩ := id h
  have hLow : ∀ x ∈ hs, lowOf x.2.1 x.2.2 = some i := fun x hx => by
    rcases (hRec x hx).2 with e | ⟨-, e⟩ <;> simp [lowOf, e, (hRec x hx).1, kDATA, kCTRL, kEND, kDRAIN, kGAP]
  have hKind : ∀ x ∈ hs, x.2.1.kind ≠ kMARK ∧ x.2.1.kind ≠ kGAP := fun x hx => by
    rcases (hRec x hx).2 with e | ⟨-, e⟩ <;> rw [e] <;> decide
  have hAlign : s.align s.nd op = .did (op.fire s hs) true := align_of_record hne (hks.trans hslots.symm) hHead hLow hKind hhold
  have hStep : s.node op = s.came (s.align s.nd op) := by
    subst hslots
    exact nodeStep_of_ready h
  rw [hStep, hAlign, hFire, came_fired hLive hOnly.st]

/-- A node acts alike on the slots it reads and on those of them where a record stands, where no head is refused and one is no DRAIN. -/
theorem nodeStep_of_part {k : Nat} {slots outs : List Nat} {go : State → Went} {ill : State → (State → Went) → Went} {hurt : State → State}
    (hBad : ∀ x ∈ slots, ∀ h, s.headAt s.nd x = some h → badHead false x h.1 = none) (hSub : ks ⊆ slots) (hMem : k ∈ ks)
    {h : Token × Nat} (hHead : s.headAt s.nd k = some h) (hDrain : h.1.kind ≠ kDRAIN) :
    s.nodeStep s.nd slots outs false go ill hurt = s.nodeStep s.nd ks outs false go ill hurt := by
  have hNone {l : List Nat} (hl : l ⊆ slots) :
      l.filterMap (fun k => (s.headAt s.nd k).bind (fun h => (badHead false k h.1).map (fun c => (k, c)))) = [] := by
    refine List.filterMap_eq_nil_iff.mpr fun x hx => ?_
    cases hx' : s.headAt s.nd x with
    | none => rfl
    | some y => simp [hBad x (hl hx) y hx']
  have hGoes {l : List Nat} (hl : k ∈ l) :
      ¬(l ≠ [] ∧ l.all (fun k => match s.headAt s.nd k with | some h => h.1.kind == kDRAIN | none => false) = true) := by
    rintro ⟨-, hAll⟩
    have := List.all_eq_true.mp hAll k hl
    simp [hHead, hDrain] at this
  unfold State.nodeStep
  simp only [List.filterMap_append, hNone hSub, hNone (List.Subset.refl slots)]
  refine if_congr Iff.rfl rfl ?_
  split
  · rfl
  · exact (if_neg (hGoes (hSub hMem))).trans (if_neg (hGoes hMem)).symm

end node

/-! ## STEER, GATE and JOIN -/

theorem condSlots_eq (t : BitVec 4) (k : Nat) (a : Token) : condSlots t k a = if t = 13 ∧ a.last = false then [k] else [k, 2] := by
  simp [condSlots]

section steer
variable {s : State} {a b c : Token} {i : Nat}

theorem exec_steer (t : BitVec 4) (h : s.Ready [0, 2] [(0, a, i), (2, c, i)] i) :
    exec (.steer t) s = .next (s.fired ((((s.popAll s.nd (condSlots t 0 a)).addFl s.nd.n (forwarded s.nd [(0, a, i), (2, c, i)] a).2).emit s.nd
      (if c.cond then 0 else 1) (forwarded s.nd [(0, a, i), (2, c, i)] a).1 i).raisePos s.nd (1 - if c.cond then 0 else 1) (i + 1))) :=
  next_congr (node_of_ready h (by simp) rfl rfl rfl
    ((((nodeOnly_popAll ..).trans (nodeOnly_addFl ..)).trans (nodeOnly_emit ..)).trans (nodeOnly_raisePos ..)))

theorem exec_gate (t : BitVec 4) (v : BitVec 1) (h : s.Ready [0, 2] [(0, a, i), (2, c, i)] i) :
    exec (.gate t v) s = .next (s.fired (if c.cond != (v == 1)
      then ((s.popAll s.nd (condSlots t 0 a)).addFl s.nd.n (forwarded s.nd [(0, a, i), (2, c, i)] a).2).emit s.nd 0
        (forwarded s.nd [(0, a, i), (2, c, i)] a).1 i
      else (s.popAll s.nd (condSlots t 0 a)).raisePos s.nd 0 (i + 1))) := by
  refine next_congr (node_of_ready h (by simp) rfl rfl rfl ?_)
  split
  · exact ((nodeOnly_popAll ..).trans (nodeOnly_addFl ..)).trans (nodeOnly_emit ..)
  · exact (nodeOnly_popAll ..).trans (nodeOnly_raisePos ..)

/-- JOIN's slots, and those it takes its heads from. -/
theorem exec_join (t : BitVec 4) (u : BitVec 1) {hs : List Taken} (h : s.Ready (if u = 1 then [0, 1, 2] else [0, 1]) ((0, a, i) :: (1, b, i) :: hs) i) :
    exec (.join t u) s = .next (s.fired (let x := sideOf s.nd (t == 13) ((0, a, i) :: (1, b, i) :: hs)
      (((s.popAll s.nd (if u = 1 then 1 :: condSlots t 0 a else [0, 1])).addFl s.nd.n x.2).emit s.nd 0 (x.1.tok (maskLanes a.pay x.1.valid)) i).emit
        s.nd 1 (x.1.tok (maskLanes b.pay x.1.valid)) i)) :=
  next_congr (node_of_ready h (by simp) rfl rfl rfl
    ((((nodeOnly_popAll ..).trans (nodeOnly_addFl ..)).trans (nodeOnly_emit ..)).trans (nodeOnly_emit ..)))

end steer

/-! ## MERGE -/

theorem badHead_of_data (k : Nat) {t : Token} (h : t.kind = kDATA) : badHead false k t = none := by
  simp [badHead, h, kDATA, kPOISON, kGAP, kCMD, kRESUME, kCTRL, kORDER]

section merge
variable {s : State} {a c : Token} {i k : Nat}

/-- Records that are not below an index are not dropped. -/
theorem dropBelow_of_data (h : ∀ x ∈ [0, 1], ∀ y, s.headAt s.nd x = some y → y.1.kind = kDATA ∧ i ≤ y.2) : s.dropBelow s.nd i = none := by
  refine List.findSome?_eq_none_iff.mpr fun x hx => ?_
  cases hHead : s.headAt s.nd x with
  | none => rfl
  | some y =>
    obtain ⟨hKind, hLe⟩ := h x hx y hHead
    obtain ⟨t, j⟩ := y
    simp only [show t.kind = kDATA from hKind, Nat.not_lt.mpr hLe]
    rfl

/-- The record slot C selects is forwarded. -/
theorem mergeCtl_of_record (t : BitVec 4) (hReady : s.Ready [k, 2] [(k, a, i), (2, c, i)] i) (hTwo : k < 2) (hCond : k = if c.cond then 0 else 1)
    (hEnded : (s.rt s.nd.n s.nd.t).ended.contains s.nd.slot = false)
    (hOther : ∀ x ∈ [0, 1], ∀ y, s.headAt s.nd x = some y → y.1.kind = kDATA ∧ i ≤ y.2) :
    s.mergeCtl s.nd t = .did (((s.popAll s.nd (condSlots t k a)).addFl s.nd.n (forwarded s.nd [(k, a, i), (2, c, i)] a).2).emit s.nd 0
      (forwarded s.nd [(k, a, i), (2, c, i)] a).1 i) true := by
  have hA : s.headAt s.nd k = some (a, i) := hReady.1.head (x := (k, a, i)) List.mem_cons_self
  have hC : s.headAt s.nd 2 = some (c, i) := hReady.1.head (x := (2, c, i)) (by simp)
  have hKindA : a.kind = kDATA := hReady.data (x := (k, a, i)) List.mem_cons_self (Nat.ne_of_lt hTwo)
  have hKindC : c.kind = kDATA ∨ c.kind = kCTRL := (hReady.2 (2, c, i) (by simp)).2.imp id And.right
  have hNot : c.kind ≠ kEND ∧ c.kind ≠ kGAP ∧ c.kind ≠ kPOISON ∧ ¬(c.kind ≠ kDATA ∧ c.kind ≠ kCTRL) := by
    rcases hKindC with h | h <;> rw [h] <;> decide
  obtain ⟨hEnd, hGap, hPoison, hTaken⟩ := hNot
  unfold State.mergeCtl
  simp only [hEnded, hC, hEnd, hGap, hPoison, hTaken, dropBelow_of_data hOther, ← hCond, hA, hKindA]
  rfl

theorem exec_merge_ctl (t : BitVec 4) (hReady : s.Ready [k, 2] [(k, a, i), (2, c, i)] i) (hTwo : k < 2) (hCond : k = if c.cond then 0 else 1)
    (hEnded : (s.rt s.nd.n s.nd.t).ended.contains s.nd.slot = false)
    (hOther : ∀ x, s.headAt s.nd (1 - k) = some x → x.1.kind = kDATA ∧ i ≤ x.2) :
    exec (.merge t 1) s = .next (s.fired (((s.popAll s.nd (condSlots t k a)).addFl s.nd.n (forwarded s.nd [(k, a, i), (2, c, i)] a).2).emit s.nd 0
      (forwarded s.nd [(k, a, i), (2, c, i)] a).1 i)) := by
  have hA : s.headAt s.nd k = some (a, i) := hReady.1.head (x := (k, a, i)) List.mem_cons_self
  have hC : s.headAt s.nd 2 = some (c, i) := hReady.1.head (x := (2, c, i)) (by simp)
  have hKindA : a.kind = kDATA := hReady.data (x := (k, a, i)) List.mem_cons_self (Nat.ne_of_lt hTwo)
  have hPair : ∀ x ∈ [0, 1], ∀ y, s.headAt s.nd x = some y → y.1.kind = kDATA ∧ i ≤ y.2 := fun x hx y hy => by
    have hx' : x = k ∨ x = 1 - k := by simp at hx; omega
    rcases hx' with rfl | rfl
    · rw [hA] at hy; cases hy; exact ⟨hKindA, le_rfl⟩
    · exact hOther y hy
  have hBad : ∀ x ∈ [0, 1, 2], ∀ y, s.headAt s.nd x = some y → badHead false x y.1 = none := fun x hx y hy => by
    have hx' : x ∈ [0, 1] ∨ x = 2 := by simp at hx ⊢; omega
    rcases hx' with hx | rfl
    · exact badHead_of_data x (hPair x hx y hy).1
    · rw [hC] at hy; cases hy; exact hReady.accepted (2, c, i) (by simp)
  have hDrain : c.kind ≠ kDRAIN := by
    rcases (hReady.2 (2, c, i) (by simp)).2 with h | ⟨-, h⟩ <;> exact fun e => absurd (h.symm.trans e) (by decide)
  refine next_congr ((if_pos rfl).trans ((nodeStep_of_part hBad (by intro x hx; simp at hx ⊢; omega) (by simp) hC hDrain).trans
    ((nodeStep_of_ready hReady).trans ?_)))
  rw [mergeCtl_of_record t hReady hTwo hCond hEnded hPair]
  exact came_fired hReady.1.live (((nodeOnly_popAll ..).trans (nodeOnly_addFl ..)).trans (nodeOnly_emit ..)).st

/-- Without a condition the record at A goes before that at B, under the next number. -/
theorem mergeFree_of_record {t : BitVec 4} (ht : t ≠ 13) (hProg : s.prog s.nd = 0) (hA : s.headAt s.nd k = some (a, i)) (hKind : a.kind = kDATA)
    (hFirst : k = 0 ∨ k = 1 ∧ s.headAt s.nd 0 = none) :
    s.mergeFree s.nd t = .did (((((s.popAt s.nd k).addFl s.nd.n (forwarded s.nd [(k, a, i)] a).2).emit s.nd 0 (forwarded s.nd [(k, a, i)] a).1
      (ix (s.nstate s.nd).toNat)).setNstate s.nd (BitVec.ofNat 512 ((s.nstate s.nd).toNat + 1))).setProg s.nd 0) true := by
  have hType : (t == 13) = false := by simpa using ht
  unfold State.mergeFree
  rcases hFirst with rfl | ⟨rfl, hNone⟩
  · simp only [hProg, hA, hKind, hType]
    rfl
  · simp only [hProg, hA, hNone, hKind, hType]
    rfl

theorem exec_merge_free {t : BitVec 4} (ht : t ≠ 13) (hProg : s.prog s.nd = 0) (hReady : s.Ready [k] [(k, a, i)] i)
    (hFirst : k = 0 ∧ (∀ x, s.headAt s.nd 1 = some x → x.1.kind = kDATA) ∨ k = 1 ∧ s.headAt s.nd 0 = none) :
    exec (.merge t 0) s = .next (s.fired (((((s.popAt s.nd k).addFl s.nd.n (forwarded s.nd [(k, a, i)] a).2).emit s.nd 0
      (forwarded s.nd [(k, a, i)] a).1 (ix (s.nstate s.nd).toNat)).setNstate s.nd (BitVec.ofNat 512 ((s.nstate s.nd).toNat + 1))).setProg s.nd 0)) := by
  have hA : s.headAt s.nd k = some (a, i) := hReady.1.head (x := (k, a, i)) List.mem_cons_self
  have hKind : a.kind = kDATA := hReady.data (x := (k, a, i)) List.mem_cons_self (by rintro rfl; simp at hFirst)
  have hBad : ∀ x ∈ [0, 1], ∀ y, s.headAt s.nd x = some y → badHead false x y.1 = none := fun x hx y hy => by
    refine badHead_of_data x ?_
    have hx' : x = k ∨ x = 1 - k := by simp at hx; omega
    rcases hx' with rfl | rfl
    · rw [hA] at hy; cases hy; exact hKind
    · rcases hFirst with ⟨rfl, h⟩ | ⟨rfl, h⟩
      · exact h y hy
      · rw [h] at hy; cases hy
  have hDrain : a.kind ≠ kDRAIN := by rw [hKind]; decide
  refine next_congr ((if_neg (by decide)).trans ((nodeStep_of_part hBad (by intro x hx; simp at hx ⊢; omega) (List.mem_singleton.mpr rfl) hA
    hDrain).trans ((nodeStep_of_ready hReady).trans ?_)))
  rw [mergeFree_of_record ht hProg hA hKind (hFirst.imp And.left id)]
  exact came_fired hReady.1.live
    (((((nodeOnly_popAt ..).trans (nodeOnly_addFl ..)).trans (nodeOnly_emit ..)).trans (nodeOnly_setNstate ..)).trans (nodeOnly_setProg ..)).st

end merge

/-! ## REPL -/

/-- REPL emits one copy a firing, and takes the record with the last. -/
theorem exec_repl {s : State} {a : Token} {i : Nat} {t : BitVec 4} (ht : t ≠ 13) (r : BitVec 6) (h : s.Ready [0] [(0, a, i)] i) :
    exec (.repl t r) s = .next (s.fired ((if s.prog s.nd + 1 = r.toNat + 1 then (s.popAt s.nd 0).setProg s.nd 0
        else s.setProg s.nd (s.prog s.nd + 1)).emit s.nd 0 (a.marked (s.prog s.nd == 0) (s.prog s.nd + 1 == r.toNat + 1))
      (ix (i * (r.toNat + 1) + s.prog s.nd)))) := by
  refine next_congr (node_of_ready h (by simp) rfl rfl ?_ ?_)
  · simp only [if_neg ht, List.length_singleton, Nat.mod_one, Nat.div_one, Nat.mul_one]
    rfl
  · split
    · exact ((nodeOnly_popAt ..).trans (nodeOnly_setProg ..)).trans (nodeOnly_emit ..)
    · exact (nodeOnly_setProg ..).trans (nodeOnly_emit ..)

/-- R154 to R156, R159, R162: STEER, GATE, JOIN, MERGE and REPL. -/
theorem steerNodes : Rule.SteerNodes := by
  intro s t v u r a b c i d cond own goes ac pops
  have hPops : pops = condSlots t 0 a := (condSlots_eq t 0 a).symm
  refine ⟨fun h => ⟨?_, ?_⟩, fun hs hEq h => ?_, fun k h hCond hEnded hOther => ?_, fun hProg h ht => ?_, fun h ht => exec_repl ht r h⟩
  · rw [hPops]
    exact exec_steer t h
  · rw [hPops]
    refine (exec_gate t v h).trans (next_congr (congrArg s.fired (if_congr ?_ rfl rfl)))
    exact bne_iff_ne
  · subst hEq
    rw [hPops]
    exact exec_join t u h
  · rw [← condSlots_eq]
    exact exec_merge_ctl t h k.isLt hCond hEnded hOther
  · rcases h with ⟨h, hOther⟩ | ⟨h, hNone⟩
    · have hA : s.headAt s.nd 0 = some (a, i) := h.1.head (x := (0, a, i)) List.mem_cons_self
      have hSome : ¬s.headAt d 0 = none := by rw [hA]; simp
      simp only [if_neg hSome]
      exact exec_merge_free ht hProg h (.inl ⟨rfl, hOther⟩)
    · simp only [if_pos hNone]
      exact exec_merge_free ht hProg h (.inr ⟨rfl, hNone⟩)

end Sys2Proof.Machine
end

section
/-! PROOFS, O37. The nodes that start a stream and end it (R120, R158, R160, R161). -/

namespace Sys2Proof.Machine
open State

/-! ## SINK -/

/-- A node whose heads are all END acts by what is due before its END. -/
theorem align_of_end {s u : State} {d : Nd} {op : NodeOp} {k i : Nat} {a : Token} (hSlots : op.slots = [k]) (hHead : s.headAt d k = some (a, i))
    (hKind : a.kind = kEND) (hFin : op.fin s = some u) : s.align d op = .did u false := by
  unfold State.align
  simp [hSlots, hHead, hKind, hFin, lowOf, kEND, kMARK]

section sink
variable {s : State} {a : Token} {i : Nat} (t : BitVec 4) (v : BitVec 1) (e : BitVec 4)

theorem exec_sink_of_record (h : s.Ready [0] [(0, a, i)] i) : exec (.sink t v e) s = .next (s.fired (s.popAt s.nd 0)) :=
  next_congr (node_of_ready h (by simp) rfl rfl rfl (nodeOnly_popAt ..))

theorem exec_sink_of_end (h : s.Stands [0] [(0, a, i)]) (hKind : a.kind = kEND) :
    exec (.sink t v e) s = .next (s.acted (let u := ((s.popAt s.nd 0).modRt s.nd.n s.nd.t
      (fun r => { r with ended := insertNat r.ended s.nd.slot })).sinkReport s.nd.n
      if v = 1 then u.event s.nd.n e else u)) := by
  have hHead : s.headAt s.nd 0 = some (a, i) := h.head (x := (0, a, i)) List.mem_cons_self
  have hBad : ∀ x ∈ [((0, a, i) : Taken)], badHead false x.1 x.2.1 = none := by
    simp [badHead, hKind, kEND, kPOISON, kCMD, kRESUME, kCTRL, kORDER]
  have hDrain : [0] = [] ∨ ∃ y ∈ [((0, a, i) : Taken)], y.2.1.kind ≠ kDRAIN := by simp [hKind, kEND, kDRAIN]
  refine next_congr ((nodeStep_of_stands h hBad hDrain).trans ?_)
  rw [align_of_end rfl hHead hKind rfl]
  exact came_acted ..

end sink

/-! ## Counter logic -/

theorem counterStep_of_well {s : State} {d : Nd} (h : s.illAt d = false) (act : State → State) : s.counterStep d act = act s :=
  if_neg (by simp [h])

section source
variable {s : State} (t : BitVec 4) (m : BitVec 2) (n : BitVec 8) (hWell : s.illAt s.nd = false) (hLive : s.nodeLive s.nd = true)
  (hEnded : (s.chainPos s.nd).ended = false) (hStopped : (s.chainPos s.nd).stopped = false)
  (hDue : (s.reg s.nd.n).start + (s.chainPos s.nd).iter ≤ s.now s.nd.n)
include hWell hLive hEnded hStopped hDue

/-- A SOURCE whose next token is due. -/
theorem exec_source_of_due : exec (.source t m n) s = .next (if (s.chainPos s.nd).iter = n.toNat + 1 then s.chainEnd s.nd (s.chainPos s.nd)
    else (s.emit s.nd 0 ((s.operand s.nd t m).marked (t == 13 || (s.chainPos s.nd).iter == 0) (t == 13 || (s.chainPos s.nd).iter + 1 == n.toNat + 1))
      (s.chainPos s.nd).iter).setChain s.nd { s.chainPos s.nd with iter := (s.chainPos s.nd).iter + 1 }) := by
  refine next_congr ((counterStep_of_well hWell _).trans ?_)
  simp only [hLive, hEnded, hStopped, hWell, Nat.not_lt.mpr hDue]
  rfl

end source

/-- A CHAIN that no slot B holds back emits its next iteration. -/
theorem chainEmit_of_well {s : State} {d : Nd} {cr : Word} {c : ChainPos} (hWell : s.illAt d = false) (hIll : c.ill = 0) (hLc : chLc cr = false) :
    s.chainEmit d cr c = (s.emit d 0 (chainTok cr c.iter (if chRearm cr then ({ pay := 0, side := c.side } : Token).wexp else 0)
        (if chRearm cr then ({ pay := 0, side := c.side } : Token).mcount else 0))
      (if chRearm cr then ix (c.base * chCount cr + c.iter) else ix ((sext (chStart cr) 48).toNat + c.iter))).setChain d
        { c with iter := c.iter + 1, run := if chRearm cr = true ∧ c.iter + 1 = chCount cr then false else c.run, owed := false
                 ready := c.ready + chIi cr } := by
  have hWhole : ¬(0 < c.ill ∨ s.illAt d = true) := by simp [hIll, hWell]
  have hStays : c.ill - 1 = c.ill := by rw [hIll]
  simp only [State.chainEmit, if_neg hWhole, hStays, hLc]
  simp

/-- A record at a head is no fault of a CHAIN. -/
theorem headFault_of_data {s : State} {d : Nd} {k : Nat} {here : Bool} (h : ∀ y, s.headAt d k = some y → y.1.kind = kDATA) :
    (s.headAt d k).bind (fun y => if (here && y.1.kind == kPOISON) = true then none else badHead false k y.1) = none := by
  cases hHead : s.headAt d k with
  | none => rfl
  | some y => simp [badHead_of_data k (h y hHead)]

section chain
variable {s : State} (am bm : BitVec 2) (hWell : s.illAt s.nd = false) (hActs : actsIn (s.reg s.nd.n).st = true)
include hWell hActs

/-- A CHAIN that neither arms nor waits for slot B, when its next iteration is due. -/
theorem exec_chain_of_free (hRearm : chRearm (chainRec s.nd.img s.nd.t s.nd.slot) = false) (hLc : chLc (chainRec s.nd.img s.nd.t s.nd.slot) = false)
    (hMarked : (s.rt s.nd.n s.nd.t).marked.contains s.nd.slot = false) (hEnded : (s.chainPos s.nd).ended = false)
    (hStopped : (s.chainPos s.nd).stopped = false) (hOwed : (s.chainPos s.nd).owed = false) (hReady : (s.chainPos s.nd).ready ≤ s.now s.nd.n) :
    exec (.chain am bm) s = .next (if (s.chainPos s.nd).iter = chCount (chainRec s.nd.img s.nd.t s.nd.slot) then s.chainEnd s.nd (s.chainPos s.nd)
      else s.chainEmit s.nd (chainRec s.nd.img s.nd.t s.nd.slot) (s.chainPos s.nd)) := by
  refine next_congr ((counterStep_of_well hWell _).trans ?_)
  simp only [hActs, hRearm, hLc, State.chainB, hMarked, hEnded, hStopped, hOwed, Nat.not_lt.mpr hReady]
  rfl

section rearm
variable (hRearm : chRearm (chainRec s.nd.img s.nd.t s.nd.slot) = true) (hLc : chLc (chainRec s.nd.img s.nd.t s.nd.slot) = false)
  (hMarked : (s.rt s.nd.n s.nd.t).marked.contains s.nd.slot = false)
include hRearm hLc hMarked

/-- An armed CHAIN whose next iteration is due. -/
theorem exec_chain_of_run (hRun : (s.chainPos s.nd).run = true) (hHead : ∀ h, s.headAt s.nd 0 = some h → h.1.kind = kDATA)
    (hIter : (s.chainPos s.nd).iter < chCount (chainRec s.nd.img s.nd.t s.nd.slot)) (hOwed : (s.chainPos s.nd).owed = false)
    (hReady : (s.chainPos s.nd).ready ≤ s.now s.nd.n) :
    exec (.chain am bm) s = .next (s.chainEmit s.nd (chainRec s.nd.img s.nd.t s.nd.slot) (s.chainPos s.nd)) := by
  refine next_congr ((counterStep_of_well hWell _).trans ?_)
  simp only [hActs, List.findSome?_cons, hRearm, hLc, headFault_of_data hHead, State.chainB, hMarked, hRun, hOwed, hIter, hReady]
  rfl

/-- The record that arms a CHAIN. -/
theorem exec_chain_of_arm {a : Token} {i : Nat} (hRun : (s.chainPos s.nd).run = false) (hHead : s.headAt s.nd 0 = some (a, i)) (hKind : a.kind = kDATA) :
    exec (.chain am bm) s = .next ((s.popAt s.nd 0).setChain s.nd { s.chainPos s.nd with
      iter := 0, run := true, base := i, side := a.side, ready := s.now s.nd.n + chPhase (chainRec s.nd.img s.nd.t s.nd.slot), owed := false
      ill := 0 }) := by
  have hGood := headFault_of_data (here := inCopy s.nd.img s.nd.t s.nd.slot) (fun y hy => by rw [hHead] at hy; cases hy; exact hKind)
  rw [hHead] at hGood
  refine next_congr ((counterStep_of_well hWell _).trans ?_)
  simp only [hActs, List.findSome?_cons, hRearm, hLc, hGood, hHead, hKind, State.chainB, hMarked, hRun]
  rfl

end rearm

/-- The token at slot B that a CHAIN waits for. -/
theorem exec_chain_of_back {a : Token} {i : Nat} (hRearm : chRearm (chainRec s.nd.img s.nd.t s.nd.slot) = false)
    (hLc : chLc (chainRec s.nd.img s.nd.t s.nd.slot) = true) (hHead : s.headAt s.nd 1 = some (a, i)) (hKind : a.kind = kDATA) :
    exec (.chain am bm) s = .next ((s.popAt s.nd 1).setChain s.nd { s.chainPos s.nd with owed := false }) := by
  have hGood := headFault_of_data (here := inCopy s.nd.img s.nd.t s.nd.slot) (fun y hy => by rw [hHead] at hy; cases hy; exact hKind)
  rw [hHead] at hGood
  refine next_congr ((counterStep_of_well hWell _).trans ?_)
  simp only [hActs, List.findSome?_cons, hRearm, hLc, hGood, hHead, hKind, State.chainB]
  rfl

end chain

theorem actsIn_of_mem {st : BitVec 4} (h : st.toNat ∈ [4, 5, 6]) : actsIn st = true := by
  have hSt : st = BitVec.ofNat 4 st.toNat := by simp
  simp only [List.mem_cons, List.not_mem_nil, or_false] at h
  rcases h with h | h | h <;> rw [hSt, h] <;> decide

/-- R120, R158, R160, R161: SOURCE, SINK and CHAIN. -/
theorem sourceNodes : Rule.SourceNodes := by
  intro s t am bm n v e a i d c rt ended cr count start value tok ii now acts chain lc rearm hWell hIll
  refine ⟨fun hLive hEnded hStopped hDue => ⟨fun hNot => ?_, fun hLast => ?_⟩, exec_sink_of_record t v e, exec_sink_of_end t v e,
    fun hActs hRearm hLc hMarked hEnded hStopped hOwed hReady => ⟨fun hLast => ?_, fun hNot => ?_⟩,
    fun hActs hRearm hLc hMarked => ⟨fun hRun hHead hIter hOwed hReady => ?_, fun hRun hHead hKind => ?_⟩, fun hActs hLc hRearm hHead hKind => ?_⟩
  · exact (exec_source_of_due t am n hWell hLive hEnded hStopped hDue).trans (next_congr (if_neg hNot))
  · exact (exec_source_of_due t am n hWell hLive hEnded hStopped hDue).trans (next_congr (if_pos hLast))
  · exact (exec_chain_of_free am bm hWell (actsIn_of_mem hActs) hRearm hLc hMarked hEnded hStopped hOwed hReady).trans (next_congr (if_pos hLast))
  · refine (exec_chain_of_free am bm hWell (actsIn_of_mem hActs) hRearm hLc hMarked hEnded hStopped hOwed hReady).trans
      (next_congr ((if_neg hNot).trans ?_))
    rw [chainEmit_of_well hWell hIll hLc, show chRearm (chainRec s.nd.img s.nd.t s.nd.slot) = false from hRearm]
    rfl
  · have hData : ∀ h, s.headAt s.nd 0 = some h → h.1.kind = kDATA := fun h hh => by simpa [d, hh, kDATA] using hHead
    refine (exec_chain_of_run am bm hWell (actsIn_of_mem hActs) hRearm hLc hMarked hRun hData hIter hOwed hReady).trans (next_congr ?_)
    rw [chainEmit_of_well hWell hIll hLc, show chRearm (chainRec s.nd.img s.nd.t s.nd.slot) = true from hRearm, show (s.chainPos s.nd).run = true from hRun]
    simp only [true_and, if_true]
    rfl
  · refine (exec_chain_of_arm am bm hWell (actsIn_of_mem hActs) hRearm hLc hMarked hRun hHead hKind).trans (next_congr ?_)
    rw [← hIll]
    rfl
  · exact exec_chain_of_back am bm hWell (actsIn_of_mem hActs) hRearm hLc hHead hKind

/-- Settles O37: with its records at its heads each node fires as its rule gives, and counter logic acts when its next token is due. -/
theorem steeringAndSources : Obligations.SteeringAndSources := ⟨steerNodes, sourceNodes⟩

end Sys2Proof.Machine
end

section
/-! PROOFS, O31. The words of regions and chains complete (R113, R114, R120, R122, R297, R303 to R306). -/

namespace Sys2Proof.Machine
open State

/-! ## A word that answers OK -/

section answer
variable (w : State) (d : BitVec 5) (k : Nat)

theorem me_status (code : Nat) : (w.status d code k).me = { w.me.wr d (statusWord code k) with pc := w.pc + 4, wait := .none } := by
  simp only [State.status, State.put, State.me_modMe]; rfl

theorem rd_status_ok : (w.status d stOK k).rd d = if d = 0 then 0 else BitVec.ofNat 64 (k * 2 ^ 32) := by
  have hWord : statusWord stOK k = BitVec.ofNat 64 (k * 2 ^ 32) := by
    refine BitVec.eq_of_toNat_eq ?_
    simp [statusWord, stOK, BitVec.toNat_shiftLeft, Nat.shiftLeft_eq]
  rw [State.rd, me_status, ← hWord]
  refine (Thread.rd_congr rfl d).trans ((Thread.rd_wr ..).trans ?_)
  by_cases h : d = 0
  · subst h; rfl
  · rw [if_pos ⟨rfl, h⟩, if_neg h]

theorem rd_status_zero : (w.status d stOK 0).rd d = 0 := by
  rw [rd_status_ok]
  exact ite_self _

theorem onlyMe_status (code : Nat) : OnlyMe w (w.status d code k) (w.status d code k).me :=
  ⟨rfl, (w.modMe_modMe (fun t => { t.wr d (statusWord code k) with pc := t.pc + 4 }) (fun t => { t with wait := .none })).2⟩

/-- A status is written to the thread's registers alone. -/
theorem thr_status (code : Nat) (n : BitVec 9) : (w.status d code k).thr n = { w.thr n with
    g := ((w.status d code k).thr n).g, pc := ((w.status d code k).thr n).pc, wait := ((w.status d code k).thr n).wait } := by
  by_cases h : n = w.cur
  · subst h
    rw [show (w.status d code k).thr w.cur = (w.status d code k).me from rfl, me_status, Thread.wr_eq]
    rfl
  · rw [(onlyMe_status w d k code).2.1 n h]

theorem chainOf_status (code : Nat) (n : BitVec 9) (e : BitVec 5) : (w.status d code k).chainOf n e = w.chainOf n e := by
  rw [State.chainOf, thr_status]; rfl

/-- A word completes where the machine it leaves has the PC of the word. -/
theorem completes_of_ok {s : State} {o : Out} (h : o = .next (w.status d stOK k)) (hPc : w.pc = s.pc) {holds : State → Prop}
    (hHolds : holds (w.status d stOK k)) : ∃ t, o = .next t ∧ t.rd d = (if d = 0 then 0 else BitVec.ofNat 64 (k * 2 ^ 32))
      ∧ t.me.pc = s.pc + 4 ∧ t.me.wait = .none ∧ holds t :=
  ⟨_, h, rd_status_ok .., by rw [me_status, hPc], by rw [me_status], hHolds⟩

end answer

/-! ## Loading and starting -/

/-- A region word that answers OK with a region in place. -/
theorem completes_of_myRegion {s u w : State} {q : Region} {i : Instr} {d : BitVec 5} (h : exec i s = .next (w.status d stOK)) (hMem : w.mem = u.mem)
    (hMine : MyRegion s w q) (holds : Region → Prop) (hHolds : holds q) : ∃ t, exec i s = .next t ∧ t.rd d = 0 ∧ t.me.pc = s.pc + 4
      ∧ t.me.wait = .none ∧ SameMemory u t ∧ (∀ n, n ≠ s.cur → t.thr n = s.thr n) ∧ holds t.me.region := by
  have hOnly := onlyMe_status w d 0 stOK
  have hPc : w.pc = s.pc := by rw [State.pc, hMine.me]; rfl
  refine ⟨_, h, rd_status_zero .., by rw [me_status, hPc], by rw [me_status], fun a => ?_, fun n hn => ?_, ?_⟩
  · rw [OnlyThread.mem hOnly, hMem]
  · exact (hOnly.2.1 n (hMine.cur ▸ hn)).trans (hMine.others n hn)
  · rw [me_status, Thread.wr_eq, hMine.me]
    exact hHolds

/-- R113, R114, R120, R122: RLOAD, RSWAP, RSWAP.td and RSTART. -/
theorem regionWordsComplete : Rule.RegionWordsComplete := by
  intro s u d a img key x r va completes
  refine ⟨fun hAlign hRead hCheck hFree => ?_, fun hSt hAlign hRes hBound => ?_⟩
  · have hLoads {i : Instr} (holds : Region → Prop) (hi : LoadAllowed s d a i)
        (hTd : i = .rswapTd d a → holds { r with newImage := some img }) (hLoaded : i ≠ .rswapTd d a → holds (r.loaded img)) : completes i holds := by
      obtain ⟨w, q, hExec, hMem, hMine, hq, hq'⟩ := exec_load_of_good hi hAlign hRead hCheck hFree
      refine completes_of_myRegion hExec hMem hMine holds ?_
      by_cases h : i = .rswapTd d a
      · exact hq h ▸ hTd h
      · exact hq' h ▸ hLoaded h
    refine ⟨fun h => hLoads (fun q => q.st = 3 ∧ q.image = img) (.inl ⟨rfl, h⟩) (fun e => absurd e (by simp)) fun _ => ⟨rfl, rfl⟩,
      fun h => hLoads (fun q => q.st = 3 ∧ q.image = img) (.inr (.inl ⟨rfl, h⟩)) (fun e => absurd e (by simp)) fun _ => ⟨rfl, rfl⟩,
      fun h hInvar hEnds => hLoads (fun q => q.st = 4 ∧ q.image = r.image ∧ q.newImage = some img)
        (.inr (.inr ⟨rfl, h, hInvar, List.all_eq_true.mpr fun p hp => ?_⟩)) (fun _ => ⟨h, rfl, rfl⟩) fun e => absurd rfl e⟩
    by_cases hKind : p.kind = .ingress ∨ p.kind = .bridgeIn
    · simp [hEnds p hp hKind]
    · simp [not_or.mp hKind]
  · have hXl : XlOnly s u := XlOnly.of_fst (resolve_xlOnly ..) hRes
    have hMine := MyRegion.of_xlOnly hXl (myRegion_beginPeriod u va s.me.cred)
    exact completes_of_myRegion (exec_rstart_of_bound hSt hAlign hRes hBound) (beginPeriod_mem ..) hMine
      (fun q => q.st = 4 ∧ q.running = true ∧ q.comp = va) ⟨rfl, rfl, rfl⟩

/-! ## The words of chains -/

theorem withEngine_of_lt {s : State} {d a : BitVec 5} (hLt : (s.rd a).toNat < 32) (hMod : (s.rd a).toNat % 8 ≠ 7) (f : BitVec 5 → State) :
    s.withEngine d a f = f (fld (s.rd a) 0 5) := by
  have hEngine : engineOf (s.rd a) = some (fld (s.rd a) 0 5) := if_neg (by omega)
  rw [State.withEngine, hEngine]

theorem Tab.has_set {α : Type} (t : Tab α) (k : Nat) (v : α) : Tab.has (Tab.set t k v) k = true :=
  List.any_eq_true.mpr ⟨_, Tab.mem_set_self t k v, by simp⟩

/-- A thread's chain after it is put in place. -/
theorem chainOf_setChainOf (s : State) (n : BitVec 9) (e : BitVec 5) (c : Chain) :
    (s.modThr n (fun t => { t with chains := Tab.set t.chains e.toNat c })).chainOf n e = some c := by
  rw [State.chainOf, thr_modThr]
  simp only [Tab.has_set, Tab.get_set, if_true]

theorem chainOf_congr {s t : State} {n : BitVec 9} (h : (t.thr n).chains = (s.thr n).chains) (e : BitVec 5) : t.chainOf n e = s.chainOf n e := by
  rw [State.chainOf, h]; rfl

theorem modChain_of_chain {s : State} {n : BitVec 9} {e : BitVec 5} {c : Chain} (h : s.chainOf n e = some c) (f : Chain → Chain) :
    s.modChain n e f = s.modThr n (fun t => { t with chains := Tab.set t.chains e.toNat (f c) }) := by
  simp only [State.modChain, h]

theorem outstandingOf_of_chain {s : State} {n : BitVec 9} {e : BitVec 5} {c : Chain} (h : s.chainOf n e = some c) :
    s.outstandingOf n e = c.outstanding := by
  simp only [State.outstandingOf, h]

/-- A chain of the running thread is put in place: its PC stands. -/
theorem pc_setChainOf (s : State) (n : BitVec 9) (f : Thread → Tab Chain) : (s.modThr n (fun t => { t with chains := f t })).pc = s.pc := by
  show ((s.modThr n (fun t => { t with chains := f t })).thr s.cur).pc = (s.thr s.cur).pc
  by_cases h : s.cur = n
  · subst h; rw [thr_modThr]
  · rw [thr_modThr_ne _ _ h]

section engine
variable {s u w : State} {d a b : BitVec 5} (hLt : (s.rd a).toNat < 32) (hMod : (s.rd a).toNat % 8 ≠ 7)
include hLt hMod

/-- The chain of a header's first line. -/
def headerChain (m : Thread) (h : Word) (v : Nat) : Chain :=
  { header := h, cursor := BitVec.ofNat 64 (bytesOf v 0 8), enq := bytesOf v 8 8, seq := bytesOf v 8 8, capt := m.cred }

/-- Is a chain's last batch open behind entries appended? -/
def Chain.openAfter (c : Chain) (js : List Job) : Bool := match js.getLast? with | some j => !enClose j.raw | none => c.openb

/-- A chain with entries appended up to t, its last batch open or not. -/
def Chain.enqueued (c : Chain) (o : Bool) (t : Word) (js : List Job) : Chain :=
  { c with last := t, enq := c.enq + (js.filter (fun j => enClose j.raw)).length, openb := o, jobs := c.jobs ++ js }

theorem exec_enqOpen {key pa v : Nat} {x : Xl} (hNone : s.chainOf s.cur (fld (s.rd a) 0 5) = none) (hRoom : s.openChains (fld (s.rd a) 0 5) < 32)
    (hAlign : (s.rd b).toNat % 64 = 0) (hRes : s.resolve s.me.cred .read false (s.rd b) (.thread s.cur) = (u, .ok key x)) (hDev : x.target = .device pa)
    (hLoad : u.l1Load (coreOf s.cur) key 64 = (w, v, false)) :
    exec (.enqOpen d a b) s = .next ((w.modMe (fun t => { t with
      chains := Tab.set t.chains (fld (s.rd a) 0 5 : BitVec 5).toNat (headerChain s.me (s.rd b) v) })).status d stOK 0) := by
  have hMe : w.me = s.me := by rw [← resolve_me hRes, ← l1Load_me u (coreOf s.cur) key 64, hLoad]
  have hCur : coreOf u.cur = coreOf s.cur := by rw [resolve_cur hRes]
  have hChain := chainOf_setChainOf w w.cur (fld (s.rd a) 0 5) (headerChain s.me (s.rd b) v)
  have hCount : (headerChain s.me (s.rd b) v).outstanding = 0 := by simp [headerChain, Chain.outstanding]
  refine next_congr ((withEngine_of_lt hLt hMod _).trans ((if_neg (by rw [hNone]; decide)).trans ((if_neg (Nat.not_le.mpr hRoom)).trans
    ((if_neg (not_not.mpr hAlign)).trans ((withVa_of_ok hRes _).trans ?_)))))
  simp only [hDev, hCur, hLoad]
  refine (if_neg (by decide)).trans ?_
  rw [hMe]
  exact congrArg (fun k => State.status _ d stOK k) ((outstandingOf_of_chain hChain).trans hCount)

theorem exec_enqShut {c : Chain} (hChain : s.chainOf s.cur (fld (s.rd a) 0 5) = some c) (hDone : c.outstanding = 0) :
    exec (.enqShut d a) s = .next ((s.dropChain s.cur (fld (s.rd a) 0 5)).status d stOK) := by
  refine next_congr ((withEngine_of_lt hLt hMod _).trans ?_)
  simp only [hChain]
  exact if_neg fun h => h.1 hDone

theorem exec_enq {c : Chain} {start : Word} {js : List Job} (hChain : s.chainOf s.cur (fld (s.rd a) 0 5) = some c) (hAlign : (s.rd b).toNat % 64 = 0)
    (hStart : (s.writeBackAll (clusterOf s.cur)).walkStart c = (u, .ok start)) (hWalk : State.walkChain c.capt (s.rd b) 4096 start u = (w, .ok js)) :
    exec (.enq d a b) s = .next ((w.modChain w.cur (fld (s.rd a) 0 5) (fun x => x.enqueued (c.openAfter js) (s.rd b) js)).enqStatus d
      (fld (s.rd a) 0 5) stOK) := by
  refine next_congr ((withEngine_of_lt hLt hMod _).trans ?_)
  simp only [hChain, hStart, hWalk]
  exact if_neg (not_not.mpr hAlign)

theorem exec_cwait {c : Chain} {n : BitVec 6} (hChain : s.chainOf s.cur (fld (s.rd a) 0 5) = some c) (hOpen : ¬(n = 0 ∧ c.openb = true))
    (hHalted : c.halted = false) (hFew : c.outstanding ≤ n.toNat) :
    exec (.cwait d a n) s = .next (s.acquire.status d stOK c.outstanding) := by
  refine next_congr ((withEngine_of_lt hLt hMod _).trans ?_)
  simp only [hChain]
  exact (if_neg hOpen).trans ((if_neg (Bool.eq_false_iff.mp hHalted)).trans (if_pos hFew))

theorem exec_cseq {c : Chain} (hChain : s.chainOf s.cur (fld (s.rd a) 0 5) = some c) :
    exec (.cseq d a) s = .next (s.acquire.put d (BitVec.ofNat 64 c.seq)) := by
  have hEngine : engineOf (s.rd a) = some (fld (s.rd a) 0 5) := if_neg (by omega)
  show execCseq d a s = _
  simp only [execCseq, hEngine, hChain]

theorem exec_enqResume {c : Chain} {n : BitVec 9} (hPl : (fld s.me.status 0 2 : BitVec 2) ≠ 0) (hn : fld (s.rd b) 0 9 = n)
    (hChain : s.chainOf n (fld (s.rd a) 0 5) = some c) (hHalted : c.halted = true) :
    exec (.enqResume d a b) s = .next ((s.restart n (fld (s.rd a) 0 5)).status d stOK
      ((s.restart n (fld (s.rd a) 0 5)).outstandingOf n (fld (s.rd a) 0 5))) := by
  have hPriv : s.me.pl ≠ 0 := hPl
  refine next_congr ((withEngine_of_lt hLt hMod _).trans ((if_neg hPriv).trans ?_))
  simp only [hn, hChain]
  exact if_pos hHalted

end engine

/-! ## What the walk and a restart leave -/

theorem readEntry_xlOnly (s : State) (cr : Capt) (va : Word) : XlOnly s (s.readEntry cr va).1 := by
  unfold State.readEntry
  have hXl := translate_xlOnly s cr .read false va
  generalize s.translate cr .read false va = q at hXl ⊢
  obtain ⟨u, c | x⟩ := q
  · exact hXl
  · dsimp only
    split
    · exact hXl.trans (homeRead_xlOnly ..)
    · exact hXl

theorem walkStart_xlOnly (s : State) (c : Chain) : XlOnly s (s.walkStart c).1 := by
  unfold State.walkStart
  have hRead := readEntry_xlOnly s c.capt c.last
  split
  · exact XlOnly.refl s
  · generalize s.readEntry c.capt c.last = q at hRead ⊢
    obtain ⟨u, e | v⟩ := q
    · exact hRead
    · exact hRead

theorem walkChain_xlOnly (cr : Capt) (t : Word) (k : Nat) (a : Word) (s : State) : XlOnly s (State.walkChain cr t k a s).1 := by
  induction k generalizing a s with
  | zero => exact XlOnly.refl s
  | succ k ih =>
    unfold State.walkChain
    have hRead := readEntry_xlOnly s cr a
    generalize s.readEntry cr a = q at hRead ⊢
    obtain ⟨u, e | v⟩ := q
    · split
      · exact XlOnly.refl s
      · exact hRead
    · dsimp only
      have hRest := ih (BitVec.ofNat 64 (enNext v)) u
      split
      · exact XlOnly.refl s
      · split
        · exact hRead
        · split
          · exact hRead
          · split
            · next h => rw [h] at hRest; exact hRead.trans hRest
            · exact hRead.trans hRest

theorem engStore_keeps (s : State) (cr : Capt) (va : Word) (size v : Nat) : (s.engStore cr va size v).1.threads = s.threads
    ∧ (s.engStore cr va size v).1.cur = s.cur := by
  unfold State.engStore
  have hXl := translate_xlOnly s cr .write false va
  generalize s.translate cr .write false va = q at hXl ⊢
  obtain ⟨u, c | x⟩ := q
  · exact ⟨hXl.threads, hXl.cur⟩
  · dsimp only
    split
    · next pa _ =>
      obtain ⟨hThreads, hCur, -⟩ := homeStore_keeps u cr pa size v
      split
      · exact ⟨hThreads.trans hXl.threads, hCur.trans hXl.cur⟩
      · exact ⟨hXl.threads, hXl.cur⟩
    · exact ⟨hXl.threads, hXl.cur⟩

/-- A chain as its restart leaves it. -/
def Chain.resumed (c : Chain) : Chain :=
  { c with halted := false, jobs := c.jobs.map (fun j => match j.st with | .faulted _ => { j with st := .queued, order := true } | _ => j) }

/-- A restart that owes no write clears HALTED in memory. -/
theorem restart_of_paid {s u : State} {n : BitVec 9} {e : BitVec 5} {c : Chain} (hChain : s.chainOf n e = some c) (hOwed : c.owed = [])
    (hStore : (s.modThr n (fun t => { t with chains := Tab.set t.chains e.toNat c.resumed })).engStore c.capt (c.header + 0x18) 4 c.cause.toNat = (u, none)) :
    s.restart n e = u := by
  have hPut := chainOf_setChainOf s n e c.resumed
  have hState : hstate c.cause false = c.cause.toNat := Nat.add_zero _
  have hMod (f : Chain → Chain) (hf : f c = c.resumed) : s.modChain n e f
      = s.modThr n (fun t => { t with chains := Tab.set t.chains e.toNat c.resumed }) := by rw [modChain_of_chain hChain, hf]
  simp only [State.restart, hChain, hOwed, List.filter_nil, List.nil_append, List.foldl_cons, List.foldl_nil]
  rw [hMod _ (congrArg (fun o => ({ c.resumed with owed := o } : Chain)) hOwed.symm)]
  generalize s.modThr n (fun t => { t with chains := Tab.set t.chains e.toNat c.resumed }) = w at hPut hStore
  have hClear : w.engStore c.resumed.capt (c.header + hstateAt) 4 c.cause.toNat = (u, none) := hStore
  simp only [hPut, State.statusWrites, hState, hClear]
  exact if_neg (show ¬c.resumed.halted = true from Bool.false_ne_true)

theorem acquire_keeps (s : State) : s.acquire.threads = s.threads ∧ s.acquire.cur = s.cur := by
  obtain ⟨k, hk⟩ := acquire_shape s
  rw [hk]
  exact ⟨rfl, rfl⟩

/-- R297, R303 to R306: the words of chains. -/
theorem chainWordsComplete : Rule.ChainWordsComplete := by
  intro s u w d a b n c key pa v x start js e h m left completes hLt hMod hWait
  refine ⟨fun hNone hRoom hAlign hRes hDev hLoad => ?_, fun hChain => ⟨fun hDone => ?_, fun hAlign hStart hWalk => ?_, fun hOpen hHalted hFew => ?_, ?_⟩,
    fun hPl hChain hHalted hOwed hStore => ?_⟩
  · have hMe : w.me = s.me := by rw [← resolve_me hRes, ← l1Load_me u (coreOf s.cur) key 64, hLoad]
    have hCur : w.cur = s.cur := by rw [← resolve_cur hRes, ← l1Load_cur u (coreOf s.cur) key 64, hLoad]
    refine completes_of_ok _ d 0 (exec_enqOpen hLt hMod hNone hRoom hAlign hRes hDev hLoad) ?_ ?_
    · rw [State.modMe, pc_setChainOf, State.pc, hMe]; rfl
    · rw [chainOf_status, ← hCur]
      exact congrArg (Option.map _) (chainOf_setChainOf ..)
  · refine completes_of_ok _ d 0 (exec_enqShut hLt hMod hChain hDone) (pc_setChainOf ..) ?_
    rw [chainOf_status, State.dropChain, State.chainOf, thr_modThr, Tab.has_del]
    rfl
  · have hXl := (XlOnly.of_fst (walkStart_xlOnly ..) hStart).trans (XlOnly.of_fst (walkChain_xlOnly ..) hWalk)
    have hBack := writeBackAll_cacheOnly s (clusterOf s.cur)
    have hCur : w.cur = s.cur := hXl.cur.trans hBack.cur
    have hThr (n : BitVec 9) : w.thr n = s.thr n := (hXl.thr n).trans (hBack.thr n)
    have hStays : w.chainOf w.cur e = some c := by rw [hCur]; exact (chainOf_congr (by rw [hThr]) e).trans hChain
    have hExec := exec_enq (d := d) hLt hMod hChain hAlign hStart hWalk
    rw [modChain_of_chain hStays] at hExec
    refine ⟨_, completes_of_ok _ d _ hExec ?_ ?_⟩
    · rw [pc_setChainOf, State.pc, State.me, hCur, hThr]; rfl
    · rw [chainOf_status, ← hCur]
      exact congrArg (Option.map _) (chainOf_setChainOf ..)
  · exact completes_of_ok _ d _ (exec_cwait hLt hMod hChain hOpen hHalted hFew) (acquire_pc s) trivial
  · obtain ⟨t, hNext, hRegs, hOnly⟩ := writes_put s.acquire d (BitVec.ofNat 64 c.seq)
    obtain ⟨hThreads, hCur⟩ := acquire_keeps s
    have hMe : s.acquire.me = s.me := by simp only [State.me, State.thr, hThreads, hCur]
    refine ⟨t, (exec_cseq hLt hMod hChain).trans hNext, ?_, ?_, ?_, trivial⟩
    · rw [hRegs]
      by_cases hd : d = 0
      · subst hd; exact Thread.rd_zero t.me
      · rw [if_pos ⟨rfl, hd⟩, if_neg hd]
    · rw [hOnly.me, acquire_pc]
    · rw [hOnly.me, hMe]; exact hWait
  · have hClear : (s.modThr m (fun t => { t with chains := Tab.set t.chains e.toNat c.resumed })).engStore c.capt (c.header + 0x18) 4 c.cause.toNat
        = (u, none) := hStore
    have hRestart : s.restart m e = u := restart_of_paid hChain hOwed hClear
    obtain ⟨hThreads, hCur⟩ := engStore_keeps (s.modThr m (fun t => { t with chains := Tab.set t.chains e.toNat c.resumed }))
      c.capt (c.header + 0x18) 4 c.cause.toNat
    rw [hClear] at hThreads hCur
    have hNow : u.chainOf m e = some c.resumed := by
      rw [← chainOf_setChainOf s m e c.resumed, State.chainOf, State.thr, hThreads]
      rfl
    have hExec := exec_enqResume (d := d) hLt hMod hPl rfl hChain hHalted
    rw [hRestart, outstandingOf_of_chain hNow] at hExec
    refine completes_of_ok u d _ hExec ?_ ?_
    · have hPc := pc_setChainOf s m (fun t => Tab.set t.chains e.toNat c.resumed)
      rw [← hPc, State.pc, State.pc, State.me, State.me, hCur, State.thr, hThreads]
      rfl
    · rw [chainOf_status, hNow]
      rfl

end Sys2Proof.Machine
end

section
/-! PROOFS, O31. CTXSAVE and CTXLOAD complete (R366, R367). -/

namespace Sys2Proof.Machine
open State

/-! ## What writing and reading an area leaves -/

theorem areaPages_cur (cr : Capt) (base : Word) (off len v : Nat) (poison : List Nat) (who : Waiter) (k page : Nat) (s : State) :
    (s.areaPages cr base off len v poison who k page).1.cur = s.cur := by
  induction k generalizing page s with
  | zero => rfl
  | succ k ih =>
    unfold State.areaPages
    have hRes := resolve_xlOnly s cr .write false (base + BitVec.ofNat 64 (4096 * page)) who
    dsimp only
    generalize s.resolve cr .write false (base + BitVec.ofNat 64 (4096 * page)) who = q at hRes ⊢
    obtain ⟨u, ⟨key, x⟩ | c | _⟩ := q
    · refine (ih ..).trans ?_
      dsimp only
      rw [(homeStore_keeps ..).2.1, hRes.cur]
    · exact hRes.cur
    · exact hRes.cur

theorem areaWrite_cur {s u : State} {cr : Capt} {base : Word} {off len v : Nat} {poison : List Nat} {who : Waiter} {w : Wrote}
    (h : s.areaWrite cr base off len v poison who = (u, w)) : u.cur = s.cur := by
  have hFst : (s.areaWrite cr base off len v poison who).1.cur = s.cur := by
    unfold State.areaWrite
    split
    · rfl
    · exact areaPages_cur ..
  rwa [h] at hFst

theorem areaRead_xlOnly (cr : Capt) (base : Word) (who : Waiter) (k page : Nat) (s : State) : XlOnly s (State.areaRead cr base who k page s).1 := by
  induction k generalizing page s with
  | zero => exact XlOnly.refl s
  | succ k ih =>
    unfold State.areaRead
    have hRes := resolve_xlOnly s cr .read false (base + BitVec.ofNat 64 (4096 * page)) who
    dsimp only
    generalize s.resolve cr .read false (base + BitVec.ofNat 64 (4096 * page)) who = q at hRes ⊢
    obtain ⟨u, ⟨key, x⟩ | c | _⟩ := q
    · have hRead := homeRead_xlOnly u key 4096
      have hRest := ih (page + 1) (u.homeRead key 4096).1
      dsimp only
      split
      · next h => rw [h] at hRest; exact (hRes.trans hRead).trans hRest
      · exact (hRes.trans hRead).trans hRest
    · exact hRes
    · exact hRes

/-! ## CTXSAVE -/

/-- The reach of a caller above user level (R366). -/
theorem foreignContext_of_reach {s : State} {n : BitVec 9}
    (h : (fld s.me.partition 26 6 : BitVec 6) = 0 ∨ (clIn s.me.partition (clusterOf n) = true ∧ (s.thr n).partition = s.me.partition)) :
    s.foreignContext n = false := by
  have hFn : s.me.cred.fn = fld s.me.partition 26 6 := rfl
  rcases h with h | ⟨hIn, hEq⟩
  · simp [State.foreignContext, hFn, h]
  · simp [State.foreignContext, hIn, hEq]

theorem loseRecords_of_none {s : State} {n : BitVec 9} (h : (s.thr n).records = []) : (s.loseRecords n).thr n = s.thr n := by
  rw [State.loseRecords, thr_modThr, h]
  show ({ s.thr n with records := [] } : Thread) = s.thr n
  rw [← h]

/-- A context without chains and records stops at once: no more changes than that its chains are stopped. -/
theorem stopped_of_idle {s : State} {n : BitVec 9} (hChains : (s.thr n).chains = []) (hRecords : (s.thr n).records = []) :
    ((s.stopChains n).loseRecords n).cur = s.cur ∧ (∀ m, m ≠ n → ((s.stopChains n).loseRecords n).thr m = s.thr m)
      ∧ ((s.stopChains n).loseRecords n).thr n = { s.thr n with frozen := true } := by
  have hStop : (s.stopChains n).cur = s.cur ∧ (∀ m, m ≠ n → (s.stopChains n).thr m = s.thr m)
      ∧ (s.stopChains n).thr n = { s.thr n with frozen := true } := by
    unfold State.stopChains
    split
    · next h => exact ⟨rfl, fun _ _ => rfl, by rw [← h]⟩
    · rw [hChains]
      exact ⟨rfl, fun m hm => thr_modThr_ne _ _ hm, thr_modThr ..⟩
  obtain ⟨hCur, hOthers, hThr⟩ := hStop
  refine ⟨hCur, fun m hm => (thr_modThr_ne _ _ hm).trans (hOthers m hm), ?_⟩
  rw [loseRecords_of_none (by rw [hThr]; exact hRecords), hThr]

/-- An idle context's save writes its area and leaves it empty. -/
theorem writeContext_of_idle {s u : State} {n : BitVec 9} {area : Word} (d : BitVec 5) (hChains : (s.thr n).chains = []) (hRecords : (s.thr n).records = [])
    (hRegion : (s.thr n).region.st = 0) (hMe : n ≠ s.cur)
    (hWrite : ((s.stopChains n).loseRecords n).areaWrite s.me.cred area 0 0x2000 (areaHeader 1 0x2000 n.toNat
      + ((s.stopChains n).loseRecords n).threadBytes n) [] (.thread s.cur) = (u, .ok)) :
    s.writeContext d n area = ((((u.writeBackAll (clusterOf n)).freeRegion n).forget (Waiter.ofContext n)).setThr n
      { partition := (s.thr n).partition, lost := (s.thr n).lost }).status d stOK 0x2000 := by
  obtain ⟨hCur, hOthers, hThr⟩ := stopped_of_idle hChains hRecords
  unfold State.writeContext
  generalize (s.stopChains n).loseRecords n = w at hCur hOthers hThr hWrite ⊢
  have hMine : w.me = s.me := by rw [State.me, hCur]; exact hOthers _ hMe.symm
  have hSection : w.savedSection n = (w, .ok 0 []) := if_pos (by rw [hThr]; simp [hRegion])
  have hNote : w.noteChains n = w := by simp only [State.noteChains, hThr, hChains]; rfl
  have hFree : ((s.thr n).region.st == 8) = false := by simp [hRegion]
  have hNothing (x m : Nat) : x + 0 % m = x := by rw [Nat.zero_mod, Nat.add_zero]
  have hParts : 1 + 0 + 0 = 1 := rfl
  have hLength : 8192 % 2 ^ 32 = 8192 := by norm_num
  simp only [hSection, hThr, hFree, hChains, hNote, hMine, hCur, hNothing, hParts, hLength, Bool.false_and, List.isEmpty_nil, if_true,
    Bool.false_eq_true, if_false, hWrite, List.foldl_nil]

theorem exec_ctxsave_of_accepted {s : State} (d : BitVec 5) {a b : BitVec 5} {n : BitVec 9} (hn : fld (s.rd a) 0 9 = n)
    (hPl : (fld s.me.status 0 2 : BitVec 2) ≠ 0) (hHigh : (fld (s.rd a) 9 55 : BitVec 55) = 0) (hMe : n ≠ s.cur)
    (hLow : (fld (s.rd b) 0 12 : BitVec 12) = 0) (hReach : s.foreignContext n = false) (hSaver : (s.thr n).saver = some s.cur) :
    exec (.ctxsave d a b) s = .next (s.ctxsave d n (s.rd b)) := by
  subst hn
  have hPriv : s.me.pl ≠ 0 := hPl
  refine (if_neg hPriv).trans ((if_neg ?_).trans ((if_neg (Bool.eq_false_iff.mp hReach)).trans (if_pos hSaver)))
  rintro (h | h | h)
  · exact h hHigh
  · exact hMe h
  · exact h hLow

/-- A stopped context with nothing waiting and no region goes on to its area. -/
theorem ctxsave_of_idle {s : State} (d : BitVec 5) {n : BitVec 9} (area : Word) (hStopped : (s.thr n).stopped = true) (hStores : (s.thr n).stores = [])
    (hRecords : (s.thr n).records = []) (hRegion : (s.thr n).region.st = 0) : s.ctxsave d n area = s.writeContext d n area := by
  have hSt : (s.reg n).st = 0 := hRegion
  simp only [State.ctxsave, hStopped, hStores, hRecords, hSt]
  rfl

/-! ## CTXLOAD -/

/-- The fields an area is checked for are those of its tables. -/
theorem areaChecks_eq (v len : Nat) (region : Bool) : areaChecks v len region = areaFields v len region := by
  have hBelow (x m : Nat) (hm : 0 < m) : (x / m == 0) = decide (x < m) := by
    rw [Bool.eq_iff_iff, beq_iff_eq, decide_eq_true_iff, Nat.div_eq_zero_iff_lt hm]
  simp only [areaChecks, areaFields, dscChecks, hBelow _ 32 (by decide), hBelow _ (2 ^ 14) (by decide)]

theorem areaBad_of_fields {s : State} (d : BitVec 5) {v : Nat} (hRegion : at_ v 6 2 / 2 % 2 = 0) (h : ∀ c ∈ areaFields v 0x2000 false, c.1 = true) :
    s.areaBad d v = none := by
  have hFlag : (at_ v 6 2 / 2 % 2 == 1) = false := by rw [hRegion]; rfl
  have hLength : areaLength v false = 0x2000 := rfl
  have hFind : (areaFields v 0x2000 false).find? (fun c => !c.1) = none := List.find?_eq_none.mpr fun c hc => by simp [h c hc]
  rw [State.areaBad, hFlag, hLength, areaChecks_eq, hFind]
  rfl

theorem sectionBad_of_level {s : State} (d : BitVec 5) {v : Nat} (hRegion : at_ v 6 2 / 2 % 2 = 0) (hLevel : at_ v 0x208 8 % 4 ≤ s.me.pl.toNat)
    (hChains : chainRecords v = []) : s.sectionBad d v = none := by
  have hNone : (if at_ v 6 2 / 2 % 2 = 1 then (sectionChecks v).find? (fun c => !c.1) else none) = none := if_neg (by rw [hRegion]; decide)
  simp only [State.sectionBad, hNone, hChains]
  exact (if_neg (Nat.not_lt.mpr hLevel)).trans (if_neg Bool.false_ne_true)

/-- An area without a region is its first pages. -/
theorem withArea_of_small {s u : State} {base : Word} {v : Nat} {poison : List Nat} {bad worse : State → Nat → Option State}
    {act : State → Nat → List Nat → State} (hRead : State.areaRead s.me.cred base (.thread s.cur) 2 0 s = (u, .ok v poison))
    (hRegion : at_ v 6 2 / 2 % 2 = 0) (hBad : bad u v = none) (hWorse : worse u v = none) : s.withArea base bad worse act = act u v poison := by
  have hFlag : (at_ v 6 2 / 2 % 2 == 1) = false := by rw [hRegion]; rfl
  simp only [State.withArea, hRead, hFlag, Bool.false_eq_true, if_false, Nat.add_zero, hBad, hWorse, List.append_nil]

theorem enterClaim_only (s : State) (n : BitVec 9) (w : Word) : (s.enterClaim n w).cur = s.cur ∧ (∀ m, m ≠ n → (s.enterClaim n w).thr m = s.thr m)
    ∧ ((s.enterClaim n w).thr n).run = (s.thr n).run ∧ ((s.enterClaim n w).thr n).g = (s.thr n).g := by
  unfold State.enterClaim
  dsimp only
  split
  · exact ⟨rfl, fun _ _ => rfl, rfl, rfl⟩
  · refine ⟨rfl, fun m hm => ?_, ?_, ?_⟩
    · rw [State.modReg, thr_modThr_ne _ _ hm, thr_modThr_ne _ _ hm]; rfl
    · rw [State.modReg, thr_modThr, thr_modThr]; rfl
    · rw [State.modReg, thr_modThr, thr_modThr]; rfl

/-- A context loaded from an area without chains: its registers are the area's. -/
theorem loadThread_only (s : State) (n : BitVec 9) {v : Nat} (hChains : chainRecords v = []) : (s.loadThread n v).cur = s.cur
    ∧ (∀ m, m ≠ n → (s.loadThread n v).thr m = s.thr m)
    ∧ ((s.loadThread n v).thr n).run = (if at_ v 0x2A8 8 / 16 % 2 = 1 then .halted else .ready)
    ∧ ∀ k : BitVec 5, k ≠ 0 → ((s.loadThread n v).thr n).rd k = BitVec.ofNat 64 (at_ v (0x100 + 8 * k.toNat) 8) := by
  obtain ⟨part, hPart⟩ : ∃ p, (if s.me.pl = 1 then some (s.thr n).partition else none) = p := ⟨_, rfl⟩
  let t := threadOf v part
  have hSet : (s.setThr n t).cur = s.cur ∧ (∀ m, m ≠ n → (s.setThr n t).thr m = s.thr m) ∧ (s.setThr n t).thr n = t :=
    ⟨rfl, fun m hm => thr_modThr_ne s (fun _ => t) hm, thr_modThr s n (fun _ => t)⟩
  have hLoad : s.loadThread n v = if at_ v 0x2B0 8 / 2 ^ 63 = 1
      then (s.setThr n t).enterClaim n (zext (fld (areaW v 0x2B0) 0 14) 64) else s.setThr n t := by
    simp only [State.loadThread, hPart, hChains, List.foldl_nil]
    rfl
  obtain ⟨hCur, hOthers, hThr⟩ := hSet
  have hOnly : (s.loadThread n v).cur = s.cur ∧ (∀ m, m ≠ n → (s.loadThread n v).thr m = s.thr m)
      ∧ ((s.loadThread n v).thr n).run = t.run ∧ ((s.loadThread n v).thr n).g = t.g := by
    rw [hLoad]
    split
    · obtain ⟨hClaimCur, hClaimOthers, hRun, hG⟩ := enterClaim_only (s.setThr n t) n (zext (fld (areaW v 0x2B0) 0 14) 64)
      exact ⟨hClaimCur.trans hCur, fun m hm => (hClaimOthers m hm).trans (hOthers m hm), hRun.trans (by rw [hThr]), hG.trans (by rw [hThr])⟩
    · exact ⟨hCur, hOthers, by rw [hThr], by rw [hThr]⟩
  obtain ⟨hNow, hElse, hRun, hG⟩ := hOnly
  refine ⟨hNow, hElse, hRun, fun k hk => ?_⟩
  rw [Thread.rd_congr hG, Thread.rd, if_neg hk]
  show (Vector.ofFn (fun i : Fin 32 => if i = 0 then 0 else areaW v (0x100 + 8 * i.val)))[k.toNat] = _
  have hNot : (⟨k.toNat, k.isLt⟩ : Fin 32) ≠ 0 := fun e => hk (BitVec.eq_of_toNat_eq (congrArg Fin.val e))
  rw [Vector.getElem_ofFn, if_neg hNot]
  rfl

theorem exec_ctxload_of_empty {s : State} (d : BitVec 5) {a b : BitVec 5} {n : BitVec 9} (hn : fld (s.rd a) 0 9 = n)
    (hPl : (fld s.me.status 0 2 : BitVec 2) ≠ 0) (hHigh : (fld (s.rd a) 9 55 : BitVec 55) = 0) (hLow : (fld (s.rd b) 0 12 : BitVec 12) = 0)
    (hReach : s.foreignContext n = false) (hEmpty : (s.thr n).run = .empty) :
    exec (.ctxload d a b) s = .next (s.withArea (zext (fld (s.rd b) 12 52) 64 <<< 12) (fun s v => s.areaBad d v) (fun s v => s.sectionBad d v)
      (fun s v poison => State.status (if at_ v 6 2 / 2 % 2 = 0 then s.loadThread n v
        else ((s.loadThread n v).loadRegion n v poison).enterClaim n (zext (fld (areaW v 0x2000) 0 14) 64)) d stOK)) := by
  subst hn
  have hPriv : s.me.pl ≠ 0 := hPl
  have hBits (i : Nat) (hi : i < 12) : (s.rd b).getLsbD i = false := by
    have h := congrArg (fun x : BitVec 12 => x.getLsbD i) hLow
    simpa [fld, hi] using h
  have hFlags : fld (s.rd b) 1 11 = 0 := by
    refine BitVec.eq_of_getLsbD_eq fun i hi => ?_
    simp [fld, hBits (1 + i) (by omega)]
  have hIdle : ¬(!((s.thr (fld (s.rd a) 0 9)).run == .empty || ((s.thr (fld (s.rd a) 0 9)).run == .halted
      && (s.thr (fld (s.rd a) 0 9)).region.st == 0 && (s.thr (fld (s.rd a) 0 9)).chains.isEmpty))) = true := by rw [hEmpty]; exact Bool.false_ne_true
  refine (if_neg ?_).trans ((if_neg (by rw [hBits 0 (by decide)]; decide)).trans ((if_neg hPriv).trans ((if_neg (Bool.eq_false_iff.mp hReach)).trans
    (if_neg hIdle))))
  rintro (h | h)
  · exact h hFlags
  · exact h hHigh

theorem base_eq (x : BitVec 52) : (x ++ 0#12 : Word) = zext x 64 <<< 12 := by
  refine BitVec.eq_of_getLsbD_eq fun i hi => ?_
  simp only [zext, BitVec.getLsbD_append, BitVec.getLsbD_shiftLeft, BitVec.getLsbD_setWidth]
  by_cases h : i < 12
  · simp [h]
  · simp [h, hi, show i - 12 < 64 by omega]

/-- R366, R367: CTXSAVE and CTXLOAD. -/
theorem contextWordsComplete : Rule.ContextWordsComplete := by
  intro s u d a b v poison m n area t stopped base hPl hHigh hMe hLow hReach
  have hForeign := foreignContext_of_reach hReach
  refine ⟨fun hSaver hStop hStores hRecords hChains hRegion hWrite => ?_, fun hEmpty hRead hSmall hFields hLevel hNone => ?_⟩
  · obtain ⟨hStopCur, hStopOthers, -⟩ := stopped_of_idle hChains hRecords
    obtain ⟨hFreeCur, -, hFreeOthers, -⟩ := freeRegion_only (u.writeBackAll (clusterOf n)) n
    have hBack := writeBackAll_cacheOnly u (clusterOf n)
    have hExec := exec_ctxsave_of_accepted d rfl hPl hHigh hMe hLow hForeign hSaver
    rw [ctxsave_of_idle d area hStop hStores hRecords hRegion, writeContext_of_idle d hChains hRecords hRegion hMe hWrite] at hExec
    have hCur : ((u.writeBackAll (clusterOf n)).freeRegion n).cur = s.cur := by
      rw [hFreeCur, hBack.cur, areaWrite_cur hWrite]; exact hStopCur
    have hThr : ((u.writeBackAll (clusterOf n)).freeRegion n).thr s.cur = s.thr s.cur := by
      rw [hFreeOthers _ hMe.symm, hBack.thr, State.thr, areaWrite_fst_threads hWrite]; exact hStopOthers _ hMe.symm
    generalize (u.writeBackAll (clusterOf n)).freeRegion n = w at hCur hThr hExec
    let left : Thread := { partition := t.partition, lost := t.lost }
    let z := (w.forget (Waiter.ofContext n)).setThr n left
    have hPc : z.pc = s.pc := by
      show (z.thr w.cur).pc = (s.thr s.cur).pc
      rw [hCur, show z.thr s.cur = w.thr s.cur from thr_modThr_ne (w.forget (Waiter.ofContext n)) (fun _ => left) hMe.symm, hThr]
    have hZ : z.thr n = left := thr_modThr (w.forget (Waiter.ofContext n)) n (fun _ => left)
    refine ⟨z.status d stOK 0x2000, hExec, rd_status_ok .., by rw [me_status, hPc], ?_, ?_⟩
    · rw [thr_status, hZ]
    · rw [thr_status, hZ]
  · have hXl : XlOnly s u := XlOnly.of_fst (areaRead_xlOnly ..) hRead
    have hExec := exec_ctxload_of_empty d rfl hPl hHigh hLow hForeign hEmpty
    rw [← base_eq, withArea_of_small hRead hSmall (areaBad_of_fields d hSmall hFields)
      (sectionBad_of_level d hSmall (by rw [hXl.me]; exact hLevel) hNone), if_pos hSmall] at hExec
    obtain ⟨hCur, hOthers, hRun, hRegs⟩ := loadThread_only u n hNone
    generalize u.loadThread n v = w at hCur hOthers hRun hRegs hExec
    have hPc : w.pc = s.pc := by
      show (w.thr w.cur).pc = (s.thr s.cur).pc
      rw [hCur, hXl.cur, hOthers _ hMe.symm, hXl.thr]
    have hNe : n ≠ w.cur := by rw [hCur, hXl.cur]; exact hMe
    have hThr : (w.status d stOK 0).thr n = w.thr n := (onlyMe_status w d 0 stOK).2.1 n hNe
    exact ⟨w.status d stOK 0, hExec, rd_status_zero .., by rw [me_status, hPc], by rw [hThr]; exact hRun, fun k hk => by rw [hThr]; exact hRegs k hk⟩

/-- Settles O31: each word comes to a status in a machine whose registers and memory are its rule's. -/
theorem regionAndChainWordsComplete : Obligations.RegionAndChainWordsComplete := ⟨regionWordsComplete, chainWordsComplete, contextWordsComplete⟩

end Sys2Proof.Machine
end
